-- ==== Sys2Proof/Word.lean ====
section
/-! DEFINITION. The word types of the D940: 64-bit scalars (R109), bytes, 2,048-bit vectors (R140),
2,176-byte latches (R168), 128-byte accumulator rows (R31) and 384-bit bundles (R64). -/
namespace Sys2Proof

abbrev Word := BitVec 64
abbrev Byte := BitVec 8
abbrev Vec := BitVec 2048
abbrev Latch := BitVec 17408
abbrev Row := BitVec 1024
abbrev BundleBits := BitVec 384

end Sys2Proof
end

