-- ==== Sys2Proof/Machine/Bits.lean ====
section
/-! DEFINITION. Bit fields written hi:lo, byte order and sign extension (R4, R5, R91): the helpers every
record, packet and table layout is read and written with. -/
namespace Sys2Proof.Machine

/-- Bits hi:lo of a record, both ends included (R4). -/
def fld (x hi lo : Nat) : Nat := (x >>> lo) % 2 ^ (hi + 1 - lo)

/-- The record with bits hi:lo replaced by the low bits of `v`. -/
def setFld (x hi lo v : Nat) : Nat :=
  x - (fld x hi lo <<< lo) + ((v % 2 ^ (hi + 1 - lo)) <<< lo)

/-- Bit `i` as a truth value. -/
def bitAt (x i : Nat) : Bool := x.testBit i

/-- 1 for true, 0 for false. -/
def b2n (b : Bool) : Nat := if b then 1 else 0

/-- The value of a little-endian byte string (R4). -/
def leNat : List Byte → Nat
  | [] => 0
  | b :: bs => b.toNat + 256 * leNat bs

/-- `n` little-endian bytes of a value (R4). -/
def leBytes : Nat → Nat → List Byte
  | 0, _ => []
  | n + 1, x => BitVec.ofNat 8 (x % 256) :: leBytes n (x / 256)

/-- The low `w` bits of `x` as a two's complement integer (R90). -/
def sx (w x : Nat) : Int :=
  let y := x % 2 ^ w
  if 2 * y < 2 ^ w then (y : Int) else (y : Int) - (2 ^ w : Nat)

/-- An integer modulo 2^w (R91). -/
def wrapInt (w : Nat) (x : Int) : Nat := (x % ((2 ^ w : Nat) : Int)).toNat

/-- Element `i` of width `w` of a register or record (R140). -/
def elem (x w i : Nat) : Nat := (x >>> (w * i)) % 2 ^ w

/-- Joins elements of width `w`, element 0 lowest (R88, R140). -/
def joinElems (w : Nat) : List Nat → Nat
  | [] => 0
  | e :: es => e % 2 ^ w + (joinElems w es) * 2 ^ w

/-- Number of set bits among the low `n` bits. -/
def popCount (x : Nat) : Nat → Nat
  | 0 => 0
  | n + 1 => b2n (x.testBit n) + popCount x n

/-- Number of zero bits above the highest set bit of the low `n` bits; `n` when all are zero. -/
def clzNat (x : Nat) : Nat → Nat
  | 0 => 0
  | n + 1 => if x.testBit n then 0 else 1 + clzNat x n

/-- Number of zero bits below the lowest set bit, looking at `n` bits from bit `i` on. -/
def ctzFrom (x : Nat) (i : Nat) : Nat → Nat
  | 0 => 0
  | n + 1 => if x.testBit i then 0 else 1 + ctzFrom x (i + 1) n

/-- Integer square root by bisection over bits `n-1` to 0 of the root. -/
def isqrtAux (x : Nat) : Nat → Nat → Nat
  | 0, r => r
  | n + 1, r => if (r + 2 ^ n) * (r + 2 ^ n) ≤ x then isqrtAux x n (r + 2 ^ n) else isqrtAux x n r

/-- Integer square root, rounded down. -/
def isqrt (x : Nat) : Nat := isqrtAux x (x.log2 / 2 + 1) 0

/-- Quotient rounded up. -/
def ceilDiv (a b : Nat) : Nat := (a + b - 1) / b

/-- The first element of a list that meets a test, with its position. -/
def findIdx {α : Type} (p : α → Bool) : List α → Nat → Option (Nat × α)
  | [], _ => none
  | a :: as, i => if p a then some (i, a) else findIdx p as (i + 1)

/-- Replaces the first element that meets a test. -/
def replaceFirst {α : Type} (p : α → Bool) (v : α) : List α → List α
  | [] => []
  | a :: as => if p a then v :: as else a :: replaceFirst p v as

/-- Removes the first element that meets a test. -/
def eraseFirst {α : Type} (p : α → Bool) : List α → List α
  | [] => []
  | a :: as => if p a then as else a :: eraseFirst p as

/-- Folds a state over the numbers `i`, `i+1`, … (`n` of them). -/
def foldFrom {σ : Type} (f : σ → Nat → σ) : Nat → Nat → σ → σ
  | 0, _, a => a
  | n + 1, i, a => foldFrom f n (i + 1) (f a i)

end Sys2Proof.Machine
end

