-- ==== Sys2Proof/Syntax.lean ====
section
/-! DEFINITION. The abstract form of everything opcode_table.json lists: one constructor of Instr per row.
A slot instruction carries the record of its slot format (R70), its fields named as the format names them; a
whole step of the device carries what selects it (a core, a context, a ring index) or what arrives from outside. -/
namespace Sys2Proof

/-- Type codes (R69). -/
inductive Ty where
  | none | i4 | i8 | i16 | i32 | i64 | n4 | n8 | n16 | n32 | n64 | f32 | f16 | bf16 | e4m3 | e5m2 | e2m1
deriving DecidableEq, Repr

/-- Condition codes (R69). -/
inductive Cond where
  | eq | ne | lt | le | gt | ge
deriving DecidableEq, Repr

/-- Scope codes (R69). -/
inductive Scope where
  | context | core | cluster | die | device | system
deriving DecidableEq, Repr

/-- Rounding codes (R69). -/
inductive Rnd where
  | rne | rtz | rdn | rup
deriving DecidableEq, Repr

/-- Scanner refusals in code order (R75). -/
inductive ScanReason where
  | opcode | field | range | type | slots | index | literal | sync | guard | target | loop | cartouche | latmode
  | isa | nodict | signature
deriving DecidableEq, Repr

/-- Slot classes in bundle order (R64). -/
inductive SlotClass where
  | c | s | v | m | e
deriving DecidableEq, Repr

/-- Format CJ (R70). -/
structure CJ where
  sa : Fin 64
  sd : Fin 64
  target : BitVec 24
deriving DecidableEq, Repr

/-- Format CL (R70). -/
structure CL where
  level : Fin 8
  lenM1 : BitVec 8
  sa : Fin 64
  sd : Fin 64
  sb : Fin 64
  pair : Fin 16
  trip : BitVec 22
deriving DecidableEq, Repr

/-- Format CB (R70). -/
structure CB where
  sd : Fin 64
  sa : Fin 64
  sb : Fin 64
deriving DecidableEq, Repr

/-- Format CS (R70): `live` holds live4 in bits 29:24 down to live0 in 5:0, as bits 154:125 of a record (R28). -/
structure CS where
  waitKind : Fin 16
  waitOperand : BitVec 20
  live : BitVec 30
  done : Bool
deriving DecidableEq, Repr

/-- Format CY (R70). -/
structure CY where
  sd : Fin 64
  sa : Fin 64
  sys : BitVec 12
  scope : Scope
  imm : BitVec 16
deriving DecidableEq, Repr

/-- Format L (R70): `dir` true lends bank C to the M slot (R144). -/
structure LF where
  dir : Bool
deriving DecidableEq, Repr

/-- Format SR (R70). -/
structure SR where
  sd : Fin 64
  sa : Fin 64
  sb : Fin 64
  ty : Ty
  pa : Fin 32
deriving DecidableEq, Repr

/-- Format SI (R70). -/
structure SI where
  sd : Fin 64
  sa : Fin 64
  ty : Ty
  imm : BitVec 32
deriving DecidableEq, Repr

/-- Format SX (R70). -/
structure SX where
  sd : Fin 64
  sa : Fin 64
  sb : Fin 64
  sh : Fin 64
  imm : BitVec 32
deriving DecidableEq, Repr

/-- Format SL (R70). -/
structure SL where
  sd : Fin 64
  imm : BitVec 48
deriving DecidableEq, Repr

/-- Format SC (R70). -/
structure SC where
  pair : Fin 16
  sa : Fin 64
  ty : Ty
  cond : Cond
  sb : Fin 64
  imm : BitVec 32
deriving DecidableEq, Repr

/-- Format SP (R70). -/
structure SP where
  pair : Fin 16
  pa : Fin 32
  pb : Fin 32
  na : Bool
  nb : Bool
  val : Bool
deriving DecidableEq, Repr

/-- Format VR (R70). -/
structure VR where
  vd : Fin 64
  va : Fin 64
  vb : Fin 64
  vc : Fin 64
  ty : Ty
  km : Fin 16
  rnd : Rnd
  sat : Bool
  ty2 : Ty
  ctl : BitVec 15
deriving DecidableEq, Repr

/-- Format VI (R70). -/
structure VI where
  vd : Fin 64
  va : Fin 64
  sa : Fin 64
  ty : Ty
  km : Fin 16
  imm : BitVec 16
deriving DecidableEq, Repr

/-- Format VM (R70). -/
structure VM where
  vd : Fin 64
  sa : Fin 64
  va : Fin 64
  ty : Ty
  km : Fin 16
  off : BitVec 24
deriving DecidableEq, Repr

/-- Format VQ (R70). -/
structure VQ where
  vd : Fin 64
  q : Fin 16
  ty : Ty
  km : Fin 16
deriving DecidableEq, Repr

/-- Format VK (R70). -/
structure VK where
  kd : Fin 16
  ka : Fin 16
  kb : Fin 16
  sd : Fin 64
deriving DecidableEq, Repr

/-- Format ML (R70). -/
structure ML where
  w : Fin 8
  sa : Fin 64
  q : Fin 16
  ty : Ty
  imm : BitVec 32
deriving DecidableEq, Repr

/-- Format MX (R70). -/
structure MX where
  w : Fin 8
  sa : Fin 64
  va : Fin 64
  tya : Ty
  tyb : Ty
  acc : Bool
  h : Fin 8
deriving DecidableEq, Repr

/-- Format MS (R70). -/
structure MS where
  h : Fin 8
  sa : Fin 64
  sb : Fin 64
  sel : BitVec 8
  ty : Ty
  rnd : Rnd
  sat : Bool
deriving DecidableEq, Repr

/-- Format MD (R70). -/
structure MD where
  vd : Fin 64
  va : Fin 64
  sa : Fin 64
  tya : Ty
  tyb : Ty
deriving DecidableEq, Repr

/-- Format ER (R70): bit 0 of `flags` is slot bit 8, so a description's flags bit n is bit n - 8 here. -/
structure ER where
  sd : Fin 64
  sa : Fin 64
  sb : Fin 64
  sc : Fin 64
  ch : Fin 8
  tb : Fin 32
  q : Fin 16
  flags : BitVec 12
  imm : BitVec 8
deriving DecidableEq, Repr

/-- Format EC (R70). -/
structure EC where
  f : BitVec 8
  tb : Fin 32
  ch : Fin 8
  sd : Fin 64
  sa : Fin 64
  sb : Fin 64
  cond : Cond
  imm : BitVec 16
deriving DecidableEq, Repr

/-- A compute checker's trip (R369): which of the results due at the tick failed its check (none of them for an
address adder), the slot of the failed instruction, the checker's code, ctx.tval. -/
structure Trip where
  entry : Nat
  slot : Nat
  code : Nat
  tval : Nat
deriving DecidableEq, Repr

/-- A packet ring as its job names it: the descriptor's device address (R246). -/
structure RingRef where
  job : Nat
  desc : Word
deriving DecidableEq, Repr

/-- The header of a host request and the session it came on (R407): `resv` gathers the bits of header and payload that are to be zero,
`length` is that of the last message of its chain. -/
structure Msg where
  session : Nat
  tag : Nat
  job : Nat
  resv : Nat
  opcode : Nat
  length : Nat
deriving DecidableEq, Repr

/-- What an inbound request asks for (R404, R405, R218). -/
inductive Access where
  | read (n : Nat)
  | write (bytes : List Byte)
  | atomic (op : Nat) (w64 sgn : Bool) (operand compare : Word)
deriving DecidableEq, Repr

/-- An inbound PCIe memory request to BAR2, or to BAR0 where `bar0` says so (R404, R405): `ide` tells that it came through the IDE stream
of its TDI. -/
structure HostReq where
  session : Nat
  requester : Nat
  pasid : Option Nat
  off : Nat
  acc : Access
  ide : Bool
  bar0 : Bool
deriving DecidableEq, Repr

/-- An inbound request of a peer device on path 6 (R294). -/
structure PeerReq where
  link : Nat
  peer : Nat
  asid : Nat
  va : Nat
  acc : Access
deriving DecidableEq, Repr

/-- A shared page on its way to its new home (R299): who sends it, its address space and address, the fields of its leaf that
travel with it, its bytes, the tag of each sector, and the sectors that are poisoned. -/
structure MovedPage where
  peer : Nat
  asid : Nat
  va : Nat
  acc : Nat
  moves : Nat
  pinned : Bool
  bytes : List Byte
  tags : List Nat
  poison : List Nat
deriving DecidableEq, Repr

/-- What a peer's flit may carry: a request (R294); of a page's move (R299) the question for a frame, the answers that there is one or
none, the page, and the answer that it has arrived; a pin notice (R298); the refusal of a request of this device because the page's
home is elsewhere now (R294); a request to send again from a sequence number on (R421). -/
inductive PeerMsg where
  | request (r : PeerReq)
  | askFrame (asid va peer : Nat)
  | frame (asid va peer : Nat)
  | noFrame (asid va peer : Nat)
  | page (p : MovedPage)
  | arrived (asid va peer : Nat)
  | pinned (asid va : Nat)
  | rehomed (asid va : Nat)
  | replay (seq : Nat)
deriving DecidableEq, Repr

/-- An Ovdex flit as it arrives (R421, R422): its sequence number and epoch, whether its CRC holds, its ciphertext and MAC, the
sequence number that it acknowledges, and what its plaintext says. -/
structure Flit where
  seq : Nat
  epoch : Nat
  crcOk : Bool
  text : List Byte
  mac : List Byte
  ack : Nat
  body : Option PeerMsg
deriving DecidableEq, Repr

/-- One row group of a model update (R211): the core and row group, the path-0 source, and how many write attempts
each of the group's 64 rows took, then, for PATCH, each of the 64 rows of its copy in the undo slot (64 to 127) and its UNDO
record (128); an unlisted one took one; more than nine is a WCR failure (R213). -/
structure RowWrite where
  core : Nat
  group : Nat
  asid : Nat
  src : Word
  attempts : List Nat
deriving DecidableEq, Repr

/-- What a transaction does (R211): PATCH or REPLACE; and how many write attempts its records BEGIN, COMMIT and END took (0 to 2), then
each of the 64 rows of every row group that an undo restores, in order; an unlisted one took one, more than nine is a WCR
failure (R213). -/
structure TxnKind where
  patch : Bool
  attempts : List Nat
deriving DecidableEq, Repr

/-- What TENANT_CREATE gives a tenant (R316, R318): its descriptor, and the lists that the message fills, each with its ring's
descriptor, in the order free pages, free slots, spill blocks. -/
structure TenantPool where
  desc : BitVec 512
  lists : List (BitVec 512 × List Word)
deriving DecidableEq, Repr

/-- A master a violation can freeze (R383). -/
inductive Master where
  | context (core ctx : Nat)
  | channel (core ch : Nat)
  | ring (r : RingRef)
  | requester (session : Nat)
deriving DecidableEq, Repr

/-- A component the Surveyor can lease (R362): a core with its MRAM array, a channel window, a link, a sheet segment. -/
inductive Comp where
  | core (cluster phys : Nat)
  | window (channel w : Nat)
  | link (l : Nat)
  | segment (sheet die : Nat)
deriving DecidableEq, Repr

/-- A page of a job as a bundle or an image holds it: its virtual page, its bytes, the tag of each sector, and the sectors that are
poisoned. -/
structure SavedPage where
  page : Nat
  bytes : List Byte
  tags : List Nat
  poison : List Nat
deriving DecidableEq, Repr

/-- The contents of a migration bundle (R417): descriptor, pool, pages, key and key_id. -/
structure MigBundle where
  desc : BitVec 512
  pool : List (Nat × BitVec 1024)
  pages : List SavedPage
  key : BitVec 256
  salt : BitVec 32
  keyId : BitVec 32
  counter : Word
deriving DecidableEq, Repr

/-- A bundle as it travels (R417): its contents are encrypted under the migration key that is named with them, and only a device that
has agreed that key reads them (log entry 56). -/
structure SealedBundle where
  key : BitVec 256
  inner : MigBundle
deriving DecidableEq, Repr

/-- Every row of opcode_table.json; what arrives from outside stands last. -/
inductive Instr where
  /-- BUNDLE_ISSUE (R43): A context issues one bundle through the merge, applying its sync-header wait and signal and advancing its schedule counter. -/
  | bundleIssue (core : Nat)
  /-- RESULT_LANDING (R46): A result held in the due queue takes effect at the start of its due tick, logging accumulator rows and raising any ECC or PIPE trap. -/
  | resultLanding (core ctx : Nat) (trip : Option Trip)
  /-- REMOVAL (R374): A context is freed after its due results land, its commands are flushed ABORTED and its counters are cleared last. -/
  | removal (core ctx : Nat)
  /-- LONG_WAIT_SUSPEND (R49): When a context's long-wait clock reaches 2^20 the unit is rolled back, saved into a spill frame and written WAITING. -/
  | longWaitSuspend (core ctx : Nat)
  /-- WAIT_SATISFIED (R49): The scheduler retests a WAITING unit's condition after a satisfying write and makes the unit READY. -/
  | waitSatisfied (job : Nat) (rec : Nat)
  /-- DECIDE (R51): A cluster dispatcher makes one placement decision, placing, stealing or requesting pre-emption of a unit. -/
  | decide (cluster : Nat)
  /-- PLACEMENT (R35): A unit is placed on a context from its record or spill frame, after its in-flight copies complete. -/
  | placement (core ctx : Nat)
  /-- PINNED_PREEMPTION (R379): A pinned unit is stopped at a bundle boundary, checkpointed and saved with its due queue into a spill frame. -/
  | pinnedPreemption (core ctx : Nat)
  /-- SUSPENSION_COMPLETE (R276): After its results land and commands complete, a suspending unit's record is written and its context is freed. -/
  | suspensionComplete (core ctx : Nat)
  /-- DICT_LOAD (R57): The fetch unit loads and verifies a whole dictionary into the core's dictionary store. -/
  | dictLoad (core ctx : Nat)
  /-- SEGMENT_FETCH (R61): The fetch unit fetches a segment into the segment cache and checks its tag. -/
  | segmentFetch (core ctx : Nat)
  /-- TRANSFER_COMPLETE (R354): A command completes its transfer ID, advancing the channel's status word and delivering its signal. -/
  | transferComplete (core seq : Nat)
  /-- STREAM_ELEMENT_ARRIVAL (R267): A whole element of a stream-bound copy lands in its ring slot and raises the arrived count. -/
  | streamElementArrival (core seq : Nat)
  /-- COPY_RETRY (R264): A transfer refused with a retry-after hint is retried when the hinted delay expires. -/
  | copyRetry (core seq : Nat)
  /-- NOP (R259): A NOP packet completes at once and, with resume set, clears the ring's halted state. -/
  | nop (r : RingRef) (index : Word)
  /-- COPY (R256): A COPY packet moves its rows from source to destination and completes with its status and signal. -/
  | copy (r : RingRef) (index : Word)
  /-- GATHER (R258): A GATHER packet fetches indexed rows and packs them at its destination. -/
  | gather (r : RingRef) (index : Word)
  /-- SCATTER (R258): A SCATTER packet writes packed rows to indexed positions of its table. -/
  | scatter (r : RingRef) (index : Word)
  /-- LAUNCH (R259): A LAUNCH packet patches argument words of a pool record and arms it. -/
  | launch (r : RingRef) (index : Word)
  /-- BARRIER (R259): A BARRIER packet is taken up and evaluates its wait list, completing OK or ABORTED. -/
  | barrier (r : RingRef) (index : Word)
  /-- BARRIER_ROUND (R391): A taken-up BARRIER reads its signals again after a write to one of them. -/
  | barrierRound (r : RingRef) (index : Word)
  /-- SIGNAL (R259): A SIGNAL packet completes at once, adding its delta or storing its value into a signal object. -/
  | signal (r : RingRef) (index : Word)
  /-- ATOMIC (R259): An ATOMIC packet performs an atomic operation on a word at system scope and returns the old value. -/
  | atomic (r : RingRef) (index : Word)
  /-- FETCH (R327): A KV FETCH writes the pages of a handle to a device address from whichever tier holds them. -/
  | fetch (r : RingRef) (index : Word)
  /-- STORE (R327): A KV STORE writes a handle's pages in place from a device address. -/
  | store (r : RingRef) (index : Word)
  /-- SPILL (R327): A KV SPILL moves a handle's device-memory pages to storage through the spill list. -/
  | spill (r : RingRef) (index : Word)
  /-- PRELOAD (R327): A KV PRELOAD moves a handle's stored pages into free device-memory frames. -/
  | preload (r : RingRef) (index : Word)
  /-- PACKET_WAIT_RETEST (R252): A taken-up packet waiting on its wait_addr signal retests it after a write and starts or aborts. -/
  | packetWaitRetest (r : RingRef) (index : Word)
  /-- LINK_RETRAIN_COMPLETE (R423): A halted link finishes retraining and keying a new epoch, resends unacknowledged flits and reports UP. -/
  | linkRetrainComplete (link : Nat)
  /-- DOORBELL (R406): A host write to the BAR0 doorbell prompts the device to read new request-ring slots. -/
  | doorbell (session value : Nat)
  /-- HANDLE_END (R325): Once a retiring handle's in_flight reaches zero its pages and slot are freed and its generation advances. -/
  | handleEnd (tenant slot : Nat)
  /-- JOURNAL_TXN_START (R211): Once no unit of the paused jobs runs on the named cores, the transaction begins writing row groups. -/
  | journalTxnStart
  /-- DROOP (R376): A supply fall shorter than 50 us stretches clocks with no architectural effect. -/
  | droop
  /-- TRIM_STEP_DOWN (R376): Every 2^26 cycles inside the trim window the cluster voltage is lowered by 5 mV. -/
  | trimStepDown (cluster : Nat)
  /-- HOLD_ENTRY (R377): A sag stops contexts, copies and clocks and moves state to retention on the reserve. -/
  | holdEntry
  /-- HOLD_EXIT (R377): Power returns within the reserve and the HOLD steps are reversed. -/
  | holdExit
  /-- RESERVE_FLOOR (R378): The reserve reaches its floor and the package is switched off. -/
  | reserveFloor
  /-- TRANSPORT_SHOCK (R426): The module logs an acceleration above 20 g while unpowered. -/
  | transportShock
  /-- CLUSTER_ENTER_DOZE (R21): The scheduler moves an idle cluster from RUN to DOZE. -/
  | clusterEnterDoze (cluster : Nat)
  /-- CLUSTER_ENTER_OFF (R21): The scheduler moves an idle cluster with no pinned live unit to OFF. -/
  | clusterEnterOff (cluster : Nat)
  /-- CLUSTER_WAKE (R22): The scheduler requests a wake of a cluster named by a ready launch. -/
  | clusterWake (cluster : Nat)
  /-- CLUSTER_WAKE_DONE (R22): A cluster wake completes and its contexts may issue. -/
  | clusterWakeDone (cluster : Nat)
  /-- SCORE_HALVING (R364): Each suspicion score is halved every 2^32 cycles of its domain. -/
  | scoreHalving (domain : Nat)
  /-- SHEET_FAILURE (R382): A sheet fails or a sheet survey starts or ends, holding new accesses while sheets drain. -/
  | sheetFailure (sheet : Nat)
  /-- SHEET_REHASH_SWITCH (R382): After the drain the sheet map switches device-wide and held accesses are released. -/
  | sheetRehashSwitch
  /-- J (R129): Jumps to an index offset. -/
  | j (f : CJ)
  /-- JR (R129): Jumps to a register plus an offset. -/
  | jr (f : CJ)
  /-- CALL (R129): Jumps to a target and writes the return offset. -/
  | call (f : CJ)
  /-- RET (R129): Jumps to the offset in a register. -/
  | ret (f : CJ)
  /-- LOOP (R132): Starts a loop-sequencer level over the following bundles. -/
  | loop (f : CL)
  /-- LBRK (R132): Leaves an active loop level. -/
  | lbrk (f : CL)
  /-- BSEL (R134): Selects a bucket from a table by a run-time dimension and branches. -/
  | bsel (f : CB)
  /-- LEND_C (R144): Lends or returns vector bank C, encoded in the C slot. -/
  | lendC (f : LF)
  /-- LEND_V (R144): Lends or returns vector bank C, encoded in the V slot. -/
  | lendV (f : LF)
  /-- SUSPEND (R276): Suspends or completes the unit with its live scalars and wait condition. -/
  | suspend (f : CS)
  /-- YIELD (R276): Yields the unit, or when polled only if a request is pending. -/
  | yield (f : CS)
  /-- TRAP (R135): Raises TRAP with an immediate code. -/
  | trap (f : CY)
  /-- BREAK (R135): Raises BREAK with an immediate code. -/
  | brk (f : CY)
  /-- SYSR (R113): Reads a system register into a scalar. -/
  | sysr (f : CY)
  /-- SYSW (R113): Writes a system register, trapping on read-only ones. -/
  | sysw (f : CY)
  /-- ICINV (R136): Drops verified segment copies and dictionaries within a scope. -/
  | icinv (f : CY)
  /-- TICK (R135): Writes the current tick into a scalar. -/
  | tick (f : CY)
  /-- IDLE (R137): Issues as the first of n empty ticks. -/
  | idle (f : CY)
  /-- ADD (R120): Adds two scalars. -/
  | add (f : SR)
  /-- SUB (R120): Subtracts two scalars. -/
  | sub (f : SR)
  /-- MUL (R120): Multiplies two scalars. -/
  | mul (f : SR)
  /-- MULH (R120): High half of a signed product. -/
  | mulh (f : SR)
  /-- MULHN (R120): High half of an unsigned product. -/
  | mulhn (f : SR)
  /-- DIV (R121): Divides two scalars on the divider. -/
  | div (f : SR)
  /-- REM (R121): Remainder of two scalars on the divider. -/
  | rem (f : SR)
  /-- AND (R120): Bitwise AND. -/
  | and (f : SR)
  /-- OR (R120): Bitwise OR. -/
  | or (f : SR)
  /-- XOR (R120): Bitwise XOR. -/
  | xor (f : SR)
  /-- ANDN (R120): AND with complement. -/
  | andn (f : SR)
  /-- SHL (R120): Shift left by a register. -/
  | shl (f : SR)
  /-- SHR (R120): Logical shift right by a register. -/
  | shr (f : SR)
  /-- SAR (R120): Arithmetic shift right by a register. -/
  | sar (f : SR)
  /-- MIN (R120): Signed minimum. -/
  | min (f : SR)
  /-- MAX (R120): Signed maximum. -/
  | max (f : SR)
  /-- MINN (R120): Unsigned minimum. -/
  | minn (f : SR)
  /-- MAXN (R120): Unsigned maximum. -/
  | maxn (f : SR)
  /-- CLZ (R120): Counts leading zeros. -/
  | clz (f : SR)
  /-- CTZ (R120): Counts trailing zeros. -/
  | ctz (f : SR)
  /-- POPC (R120): Counts set bits. -/
  | popc (f : SR)
  /-- SEXT (R120): Sign-extends the low bits. -/
  | sext (f : SR)
  /-- ZEXT (R120): Zero-extends the low bits. -/
  | zext (f : SR)
  /-- SEL (R120): Selects one of two scalars by a predicate. -/
  | sel (f : SR)
  /-- MADDR (R122): Computes a shifted-index address. -/
  | maddr (f : SX)
  /-- ADDI (R120): Adds an immediate. -/
  | addi (f : SI)
  /-- ANDI (R120): ANDs an immediate. -/
  | andi (f : SI)
  /-- ORI (R120): ORs an immediate. -/
  | ori (f : SI)
  /-- XORI (R120): XORs an immediate. -/
  | xori (f : SI)
  /-- SHLI (R120): Shift left by an immediate. -/
  | shli (f : SI)
  /-- SHRI (R120): Logical shift right by an immediate. -/
  | shri (f : SI)
  /-- SARI (R120): Arithmetic shift right by an immediate. -/
  | sari (f : SI)
  /-- LI (R123): Loads a sign-extended 48-bit immediate. -/
  | li (f : SL)
  /-- LIH (R123): Loads a 48-bit immediate above the low 16 bits. -/
  | lih (f : SL)
  /-- CMP (R124): Compares two scalars into a predicate pair. -/
  | cmp (f : SC)
  /-- CMPI (R124): Compares a scalar with an immediate into a predicate pair. -/
  | cmpi (f : SC)
  /-- PAND (R125): ANDs two predicates into a pair. -/
  | pand (f : SP)
  /-- POR (R125): ORs two predicates into a pair. -/
  | por (f : SP)
  /-- PXOR (R125): XORs two predicates into a pair. -/
  | pxor (f : SP)
  /-- PSET (R125): Sets a predicate pair to a value. -/
  | pset (f : SP)
  /-- LDA (R126): Loads a scalar from the activation buffer. -/
  | lda (f : SI)
  /-- STA (R126): Stores a scalar to the activation buffer, withheld. -/
  | sta (f : SI)
  /-- LDC (R126): Loads a scalar from the accumulator buffer. -/
  | ldc (f : SI)
  /-- STC (R126): Stores a scalar to the accumulator buffer, withheld. -/
  | stc (f : SI)
  /-- LDW (R126): Loads a scalar from the weight buffer. -/
  | ldw (f : SI)
  /-- VADD (R148): Floating-point vector add. -/
  | vadd (f : VR)
  /-- VSUB (R148): Floating-point vector subtract. -/
  | vsub (f : VR)
  /-- VMUL (R148): Floating-point vector multiply. -/
  | vmul (f : VR)
  /-- VFMA (R148): Fused multiply-add. -/
  | vfma (f : VR)
  /-- VFMS (R148): Fused multiply-subtract. -/
  | vfms (f : VR)
  /-- VMIN (R148): Floating-point vector minimum. -/
  | vmin (f : VR)
  /-- VMAX (R148): Floating-point vector maximum. -/
  | vmax (f : VR)
  /-- VABS (R148): Floating-point absolute value. -/
  | vabs (f : VR)
  /-- VNEG (R148): Floating-point negation. -/
  | vneg (f : VR)
  /-- VEXP2 (R107): Base-2 exponential. -/
  | vexp2 (f : VR)
  /-- VLOG2 (R107): Base-2 logarithm. -/
  | vlog2 (f : VR)
  /-- VRCP (R107): Reciprocal. -/
  | vrcp (f : VR)
  /-- VRSQ (R107): Reciprocal square root. -/
  | vrsq (f : VR)
  /-- VCVT (R153): Converts elements between formats. -/
  | vcvt (f : VR)
  /-- VPACK (R154): Packs 32-bit lanes into a group of narrow elements. -/
  | vpack (f : VR)
  /-- VUNPK (R154): Unpacks a group of narrow elements into 32-bit lanes. -/
  | vunpk (f : VR)
  /-- VBSCL (R155): Computes block scales or quantises into a microscaled group. -/
  | vbscl (f : VR)
  /-- VIADD (R149): Integer vector add. -/
  | viadd (f : VR)
  /-- VISUB (R149): Integer vector subtract. -/
  | visub (f : VR)
  /-- VIMUL (R149): Integer vector multiply. -/
  | vimul (f : VR)
  /-- VAND (R149): Vector bitwise AND. -/
  | vand (f : VR)
  /-- VOR (R149): Vector bitwise OR. -/
  | vor (f : VR)
  /-- VXOR (R149): Vector bitwise XOR. -/
  | vxor (f : VR)
  /-- VSHL (R149): Vector shift left. -/
  | vshl (f : VR)
  /-- VSHR (R149): Vector logical shift right. -/
  | vshr (f : VR)
  /-- VSAR (R149): Vector arithmetic shift right. -/
  | vsar (f : VR)
  /-- VCMP (R150): Floating-point compare into a lane predicate. -/
  | vcmp (f : VR)
  /-- VICMP (R150): Integer compare into a lane predicate. -/
  | vicmp (f : VR)
  /-- VSEL (R150): Selects elements by a lane predicate. -/
  | vsel (f : VR)
  /-- VBCST (R151): Broadcasts a scalar to enabled elements. -/
  | vbcst (f : VI)
  /-- VMOVS (R151): Inserts a scalar into or extracts one from a vector element. -/
  | vmovs (f : VI)
  /-- VPERM (R152): Permutes elements by indices. -/
  | vperm (f : VR)
  /-- VROT (R152): Rotates elements. -/
  | vrot (f : VI)
  /-- VRSUM (R156): Tree sum reduction into lane 0. -/
  | vrsum (f : VR)
  /-- VRMAX (R156): Maximum reduction into lane 0. -/
  | vrmax (f : VR)
  /-- VRMIN (R156): Minimum reduction into lane 0. -/
  | vrmin (f : VR)
  /-- VSCAN (R157): Prefix scan over lanes. -/
  | vscan (f : VR)
  /-- VKEY (R158): Maps elements to order keys. -/
  | vkey (f : VR)
  /-- VHIST (R159): Counts digits of elements into lanes. -/
  | vhist (f : VR)
  /-- VLDA (R160): Vector load from the activation buffer. -/
  | vlda (f : VM)
  /-- VSTA (R160): Vector store to the activation buffer, withheld. -/
  | vsta (f : VM)
  /-- VLDC (R160): Vector load from the accumulator buffer. -/
  | vldc (f : VM)
  /-- VSTC (R160): Vector store to the accumulator buffer, withheld. -/
  | vstc (f : VM)
  /-- VGLDA (R161): Gathers 32-bit lanes from the activation buffer. -/
  | vglda (f : VM)
  /-- VMOVQ (R164): Consumes a stream element into a vector register. -/
  | vmovq (f : VQ)
  /-- KAND (R165): ANDs two lane predicates. -/
  | kand (f : VK)
  /-- KOR (R165): ORs two lane predicates. -/
  | kor (f : VK)
  /-- KNOT (R165): Complements a lane predicate. -/
  | knot (f : VK)
  /-- KSET (R165): Sets a lane predicate from a scalar. -/
  | kset (f : VK)
  /-- KPOP (R165): Counts set lanes of two predicates. -/
  | kpop (f : VK)
  /-- MLAT (R178): Loads a latch from the weight buffer. -/
  | mlat (f : ML)
  /-- MLATA (R178): Loads a latch from the activation buffer. -/
  | mlata (f : ML)
  /-- MLATQ (R178): Loads a latch from the next stream element. -/
  | mlatq (f : ML)
  /-- MMA (R180): Matrix array multiply of activation rows against a latch. -/
  | mma (f : MX)
  /-- MMAV (R180): Matrix array multiply of rows from a vector register. -/
  | mmav (f : MX)
  /-- MCONV (R186): Matrix array multiply over a convolution window. -/
  | mconv (f : MX)
  /-- MSHAPE (R184): Loads a shape record into a shape register. -/
  | mshape (f : MS)
  /-- MPAD (R185): Changes the pads or base of a shape register. -/
  | mpad (f : MS)
  /-- MSET (R174): Writes an engine shadow parameter word. -/
  | mset (f : MS)
  /-- MZERO (R187): Stages accumulator rows of zeros. -/
  | mzero (f : MS)
  /-- MDRAIN (R188): Converts accumulator rows into a vector register or the activation buffer. -/
  | mdrain (f : MS)
  /-- DOT (R189): Dot engine product of a vector against sixteen weight rows. -/
  | dot (f : MD)
  /-- DOTACC (R189): Dot engine product accumulated onto the destination lanes. -/
  | dotacc (f : MD)
  /-- CPY (R265): Issues a withheld copy command with a transfer ID. -/
  | cpy (f : ER)
  /-- CPY_PERFORM (R265): After release the channel reads and performs a CPY image, writes its status and completes its ID. -/
  | cpyPerform (core seq : Nat)
  /-- SBIND (R266): Binds a stream register to a ring in the activation buffer. -/
  | sbind (f : ER)
  /-- SREL (R268): Releases a stream binding, aborting its copy at release. -/
  | srel (f : ER)
  /-- GATH (R269): Opens a stream-bound gather on a channel. -/
  | gath (f : ER)
  /-- GATH_PERFORM (R269): After release the channel pops indices and fills the stream ring with rows. -/
  | gathPerform (core seq : Nat)
  /-- GIDX (R270): Pushes an index into a channel's address queue. -/
  | gidx (f : ER)
  /-- QAPP (R273): Issues a withheld append of a packet to a ring. -/
  | qapp (f : ER)
  /-- QAPP_PERFORM (R273): The channel claims a ring index, waits for room and writes the packet. -/
  | qappPerform (core seq : Nat)
  /-- ATOM (R217): Issues a withheld atomic operation on a device word. -/
  | atom (f : ER)
  /-- ATOM_PERFORM (R217): The channel performs the atomic operation and writes its return block. -/
  | atomPerform (core seq : Nat)
  /-- FENCE (R274): Issues a withheld acquire and/or release fence over the context's commands. -/
  | fence (f : ER)
  /-- SFENCE (R274): Issues a withheld sheet fence. -/
  | sfence (f : ER)
  /-- SFENCE_COMPLETE (R236): An SFENCE completes when every sheet and endpoint in scope has acknowledged earlier accesses. -/
  | sfenceComplete (core seq : Nat)
  /-- SEMSET (R352): Sets a semaphore. -/
  | semset (f : EC)
  /-- SEMADD (R352): Adds to a semaphore. -/
  | semadd (f : EC)
  /-- SEMWT (R352): Waits on a semaphore condition and returns the count. -/
  | semwt (f : EC)
  /-- TBARM (R353): Arms a transaction barrier with a byte count. -/
  | tbarm (f : EC)
  /-- TBEXP (R353): Extends an armed transaction barrier. -/
  | tbexp (f : EC)
  /-- TBWAIT (R353): Waits for a barrier phase and returns the barrier word. -/
  | tbwait (f : EC)
  /-- XIDRD (R355): Reads a channel's status word or next ID. -/
  | xidrd (f : EC)
  /-- XIDWT (R355): Waits until a transfer ID has passed. -/
  | xidwt (f : EC)
  /-- SIGADD (R357): Issues a withheld atomic add to a signal object. -/
  | sigadd (f : EC)
  /-- SIGADD_PERFORM (R357): After earlier entries are performed the add is applied and the ID completes. -/
  | sigaddPerform (core seq : Nat)
  /-- SIGWT (R357): Waits on a signal object condition or a negative value. -/
  | sigwt (f : EC)
  /-- LARM (R307): Issues a withheld arm of a launch pool record. -/
  | larm (f : ER)
  /-- LARM_PERFORM (R309): The scheduler arms the record, writes the status and delivers the semaphore. -/
  | larmPerform (core seq : Nat)
  /-- LPATCH (R307): Issues a withheld patch of a launch record argument. -/
  | lpatch (f : ER)
  /-- LPATCH_PERFORM (R309): The scheduler patches the argument word, writes the status and delivers the semaphore. -/
  | lpatchPerform (core seq : Nat)
  /-- CANCEL (R360): Issues a withheld soft or hard cancel of a level or unit. -/
  | cancel (f : ER)
  /-- CANCEL_PERFORM (R360): The scheduler applies the cancel to the level's descendants and writes its status. -/
  | cancelPerform (core seq : Nat)
  /-- BMSET (R361): Issues a withheld set of a completion bitmap bit. -/
  | bmset (f : EC)
  /-- BMSET_PERFORM (R361): After earlier entries are performed the bit is set by atomic OR. -/
  | bmsetPerform (core seq : Nat)
  /-- BMWAIT (R361): Waits for a bitmap bit or the producer's end. -/
  | bmwait (f : EC)
  /-- KVREF (R331): Issues a withheld KV operation from an image. -/
  | kvref (f : ER)
  /-- KVAPP (R331): Issues a withheld batch of token appends. -/
  | kvapp (f : ER)
  /-- KVAPP_PERFORM (R333): The channel appends each sequence whole or defers it and writes the result bytes. -/
  | kvappPerform (core seq : Nat)
  /-- KVREJ (R331): Issues a withheld rejection of speculative appends. -/
  | kvrej (f : ER)
  /-- KVREJ_PERFORM (R336): Undoes journal records above keep. -/
  | kvrejPerform (core seq : Nat)
  /-- KVCOMMIT (R331): Issues a withheld commit of speculative appends. -/
  | kvcommit (f : ER)
  /-- KVCOMMIT_PERFORM (R336): Clears the journal and makes a pending bucket READY. -/
  | kvcommitPerform (core seq : Nat)
  /-- KVFREE (R331): Issues a withheld release of a handle reference. -/
  | kvfree (f : ER)
  /-- KVFREE_PERFORM (R337): Lowers the handle's references, possibly tombing its bucket and retiring it. -/
  | kvfreePerform (core seq : Nat)
  /-- GZCLAIM (R331): Issues a withheld claim of a prefix digest. -/
  | gzclaim (f : ER)
  /-- GZCLAIM_PERFORM (R338): Probes the gazetteer and returns the claimant's role. -/
  | gzclaimPerform (core seq : Nat)
  /-- GZJOIN (R331): Issues a withheld join of a private handle to a shared prefix. -/
  | gzjoin (f : ER)
  /-- GZJOIN_PERFORM (R339): After the bucket is READY, shares the prefix pages with the private handle. -/
  | gzjoinPerform (core seq : Nat)
  /-- GZFIND (R331): Issues a withheld lookup of a prefix digest. -/
  | gzfind (f : ER)
  /-- GZFIND_PERFORM (R338): Probes the gazetteer and returns any bucket found. -/
  | gzfindPerform (core seq : Nat)
  /-- SEAL (R219): Issues a withheld encryption of activation lines. -/
  | seal (f : ER)
  /-- SEAL_PERFORM (R221): The channel encrypts each plaintext line and writes its seal record. -/
  | sealPerform (core seq : Nat)
  /-- OPEN (R219): Issues a withheld decryption of activation lines. -/
  | unseal (f : ER)
  /-- OPEN_PERFORM (R221): The channel decrypts and verifies each ciphertext line and writes its result. -/
  | unsealPerform (core seq : Nat)
  /-- ERRINJ (R223): Issues a withheld arming of an array's error injection. -/
  | errinj (f : ER)
  /-- CLUSTER_ENTRY_COMPLETE (R21): A cluster's entry into DOZE or OFF completes, at most 5 us or 12 us after it began, and a wake that waited on it then begins. -/
  | clusterEntryComplete (cluster : Nat)
  /-- MALFORMED_PACKET (R254): A taken-up packet with a reserved type or an unreadable slot completes BOUND or ABORTED without effect, possibly halting its ring. -/
  | malformedPacket (r : RingRef) (index : Word)
  /-- HOST_PORT_NOT_DELIVERING (R253): The host port's PCIe link stops delivering, so path-5 transfers complete with LINK, detail 0x20. -/
  | hostPortNotDelivering
  /-- SPARE_IN_SERVICE (R312): After the spare's weight image is written, the cluster map and the IN_SERVICE record are written and the spare carries the architectural number. -/
  | spareInService (cluster : Nat)
  /-- ROLLBACK_TAKE_OFF_RETRY (R370): A take-off after repeated PIPE replay that was deferred for want of a frame is retried after a further 2^20 cycles. -/
  | rollbackTakeOffRetry (core ctx : Nat)
  /-- HOST_INBOUND_REQUEST (R405): An inbound host memory request through BAR2 is translated and performed or refused with a refusal record. -/
  | hostInboundRequest (r : HostReq)
  /-- PEER_INBOUND_REQUEST (R294): An inbound peer request on path 6 is translated and performed or refused with a retry hint. -/
  | peerInboundRequest (r : PeerReq)
  /-- PAGE_MOVE (R299): A shared page is moved from its home to a peer and both devices' leaves are updated. -/
  | pageMove (asid : Nat) (va : Nat) (peer : Nat)
  /-- FLIT_RECEIVE (R421): An Ovdex flit is received, checked, delivered in order or replay-requested. -/
  | flitReceive (link : Nat) (f : Flit)
  /-- LINK_MAC_FAILURE (R423): A flit failing its MAC halts the link in both directions and starts retraining. -/
  | linkMacFailure (link : Nat)
  /-- NVME_COMPLETION (R241): A drive posts a completion entry, performing a path-7 write or completing a command with its status. -/
  | nvmeCompletion (drive sct sc : Nat)
  /-- DRIVE_UNRESPONSIVE (R419): A drive that stops responding completes its open transfers with LINK and its queues are deleted. -/
  | driveUnresponsive (drive : Nat)
  /-- BAR_WRITE_IGNORED (R404): A write to a BAR0 offset other than the doorbell is ignored. -/
  | barWriteIgnored (off value : Nat)
  /-- POWER_UP (R425): The hub runs bring-up: firmware check, recoveries, training, optional survey and host link. -/
  | powerUp (firmwareOk : Bool)
  /-- SURVEY_LEASE (R380): The Surveyor leases a component, vacating it and saving its state for testing. -/
  | surveyLease (c : Comp)
  /-- SURVEY_PASS (R380): A survey test passes, state is restored and the lease ends. -/
  | surveyPass (c : Comp) (errors : Nat)
  /-- SURVEY_MISMATCH (R380): A survey test mismatches, charging 16,384 and retiring the component. -/
  | surveyMismatch (c : Comp) (reason : Nat)
  /-- LINK_DOWN (R423): An Ovdex link stops delivering, or fails its trainings, and goes to DOWN. -/
  | linkDown (link : Nat)
  /-- IDE_STREAM_FAILURE (R412): A confidential job's IDE stream fails, and its TDI enters ERROR with its units frozen. -/
  | ideStreamFailure (job : Nat)
  /-- SPDM_SESSION_ESTABLISH (R406): The host establishes an SPDM secured session, session 0 by the platform key or a job-bound one, together with its request and event rings. -/
  | spdmSessionEstablish (session : Nat) (job : Nat) (reqRing evRing : Word)
  /-- JOB_CREATE (R409): Writes a job descriptor and creates a job key if confidential. -/
  | jobCreate (m : Msg) (desc : BitVec 512)
  /-- JOB_REMOVE (R409): Hard-cancels a job and frees its descriptor, key and TDI. -/
  | jobRemove (m : Msg)
  /-- POOL_BUILD (R304): Builds a job's launch pool, refusing invalid records. -/
  | poolBuild (m : Msg) (first : Nat) (recs : List (BitVec 1024))
  /-- RING_CREATE (R409): Creates a ring descriptor. -/
  | ringCreate (m : Msg) (addr : Word) (desc : BitVec 512)
  /-- RING_RESET (R282): Resets a ring, completing taken-up packets ABORTED and equalising its indices. -/
  | ringReset (m : Msg) (addr : Word)
  /-- RING_REMOVE (R409): Removes a ring. -/
  | ringRemove (m : Msg) (addr : Word)
  /-- WINDOWS_SET (R203): Sets a job's tenant window list. -/
  | windowsSet (m : Msg) (entries : List (BitVec 256))
  /-- ASID_SET (R287): Writes an address-space entry. -/
  | asidSet (m : Msg) (asid : Nat) (entry : BitVec 128)
  /-- INVALIDATE (R291): Invalidates cached translations of an ASID range and replies once no old leaf is in use. -/
  | invalidate (m : Msg) (asid : Nat) (va len : Nat)
  /-- ARM (R306): Host message arming a launch pool slot. -/
  | arm (m : Msg) (slot : Nat)
  /-- LEVEL_ARM (R358): Arms a graph, phase or job completion counter. -/
  | levelArm (m : Msg) (addr : Nat) (count : Nat) (parent : Nat)
  /-- HOST_CANCEL (R360): Host message cancelling a level or unit as the CANCEL instruction does. -/
  | hostCancel (m : Msg) (level : Nat) (addr : Word) (hard : Bool)
  /-- PLACEMENT_PAUSE (R36): Pauses placement of a job, making its READY and WAITING units SUSPENDED. -/
  | placementPause (m : Msg)
  /-- PLACEMENT_RESUME (R36): Resumes placement of a job. -/
  | placementResume (m : Msg)
  /-- MANIFEST_LOAD (R429): Verifies a kernel manifest, derives its segment key and writes the tags of its dictionary image and segments. -/
  | manifestLoad (m : Msg) (dict codeBase : Word) (manifest : List Byte)
  /-- MAPX (R301): Marks the frames of a request's pages, scans them and writes mapped-code entries or replies SCAN. -/
  | mapx (m : Msg) (manifest : Nat) (pages : List Word)
  /-- UNMAP (R302): Withdraws a mapping, removing its mapped-code entries and frame marks. -/
  | unmap (m : Msg) (pages : List Word)
  /-- TENANT_CREATE (R316): Creates a key-value tenant. -/
  | tenantCreate (m : Msg) (pool : TenantPool)
  /-- TENANT_GRANT (R316): Grants a tenant to a job. -/
  | tenantGrant (m : Msg) (tenant : Nat)
  /-- TENANT_CANCEL (R326): Revokes every handle of a tenant and stops its operations in progress. -/
  | tenantCancel (m : Msg) (tenant : Nat)
  /-- GZ_EVICT (R330): Evicts a gazetteer bucket, making it TOMB. -/
  | gzEvict (m : Msg) (tenant bucket : Nat)
  /-- MODEL_BEGIN (R211): Opens a journal transaction and pauses placement of jobs using the model. -/
  | modelBegin (m : Msg) (kind : TxnKind) (model : BitVec 128) (cores jobs : List Nat)
  /-- MODEL_ROWS (R211): Writes row groups of a transaction, with undo slots for PATCH, using write-check-retry. -/
  | modelRows (m : Msg) (rows : List RowWrite)
  /-- MODEL_COMMIT (R211): Commits a transaction, switching jobs to the new image and resuming placement. -/
  | modelCommit (m : Msg)
  /-- INTERVAL_MARK (R372): Opens a new interval of a job's interval log. -/
  | intervalMark (m : Msg) (base entries : Nat)
  /-- STEP (R375): Lets a debug-step context issue n ticks. -/
  | step (m : Msg) (core ctx : Nat) (ticks : Nat)
  /-- HALT (R375): Halts a debug-step context. -/
  | halt (m : Msg) (core ctx : Nat)
  /-- STATE_READ (R375): Writes a context's state in spill-frame layout into a frame of the job's pool. -/
  | stateRead (m : Msg) (core ctx : Nat)
  /-- THAW (R383): Resumes a frozen master where it stopped. -/
  | thaw (m : Msg) (who : Master)
  /-- REMOVE (R383): Removes a frozen or stepped master. -/
  | remove (m : Msg) (who : Master)
  /-- MIGRATE_OUT (R417): Stops a confidential job into frames at the source and starts its migration. -/
  | migrateOut (m : Msg)
  /-- MIGRATE_IN (R417): Stores a migration bundle at the destination. -/
  | migrateIn (m : Msg) (bundle : SealedBundle) (intact : Bool)
  /-- MIGRATION_ACK (R417): On the destination's acknowledgement the source erases the job key and data. -/
  | migrationAck (job : Nat) (accepted : Bool)
  /-- MIGRATE_CONFIRM (R417): Restarts the migrated job at the destination. -/
  | migrateConfirm (m : Msg) (restart : Bool)
  /-- INJECT (R223): Arms an array's injection register from the host. -/
  | inject (m : Msg) (array : Nat) (addr : Nat) (mask : Word) (kind : Nat) (now : Bool)
  /-- FLOORS_SET (R313): Sets the retirement header's floors. -/
  | floorsSet (m : Msg) (cores channels links : Nat)
  /-- REPLACEMENT_CLEAR (R313): Clears the replacement-requested state. -/
  | replacementClear (m : Msg)
  /-- SYSJOB_SET (R113): Designates or withdraws a system job. -/
  | sysjobSet (m : Msg) (on : Bool)
  /-- POISON_ENABLE (R424): Turns a job's host poison handling on or off. -/
  | poisonEnable (m : Msg) (on : Bool)
  /-- STATUS_READ (R409): Returns power state, degraded state, capacity, scores and wear. -/
  | statusRead (m : Msg)
  /-- SAFE_CHECKPOINT (R420): Stops a job and writes its state to the storage tier. -/
  | safeCheckpoint (m : Msg)
  /-- CHECKPOINT_DONE (R420): A safe checkpoint ends, the job resumes and the event is posted. -/
  | checkpointDone (job : Nat) (ok : Bool)
  /-- SAFE_RESTORE (R420): Writes a job's safe-tier image back to the device. -/
  | safeRestore (m : Msg)
  /-- RESTORE_DONE (R420): A safe restore ends and units are placed from their records. -/
  | restoreDone (job : Nat)
  /-- LINK_REKEY (R422): Starts a new key epoch on an Ovdex link. -/
  | linkRekey (m : Msg) (link : Nat)
  /-- REFUSAL_RING (R405): Names a requester's refusal ring. -/
  | refusalRing (m : Msg) (addr : Word)
  /-- LOCK_INTERFACE (R412): Moves a job's TDI to CONFIG_LOCKED. -/
  | lockInterface (m : Msg)
  /-- START_INTERFACE (R412): Moves a job's TDI to RUN so its units are placed. -/
  | startInterface (m : Msg)
  /-- STOP_INTERFACE (R412): Removes a job's units, scrubs its data and erases its key, returning the TDI to CONFIG_UNLOCKED. -/
  | stopInterface (m : Msg)
deriving DecidableEq, Repr

end Sys2Proof
end

