-- ==== Sys2Proof/Machine/Limits.lean ====
section
/-! DEFINITION. The codes of the shared fields (R69), the opcodes (R72) and the operand limits that the scanner
checks for each instruction on its own 64 bits (R70, R71, R75, R138, R147, R166, R190, R224, R283, R342, R365). -/
namespace Sys2Proof.Machine

/-- Type codes (R69). -/
def tyCode : Ty → Nat
  | .none => 0 | .i4 => 1 | .i8 => 2 | .i16 => 3 | .i32 => 4 | .i64 => 5 | .n4 => 6 | .n8 => 7 | .n16 => 8
  | .n32 => 9 | .n64 => 10 | .f32 => 11 | .f16 => 12 | .bf16 => 13 | .e4m3 => 14 | .e5m2 => 15 | .e2m1 => 16

/-- The type a code names; codes 17 to 31 are reserved. -/
def tyOf : Nat → Option Ty
  | 0 => some .none | 1 => some .i4 | 2 => some .i8 | 3 => some .i16 | 4 => some .i32 | 5 => some .i64
  | 6 => some .n4 | 7 => some .n8 | 8 => some .n16 | 9 => some .n32 | 10 => some .n64 | 11 => some .f32
  | 12 => some .f16 | 13 => some .bf16 | 14 => some .e4m3 | 15 => some .e5m2 | 16 => some .e2m1 | _ => none

/-- Width in bits of an element type; 64 for code 0 (R117). -/
def tyWidth : Ty → Nat
  | .none => 64 | .i4 => 4 | .i8 => 8 | .i16 => 16 | .i32 => 32 | .i64 => 64 | .n4 => 4 | .n8 => 8 | .n16 => 16
  | .n32 => 32 | .n64 => 64 | .f32 => 32 | .f16 => 16 | .bf16 => 16 | .e4m3 => 8 | .e5m2 => 8 | .e2m1 => 4

/-- True for the .iN types. -/
def tySigned : Ty → Bool
  | .i4 | .i8 | .i16 | .i32 | .i64 => true
  | _ => false

/-- True for the floating-point types. -/
def tyFloat : Ty → Bool
  | .f32 | .f16 | .bf16 | .e4m3 | .e5m2 | .e2m1 => true
  | _ => false

/-- Condition codes (R69). -/
def condCode : Cond → Nat
  | .eq => 0 | .ne => 1 | .lt => 2 | .le => 3 | .gt => 4 | .ge => 5

/-- The condition a code names; 6 and 7 are reserved. -/
def condOf : Nat → Option Cond
  | 0 => some .eq | 1 => some .ne | 2 => some .lt | 3 => some .le | 4 => some .gt | 5 => some .ge | _ => none

/-- Scope codes (R69). -/
def scopeCode : Scope → Nat
  | .context => 0 | .core => 1 | .cluster => 2 | .die => 3 | .device => 4 | .system => 5

/-- The scope a code names; 6 and 7 are reserved. -/
def scopeOf : Nat → Option Scope
  | 0 => some .context | 1 => some .core | 2 => some .cluster | 3 => some .die | 4 => some .device
  | 5 => some .system | _ => none

/-- Rounding codes (R69). -/
def rndCode : Rnd → Nat
  | .rne => 0 | .rtz => 1 | .rdn => 2 | .rup => 3

/-- The rounding a code names. -/
def rndOf (n : Nat) : Rnd :=
  if n % 4 = 0 then .rne else if n % 4 = 1 then .rtz else if n % 4 = 2 then .rdn else .rup

/-- Bits hi:lo of the flags of format ER, numbered as the slot numbers them (19:8). -/
def erFl (f : ER) (hi lo : Nat) : Nat := fld f.flags.toNat (hi - 8) (lo - 8)

/-- FIELD unless every listed field is zero (R70). -/
def zeroF (l : List Nat) : List ScanReason := if l.all (· == 0) then [] else [.field]
/-- RANGE unless the limit holds. -/
def inR (ok : Bool) : List ScanReason := if ok then [] else [.range]
/-- TYPE unless the type is listed. -/
def tyIn (t : Ty) (l : List Ty) : List ScanReason := if l.contains t then [] else [.type]
/-- TYPE unless the condition holds. -/
def tyR (ok : Bool) : List ScanReason := if ok then [] else [.type]

/-- Vector fields of the V slot name v0 to v47 (R71). -/
def vV (l : List Nat) : List ScanReason := inR (l.all (· ≤ 47))
/-- Vector fields of the M slot name v32 to v63 (R71). -/
def vM (l : List Nat) : List ScanReason := inR (l.all (32 ≤ ·))
/-- A pair field names p2/p3 to p22/p23 (R69). -/
def pairR (n : Nat) : List ScanReason := inR (1 ≤ n && n ≤ 11)

/-- Type sets of R117 and R147. -/
def tyAlu : List Ty := [.none, .i32, .n32]
def tyDiv : List Ty := [.none, .i32, .i64, .n32, .n64]
def tyMem : List Ty := [.i8, .i16, .i32, .i64, .n8, .n16, .n32, .n64]
def tyAcc : List Ty := [.i32, .n32, .f32]
def tyF : List Ty := [.f32, .f16, .bf16]
def tyI : List Ty := [.i32, .n32, .i16, .n16]
def tyW : List Ty := [.i32, .n32, .f32, .i16, .n16, .f16, .bf16]
def tyB : List Ty := tyW ++ [.i8, .n8, .e4m3, .e5m2]
def tyM : List Ty := tyB ++ [.i4, .n4, .e2m1]

/-- Register forms of S-slot arithmetic (R120). -/
def ckSR (tys : List Ty) (f : SR) : List ScanReason := tyIn f.ty tys ++ zeroF [f.pa.val]
/-- The one-source forms: sb is zero too (R120). -/
def ckSR1 (tys : List Ty) (f : SR) : List ScanReason := tyIn f.ty tys ++ zeroF [f.pa.val, f.sb.val]
/-- SEL (R120). -/
def ckSel (f : SR) : List ScanReason := tyIn f.ty [.none] ++ inR (f.pa.val ≤ 23)
/-- Immediate shifts: 0 to W - 1 (R120). -/
def ckShI (f : SI) : List ScanReason := tyIn f.ty tyAlu ++ inR (f.imm.toNat < tyWidth f.ty)
/-- CMP and CMPI (R124). -/
def ckCmp (f : SC) : List ScanReason := pairR f.pair ++ tyIn f.ty tyDiv ++ zeroF [f.imm.toNat]
def ckCmpi (f : SC) : List ScanReason := pairR f.pair ++ tyIn f.ty tyDiv ++ zeroF [f.sb.val]
/-- Predicate operations (R125). -/
def ckSP (f : SP) : List ScanReason := pairR f.pair ++ inR (f.pa.val ≤ 23 && f.pb.val ≤ 23) ++ zeroF [b2n f.val]
def ckPset (f : SP) : List ScanReason := pairR f.pair ++ zeroF [f.pa.val, f.pb.val, b2n f.na, b2n f.nb]

/-- System registers of R114 by number. -/
def sysNumbers : List Nat :=
  [0, 1, 2, 3, 4, 5, 6, 7, 8, 9, 10, 0x10, 0x11, 0x12, 0x13, 0x14, 0x15, 0x20, 0x21, 0x22, 0x30, 0x31, 0x32, 0x33,
   0x40]

/-- TRAP and BREAK (R135). -/
def ckTrap (f : CY) : List ScanReason :=
  zeroF [f.sd.val, f.sa.val, f.sys.toNat, scopeCode f.scope] ++ inR (f.imm.toNat ≤ 0xFEFF)

/-- Wait kinds that a record written with frame = 0 cannot carry (R275). -/
def waitKindR (k : Nat) : List ScanReason := inR (k == 0 || (5 ≤ k && k ≤ 7))
/-- A wait kind that the form does not use: 5 to 7 are non-zero unused fields, the others no wait at all. -/
def waitKindNone (k : Nat) : List ScanReason := waitKindR k ++ zeroF [if 5 ≤ k && k ≤ 7 then k else 0]
/-- SUSPEND and YIELD (R275). -/
def ckSuspend (f : CS) : List ScanReason :=
  let op := f.waitOperand.toNat
  if f.done then waitKindNone f.waitKind.val ++ zeroF [op, f.live.toNat]
  else match f.waitKind.val with
    | 0 => zeroF [op]
    | 5 => zeroF [fld op 7 3] ++ inR (fld op 2 0 ≤ 5)
    | 6 => zeroF [fld op 7 0]
    | 7 => zeroF [fld op 13 0]
    | k => waitKindR k
def ckYield (f : CS) : List ScanReason := waitKindNone f.waitKind.val ++ zeroF [f.waitOperand.toNat, b2n f.done]

/-- A V-slot instruction of format VR: sources used, rounding and saturation fields used (R147). -/
def ckVR (f : VR) (tys : List Ty) (useB useC useRnd useSat : Bool) : List ScanReason :=
  tyIn f.ty tys ++ vV [f.vd, f.va, if useB then f.vb else 0, if useC then f.vc else 0] ++
  zeroF [if useB then 0 else f.vb, if useC then 0 else f.vc, if useRnd then 0 else rndCode f.rnd,
         if useSat then 0 else b2n f.sat]
/-- The same with no second type. -/
def ckVR1 (f : VR) (tys : List Ty) (useB useC useRnd useSat : Bool) : List ScanReason :=
  ckVR f tys useB useC useRnd useSat ++ zeroF [tyCode f.ty2]
/-- The same with no control bits either. -/
def ckVR0 (f : VR) (tys : List Ty) (useB useC useRnd useSat : Bool) : List ScanReason :=
  ckVR1 f tys useB useC useRnd useSat ++ zeroF [f.ctl.toNat]
/-- Compares: vd names a lane predicate, ctl holds cond and half (R147). -/
def ckVcmp (f : VR) (tys : List Ty) : List ScanReason :=
  ckVR1 f tys true false false false ++
  inR (f.vd.val ≤ 15 && fld f.ctl.toNat 2 0 ≤ 5 && (tyWidth f.ty != 32 || fld f.ctl.toNat 3 3 == 0)) ++
  zeroF [fld f.ctl.toNat 14 4]
/-- Group numbers: 0 to 3 for 8-bit and 0 to 7 for 4-bit narrow types (R147). -/
def groupR (narrow : Ty) (h : Nat) : List ScanReason := inR (if tyWidth narrow = 8 then h ≤ 3 else h ≤ 7)
def ckVcvt (f : VR) : List ScanReason :=
  ckVR f tyW false false true true ++ tyIn f.ty2 tyW ++ tyR (f.ty != f.ty2) ++
  inR (tyWidth f.ty != tyWidth f.ty2 || fld f.ctl.toNat 0 0 == 0) ++ zeroF [fld f.ctl.toNat 14 1]
/-- Wide and narrow types that VPACK and VUNPK pair (R147). -/
def packPair (wide narrow : Ty) : Bool :=
  (wide == .f32 && [Ty.e4m3, .e5m2, .e2m1].contains narrow) ||
  ((wide == .i32 || wide == .n32) && [Ty.i8, .n8, .i4, .n4].contains narrow)
def ckVpack (f : VR) : List ScanReason :=
  ckVR f [.e4m3, .e5m2, .e2m1, .i8, .n8, .i4, .n4] false false true true ++ tyR (packPair f.ty2 f.ty) ++
  groupR f.ty (fld f.ctl.toNat 2 0) ++ zeroF [fld f.ctl.toNat 14 3]
def ckVunpk (f : VR) : List ScanReason :=
  let scaled := f.ctl.toNat.testBit 3
  ckVR f [.f32, .i32, .n32] scaled false scaled scaled ++ tyR (packPair f.ty f.ty2) ++
  groupR f.ty2 (fld f.ctl.toNat 2 0) ++ zeroF [fld f.ctl.toNat 14 4]
def ckVbscl (f : VR) : List ScanReason :=
  ckVR f [.e2m1, .e4m3, .e5m2] (f.ctl.toNat.testBit 4) false true false ++ tyIn f.ty2 [.f32] ++
  groupR f.ty (fld f.ctl.toNat 2 0) ++ zeroF [fld f.ctl.toNat 3 3, fld f.ctl.toNat 14 5]
def ckVrsum (f : VR) : List ScanReason := ckVR0 f (tyF ++ tyI) false false (tyFloat f.ty) true
def ckVscan (f : VR) : List ScanReason :=
  let op := fld f.ctl.toNat 1 0
  ckVR1 f [.f32, .i32, .n32] false false (op == 0 && tyFloat f.ty) (op == 0) ++ inR (op ≤ 2) ++
  zeroF [fld f.ctl.toNat 14 2]
def ckVkey (f : VR) : List ScanReason :=
  ckVR1 f (tyF ++ [.i32, .i16]) false false false false ++ zeroF [fld f.ctl.toNat 14 1]
def ckVhist (f : VR) : List ScanReason :=
  let sh := fld f.ctl.toNat 4 0
  let bits := fld f.ctl.toNat 7 5
  ckVR1 f [.n32, .n16] false false false true ++
  inR (1 ≤ bits && bits ≤ 6 && sh + bits ≤ tyWidth f.ty) ++ zeroF [fld f.ctl.toNat 14 9]
def ckVperm (f : VR) : List ScanReason :=
  ckVR1 f tyW true (f.ctl.toNat.testBit 0) false false ++ zeroF [fld f.ctl.toNat 14 1]
def ckVbcst (f : VI) : List ScanReason := tyIn f.ty tyB ++ vV [f.vd] ++ zeroF [f.va.val]
/-- VMOVS (R151). -/
def ckVmovs (f : VI) : List ScanReason :=
  let m := f.imm.toNat
  tyIn f.ty tyB ++ zeroF [f.km.val, fld m 14 9] ++ inR (fld m 8 0 < 2048 / tyWidth f.ty) ++
  (if m.testBit 15 then zeroF [f.vd.val] ++ vV [f.va] else zeroF [f.va.val] ++ vV [f.vd])
def ckVrot (f : VI) : List ScanReason := tyIn f.ty tyB ++ vV [f.vd, f.va]
def ckVload (f : VM) : List ScanReason := tyIn f.ty tyM ++ vV [f.vd] ++ zeroF [f.va.val]
def ckVstore (f : VM) : List ScanReason := tyIn f.ty tyM ++ vV [f.va] ++ zeroF [f.vd.val]
def ckVglda (f : VM) : List ScanReason := tyIn f.ty [.f32, .i32, .n32] ++ vV [f.vd, f.va]
def ckVmovq (f : VQ) : List ScanReason := tyIn f.ty tyM ++ vV [f.vd]

/-- Operand pairs of the array and the dot engine (R176). -/
def mPair (a b : Ty) : Bool :=
  let fl : List Ty := [.e4m3, .e5m2, .e2m1]
  let it : List Ty := [.i8, .n8, .i4, .n4]
  (fl.contains a && fl.contains b) || (it.contains a && it.contains b) || (a == .bf16 && b == .bf16) ||
  (a == .f16 && b == .f16)
def ckMma (f : MX) : List ScanReason := tyR (mPair f.tya f.tyb) ++ zeroF [f.va.val, f.h.val]
def ckMmav (f : MX) : List ScanReason := tyR (mPair f.tya f.tyb) ++ zeroF [f.sa.val, f.h.val] ++ vM [f.va]
def ckMconv (f : MX) : List ScanReason := tyR (mPair f.tya f.tyb && f.tya != .e2m1) ++ zeroF [f.va.val]
/-- Engine words of R173 by sel. -/
def selNumbers : List Nat := [0, 1, 2, 3, 4, 5, 6, 0x10, 0x11, 0x12]
/-- Type, rounding and saturation of format MS unused. -/
def ckMSz (f : MS) : List ScanReason := zeroF [tyCode f.ty, rndCode f.rnd, b2n f.sat]
def ckMdrain (f : MS) : List ScanReason :=
  tyIn f.ty [.f32, .f16, .bf16, .e4m3, .e5m2] ++ zeroF [rndCode f.rnd, b2n f.sat, f.h.val] ++
  (if f.sel.toNat.testBit 7 then zeroF [f.sa.val] ++ inR (fld f.sel.toNat 6 6 == 0 && 32 ≤ fld f.sel.toNat 5 0)
   else [])
def ckDot (f : MD) : List ScanReason := tyR (mPair f.tya f.tyb) ++ vM [f.vd, f.va]

/-- A charged barrier is named only with its flag (R265). -/
def ckTb (f : ER) : List ScanReason := zeroF [if erFl f 19 19 = 1 then 0 else f.tb]
/-- A semaphore to deliver to is named only with its flag (R307, R360). -/
def ckSemF (f : ER) : List ScanReason := zeroF [if erFl f 19 19 = 1 then 0 else f.imm.toNat]
/-- The two-form counter instructions (R351). -/
def ckTwo (f : EC) : List ScanReason := inR (f.sa.val == 0 || f.imm.toNat == 0)
def ckKv (f : ER) : List ScanReason := zeroF [f.q.val, f.tb.val, erFl f 19 9]

/-- Why the scanner refuses an instruction on its own 64 bits; nothing for a whole step of the device. -/
def operandChecks : Instr → List ScanReason
  | .j f => zeroF [f.sa.val, f.sd.val]
  | .jr f => zeroF [f.sd.val]
  | .call f => zeroF [f.sa.val]
  | .ret f => zeroF [f.sd.val, f.target.toNat]
  | .loop f => inR (f.level.val ≤ 5) ++ inR (f.sa.val == 0 || f.trip.toNat == 0) ++ pairR f.pair
  | .lbrk f => inR (f.level.val ≤ 5) ++ zeroF [f.lenM1.toNat, f.sa.val, f.sd.val, f.sb.val, f.pair.val, f.trip.toNat]
  | .suspend f => ckSuspend f
  | .yield f => ckYield f
  | .trap f => ckTrap f
  | .brk f => ckTrap f
  | .sysr f => zeroF [f.sa.val, scopeCode f.scope, f.imm.toNat] ++ inR (sysNumbers.contains f.sys.toNat)
  | .sysw f => zeroF [f.sd.val, scopeCode f.scope, f.imm.toNat] ++ inR (sysNumbers.contains f.sys.toNat)
  | .icinv f => zeroF [f.sd.val, f.sa.val, f.sys.toNat, f.imm.toNat]
  | .tick f => zeroF [f.sa.val, f.sys.toNat, scopeCode f.scope, f.imm.toNat]
  | .idle f => zeroF [f.sd.val, f.sa.val, f.sys.toNat, scopeCode f.scope] ++ inR (f.imm.toNat != 0)
  | .add f | .sub f | .mul f | .and f | .or f | .xor f | .andn f | .shl f | .shr f | .sar f => ckSR tyAlu f
  | .mulh f | .min f | .max f => ckSR [.none, .i32] f
  | .mulhn f | .minn f | .maxn f => ckSR [.none, .n32] f
  | .div f | .rem f => ckSR tyDiv f
  | .clz f | .ctz f | .popc f => ckSR1 [.none, .n32] f
  | .sext f => ckSR1 [.i8, .i16, .i32] f
  | .zext f => ckSR1 [.n8, .n16, .n32] f
  | .sel f => ckSel f
  | .addi f | .andi f | .ori f | .xori f => tyIn f.ty tyAlu
  | .shli f | .shri f | .sari f => ckShI f
  | .cmp f => ckCmp f
  | .cmpi f => ckCmpi f
  | .pand f | .por f | .pxor f => ckSP f
  | .pset f => ckPset f
  | .lda f | .sta f | .ldw f => tyIn f.ty tyMem
  | .ldc f | .stc f => tyIn f.ty tyAcc
  | .vadd f | .vsub f | .vmul f => ckVR0 f tyF true false true true
  | .vfma f | .vfms f => ckVR0 f tyF true true true true
  | .vexp2 f | .vlog2 f | .vrcp f | .vrsq f => ckVR0 f tyF false false true true
  | .vmin f | .vmax f => ckVR0 f tyF true false false false
  | .vabs f | .vneg f => ckVR0 f tyF false false false false
  | .viadd f | .visub f | .vimul f => ckVR0 f tyI true false false true
  | .vand f | .vor f | .vxor f | .vshl f | .vshr f | .vsar f => ckVR0 f [.n32, .n16] true false false false
  | .vcmp f => ckVcmp f tyF
  | .vicmp f => ckVcmp f tyI
  | .vsel f => ckVR0 f tyW true false false false
  | .vperm f => ckVperm f
  | .vcvt f => ckVcvt f
  | .vpack f => ckVpack f
  | .vunpk f => ckVunpk f
  | .vbscl f => ckVbscl f
  | .vrsum f => ckVrsum f
  | .vrmax f | .vrmin f => ckVR0 f (tyF ++ tyI) false false false false
  | .vscan f => ckVscan f
  | .vkey f => ckVkey f
  | .vhist f => ckVhist f
  | .vbcst f => ckVbcst f
  | .vmovs f => ckVmovs f
  | .vrot f => ckVrot f
  | .vlda f | .vldc f => ckVload f
  | .vsta f | .vstc f => ckVstore f
  | .vglda f => ckVglda f
  | .vmovq f => ckVmovq f
  | .kand f | .kor f => zeroF [f.sd.val]
  | .knot f => zeroF [f.kb.val, f.sd.val]
  | .kset f => zeroF [f.ka.val, f.kb.val]
  | .kpop f => zeroF [f.kd.val]
  | .mlat f | .mlata f => zeroF [f.q.val, tyCode f.ty]
  | .mlatq f => zeroF [f.sa.val, f.imm.toNat, tyCode f.ty]
  | .mma f => ckMma f
  | .mmav f => ckMmav f
  | .mconv f => ckMconv f
  | .mshape f => zeroF [f.sb.val, f.sel.toNat] ++ ckMSz f
  | .mpad f => zeroF [f.sb.val] ++ ckMSz f ++ inR (f.sel.toNat ≤ 1)
  | .mset f => zeroF [f.h.val, f.sb.val] ++ ckMSz f ++ inR (selNumbers.contains f.sel.toNat)
  | .mzero f => zeroF [f.h.val, f.sa.val] ++ ckMSz f
  | .mdrain f => ckMdrain f
  | .dot f | .dotacc f => ckDot f
  | .cpy f => zeroF [f.sb.val, erFl f 17 8, f.imm.toNat, if erFl f 18 18 = 1 then 0 else f.q] ++ ckTb f
  | .sbind f => zeroF [f.sd.val, f.sb.val, f.sc.val, f.ch.val, f.tb.val, erFl f 19 14] ++
      inR (1 ≤ erFl f 13 8 && 1 ≤ f.imm.toNat && f.imm.toNat ≤ 63)
  | .srel f => zeroF [f.sd.val, f.sa.val, f.sb.val, f.sc.val, f.ch.val, f.tb.val, f.flags.toNat, f.imm.toNat]
  | .gath f => zeroF [erFl f 17 8, f.imm.toNat] ++ ckTb f ++ inR (erFl f 18 18 == 1)
  | .gidx f => zeroF [f.sd.val, f.sb.val, f.sc.val, f.tb.val, f.q.val, f.flags.toNat, f.imm.toNat]
  | .qapp f => zeroF [f.tb.val, f.q.val, f.imm.toNat, erFl f 19 14, erFl f 10 8] ++ inR (erFl f 13 11 ≤ 5)
  | .atom f => zeroF [f.tb.val, f.q.val, f.imm.toNat, erFl f 10 8] ++ inR (erFl f 13 11 ≤ 5 && erFl f 19 16 ≤ 7)
  | .fence f => zeroF [f.sd.val, f.sa.val, f.sb.val, f.sc.val, f.ch.val, f.tb.val, f.q.val, f.imm.toNat,
        erFl f 17 14, erFl f 10 8] ++ inR (erFl f 13 11 ≤ 5 && erFl f 19 18 != 0)
  | .sfence f => zeroF [f.sd.val, f.sa.val, f.sb.val, f.sc.val, f.ch.val, f.tb.val, f.q.val, f.imm.toNat,
        erFl f 19 14, erFl f 10 8] ++ inR (erFl f 13 11 ≤ 5)
  | .semset f | .semadd f => zeroF [f.tb.val, f.ch.val, f.sd.val, f.sb.val, condCode f.cond] ++ ckTwo f
  | .semwt f => zeroF [f.tb.val, f.ch.val, f.sa.val, f.sb.val]
  | .tbarm f | .tbexp f => zeroF [f.f.toNat, f.ch.val, f.sd.val, f.sb.val, condCode f.cond] ++ ckTwo f
  | .tbwait f => zeroF [f.f.toNat, f.ch.val, f.sa.val, f.sb.val, condCode f.cond] ++ inR (f.imm.toNat ≤ 1)
  | .xidrd f => zeroF [f.f.toNat, f.tb.val, f.sa.val, f.sb.val, condCode f.cond] ++ inR (f.imm.toNat ≤ 1)
  | .xidwt f => zeroF [f.f.toNat, f.tb.val, f.sd.val, f.sb.val, condCode f.cond, f.imm.toNat]
  | .sigadd f => zeroF [f.f.toNat, f.tb.val, condCode f.cond, f.imm.toNat]
  | .sigwt f => zeroF [f.f.toNat, f.tb.val, f.imm.toNat]
  | .bmset f => zeroF [f.f.toNat, f.tb.val, f.ch.val, f.sd.val, f.sb.val, condCode f.cond, f.imm.toNat]
  | .bmwait f => zeroF [f.f.toNat, f.tb.val, f.ch.val, condCode f.cond, f.imm.toNat]
  | .larm f => zeroF [f.sd.val, f.sb.val, f.ch.val, f.tb.val, f.q.val, erFl f 18 8] ++ ckSemF f
  | .lpatch f => zeroF [f.sd.val, f.ch.val, f.tb.val, f.q.val, erFl f 18 18, erFl f 15 8] ++ ckSemF f
  | .cancel f => zeroF [f.sd.val, f.sb.val, f.ch.val, f.tb.val, f.q.val, erFl f 14 8] ++ ckSemF f ++
      inR (erFl f 17 15 ≤ 4)
  | .kvref f => zeroF [f.sb.val, f.q.val, f.imm.toNat, erFl f 18 8] ++ ckTb f
  | .kvapp f => ckKv f ++ inR (f.imm.toNat ≤ 15)
  | .kvrej f | .gzjoin f | .gzfind f => ckKv f ++ zeroF [erFl f 8 8, f.imm.toNat]
  | .kvcommit f | .kvfree f => ckKv f ++ zeroF [erFl f 8 8, f.imm.toNat, f.sb.val]
  | .gzclaim f => ckKv f ++ zeroF [f.imm.toNat]
  | .seal f | .unseal f => zeroF [f.sc.val, f.tb.val, f.q.val, f.flags.toNat]
  | .errinj f => zeroF [f.sd.val, f.ch.val, f.tb.val, f.q.val, f.imm.toNat, erFl f 14 8] ++ inR (erFl f 19 16 ≤ 4)
  | _ => []

/-- Opcodes first defined by IRX-3 (R72). -/
def isIrx3 : Instr → Bool
  | .bsel _ | .vkey _ | .vhist _ | .vglda _ | .mlatq _ | .mconv _ | .dotacc _ | .gath _ | .gidx _ | .tbarm _
  | .tbexp _ | .tbwait _ | .bmset _ | .bmwait _ | .kvref _ | .kvapp _ | .kvrej _ | .kvcommit _ | .kvfree _
  | .gzclaim _ | .gzjoin _ | .gzfind _ | .seal _ | .unseal _ => true
  | _ => false

end Sys2Proof.Machine
end

