-- ==== Sys2Proof/WellFormed.lean ====
section
/-! DEFINITION. Well-formed instructions: those that the scanner does not refuse for their own slot's 64 bits (R75).
The whole steps of the device have no encoding and are all well-formed. -/
namespace Sys2Proof

/-- The scanner refuses nothing about the instruction itself (R70, R71, R75). -/
def Instr.WellFormed (i : Instr) : Prop := Machine.operandChecks i = []

end Sys2Proof
end

