-- ==== Sys2Proof/Decode.lean ====
section
/-! DEFINITION. Decoding: the five slots of a 384-bit bundle (R64, R69, R70, R72) and what the scanner refuses in
them (R75), total on any bits; then the encoder, written from the same tables. -/
namespace Sys2Proof
open Machine

/-- Joins fields written from the most significant down. -/
def packFields : List Nat → List Nat → Nat
  | _ :: ws, v :: vs => v * 2 ^ ws.sum + packFields ws vs
  | _, _ => 0

/-- Takes fields of the given widths apart, the most significant first. -/
def unpackFields : List Nat → Nat → List Nat
  | [], _ => []
  | _ :: ws, x => x / 2 ^ ws.sum :: unpackFields ws (x % 2 ^ ws.sum)

/-- What a slot holds: an instruction, and why the scanner refuses it. -/
abbrev Slot := Option Instr × List ScanReason

/-- A type code; a reserved code, which is refused with TYPE, stands as a non-zero code. -/
def tyFall (n : Nat) : Ty := match tyOf n with | some t => t | none => .e2m1
/-- A condition code; a reserved code, which is refused with RANGE, stands as a non-zero code. -/
def condFall (n : Nat) : Cond := match condOf n with | some c => c | none => .ge
/-- A scope code; a reserved code, which is refused with RANGE, stands as a non-zero code. -/
def scopeFall (n : Nat) : Scope := match scopeOf n with | some c => c | none => .system

/-- Format CJ (R70): field widths from bit 63 down. -/
def wCJ : List Nat := [8, 6, 6, 20, 24]
def packCJ (op : Nat) (f : CJ) : Nat :=
  packFields wCJ [op, f.sa.val, f.sd.val, 0, f.target.toNat]
def readCJ (mk : CJ → Instr) (w : Nat) : Slot :=
  match unpackFields wCJ w with
  | [_o, sa0, sd0, z0, target0] =>
    (some (mk ⟨Fin.ofNat 64 sa0, Fin.ofNat 64 sd0, BitVec.ofNat 24 target0⟩), zeroF [z0])
  | _ => (none, [])
/-- Format CL (R70): field widths from bit 63 down. -/
def wCL : List Nat := [8, 3, 8, 6, 6, 6, 4, 1, 22]
def packCL (op : Nat) (f : CL) : Nat :=
  packFields wCL [op, f.level.val, f.lenM1.toNat, f.sa.val, f.sd.val, f.sb.val, f.pair.val, 0, f.trip.toNat]
def readCL (mk : CL → Instr) (w : Nat) : Slot :=
  match unpackFields wCL w with
  | [_o, level0, lenM10, sa0, sd0, sb0, pair0, z0, trip0] =>
    (some (mk ⟨Fin.ofNat 8 level0, BitVec.ofNat 8 lenM10, Fin.ofNat 64 sa0, Fin.ofNat 64 sd0, Fin.ofNat 64 sb0, Fin.ofNat 16 pair0, BitVec.ofNat 22 trip0⟩), zeroF [z0])
  | _ => (none, [])
/-- Format CB (R70): field widths from bit 63 down. -/
def wCB : List Nat := [8, 6, 6, 6, 38]
def packCB (op : Nat) (f : CB) : Nat :=
  packFields wCB [op, f.sd.val, f.sa.val, f.sb.val, 0]
def readCB (mk : CB → Instr) (w : Nat) : Slot :=
  match unpackFields wCB w with
  | [_o, sd0, sa0, sb0, z0] =>
    (some (mk ⟨Fin.ofNat 64 sd0, Fin.ofNat 64 sa0, Fin.ofNat 64 sb0⟩), zeroF [z0])
  | _ => (none, [])
/-- Format CS (R70): field widths from bit 63 down. -/
def wCS : List Nat := [8, 4, 20, 30, 1, 1]
def packCS (op : Nat) (f : CS) : Nat :=
  packFields wCS [op, f.waitKind.val, f.waitOperand.toNat, f.live.toNat, b2n f.done, 0]
def readCS (mk : CS → Instr) (w : Nat) : Slot :=
  match unpackFields wCS w with
  | [_o, waitKind0, waitOperand0, live0, done0, z0] =>
    (some (mk ⟨Fin.ofNat 16 waitKind0, BitVec.ofNat 20 waitOperand0, BitVec.ofNat 30 live0, done0 == 1⟩), zeroF [z0])
  | _ => (none, [])
/-- Format CY (R70): field widths from bit 63 down. -/
def wCY : List Nat := [8, 6, 6, 12, 3, 13, 16]
def packCY (op : Nat) (f : CY) : Nat :=
  packFields wCY [op, f.sd.val, f.sa.val, f.sys.toNat, scopeCode f.scope, 0, f.imm.toNat]
def readCY (mk : CY → Instr) (w : Nat) : Slot :=
  match unpackFields wCY w with
  | [_o, sd0, sa0, sys0, scope0, z0, imm0] =>
    (some (mk ⟨Fin.ofNat 64 sd0, Fin.ofNat 64 sa0, BitVec.ofNat 12 sys0, scopeFall scope0, BitVec.ofNat 16 imm0⟩), inR (scope0 ≤ 5) ++ zeroF [z0])
  | _ => (none, [])
/-- Format L (R70): field widths from bit 63 down. -/
def wLF : List Nat := [8, 1, 55]
def packLF (op : Nat) (f : LF) : Nat :=
  packFields wLF [op, b2n f.dir, 0]
def readLF (mk : LF → Instr) (w : Nat) : Slot :=
  match unpackFields wLF w with
  | [_o, dir0, z0] =>
    (some (mk ⟨dir0 == 1⟩), zeroF [z0])
  | _ => (none, [])
/-- Format SR (R70): field widths from bit 63 down. -/
def wSR : List Nat := [8, 6, 6, 6, 5, 5, 28]
def packSR (op : Nat) (f : SR) : Nat :=
  packFields wSR [op, f.sd.val, f.sa.val, f.sb.val, tyCode f.ty, f.pa.val, 0]
def readSR (mk : SR → Instr) (w : Nat) : Slot :=
  match unpackFields wSR w with
  | [_o, sd0, sa0, sb0, ty0, pa0, z0] =>
    (some (mk ⟨Fin.ofNat 64 sd0, Fin.ofNat 64 sa0, Fin.ofNat 64 sb0, tyFall ty0, Fin.ofNat 32 pa0⟩), tyR (ty0 ≤ 16) ++ zeroF [z0])
  | _ => (none, [])
/-- Format SI (R70): field widths from bit 63 down. -/
def wSI : List Nat := [8, 6, 6, 5, 7, 32]
def packSI (op : Nat) (f : SI) : Nat :=
  packFields wSI [op, f.sd.val, f.sa.val, tyCode f.ty, 0, f.imm.toNat]
def readSI (mk : SI → Instr) (w : Nat) : Slot :=
  match unpackFields wSI w with
  | [_o, sd0, sa0, ty0, z0, imm0] =>
    (some (mk ⟨Fin.ofNat 64 sd0, Fin.ofNat 64 sa0, tyFall ty0, BitVec.ofNat 32 imm0⟩), tyR (ty0 ≤ 16) ++ zeroF [z0])
  | _ => (none, [])
/-- Format SX (R70): field widths from bit 63 down. -/
def wSX : List Nat := [8, 6, 6, 6, 6, 32]
def packSX (op : Nat) (f : SX) : Nat :=
  packFields wSX [op, f.sd.val, f.sa.val, f.sb.val, f.sh.val, f.imm.toNat]
def readSX (mk : SX → Instr) (w : Nat) : Slot :=
  match unpackFields wSX w with
  | [_o, sd0, sa0, sb0, sh0, imm0] =>
    (some (mk ⟨Fin.ofNat 64 sd0, Fin.ofNat 64 sa0, Fin.ofNat 64 sb0, Fin.ofNat 64 sh0, BitVec.ofNat 32 imm0⟩), [])
  | _ => (none, [])
/-- Format SL (R70): field widths from bit 63 down. -/
def wSL : List Nat := [8, 6, 2, 48]
def packSL (op : Nat) (f : SL) : Nat :=
  packFields wSL [op, f.sd.val, 0, f.imm.toNat]
def readSL (mk : SL → Instr) (w : Nat) : Slot :=
  match unpackFields wSL w with
  | [_o, sd0, z0, imm0] =>
    (some (mk ⟨Fin.ofNat 64 sd0, BitVec.ofNat 48 imm0⟩), zeroF [z0])
  | _ => (none, [])
/-- Format SC (R70): field widths from bit 63 down. -/
def wSC : List Nat := [8, 4, 6, 5, 3, 6, 32]
def packSC (op : Nat) (f : SC) : Nat :=
  packFields wSC [op, f.pair.val, f.sa.val, tyCode f.ty, condCode f.cond, f.sb.val, f.imm.toNat]
def readSC (mk : SC → Instr) (w : Nat) : Slot :=
  match unpackFields wSC w with
  | [_o, pair0, sa0, ty0, cond0, sb0, imm0] =>
    (some (mk ⟨Fin.ofNat 16 pair0, Fin.ofNat 64 sa0, tyFall ty0, condFall cond0, Fin.ofNat 64 sb0, BitVec.ofNat 32 imm0⟩), tyR (ty0 ≤ 16) ++ inR (cond0 ≤ 5))
  | _ => (none, [])
/-- Format SP (R70): field widths from bit 63 down. -/
def wSP : List Nat := [8, 4, 5, 5, 1, 1, 1, 39]
def packSP (op : Nat) (f : SP) : Nat :=
  packFields wSP [op, f.pair.val, f.pa.val, f.pb.val, b2n f.na, b2n f.nb, b2n f.val, 0]
def readSP (mk : SP → Instr) (w : Nat) : Slot :=
  match unpackFields wSP w with
  | [_o, pair0, pa0, pb0, na0, nb0, val0, z0] =>
    (some (mk ⟨Fin.ofNat 16 pair0, Fin.ofNat 32 pa0, Fin.ofNat 32 pb0, na0 == 1, nb0 == 1, val0 == 1⟩), zeroF [z0])
  | _ => (none, [])
/-- Format VR (R70): field widths from bit 63 down. -/
def wVR : List Nat := [8, 6, 6, 6, 6, 5, 4, 2, 1, 5, 15]
def packVR (op : Nat) (f : VR) : Nat :=
  packFields wVR [op, f.vd.val, f.va.val, f.vb.val, f.vc.val, tyCode f.ty, f.km.val, rndCode f.rnd, b2n f.sat, tyCode f.ty2, f.ctl.toNat]
def readVR (mk : VR → Instr) (w : Nat) : Slot :=
  match unpackFields wVR w with
  | [_o, vd0, va0, vb0, vc0, ty0, km0, rnd0, sat0, ty20, ctl0] =>
    (some (mk ⟨Fin.ofNat 64 vd0, Fin.ofNat 64 va0, Fin.ofNat 64 vb0, Fin.ofNat 64 vc0, tyFall ty0, Fin.ofNat 16 km0, rndOf rnd0, sat0 == 1, tyFall ty20, BitVec.ofNat 15 ctl0⟩), tyR (ty0 ≤ 16) ++ tyR (ty20 ≤ 16))
  | _ => (none, [])
/-- Format VI (R70): field widths from bit 63 down. -/
def wVI : List Nat := [8, 6, 6, 6, 5, 4, 13, 16]
def packVI (op : Nat) (f : VI) : Nat :=
  packFields wVI [op, f.vd.val, f.va.val, f.sa.val, tyCode f.ty, f.km.val, 0, f.imm.toNat]
def readVI (mk : VI → Instr) (w : Nat) : Slot :=
  match unpackFields wVI w with
  | [_o, vd0, va0, sa0, ty0, km0, z0, imm0] =>
    (some (mk ⟨Fin.ofNat 64 vd0, Fin.ofNat 64 va0, Fin.ofNat 64 sa0, tyFall ty0, Fin.ofNat 16 km0, BitVec.ofNat 16 imm0⟩), tyR (ty0 ≤ 16) ++ zeroF [z0])
  | _ => (none, [])
/-- Format VM (R70): field widths from bit 63 down. -/
def wVM : List Nat := [8, 6, 6, 6, 5, 4, 5, 24]
def packVM (op : Nat) (f : VM) : Nat :=
  packFields wVM [op, f.vd.val, f.sa.val, f.va.val, tyCode f.ty, f.km.val, 0, f.off.toNat]
def readVM (mk : VM → Instr) (w : Nat) : Slot :=
  match unpackFields wVM w with
  | [_o, vd0, sa0, va0, ty0, km0, z0, off0] =>
    (some (mk ⟨Fin.ofNat 64 vd0, Fin.ofNat 64 sa0, Fin.ofNat 64 va0, tyFall ty0, Fin.ofNat 16 km0, BitVec.ofNat 24 off0⟩), tyR (ty0 ≤ 16) ++ zeroF [z0])
  | _ => (none, [])
/-- Format VQ (R70): field widths from bit 63 down. -/
def wVQ : List Nat := [8, 6, 4, 5, 4, 37]
def packVQ (op : Nat) (f : VQ) : Nat :=
  packFields wVQ [op, f.vd.val, f.q.val, tyCode f.ty, f.km.val, 0]
def readVQ (mk : VQ → Instr) (w : Nat) : Slot :=
  match unpackFields wVQ w with
  | [_o, vd0, q0, ty0, km0, z0] =>
    (some (mk ⟨Fin.ofNat 64 vd0, Fin.ofNat 16 q0, tyFall ty0, Fin.ofNat 16 km0⟩), tyR (ty0 ≤ 16) ++ zeroF [z0])
  | _ => (none, [])
/-- Format VK (R70): field widths from bit 63 down. -/
def wVK : List Nat := [8, 4, 4, 4, 6, 38]
def packVK (op : Nat) (f : VK) : Nat :=
  packFields wVK [op, f.kd.val, f.ka.val, f.kb.val, f.sd.val, 0]
def readVK (mk : VK → Instr) (w : Nat) : Slot :=
  match unpackFields wVK w with
  | [_o, kd0, ka0, kb0, sd0, z0] =>
    (some (mk ⟨Fin.ofNat 16 kd0, Fin.ofNat 16 ka0, Fin.ofNat 16 kb0, Fin.ofNat 64 sd0⟩), zeroF [z0])
  | _ => (none, [])
/-- Format ML (R70): field widths from bit 63 down. -/
def wML : List Nat := [8, 3, 6, 4, 5, 6, 32]
def packML (op : Nat) (f : ML) : Nat :=
  packFields wML [op, f.w.val, f.sa.val, f.q.val, tyCode f.ty, 0, f.imm.toNat]
def readML (mk : ML → Instr) (w : Nat) : Slot :=
  match unpackFields wML w with
  | [_o, w0, sa0, q0, ty0, z0, imm0] =>
    (some (mk ⟨Fin.ofNat 8 w0, Fin.ofNat 64 sa0, Fin.ofNat 16 q0, tyFall ty0, BitVec.ofNat 32 imm0⟩), tyR (ty0 ≤ 16) ++ zeroF [z0])
  | _ => (none, [])
/-- Format MX (R70): field widths from bit 63 down. -/
def wMX : List Nat := [8, 3, 6, 6, 5, 5, 1, 3, 27]
def packMX (op : Nat) (f : MX) : Nat :=
  packFields wMX [op, f.w.val, f.sa.val, f.va.val, tyCode f.tya, tyCode f.tyb, b2n f.acc, f.h.val, 0]
def readMX (mk : MX → Instr) (w : Nat) : Slot :=
  match unpackFields wMX w with
  | [_o, w0, sa0, va0, tya0, tyb0, acc0, h0, z0] =>
    (some (mk ⟨Fin.ofNat 8 w0, Fin.ofNat 64 sa0, Fin.ofNat 64 va0, tyFall tya0, tyFall tyb0, acc0 == 1, Fin.ofNat 8 h0⟩), tyR (tya0 ≤ 16) ++ tyR (tyb0 ≤ 16) ++ zeroF [z0])
  | _ => (none, [])
/-- Format MS (R70): field widths from bit 63 down. -/
def wMS : List Nat := [8, 3, 6, 6, 8, 5, 2, 1, 25]
def packMS (op : Nat) (f : MS) : Nat :=
  packFields wMS [op, f.h.val, f.sa.val, f.sb.val, f.sel.toNat, tyCode f.ty, rndCode f.rnd, b2n f.sat, 0]
def readMS (mk : MS → Instr) (w : Nat) : Slot :=
  match unpackFields wMS w with
  | [_o, h0, sa0, sb0, sel0, ty0, rnd0, sat0, z0] =>
    (some (mk ⟨Fin.ofNat 8 h0, Fin.ofNat 64 sa0, Fin.ofNat 64 sb0, BitVec.ofNat 8 sel0, tyFall ty0, rndOf rnd0, sat0 == 1⟩), tyR (ty0 ≤ 16) ++ zeroF [z0])
  | _ => (none, [])
/-- Format MD (R70): field widths from bit 63 down. -/
def wMD : List Nat := [8, 6, 6, 6, 5, 5, 28]
def packMD (op : Nat) (f : MD) : Nat :=
  packFields wMD [op, f.vd.val, f.va.val, f.sa.val, tyCode f.tya, tyCode f.tyb, 0]
def readMD (mk : MD → Instr) (w : Nat) : Slot :=
  match unpackFields wMD w with
  | [_o, vd0, va0, sa0, tya0, tyb0, z0] =>
    (some (mk ⟨Fin.ofNat 64 vd0, Fin.ofNat 64 va0, Fin.ofNat 64 sa0, tyFall tya0, tyFall tyb0⟩), tyR (tya0 ≤ 16) ++ tyR (tyb0 ≤ 16) ++ zeroF [z0])
  | _ => (none, [])
/-- Format ER (R70): field widths from bit 63 down. -/
def wER : List Nat := [8, 6, 6, 6, 6, 3, 5, 4, 12, 8]
def packER (op : Nat) (f : ER) : Nat :=
  packFields wER [op, f.sd.val, f.sa.val, f.sb.val, f.sc.val, f.ch.val, f.tb.val, f.q.val, f.flags.toNat, f.imm.toNat]
def readER (mk : ER → Instr) (w : Nat) : Slot :=
  match unpackFields wER w with
  | [_o, sd0, sa0, sb0, sc0, ch0, tb0, q0, flags0, imm0] =>
    (some (mk ⟨Fin.ofNat 64 sd0, Fin.ofNat 64 sa0, Fin.ofNat 64 sb0, Fin.ofNat 64 sc0, Fin.ofNat 8 ch0, Fin.ofNat 32 tb0, Fin.ofNat 16 q0, BitVec.ofNat 12 flags0, BitVec.ofNat 8 imm0⟩), [])
  | _ => (none, [])
/-- Format EC (R70): field widths from bit 63 down. -/
def wEC : List Nat := [8, 8, 5, 3, 6, 6, 6, 3, 3, 16]
def packEC (op : Nat) (f : EC) : Nat :=
  packFields wEC [op, f.f.toNat, f.tb.val, f.ch.val, f.sd.val, f.sa.val, f.sb.val, condCode f.cond, 0, f.imm.toNat]
def readEC (mk : EC → Instr) (w : Nat) : Slot :=
  match unpackFields wEC w with
  | [_o, f0, tb0, ch0, sd0, sa0, sb0, cond0, z0, imm0] =>
    (some (mk ⟨BitVec.ofNat 8 f0, Fin.ofNat 32 tb0, Fin.ofNat 8 ch0, Fin.ofNat 64 sd0, Fin.ofNat 64 sa0, Fin.ofNat 64 sb0, condFall cond0, BitVec.ofNat 16 imm0⟩), inR (cond0 ≤ 5) ++ zeroF [z0])
  | _ => (none, [])
/-- The opcodes of slot C (R72). -/
def scanC (w : Nat) : Slot :=
  match w / 2 ^ 56 with
  | 0x01 => readCJ .j w
  | 0x02 => readCJ .jr w
  | 0x03 => readCJ .call w
  | 0x04 => readCJ .ret w
  | 0x08 => readCL .loop w
  | 0x09 => readCL .lbrk w
  | 0x0A => readCB .bsel w
  | 0x0B => readLF .lendC w
  | 0x10 => readCS .suspend w
  | 0x11 => readCS .yield w
  | 0x18 => readCY .trap w
  | 0x19 => readCY .brk w
  | 0x1A => readCY .sysr w
  | 0x1B => readCY .sysw w
  | 0x1C => readCY .icinv w
  | 0x1D => readCY .tick w
  | 0x1E => readCY .idle w
  | _ => (none, [.opcode])
/-- The opcodes of slot S (R72). -/
def scanS (w : Nat) : Slot :=
  match w / 2 ^ 56 with
  | 0x01 => readSR .add w
  | 0x02 => readSR .sub w
  | 0x03 => readSR .mul w
  | 0x04 => readSR .mulh w
  | 0x05 => readSR .mulhn w
  | 0x06 => readSR .div w
  | 0x07 => readSR .rem w
  | 0x08 => readSR .and w
  | 0x09 => readSR .or w
  | 0x0A => readSR .xor w
  | 0x0B => readSR .andn w
  | 0x0C => readSR .shl w
  | 0x0D => readSR .shr w
  | 0x0E => readSR .sar w
  | 0x0F => readSR .min w
  | 0x10 => readSR .max w
  | 0x11 => readSR .minn w
  | 0x12 => readSR .maxn w
  | 0x13 => readSR .clz w
  | 0x14 => readSR .ctz w
  | 0x15 => readSR .popc w
  | 0x16 => readSR .sext w
  | 0x17 => readSR .zext w
  | 0x18 => readSR .sel w
  | 0x19 => readSX .maddr w
  | 0x20 => readSI .addi w
  | 0x21 => readSI .andi w
  | 0x22 => readSI .ori w
  | 0x23 => readSI .xori w
  | 0x24 => readSI .shli w
  | 0x25 => readSI .shri w
  | 0x26 => readSI .sari w
  | 0x30 => readSL .li w
  | 0x31 => readSL .lih w
  | 0x38 => readSC .cmp w
  | 0x39 => readSC .cmpi w
  | 0x3C => readSP .pand w
  | 0x3D => readSP .por w
  | 0x3E => readSP .pxor w
  | 0x3F => readSP .pset w
  | 0x40 => readSI .lda w
  | 0x41 => readSI .sta w
  | 0x42 => readSI .ldc w
  | 0x43 => readSI .stc w
  | 0x44 => readSI .ldw w
  | _ => (none, [.opcode])
/-- The opcodes of slot V (R72). -/
def scanV (w : Nat) : Slot :=
  match w / 2 ^ 56 with
  | 0x01 => readVR .vadd w
  | 0x02 => readVR .vsub w
  | 0x03 => readVR .vmul w
  | 0x04 => readVR .vfma w
  | 0x05 => readVR .vfms w
  | 0x06 => readVR .vmin w
  | 0x07 => readVR .vmax w
  | 0x08 => readVR .vabs w
  | 0x09 => readVR .vneg w
  | 0x0A => readVR .vexp2 w
  | 0x0B => readVR .vlog2 w
  | 0x0C => readVR .vrcp w
  | 0x0D => readVR .vrsq w
  | 0x10 => readVR .vcvt w
  | 0x11 => readVR .vpack w
  | 0x12 => readVR .vunpk w
  | 0x13 => readVR .vbscl w
  | 0x18 => readVR .viadd w
  | 0x19 => readVR .visub w
  | 0x1A => readVR .vimul w
  | 0x1B => readVR .vand w
  | 0x1C => readVR .vor w
  | 0x1D => readVR .vxor w
  | 0x1E => readVR .vshl w
  | 0x1F => readVR .vshr w
  | 0x20 => readVR .vsar w
  | 0x28 => readVR .vcmp w
  | 0x29 => readVR .vicmp w
  | 0x2A => readVR .vsel w
  | 0x2B => readVI .vbcst w
  | 0x2C => readVI .vmovs w
  | 0x2D => readVR .vperm w
  | 0x2E => readVI .vrot w
  | 0x30 => readVR .vrsum w
  | 0x31 => readVR .vrmax w
  | 0x32 => readVR .vrmin w
  | 0x33 => readVR .vscan w
  | 0x34 => readVR .vkey w
  | 0x35 => readVR .vhist w
  | 0x40 => readVM .vlda w
  | 0x41 => readVM .vsta w
  | 0x42 => readVM .vldc w
  | 0x43 => readVM .vstc w
  | 0x44 => readVM .vglda w
  | 0x45 => readVQ .vmovq w
  | 0x46 => readLF .lendV w
  | 0x50 => readVK .kand w
  | 0x51 => readVK .kor w
  | 0x52 => readVK .knot w
  | 0x53 => readVK .kset w
  | 0x54 => readVK .kpop w
  | _ => (none, [.opcode])
/-- The opcodes of slot M (R72). -/
def scanM (w : Nat) : Slot :=
  match w / 2 ^ 56 with
  | 0x01 => readML .mlat w
  | 0x02 => readML .mlata w
  | 0x03 => readML .mlatq w
  | 0x08 => readMX .mma w
  | 0x09 => readMX .mmav w
  | 0x0A => readMX .mconv w
  | 0x10 => readMS .mshape w
  | 0x11 => readMS .mpad w
  | 0x12 => readMS .mset w
  | 0x13 => readMS .mzero w
  | 0x14 => readMS .mdrain w
  | 0x18 => readMD .dot w
  | 0x19 => readMD .dotacc w
  | _ => (none, [.opcode])
/-- The opcodes of slot E (R72). -/
def scanE (w : Nat) : Slot :=
  match w / 2 ^ 56 with
  | 0x01 => readER .cpy w
  | 0x02 => readER .sbind w
  | 0x03 => readER .srel w
  | 0x04 => readER .gath w
  | 0x05 => readER .gidx w
  | 0x06 => readER .qapp w
  | 0x07 => readER .atom w
  | 0x08 => readER .fence w
  | 0x09 => readER .sfence w
  | 0x10 => readEC .semset w
  | 0x11 => readEC .semadd w
  | 0x12 => readEC .semwt w
  | 0x13 => readEC .tbarm w
  | 0x14 => readEC .tbexp w
  | 0x15 => readEC .tbwait w
  | 0x16 => readEC .xidrd w
  | 0x17 => readEC .xidwt w
  | 0x18 => readEC .sigadd w
  | 0x19 => readEC .sigwt w
  | 0x20 => readER .larm w
  | 0x21 => readER .lpatch w
  | 0x22 => readER .cancel w
  | 0x23 => readEC .bmset w
  | 0x24 => readEC .bmwait w
  | 0x30 => readER .kvref w
  | 0x31 => readER .kvapp w
  | 0x32 => readER .kvrej w
  | 0x33 => readER .kvcommit w
  | 0x34 => readER .kvfree w
  | 0x35 => readER .gzclaim w
  | 0x36 => readER .gzjoin w
  | 0x37 => readER .gzfind w
  | 0x40 => readER .seal w
  | 0x41 => readER .unseal w
  | 0x42 => readER .errinj w
  | _ => (none, [.opcode])
/-- The 64-bit word of a slot instruction, with its slot (R70, R72); the whole steps of the device have none. -/
def encode : Instr → Option (SlotClass × Nat)
  | .j f => some (.c, packCJ 0x01 f)
  | .jr f => some (.c, packCJ 0x02 f)
  | .call f => some (.c, packCJ 0x03 f)
  | .ret f => some (.c, packCJ 0x04 f)
  | .loop f => some (.c, packCL 0x08 f)
  | .lbrk f => some (.c, packCL 0x09 f)
  | .bsel f => some (.c, packCB 0x0A f)
  | .lendC f => some (.c, packLF 0x0B f)
  | .suspend f => some (.c, packCS 0x10 f)
  | .yield f => some (.c, packCS 0x11 f)
  | .trap f => some (.c, packCY 0x18 f)
  | .brk f => some (.c, packCY 0x19 f)
  | .sysr f => some (.c, packCY 0x1A f)
  | .sysw f => some (.c, packCY 0x1B f)
  | .icinv f => some (.c, packCY 0x1C f)
  | .tick f => some (.c, packCY 0x1D f)
  | .idle f => some (.c, packCY 0x1E f)
  | .add f => some (.s, packSR 0x01 f)
  | .sub f => some (.s, packSR 0x02 f)
  | .mul f => some (.s, packSR 0x03 f)
  | .mulh f => some (.s, packSR 0x04 f)
  | .mulhn f => some (.s, packSR 0x05 f)
  | .div f => some (.s, packSR 0x06 f)
  | .rem f => some (.s, packSR 0x07 f)
  | .and f => some (.s, packSR 0x08 f)
  | .or f => some (.s, packSR 0x09 f)
  | .xor f => some (.s, packSR 0x0A f)
  | .andn f => some (.s, packSR 0x0B f)
  | .shl f => some (.s, packSR 0x0C f)
  | .shr f => some (.s, packSR 0x0D f)
  | .sar f => some (.s, packSR 0x0E f)
  | .min f => some (.s, packSR 0x0F f)
  | .max f => some (.s, packSR 0x10 f)
  | .minn f => some (.s, packSR 0x11 f)
  | .maxn f => some (.s, packSR 0x12 f)
  | .clz f => some (.s, packSR 0x13 f)
  | .ctz f => some (.s, packSR 0x14 f)
  | .popc f => some (.s, packSR 0x15 f)
  | .sext f => some (.s, packSR 0x16 f)
  | .zext f => some (.s, packSR 0x17 f)
  | .sel f => some (.s, packSR 0x18 f)
  | .maddr f => some (.s, packSX 0x19 f)
  | .addi f => some (.s, packSI 0x20 f)
  | .andi f => some (.s, packSI 0x21 f)
  | .ori f => some (.s, packSI 0x22 f)
  | .xori f => some (.s, packSI 0x23 f)
  | .shli f => some (.s, packSI 0x24 f)
  | .shri f => some (.s, packSI 0x25 f)
  | .sari f => some (.s, packSI 0x26 f)
  | .li f => some (.s, packSL 0x30 f)
  | .lih f => some (.s, packSL 0x31 f)
  | .cmp f => some (.s, packSC 0x38 f)
  | .cmpi f => some (.s, packSC 0x39 f)
  | .pand f => some (.s, packSP 0x3C f)
  | .por f => some (.s, packSP 0x3D f)
  | .pxor f => some (.s, packSP 0x3E f)
  | .pset f => some (.s, packSP 0x3F f)
  | .lda f => some (.s, packSI 0x40 f)
  | .sta f => some (.s, packSI 0x41 f)
  | .ldc f => some (.s, packSI 0x42 f)
  | .stc f => some (.s, packSI 0x43 f)
  | .ldw f => some (.s, packSI 0x44 f)
  | .vadd f => some (.v, packVR 0x01 f)
  | .vsub f => some (.v, packVR 0x02 f)
  | .vmul f => some (.v, packVR 0x03 f)
  | .vfma f => some (.v, packVR 0x04 f)
  | .vfms f => some (.v, packVR 0x05 f)
  | .vmin f => some (.v, packVR 0x06 f)
  | .vmax f => some (.v, packVR 0x07 f)
  | .vabs f => some (.v, packVR 0x08 f)
  | .vneg f => some (.v, packVR 0x09 f)
  | .vexp2 f => some (.v, packVR 0x0A f)
  | .vlog2 f => some (.v, packVR 0x0B f)
  | .vrcp f => some (.v, packVR 0x0C f)
  | .vrsq f => some (.v, packVR 0x0D f)
  | .vcvt f => some (.v, packVR 0x10 f)
  | .vpack f => some (.v, packVR 0x11 f)
  | .vunpk f => some (.v, packVR 0x12 f)
  | .vbscl f => some (.v, packVR 0x13 f)
  | .viadd f => some (.v, packVR 0x18 f)
  | .visub f => some (.v, packVR 0x19 f)
  | .vimul f => some (.v, packVR 0x1A f)
  | .vand f => some (.v, packVR 0x1B f)
  | .vor f => some (.v, packVR 0x1C f)
  | .vxor f => some (.v, packVR 0x1D f)
  | .vshl f => some (.v, packVR 0x1E f)
  | .vshr f => some (.v, packVR 0x1F f)
  | .vsar f => some (.v, packVR 0x20 f)
  | .vcmp f => some (.v, packVR 0x28 f)
  | .vicmp f => some (.v, packVR 0x29 f)
  | .vsel f => some (.v, packVR 0x2A f)
  | .vbcst f => some (.v, packVI 0x2B f)
  | .vmovs f => some (.v, packVI 0x2C f)
  | .vperm f => some (.v, packVR 0x2D f)
  | .vrot f => some (.v, packVI 0x2E f)
  | .vrsum f => some (.v, packVR 0x30 f)
  | .vrmax f => some (.v, packVR 0x31 f)
  | .vrmin f => some (.v, packVR 0x32 f)
  | .vscan f => some (.v, packVR 0x33 f)
  | .vkey f => some (.v, packVR 0x34 f)
  | .vhist f => some (.v, packVR 0x35 f)
  | .vlda f => some (.v, packVM 0x40 f)
  | .vsta f => some (.v, packVM 0x41 f)
  | .vldc f => some (.v, packVM 0x42 f)
  | .vstc f => some (.v, packVM 0x43 f)
  | .vglda f => some (.v, packVM 0x44 f)
  | .vmovq f => some (.v, packVQ 0x45 f)
  | .lendV f => some (.v, packLF 0x46 f)
  | .kand f => some (.v, packVK 0x50 f)
  | .kor f => some (.v, packVK 0x51 f)
  | .knot f => some (.v, packVK 0x52 f)
  | .kset f => some (.v, packVK 0x53 f)
  | .kpop f => some (.v, packVK 0x54 f)
  | .mlat f => some (.m, packML 0x01 f)
  | .mlata f => some (.m, packML 0x02 f)
  | .mlatq f => some (.m, packML 0x03 f)
  | .mma f => some (.m, packMX 0x08 f)
  | .mmav f => some (.m, packMX 0x09 f)
  | .mconv f => some (.m, packMX 0x0A f)
  | .mshape f => some (.m, packMS 0x10 f)
  | .mpad f => some (.m, packMS 0x11 f)
  | .mset f => some (.m, packMS 0x12 f)
  | .mzero f => some (.m, packMS 0x13 f)
  | .mdrain f => some (.m, packMS 0x14 f)
  | .dot f => some (.m, packMD 0x18 f)
  | .dotacc f => some (.m, packMD 0x19 f)
  | .cpy f => some (.e, packER 0x01 f)
  | .sbind f => some (.e, packER 0x02 f)
  | .srel f => some (.e, packER 0x03 f)
  | .gath f => some (.e, packER 0x04 f)
  | .gidx f => some (.e, packER 0x05 f)
  | .qapp f => some (.e, packER 0x06 f)
  | .atom f => some (.e, packER 0x07 f)
  | .fence f => some (.e, packER 0x08 f)
  | .sfence f => some (.e, packER 0x09 f)
  | .semset f => some (.e, packEC 0x10 f)
  | .semadd f => some (.e, packEC 0x11 f)
  | .semwt f => some (.e, packEC 0x12 f)
  | .tbarm f => some (.e, packEC 0x13 f)
  | .tbexp f => some (.e, packEC 0x14 f)
  | .tbwait f => some (.e, packEC 0x15 f)
  | .xidrd f => some (.e, packEC 0x16 f)
  | .xidwt f => some (.e, packEC 0x17 f)
  | .sigadd f => some (.e, packEC 0x18 f)
  | .sigwt f => some (.e, packEC 0x19 f)
  | .larm f => some (.e, packER 0x20 f)
  | .lpatch f => some (.e, packER 0x21 f)
  | .cancel f => some (.e, packER 0x22 f)
  | .bmset f => some (.e, packEC 0x23 f)
  | .bmwait f => some (.e, packEC 0x24 f)
  | .kvref f => some (.e, packER 0x30 f)
  | .kvapp f => some (.e, packER 0x31 f)
  | .kvrej f => some (.e, packER 0x32 f)
  | .kvcommit f => some (.e, packER 0x33 f)
  | .kvfree f => some (.e, packER 0x34 f)
  | .gzclaim f => some (.e, packER 0x35 f)
  | .gzjoin f => some (.e, packER 0x36 f)
  | .gzfind f => some (.e, packER 0x37 f)
  | .seal f => some (.e, packER 0x40 f)
  | .unseal f => some (.e, packER 0x41 f)
  | .errinj f => some (.e, packER 0x42 f)
  | _ => none

/-- A slot's 64 bits, with the operand limits of its instruction (R69, R72, R75). -/
def scanSlot (cl : SlotClass) (w : Nat) : Slot :=
  if w = 0 then (none, [])
  else if w / 2 ^ 56 = 0 then (none, [.field])
  else
    let r := match cl with
      | .c => scanC w | .s => scanS w | .v => scanV w | .m => scanM w | .e => scanE w
    match r.1 with
    | some i => (some i, r.2 ++ operandChecks i)
    | none => r

/-- The instruction of a slot, none where it is empty or refused. -/
def decodeSlot (cl : SlotClass) (w : Nat) : Option Instr :=
  match scanSlot cl w with
  | (some i, []) => some i
  | _ => none

/-- A bundle taken apart (R64): sync header, flags, guards, and the five slots' words with what they hold. -/
structure Bundle where
  waitIndex : Nat
  waitThreshold : Nat
  sigIndex : Nat
  sigIncrement : Nat
  ckpt : Bool
  susp : Bool
  guards : List Nat
  slots : List (Option Instr)
  occupied : List Bool
deriving DecidableEq, Repr

/-- Words of the five slots in the order C, S, V, M, E. -/
def slotWords (b : Nat) : List Nat := [fld b 319 256, fld b 255 192, fld b 191 128, fld b 127 64, fld b 63 0]
/-- The five guards in the order C, S, V, M, E. -/
def guardFields (b : Nat) : List Nat := [fld b 351 347, fld b 346 342, fld b 341 337, fld b 336 332, fld b 331 327]

/-- Stream registers that VMOVQ or MLATQ of a bundle names. -/
def streamReads (l : List (Option Instr)) : List Nat :=
  l.filterMap (fun i => match i with
    | some (.vmovq f) => some f.q.val
    | some (.mlatq f) => some f.q.val
    | _ => none)

/-- Whether a slot holds SUSPEND or YIELD. -/
def isStop : Option Instr → Bool
  | some (.suspend _) => true
  | some (.yield _) => true
  | _ => false

/-- Whether a slot holds YIELD. -/
def isYield : Option Instr → Bool
  | some (.yield _) => true
  | _ => false

/-- Whether a slot holds LEND. -/
def isLend : Option Instr → Bool
  | some (.lendC _) => true
  | some (.lendV _) => true
  | _ => false

/-- A bundle's 384 bits taken apart, with every reason of R75 that depends on them alone. -/
def scanBundle (b : Nat) : Bundle × List ScanReason :=
  let ws := slotWords b
  let gs := guardFields b
  let r := [scanSlot .c (fld b 319 256), scanSlot .s (fld b 255 192), scanSlot .v (fld b 191 128),
            scanSlot .m (fld b 127 64), scanSlot .e (fld b 63 0)]
  let is := r.map (·.1)
  let sc := is.headD none
  let occ := ws.map (· != 0)
  let qs := streamReads is
  let bu : Bundle :=
    { waitIndex := fld b 383 376, waitThreshold := fld b 375 368, sigIndex := fld b 367 360, sigIncrement := fld b 359 356, ckpt := b.testBit 355, susp := b.testBit 354, guards := gs,
      slots := is, occupied := occ }
  (bu, (r.map (·.2)).flatten ++
    (if isLend sc && isLend (is.getD 2 none) then [.slots] else []) ++
    (if isStop sc && (occ.drop 1).any id then [.slots] else []) ++
    (if qs.length = 2 && qs.head? = qs.getLast? then [.slots] else []) ++
    (if fld b 353 352 ≠ 0 || (bu.waitThreshold = 0 && bu.waitIndex ≠ 0) || (bu.sigIncrement = 0 && bu.sigIndex ≠ 0)
        || (bu.susp && !isYield sc) then [.sync] else []) ++
    (if gs.any (24 ≤ ·) || fld b 326 320 ≠ 0 || (gs.zip ws).any (fun p => p.1 != 0 && p.2 == 0)
     then [.guard] else []))

/-- Bit offset of a slot in the bundle (R64). -/
def slotShift : SlotClass → Nat
  | .c => 256 | .s => 192 | .v => 128 | .m => 64 | .e => 0

/-- A bundle that holds one instruction and nothing else, its guard p0. -/
def soloBundle (i : Instr) : Nat :=
  match encode i with
  | some (cl, w) => w <<< slotShift cl
  | none => 0

/-- What the decoder reads from 384 bits that hold one instruction: that instruction (opcode_table.json gives no row
any fixed bits; a row's bits are taken as a bundle, R64). -/
def decodeTableWord (_nbits w : Nat) : Option Instr :=
  let r := scanBundle (w % 2 ^ 384)
  match r.2, r.1.slots.filterMap id with
  | [], [i] => some i
  | _, _ => none

end Sys2Proof
end

