-- ==== Sys2Proof/Config.lean ====
section
/-! DEFINITION. What the D940 stepping B0 fixes for IRX-3.0 (R1, R18, R63) and the free values: opaque constants
without a body for everything the spec leaves open (log entry 2). -/
namespace Sys2Proof.Config

/-- D940 value of each latency class, in the order of the latency table (R63). -/
def d940Latency : List Nat := [1, 3, 20, 6, 5, 4, 8, 5, 12, 9]

/-- Stepping code (R114). -/
def stepping : Nat := 0x00B0
/-- Architecture level (R114). -/
def isaLevel : Nat := 0x0300
/-- Physical cores of a cluster (R12). -/
def physCores : Nat := 68
/-- Architectural cores of a cluster at first power-up (R12). -/
def archCores : Nat := 64
/-- End of physical device memory (R287). -/
def devMemEnd : Nat := 0xA800000000
/-- Register, latch, staged-row and group capacities of the due queue (R47). -/
def dueRegs : Nat := 64
def dueLatches : Nat := 8
def dueRows : Nat := 512
def dueGroups : Nat := 16
/-- Entries of the store-withhold buffer (R196). -/
def withholdEntries : Nat := 64
/-- Rows of the accumulator undo log (R196). -/
def undoRows : Nat := 128
/-- Entries of one copy channel and of one address queue (R244). -/
def channelEntries : Nat := 64
/-- Segments of the segment cache (R61). -/
def segCache : Nat := 16
/-- Entries of the mapped-code table (R285). -/
def mappedEntries : Nat := 16384
/-- Long-wait limit (R49). -/
def longWait : Nat := 2 ^ 20
/-- Bytes of a spill frame (R31). -/
def frameBytes : Nat := 147456
/-- Manifest numbers (R429). -/
def manifests : Nat := 1024
/-- Latch-load occupancy of the weight port, divider and transcendental unit (R119, R146, R177). -/
def mlatPort : Nat := 4
def divBusy : Nat := 18
def xcBusy : Nat := 2

/-- A fresh free value for each number it is applied to: values the spec leaves open (log entry 2). -/
opaque freeValue : Nat → BitVec 2048
/-- The fused device secret of R414, which the spec does not give. -/
opaque codeRoot : List Byte
/-- Places of the four words that a state read of a confidential context shows (R375): which words of the frame. -/
opaque stateReadPlace : Nat → Nat
/-- Modulus and public exponent of the key that the hub ROM enrols in slot 0 (R414). -/
opaque romModulus : Nat
opaque romExponent : Nat
/-- Class of an on-chip error beyond the reach of its code (R205): which class is read. -/
opaque beyondCode : Nat → Nat
/-- Channel and window of a physical sector (R15, R380): the interleaving is not the spec's. -/
opaque channelOf : Nat → Nat
opaque windowOf : Nat → Nat
/-- Array whose records an error-log ring takes, by where its descriptor stands (R209): R246's descriptor names none. -/
opaque arrayOfRing : Nat → Nat
/-- A secured message of a session as its security processor opens it (R406, DSP0277): header and what follows it; none fails
authentication. -/
opaque openMessage : Nat → List Byte → Option (BitVec 256 × List Byte)
/-- Payload layout of the requests (R409), which the spec gives for two of them only (R429): the request that a session's header and
payload make, where they make one. -/
opaque requestOf : Nat → BitVec 256 → List Byte → Option Instr
/-- Key and salt of a link's direction in an epoch, as SPDM agrees them (R422): link, whether outward, epoch. -/
opaque linkKey : Nat → Bool → Nat → BitVec 256
opaque linkSalt : Nat → Bool → Nat → BitVec 48
/-- The key that wraps others, derived from the code root (R415): the derivation is not the spec's. -/
opaque wrapKey : BitVec 256
/-- The link over which a job's migration bundle goes, or none where it goes through host memory (R417). -/
opaque bundleRoute : Nat → Option Nat

end Sys2Proof.Config
end

