-- ==== Sys2Proof/Machine/Tab.lean ====
section
/-! DEFINITION. Sparse tables in one canonical form, the shape of every register file, memory and table of the
model: keys strictly rising, no entry equal to what an unlisted key reads as. -/
namespace Sys2Proof.Machine

/-- A sparse table: an unlisted key reads as a default that its accessors name. -/
abbrev Tab (α : Type) := List (Nat × α)

/-- What key `k` holds; `d` when it is not listed. -/
def Tab.get {α : Type} (d : α) : Tab α → Nat → α
  | [], _ => d
  | (k, v) :: t, a => if k = a then v else Tab.get d t a

/-- The table with key `a` holding `v`; writing the default removes the entry. -/
def Tab.set {α : Type} [DecidableEq α] (d : α) (t : Tab α) (a : Nat) (v : α) : Tab α :=
  t.filter (fun c => c.1 < a) ++ (if v = d then [] else [(a, v)]) ++ t.filter (fun c => a < c.1)

/-- The canonical form. -/
def Tab.wf {α : Type} [DecidableEq α] (d : α) : Tab α → Bool
  | [] => true
  | (k, v) :: t => (v != d) && t.all (fun c => k < c.1) && Tab.wf d t

/-- Memory: bytes at keys; every byte nothing has written reads as zero (R193 for the activation and
accumulator buffers; DESIGN CHOICE for the others, log entry 3). -/
abbrev Memory := List Host.Cell

/-- The canonical form of memory. -/
def Memory.wf (m : Memory) : Bool := Tab.wf (0 : Byte) m

/-- One byte of memory. -/
def Memory.byte (m : Memory) (a : Nat) : Byte := Tab.get (0 : Byte) m a

/-- The cells of a byte string at `a`, zero bytes left out. -/
def Memory.cells : Nat → List Byte → Memory
  | _, [] => []
  | a, b :: bs => if b = 0 then Memory.cells (a + 1) bs else (a, b) :: Memory.cells (a + 1) bs

/-- Memory with the byte string `bs` stored from `a` on. -/
def Memory.write (m : Memory) (a : Nat) (bs : List Byte) : Memory :=
  m.filter (fun c => c.1 < a) ++ (Memory.cells a bs ++ m.filter (fun c => a + bs.length ≤ c.1))

/-- The bytes `a`, `a+1`, … (`n` of them) of a table of cells. -/
def Memory.readAux (m : Memory) : Nat → Nat → List Byte
  | 0, _ => []
  | n + 1, a => Memory.byte m a :: Memory.readAux m n (a + 1)

/-- `n` bytes of memory from `a` on. -/
def Memory.read (m : Memory) (a n : Nat) : List Byte :=
  Memory.readAux (m.filter (fun c => a ≤ c.1 && c.1 < a + n)) n a

/-- Memory with `n` bytes from `a` on set to zero. -/
def Memory.zero (m : Memory) (a n : Nat) : Memory :=
  m.filter (fun c => c.1 < a || a + n ≤ c.1)

end Sys2Proof.Machine
end

