-- ==== Sys2Proof/Machine/State.lean ====
section
/-! DEFINITION. The state of the device as plain data: two contexts per core with their checkpoint shadows, cores,
clusters, jobs, tables, memories and the steps to come. Register files and memories are sparse tables (Tab). -/
namespace Sys2Proof.Machine

/-- Why the machine stops. -/
inductive Fault where
  /-- Raised by a bundle issue whose fetched 384 bits hold an encoding that the scanner refuses: R3 says such an
  encoding never reaches execution, and the spec gives it no effect. So does an index above the count of the dictionary loaded,
  which a core meets that still holds a segment of a kernel remapped since (R80, log entry 60). Safe: the model stops. -/
  | reservedEncoding (r : ScanReason)
deriving DecidableEq, Repr

/-- Why an instruction has no meaning here. -/
inductive Refusal where
  /-- Raised by an arm of exec whose row has no meaning yet. Safe: the model stops. -/
  | notModelled (mnemonic : String)
deriving DecidableEq, Repr

/-- Trap causes (R115). -/
inductive Cause where
  | bound | form | shape | pipe | ecc | segtag | noexec | brk | trap | waitlong
deriving DecidableEq, Repr

/-- A trap as it is raised: cause and detail code, the slot and offset of ctx.cause (R115), ctx.tval, and the
location concerned (a memory key for ECC, a segment or dictionary for SEGTAG: R368). -/
structure TrapInfo where
  cause : Cause
  code : Nat
  slot : Nat
  off : Nat
  tval : Word
  loc : Nat
deriving DecidableEq, Repr

/-- Destination classes of the due queue's register entries (R279). -/
inductive Dest where
  | scalar (n : Nat)
  | pair (n : Nat)
  | kreg (n : Nat)
  | vec (n : Nat)
  | shape (n : Nat)
  | eng (sel : Nat)
  | owner
deriving DecidableEq, Repr

/-- A register entry of the due queue: `left` ticks remain (R279), and the result is produced at core cycle
`ready` (R395); `old` marks one issued before the last checkpoint (R369), `off` is the offset of the bundle that issued
it (R115). -/
structure DueReg where
  dest : Dest
  val : Vec
  left : Nat
  ready : Nat
  old : Bool
  trap : Option TrapInfo
  off : Nat
deriving DecidableEq, Repr

/-- A latch entry of the due queue. -/
structure DueLatch where
  w : Nat
  val : Latch
  left : Nat
  ready : Nat
  old : Bool
  trap : Option TrapInfo
  off : Nat
deriving DecidableEq, Repr

/-- One group of staged accumulator rows sharing a due tick (R279). -/
structure Group where
  rows : List (Nat × Row)
  left : Nat
  ready : Nat
  old : Bool
  trap : Option TrapInfo
  off : Nat
deriving DecidableEq, Repr

/-- One level of the loop sequencer (R109, R132). -/
structure Loop where
  active : Bool
  start : Nat
  stop : Nat
  left : Word
  target : Nat
  stride : Word
  pair : Nat
deriving DecidableEq, Repr

/-- An inactive loop level. -/
def Loop.idle : Loop := ⟨false, 0, 0, 0, 0, 0, 0⟩

/-- The M engine's parameter words (R173). -/
structure MSet where
  rows : Word
  acc : Word
  astride : Word
  ascale : Word
  kpad : Word
  cols : Word
  mode : Word
deriving DecidableEq, Repr

/-- Reset values of the M engine's words (R173). -/
def MSet.reset : MSet := ⟨1, 0x10000, 0, 0, 0, 0xFFFFFFFF, 0⟩

/-- The dot engine's parameter words (R173). -/
structure DSet where
  wstride : Word
  wscale : Word
  mode : Word
deriving DecidableEq, Repr

/-- Reset values of the dot engine's words (R173). -/
def DSet.reset : DSet := ⟨0, 0, 0⟩

/-- A stream binding (R171): ring base, slots minus one, element size in 64-byte units, the attached copy's
channel and transfer ID, and the consumed count. -/
structure Binding where
  base : Nat
  slotsM1 : Nat
  units : Nat
  att : Option (Nat × BitVec 32)
  consumed : Nat
deriving DecidableEq, Repr

/-- An open gather (R269, R270): its stream register, pushes remaining, indices pushed. -/
structure Gather where
  q : Nat
  remaining : Nat
  pushed : Nat
deriving DecidableEq, Repr

/-- The captured state of a context: what a checkpoint's shadow holds (R109, R141, R170, R344, R244). -/
structure Arch where
  s : Tab Word
  p : Tab Bool
  k : Tab Word
  v : Tab Vec
  w : Tab Latch
  h : Tab (BitVec 256)
  bankC : Bool
  mAct : MSet
  mSh : MSet
  dAct : DSet
  dSh : DSet
  loops : Tab Loop
  idle : BitVec 16
  dueRegs : List DueReg
  seqDue : List DueReg
  dueLatches : List DueLatch
  groups : List Group
  tick : Word
  pc : Word
  f : Tab (BitVec 16)
  tb : Tab (BitVec 27)
  nextId : Tab (BitVec 32)
  q : Tab (Option Binding)
  gather : Tab (Option Gather)
deriving DecidableEq, Repr

/-- The captured state at reset values, with issue to begin at offset `pc` (R35, R109). -/
def Arch.reset (pc : Word) : Arch :=
  { s := [], p := [], k := [], v := [], w := [], h := [], bankC := false, mAct := MSet.reset, mSh := MSet.reset,
    dAct := DSet.reset, dSh := DSet.reset, loops := [], idle := 0, dueRegs := [], seqDue := [], dueLatches := [],
    groups := [], tick := 0, pc := pc, f := [], tb := [], nextId := [], q := [], gather := [] }

/-- What a command does once released: operands as read at issue (R198 and each instruction's description). The image
of a cpy, gath, qapp or kvref is its address until release, and from then on the 512 bits read there (R227). -/
inductive CmdKind where
  | cpy (img sc : Nat) (tb q : Option Nat)
  | gath (img n sc : Nat) (tb : Option Nat) (q : Nat)
  | qapp (desc : Word) (img sc : Nat)
  | atom (target opnd cmp : Word) (r op : Nat) (w64 sgn : Bool)
  | seal (line rec n : Nat)
  | unseal (line rec n : Nat)
  | sigadd (addr v : Word)
  | kvref (img sc : Nat) (tb : Option Nat)
  | kvapp (ents n sc k : Nat) (spec : Bool)
  | kvrej (h keep : Word) (sc : Nat)
  | kvcommit (h : Word) (sc : Nat)
  | kvfree (h : Word) (sc : Nat)
  | gzclaim (a d : Word) (sc : Nat) (new : Bool)
  | gzjoin (p s : Word) (sc : Nat)
  | gzfind (a d : Word) (sc : Nat)
  | larm (slot : Word) (sc : Nat) (f : Option Nat)
  | lpatch (slot value : Word) (sc j : Nat) (f : Option Nat)
  | cancel (level : Nat) (addr : Word) (sc : Nat) (hard : Bool) (f : Option Nat)
  | bmset (base : Nat) (bit : Nat)
  | fence (acq rel : Bool)
  | sfence
  | srel (q : Nat) (att : Option (Nat × BitVec 32))
  | errinj (array addr : Nat) (mask : Word) (kind : Nat) (now : Bool)
deriving DecidableEq, Repr

/-- How far the bytes of a transfer have come (R257, R258, R264): bytes delivered and rows skipped, refusals with a hint
that the next access has met and its address, pages its scout has walked (R295), activation ranges written so far; for a
stream's element whether a drive holds it, and which elements of a gather were skipped; rows whose indices have been read and
that are not moved yet; pieces of activation lines that wait for the rest of their line, as key, bytes and poison (R228); the
outcome of a gather that an error has ended (status, detail, skipped: R271). -/
structure Prog where
  bytes : Nat
  skipped : Nat
  tries : Nat
  at' : Nat
  scouted : Nat
  segs : List (Nat × Nat)
  drive : Bool
  holes : List Nat
  rows : List (Option (Nat × Nat))
  part : List (Nat × List Byte × Bool)
  ended : Option (Nat × Nat × Nat)
deriving DecidableEq, Repr

/-- A transfer that has not begun. -/
def Prog.start : Prog := ⟨0, 0, 0, 0, 0, [], false, [], [], [], none⟩

/-- How far a command or packet has come: not taken up, waiting (signal, ring room, bucket), with a drive, which holds commands
for what comes after `g` (R281), refused with a retry hint `n` times (R264), a ring index `w` claimed and the access of it refused `tries` times (R273), moving its bytes,
streaming with `n` elements arrived and `g` of the next, done with its status record's fields (R253). -/
inductive Phase where
  | queued
  | waiting
  | nvme (g : Prog)
  | retry (n : Nat)
  | claimed (w tries : Nat)
  | moving (g : Prog)
  | stream (n : Nat) (g : Prog)
  | done (status detail skipped : Nat) (bytes : Word)
deriving DecidableEq, Repr

/-- A released command in a core's channels; `ch` 8 stands for the scheduler (R309, R360, R361), `owner` is the
record of the unit it belongs to (R35), `seq` its place in the context's hand-over order (R274), `cart` the cartouche
whose bounds were in force at its issue (R256), `paid` the bytes charged to its barrier (R263), `flight` the key-value handles
whose in_flight counts it (R323). -/
structure Cmd where
  seq : Nat
  ctx : Nat
  ch : Nat
  id : BitVec 32
  job : Nat
  owner : Nat
  scope : Nat
  kind : CmdKind
  phase : Phase
  cart : BitVec 512
  paid : Nat
  flight : List Nat
deriving DecidableEq, Repr

/-- An entry of the store-withhold buffer (R198): a store with its issue tick, or an E-slot command. -/
inductive WEntry where
  | store (tick : Word) (bytes : List (Nat × Byte))
  | cmd (tick : Word) (c : Cmd)
deriving DecidableEq, Repr

/-- A counter change from outside the context, re-applied by a rollback (R348). -/
inductive Outside where
  | sem (f n : Nat)
  | charge (tb n : Nat)
deriving DecidableEq, Repr

/-- A condition a stalled bundle waits for, as a wait-block entry holds it (R32): kind, cond, index, phase, value,
address, operand. -/
structure WaitEnt where
  kind : Nat
  cond : Nat
  index : Nat
  phase : Nat
  value : Nat
  addr : Word
  operand : Word
deriving DecidableEq, Repr

/-- The operands of a SUSPEND or YIELD taking effect (R276). -/
structure Susp where
  waitKind : Nat
  operand : Nat
  live : Nat
  done : Bool
  isYield : Bool
  next : Nat
deriving DecidableEq, Repr

/-- Why a context is being removed (R374). -/
inductive Removal where
  | fatal
  | hardCancel
  | removed
  | interval
  | stopInterface
deriving DecidableEq, Repr

/-- What a context is doing. -/
inductive Run where
  | free
  | placing
  | running
  | suspending (f : Susp)
  | removing (why : Removal)
  | takeOff
deriving DecidableEq, Repr

/-- One of a core's two contexts. `releasing` holds what a checkpoint or suspension of this cycle releases at its end (R227).
`cart` is the cartouche of the current segment: the bound registers, ctx.seg and
the latency table are its fields (R59, R62). `bundleCkpt` tells that the last checkpoint is that of a checkpoint bundle, `replay` that
the first bundle after a rollback to one has yet to issue again (R368). -/
structure Ctx where
  run : Run
  arch : Arch
  shadow : Arch
  arrived : Tab Nat
  status : Tab (BitVec 32)
  outside : List Outside
  withhold : List WEntry
  releasing : List WEntry
  undo : List (Nat × Row)
  cause : Word
  tval : Word
  ckpt : Word
  spill : Word
  mode : BitVec 5
  age : Nat
  stamp : Nat
  cart : BitVec 512
  job : Nat
  recAddr : Nat
  launch : Nat
  index : Nat
  basePrio : Nat
  codeBase : Nat
  dict : Nat
  clock : Nat
  unmet : List WaitEnt
  preempt : Bool
  softCancel : Bool
  leaseStop : Bool
  bubble : Nat
  traps : Nat
  pipes : Nat
  eccLocs : List Nat
  segtags : List Nat
  bundleCkpt : Bool
  replay : Bool
  steps : Nat
  halted : Bool
  frozen : Bool
  placed : Nat
deriving DecidableEq, Repr

/-- A context with no unit. -/
def Ctx.reset : Ctx :=
  { run := .free, arch := Arch.reset 0, shadow := Arch.reset 0, arrived := [], status := [], outside := [],
    withhold := [], releasing := [], undo := [], cause := 0, tval := 0, ckpt := 0, spill := 0, mode := 0, age := 0,
    stamp := 0, cart := 0, job := 0, recAddr := 0, launch := 0, index := 0, basePrio := 0, codeBase := 0, dict := 0,
    clock := 0, unmet := [], preempt := false, softCancel := false, leaseStop := false, bubble := 0, traps := 0,
    pipes := 0, eccLocs := [], segtags := [], bundleCkpt := false, replay := false, steps := 0, halted := false, frozen := false, placed := 0 }

/-- A verified segment in the segment cache (R61): its 4,096 index words. -/
structure Seg where
  asid : Nat
  codeBase : Nat
  num : Nat
  cart : BitVec 512
  words : Tab (BitVec 16)
deriving DecidableEq, Repr

/-- A loaded dictionary (R57): the context it was loaded for and the bundles that context has issued since. -/
structure Dict where
  asid : Nat
  addr : Nat
  count : Nat
  ents : Tab BundleBits
  ctx : Nat
  issued : Nat
deriving DecidableEq, Repr

/-- A reservation of a stopped pinned unit (R48): activation lines and accumulator rows. -/
structure Resv where
  job : Nat
  recAddr : Nat
  actBase : Nat
  actLimit : Nat
  accBase : Nat
  accLimit : Nat
deriving DecidableEq, Repr

/-- A physical core. The occupancy fields hold the cycle at which each shared unit is free again (R44). -/
structure Core where
  ctx0 : Ctx
  ctx1 : Ctx
  lost : Option Nat
  cycle : Nat
  busyArray : Nat
  busyDot : Nat
  busyPort : Nat
  busyDiv : Nat
  busyXc : Nat
  latchBusy : Tab Nat
  segs : List Seg
  dicts : List Dict
  cmds : List Cmd
  addrQ : Tab (List Word)
  chFrozen : Tab Bool
  resv : List Resv
  leased : Bool
  noPlace : Bool
  dropAtWake : Bool
  nextSeq : Nat
deriving DecidableEq, Repr

/-- A core at power-up. -/
def Core.reset : Core :=
  { ctx0 := Ctx.reset, ctx1 := Ctx.reset, lost := none, cycle := 0, busyArray := 0, busyDot := 0, busyPort := 0,
    busyDiv := 0, busyXc := 0, latchBusy := [], segs := [], dicts := [], cmds := [], addrQ := [], chFrozen := [],
    resv := [], leased := false, noPlace := false, dropAtWake := false, nextSeq := 0 }

/-- A READY record in a ready queue (R277), with what EFF and BEST compare (R50, R51). -/
structure Ready where
  job : Nat
  recAddr : Nat
  launch : Nat
  index : Nat
  stamp : Nat
deriving DecidableEq, Repr

/-- Cluster power states and transitions (R20-R22). -/
inductive ClusterPower where
  | run
  | doze
  | off
  | entering (toOff : Bool)
  | waking (fromOff : Bool)
deriving DecidableEq, Repr

/-- A spare being brought into service (R312): retired core, architectural number, spare, reason, score, kind, and whether the image and
the map on die 0 are written. -/
structure SpareWork where
  old : Nat
  arch : Nat
  spare : Nat
  reason : Nat
  score : Nat
  kind : Nat
  half : Bool
deriving DecidableEq, Repr

/-- A translation held by a TLB or die cache (R290): one leaf copied whole, with the range it maps. -/
structure TlbEnt where
  asid : Nat
  base : Nat
  log2 : Nat
  leafAt : Nat
  leaf : BitVec 128
deriving DecidableEq, Repr

/-- A cluster: dispatcher, ready queues, power, cluster map (R310) and capacity (R116). -/
structure Cluster where
  decisions : Word
  decideDue : Nat
  ready : List Ready
  power : ClusterPower
  wakePending : Bool
  map : List Nat
  retired : BitVec 68
  spares : Nat
  cores : Nat
  work : Option SpareWork
  changeSeq : BitVec 16
  leased : Nat
  trimMv : Nat
  trimErrs : List Nat
  trimHard : Option Nat
  provisional : Tab Nat
  tlb : Tab (List TlbEnt)
  surveyWoke : Option Bool
deriving DecidableEq, Repr

/-- A cluster at first power-up (R12, R310, R344); its power state is log entry 4. -/
def Cluster.reset : Cluster :=
  { decisions := 0, decideDue := 0, ready := [], power := .run, wakePending := false, map := List.range 64, retired := 0,
    spares := 4, cores := 64, work := none, changeSeq := 0, leased := 0, trimMv := 0, trimErrs := [], trimHard := none, provisional := [], tlb := [],
    surveyWoke := none }

/-- TDI states (R412). -/
inductive Tdi where
  | unlocked | locked | run | error
deriving DecidableEq, Repr

/-- The key of a confidential job (R415, R221). -/
structure Key where
  key : BitVec 256
  salt : BitVec 32
  keyId : BitVec 32
  counter : Word
deriving DecidableEq, Repr

/-- An interval-log entry (R372), and its place in the log area. -/
structure LogEnt where
  slot : Nat
  sector : Nat
  ctx : Nat
  mark : Nat
  old : List Byte
deriving DecidableEq, Repr

/-- A unit frozen off its context: its record, the state it had, whether a cancel has arrived meanwhile, and the context that
its THAW or REMOVE names, where it had one (R36, R383). -/
structure FrozenUnit where
  recAddr : Nat
  before : Nat
  cancel : Bool
  place : Option (Nat × Nat)
deriving DecidableEq, Repr

/-- A job: descriptor, pool, windows, key and the device's own notes about it, its armed levels and its units frozen off their
contexts among them; `stopAsks` are the STOP_INTERFACE requests (session and tag) that wait for a safe checkpoint (R427); of a migration
the key agreed for it, whether its bundle is written, and whether the job has left and its destination has yet to confirm (R417). -/
structure Job where
  desc : BitVec 512
  pool : Tab (BitVec 1024)
  windows : List (BitVec 256)
  paused : Bool
  frozen : Bool
  tdi : Tdi
  key : Option Key
  poison : Bool
  tenants : List Nat
  noteSeq : BitVec 32
  noteOv : Bool
  empty : Bool
  marks : Nat
  logBase : Nat
  logCap : Nat
  log : List LogEnt
  migrating : Bool
  saving : Bool
  levels : List Nat
  frozenUnits : List FrozenUnit
  stopAsks : List (Nat × Nat)
  migKey : Option (BitVec 256)
  bundleSent : Bool
  moved : Bool
deriving DecidableEq, Repr

/-- A mapped-code entry (R300). -/
structure Mapped where
  asid : Nat
  va : Nat
  frame : Nat
  isDict : Bool
  manifest : Nat
deriving DecidableEq, Repr

/-- A loaded manifest (R428, R429). -/
structure Manifest where
  asid : Nat
  dict : Nat
  codeBase : Nat
  segments : Nat
  key : List Byte
deriving DecidableEq, Repr

/-- An error in a stored location (R206, R223): what a read finds wrong with it. -/
structure Err where
  data : Word
  check : Word
  tag : BitVec 4
  addr : BitVec 40
  poison : Bool
deriving DecidableEq, Repr

/-- A location without error. -/
def Err.clear : Err := ⟨0, 0, 0, 0, false⟩

/-- An armed injection (R223). -/
structure Inj where
  key : Nat
  kind : Nat
  mask : Word
deriving DecidableEq, Repr

/-- An array's error-log ring (R209): descriptor, records written, overflow pending. -/
structure ErrLog where
  desc : Nat
  seq : BitVec 32
  overflow : Bool
deriving DecidableEq, Repr

/-- An array whose ring nobody has set up. -/
def ErrLog.reset : ErrLog := ⟨0, 0, false⟩

/-- A taken-up packet that has not completed (R249), with the key-value handles whose in_flight counts it (R323). -/
structure Pkt where
  index : Word
  bits : BitVec 512
  phase : Phase
  flight : List Nat
deriving DecidableEq, Repr

/-- What the serving engines hold of a packet ring (R249): packets taken up, why serving has stopped, and the index after
the last packet taken up. -/
structure RingRun where
  r : RingRef
  pkts : List Pkt
  frozen : Bool
  fault : Option Nat
  next : Word
deriving DecidableEq, Repr

/-- Who waits for a drive's command: a core's command, or a ring's packet. -/
inductive Waiter where
  | cmd (core seq : Nat)
  | pkt (r : RingRef) (index : Nat)
deriving DecidableEq, Repr

/-- An entry of an NVMe I/O queue pair (R281): whose command it is, whether it writes, its first 4 KiB block and how many. -/
structure NvmeCmd where
  who : Waiter
  write : Bool
  lba : Nat
  blocks : Nat
deriving DecidableEq, Repr

/-- One copy of the retirement table (R310): header and cluster maps with their checks, none as they are at first power-up; the score
area; the ring of records by slot. -/
structure RetTable where
  header : Option (BitVec 512)
  maps : Tab (Option (BitVec 1024))
  scores : Tab (BitVec 16)
  recs : Tab (BitVec 512)
deriving DecidableEq, Repr

/-- A copy at first power-up. -/
def RetTable.fresh : RetTable := ⟨none, [], [], []⟩

/-- Retirement-table header (R310). -/
structure RetHdr where
  seq : BitVec 32
  replacement : Bool
  floorCores : Nat
  floorChannels : Nat
  floorLinks : Nat
deriving DecidableEq, Repr

/-- A journal transaction in progress (R211). -/
structure Txn where
  num : Word
  patch : Bool
  attempts : List Nat
  model : BitVec 128
  cores : List Nat
  jobs : List Nat
  begun : Bool
  undo : List (Nat × Nat × Nat)
  committed : Bool
  session : Nat
  tag : Nat
deriving DecidableEq, Repr

/-- Link states (R423). -/
inductive LinkState where
  | down | training | keying | up | halted
deriving DecidableEq, Repr

/-- An Ovdex link (R421-R423); `unacked` holds the plaintext of every flit that is not acknowledged, by its sequence number. -/
structure Link where
  state : LinkState
  epoch : Nat
  nextSeq : Nat
  recvSeq : Nat
  unacked : List (Nat × List Byte)
  fails : Nat
deriving DecidableEq, Repr

/-- A link at power-up (log entry 4). -/
def Link.reset : Link := ⟨.up, 0, 0, 0, [], 0⟩

/-- A session (R406): its rings; whether the doorbell has rung for slots not read yet; of each chain of messages that is not whole its
tag, whether a header of it was bad, and its payload so far (R407). -/
structure Session where
  up : Bool
  job : Option Nat
  req : Word
  ev : Word
  rung : Bool
  chains : List (Nat × Bool × List Byte)
  refusal : Option Word
  refSeq : BitVec 32
  refOv : Bool
  evOv : Bool
  frozen : List Nat
deriving DecidableEq, Repr

/-- No session. -/
def Session.none : Session := ⟨false, Option.none, 0, 0, false, [], Option.none, 0, false, false, []⟩

/-- What the device sends outward: messages of replies with their headers, events, a session that it has no room for, completions of
inbound requests (EP set where the data is poisoned, R424), a peer's data with its poisoned sectors, hints, the messages of a page's
move, flits as ciphertext and MAC, bundles. -/
inductive Sent where
  | reply (session : Nat) (head : BitVec 256) (payload : List Byte)
  | event (opcode : Nat) (job : Option Nat) (payload : List Nat)
  | noSession (result : Nat)
  | completion (requester status : Nat) (ep : Bool) (data : List Byte)
  | hint (peer hint reason : Nat)
  | peerDone (peer : Nat) (data : List Byte) (poison : List Nat)
  | askFrame (peer asid va : Nat)
  | frame (peer asid va : Nat)
  | noFrame (peer asid va : Nat)
  | page (peer : Nat) (p : MovedPage)
  | arrived (peer asid va : Nat)
  | pinNote (asid va : Nat)
  | flit (link epoch seq : Nat) (text mac : List Byte)
  | replay (link seq : Nat)
  | bundle (job : Nat) (b : SealedBundle)
deriving DecidableEq, Repr

/-- A key wrapped with the key that the device derives from its code root (R415, R417): IV, ciphertext and tag. -/
structure Wrapped where
  iv : List Byte
  text : List Byte
  tag : List Byte
deriving DecidableEq, Repr

/-- What a safe-tier image holds (R420): what a migration bundle holds, and the reserved scratchpad ranges of the job's pinned
units as (core code, offset with accumulator bytes from 2^24 on, bytes), their poisoned and their ciphertext lines, reservations and
levels. -/
structure ImageBody where
  bundle : MigBundle
  scratch : List (Nat × Nat × List Byte)
  poison : List (Nat × Nat)
  cipher : List (Nat × Nat)
  resv : List (Nat × Resv)
  levels : List Nat
deriving DecidableEq, Repr

/-- A safe-tier image of a job: where it stands on the drives as (drive, first 4 KiB block, blocks); and its body, which for a
confidential job is encrypted under a checkpoint key, kept beside it wrapped (R415). -/
structure SafeImage where
  extents : List (Nat × Nat × Nat)
  lock : Option (Wrapped × BitVec 256)
  body : ImageBody
deriving DecidableEq, Repr

/-- A bundle that the destination of a migration keeps (R417 step 3): the migration key is wrapped under its own code root. -/
structure HeldBundle where
  wrapped : Wrapped
  sealed : SealedBundle
deriving DecidableEq, Repr

/-- How far a page's move has come at its old home (R299): due; its new home asked for a frame; a frame taken there; the page sent; the
page in its new home. -/
inductive MovePhase where
  | due | asked | granted | sent | arrived
deriving DecidableEq, Repr

/-- A page's move to a peer (R298, R299). -/
structure Move where
  asid : Nat
  va : Nat
  peer : Nat
  phase : MovePhase
deriving DecidableEq, Repr

/-- Power of the package (R23, R377, R378). -/
inductive Power where
  | on | hold | off
deriving DecidableEq, Repr

/-- The sheets (R382): those in service, those that will be once the drain ends, and whether a rehash is running. -/
structure Sheets where
  live : List Nat
  next : List Nat
  busy : Bool
  retired : List Nat
deriving DecidableEq, Repr

/-- The acting slot instruction: its core and context, whether its bundle is a literal and carries susp, the slot,
a taken transfer, whether the bundle has trapped, the semaphores before the bundle's header (R347), and
the vector registers its slots will write (R144). Set by the bundle issue; no part of the device's own state. -/
structure Cur where
  core : Nat
  ctx : Nat
  lit : Bool
  susp : Bool
  slot : Nat
  next : Option Word
  trapped : Bool
  sems : Tab (BitVec 16)
  vdests : List Nat
deriving DecidableEq, Repr

/-- The whole device. `revoking` holds the tenants that TENANT_CANCEL has still to end, each with the job that asked and the handles its
notices name (R326); `surveyFirst` that the full survey after a shock keeps the host port closed (R425); `framesFor` the frames taken
here for pages under way, as (address space, page, peer, frame) (R299); `heldSteps` the STEP requests that wait for the end of HOLD
(R384). -/
structure State where
  mem : Memory
  forms : Tab Bool
  tags : Tab (BitVec 4)
  errs : Tab Err
  inject : Tab (Option Inj)
  errLogs : Tab ErrLog
  cores : Tab Core
  clusters : Tab Cluster
  dieTlb : Tab (List TlbEnt)
  asids : Tab (BitVec 128)
  mapped : List Mapped
  jobs : Tab (Option Job)
  manifests : List Manifest
  enrolled : List (Nat × Nat × Nat)
  keyGen : Tab (BitVec 16)
  tenants : Tab (Option (BitVec 512))
  revoking : List (Nat × Nat × List Nat)
  rings : List RingRun
  ret : RetHdr
  die0 : RetTable
  die2 : RetTable
  scores : Tab (BitVec 16)
  surveyDue : List Nat
  wear : Tab (BitVec 32)
  journal : List (BitVec 512)
  txn : Option Txn
  txnCount : Word
  badModels : List (BitVec 128 × List Nat)
  sheets : Sheets
  links : Tab Link
  drives : Tab Bool
  nvmeQ : Tab (List NvmeCmd)
  hostPort : Bool
  sessions : Tab Session
  leases : List Comp
  outWindows : Tab Bool
  outLinks : Tab Bool
  safe : Tab (Option SafeImage)
  migIn : Tab (Option HeldBundle)
  power : Power
  shock : Bool
  lastSheetLost : Bool
  powerLost : Bool
  surveyFirst : Bool
  faultPages : List (Nat × Nat)
  moveReqs : List Move
  framesFor : List (Nat × Nat × Nat × Nat)
  heldSteps : List (Msg × Nat × Nat × Nat)
  sent : List Sent
  agenda : List Instr
  turn : Nat
  freeCtr : Nat
  cur : Cur
deriving DecidableEq, Repr

/-- The three outcomes of a step over this state. -/
abbrev Res := Host.Outcome State Fault Refusal

/-- The acting slot at rest. -/
def Cur.reset : Cur := ⟨0, 0, false, false, 0, none, false, [], []⟩

/-- The device right after reset (log entries 3, 4, 7): tables empty, memories listing nothing, every context free. -/
def State.reset : State :=
  { mem := [], forms := [], tags := [], errs := [], inject := [], errLogs := [], cores := [], clusters := [],
    dieTlb := [], asids := [], mapped := [], jobs := [], manifests := [], enrolled := [], keyGen := [], tenants := [], revoking := [], rings := [],
    ret := ⟨0, false, 60, 44, 6⟩, die0 := RetTable.fresh, die2 := RetTable.fresh, scores := [], surveyDue := [], wear := [], journal := [], txn := none,
    txnCount := 0, badModels := [], sheets := ⟨[0, 1, 2, 3], [0, 1, 2, 3], false, []⟩, links := [], drives := [], nvmeQ := [],
    hostPort := true, sessions := [], leases := [], outWindows := [], outLinks := [], safe := [], migIn := [],
    power := .on, shock := false, lastSheetLost := false, powerLost := false, surveyFirst := false, faultPages := [], moveReqs := [], framesFor := [], heldSteps := [], sent := [], agenda := [], turn := 0, freeCtr := 0,
    cur := Cur.reset }

end Sys2Proof.Machine
end

