-- ==== Sys2Proof/Machine/Mem.lean ====
section
/-! DEFINITION. Bytes of every memory under one numbering of keys, with allocation tags, injected errors, poison marks
and their classes (R196, R205 to R208, R223), and the cores' numbering (R9, R12, R310). -/
namespace Sys2Proof.Machine

/-- Keys of the memories: physical device memory stands at its own address (R287). -/
def wtKey (core off : Nat) : Nat := 2 * 2 ^ 60 + core * 2 ^ 26 + off
def actKey (core off : Nat) : Nat := 3 * 2 ^ 60 + core * 2 ^ 26 + off
def accKey (core off : Nat) : Nat := 3 * 2 ^ 60 + core * 2 ^ 26 + 2 ^ 24 + off
def hostKey (a : Nat) : Nat := 5 * 2 ^ 60 + a
def peerKey (peer va : Nat) : Nat := 6 * 2 ^ 60 + peer * 2 ^ 52 + va
def driveKey (d off : Nat) : Nat := 7 * 2 ^ 60 + d * 2 ^ 48 + off
/-- The undo slots of a journal (R210). -/
def undoKey (die slot : Nat) : Nat := 9 * 2 ^ 60 + die * 2 ^ 27 + slot * 4096

/-- Arrays whose cells are no memory of an address space (R209), by array identifier and byte within the array. -/
def arrKey (id addr : Nat) : Nat := 10 * 2 ^ 60 + id * 2 ^ 40 + addr
/-- Kind of such a key's array (R209). -/
def arrKind (k : Nat) : Nat := k % 2 ^ 60 / 2 ^ 52

/-- Sizes of the three core-local spaces in bytes (R14). -/
def wtBytes : Nat := 2 ^ 26
def actBytes : Nat := 2 ^ 21
def accBytes : Nat := 2 ^ 19

/-- Bytes covered by one code word of the array that holds a key (R205): 64-bit words of SRAM, 64-byte rows of MRAM
and sectors of LPDDR-6; 0 where the spec gives no such code. -/
def granule (k : Nat) : Nat :=
  if k / 2 ^ 60 = 0 then 64 else if k / 2 ^ 60 = 2 then 64 else if k / 2 ^ 60 = 3 || k / 2 ^ 60 = 10 then 8 else 0

/-- The code words that the `n` bytes from key `k` on touch. -/
def locsOf (k n : Nat) : List Nat :=
  let g := granule k
  if g = 0 || n = 0 then [] else
    (List.range ((k + n - 1) / g + 1 - k / g)).map (fun i => (k / g + i) * g)

/-- Number of non-zero bytes among the low `n` of a mask. -/
def symbolsOf (x : Nat) : Nat → Nat
  | 0 => 0
  | n + 1 => (if x % 256 = 0 then 0 else 1) + symbolsOf (x / 256) n

/-- Class of a stored location (R206, R207) for an access whose tag differs from the stored one or not. -/
def errClass (k : Nat) (e : Err) (tagWrong : Bool) : Nat :=
  if k / 2 ^ 60 = 0 then
    let check := if e.poison then ~~~e.check else e.check
    let d := symbolsOf e.data.toNat 8 + symbolsOf check.toNat 8
    let a := symbolsOf e.addr.toNat 5
    if check = ~~~0 && e.data = 0 && a = 0 && !tagWrong then 5
    else if d = 0 && a = 0 && !tagWrong then 0
    else if d ≤ 2 && a = 0 && !tagWrong then 1
    else if d = 0 && a = 0 then 3
    else if d = 0 && a ≤ 2 && !tagWrong then 4
    else 2
  else if e.poison then 5
  else
    let n := popCount e.data.toNat 64 + popCount e.check.toNat 64
    let reach := if k / 2 ^ 60 = 2 then 2 else 1
    if n = 0 then 0 else if n ≤ reach then 1 else if n = reach + 1 then 2
    else if Config.beyondCode (k + n) % 2 = 0 then 2 else 1

/-- Sets what is wrong with a location. -/
def State.setErr (s : State) (k : Nat) (e : Err) : State := { s with errs := Tab.set Err.clear s.errs k e }

/-- What is wrong with a location. -/
def State.err (s : State) (k : Nat) : Err := Tab.get Err.clear s.errs k

/-- A poison mark (R208): what stands there is from then on what the mark covers. -/
def State.poisonAt (s : State) (k : Nat) : State := s.setErr k { Err.clear with tag := (s.err k).tag, poison := true }

/-- An injection applied to a stored location (R223). -/
def applyInjection (s : State) (k kind : Nat) (mask : Word) : State :=
  let e := s.err k
  s.setErr k
    (if kind = 0 then { e with data := e.data ^^^ mask }
     else if kind = 1 then { e with check := e.check ^^^ mask }
     else if kind = 2 then { e with tag := e.tag ^^^ mask.setWidth 4 }
     else if kind = 3 then { e with addr := e.addr ^^^ mask.setWidth 40 }
     else { e with poison := true })

/-- Injections armed on one of the written locations take effect once (R223). -/
def fireInjections (s : State) (hit : Nat → Bool) : State :=
  s.inject.foldl (fun s c => match c.2 with
    | some j => if hit j.key then
        { applyInjection s j.key j.kind j.mask with inject := Tab.set none s.inject c.1 none } else s
    | none => s) s

/-- Writes bytes: locations written whole lose their errors and poison marks (R208), then armed injections apply. -/
def State.put (s : State) (k : Nat) (bs : List Byte) : State :=
  let s1 := { s with mem := s.mem.write k bs }
  if s.errs.isEmpty && s.inject.isEmpty then s1
  else
    let locs := locsOf k bs.length
    let g := granule k
    let s2 := locs.foldl (fun s l =>
      if k ≤ l && l + g ≤ k + bs.length then s.setErr l Err.clear else s) s1
    fireInjections s2 locs.contains

/-- A range of an array is written whole: its errors are gone, then armed injections apply (R208, R223). -/
def arrayWritten (s : State) (k n : Nat) : State :=
  if s.errs.isEmpty && s.inject.isEmpty then s
  else fireInjections { s with errs := s.errs.filter (fun e => !(k ≤ e.1 && e.1 < k + n)) }
    (fun j => k ≤ j && j < k + n)

/-- Reads bytes as they are stored. -/
def State.bytes (s : State) (k n : Nat) : List Byte := s.mem.read k n

/-- The stored tag of a sector with an injected tag error applied (R206, R223). -/
def State.tagAt (s : State) (sector : Nat) : BitVec 4 :=
  Tab.get (0 : BitVec 4) s.tags (sector / 64) ^^^ (s.err sector).tag

/-- Stores the writer's tag on every sector written whole (R206). -/
def State.setTags (s : State) (k n : Nat) (tag : Nat) : State :=
  { s with tags := (locsOf k n).foldl (fun t l =>
      if k ≤ l && l + 64 ≤ k + n then Tab.set (0 : BitVec 4) t (l / 64) (BitVec.ofNat 4 tag) else t) s.tags }

/-- The worst class among the locations that `n` bytes touch, with its location; tags are compared only where a tag
is given (R206). -/
def worstErr (s : State) (k n : Nat) (tag : Option Nat) : Option (Nat × Nat) :=
  match tag with
  | none => if s.errs.isEmpty then none else
      (locsOf k n).foldl (fun a l => match a with
        | some x => if x.1 = 1 && 1 < errClass l (s.err l) false then some (errClass l (s.err l) false, l) else some x
        | none => if errClass l (s.err l) false = 0 then none else some (errClass l (s.err l) false, l)) none
  | some t => if t = 0 && s.errs.isEmpty && s.tags.isEmpty then none else (locsOf k n).foldl (fun a l =>
      let c := errClass l (s.err l) (s.tagAt l != BitVec.ofNat 4 t)
      match a with
      | some x => if x.1 = 1 && 1 < c then some (c, l) else some x
      | none => if c = 0 then none else some (c, l)) none

/-- Cluster number of a core index, die × 4 + cluster (R51). -/
def clusterOf (core : Nat) : Nat := core / 68
/-- Physical index within the cluster. -/
def physOf (core : Nat) : Nat := core % 68

def State.cluster (s : State) (c : Nat) : Cluster := Tab.get Cluster.reset s.clusters c
def State.setCluster (s : State) (c : Nat) (v : Cluster) : State :=
  { s with clusters := Tab.set Cluster.reset s.clusters c v }
def State.core (s : State) (c : Nat) : Core := Tab.get Core.reset s.cores c
def State.setCore (s : State) (c : Nat) (v : Core) : State := { s with cores := Tab.set Core.reset s.cores c v }
/-- Context 0 or 1 of a core. -/
def Core.ctx (c : Core) (x : Nat) : Ctx := if x = 0 then c.ctx0 else c.ctx1
def Core.setCtx (c : Core) (x : Nat) (v : Ctx) : Core := if x = 0 then { c with ctx0 := v } else { c with ctx1 := v }
def State.ctx (s : State) (c x : Nat) : Ctx := (s.core c).ctx x
def State.setCtx (s : State) (c x : Nat) (v : Ctx) : State := s.setCore c ((s.core c).setCtx x v)

/-- Identifier of a core's array of a kind (R209). -/
def coreArray (kind core : Nat) : Nat := kind * 4096 + clusterOf core * 256 + physOf core
/-- Bytes of a context's half of the context registers and of the checkpoint shadows (log entry 16). -/
def ctxArrayBytes : Nat := 2 ^ 18
/-- Where a context's half of such an array begins. -/
def ctxArrayKey (kind core x : Nat) : Nat := arrKey (coreArray kind core) (x % 2 * ctxArrayBytes)

/-- The cluster's dispatcher has one more decision to make (R51). -/
def State.decisionDue (s : State) (cl : Nat) : State :=
  s.setCluster cl { s.cluster cl with decideDue := (s.cluster cl).decideDue + 1 }

/-- What a context that is freed keeps: its registers, which the next placement sets anew (R35, R112, R142), with nothing in flight
and no checkpoint. -/
def Ctx.freed (c : Ctx) : Ctx :=
  { Ctx.reset with
    arch := { c.arch with dueRegs := [], seqDue := [], dueLatches := [], groups := [] }
    arrived := c.arrived
    status := c.status
    cause := c.cause
    tval := c.tval
    spill := c.spill
    mode := c.mode
    cart := c.cart }

/-- A context becomes free, which its cluster's dispatcher takes note of (R51). -/
def State.freeCtx (s : State) (core x : Nat) : State := (s.setCtx core x (s.ctx core x).freed).decisionDue (clusterOf core)

/-- Core index of an architectural core code, die 9:8, cluster 7:6, core 5:0 (R28, R310); none when the number is not
in service. -/
def coreOfCode (s : State) (code : Nat) : Option Nat :=
  let cl := s.cluster (code / 64 % 16)
  if code % 64 < cl.cores then (cl.map[code % 64]?).map (fun p => 68 * (code / 64 % 16) + p) else none

/-- Architectural core code of a core index; none for a spare or retired core. -/
def codeOfCore (s : State) (core : Nat) : Option Nat :=
  let cl := s.cluster (clusterOf core)
  match findIdx (· == physOf core) (cl.map.take cl.cores) 0 with
  | some (i, _) => some (64 * clusterOf core + i)
  | none => none

/-- The job of a number. -/
def State.job (s : State) (j : Nat) : Option Job := Tab.get none s.jobs j
def State.setJob (s : State) (j : Nat) (v : Option Job) : State := { s with jobs := Tab.set none s.jobs j v }

/-- A job's descriptor field (R303); zero when there is no such job. -/
def jobField (s : State) (j hi lo : Nat) : Nat :=
  match s.job j with
  | some v => fld v.desc.toNat hi lo
  | none => 0
/-- ASID of a job (R287). -/
def jobAsid (s : State) (j : Nat) : Nat := jobField s j 490 475

/-- The mapped-code entry that a kernel's fetch takes for a segment (R300). -/
def segEntry (s : State) (asid codeBase num : Nat) : Option Mapped :=
  s.mapped.find? (fun m => m.asid == asid && m.va == (codeBase + num * 8192) / 65536 && !m.isDict &&
    (match s.manifests[m.manifest]? with
     | some k => k.codeBase == codeBase && num < k.segments
     | none => false))
/-- Physical place of a segment of a kernel. -/
def segKey (s : State) (asid codeBase num : Nat) : Option Nat :=
  (segEntry s asid codeBase num).map (fun m => m.frame * 65536 + (codeBase + num * 8192) % 65536)
/-- The cartouche of the segment that holds an offset of a kernel. -/
def segCart (s : State) (asid codeBase off : Nat) : Option (BitVec 512) :=
  (segKey s asid codeBase (off / 4096)).map (fun k => BitVec.ofNat 512 (leNat (s.bytes k 64)))

/-- A frame that holds executable code (R301). -/
def markedFrame (s : State) (p : Nat) : Bool := s.mapped.any (fun m => m.frame == p / 65536)

/-- A free value no two reads of which are related, and the state that has used it (log entry 2). -/
def fresh (s : State) : BitVec 2048 × State := (Config.freeValue s.freeCtr, { s with freeCtr := s.freeCtr + 1 })

/-- Bytes whose contents are open, each from a free value of its own (log entry 2). -/
def openBytes (s : State) (n : Nat) : State × List Byte :=
  ({ s with freeCtr := s.freeCtr + n }, (List.range n).map (fun i => (Config.freeValue (s.freeCtr + i)).setWidth 8))

end Sys2Proof.Machine
end

