-- ==== Sys2Proof/Machine/Trans.lean ====
section
/-! DEFINITION. Translation (R287 to R290), the device address layout (R201, R202), tenant windows (R203) and the
compressed view (R204). -/
namespace Sys2Proof.Machine

/-- A completed walk: the leaf, the address it gives, where the leaf stands, its level, and the page's base. -/
structure Xl where
  leaf : Nat
  addr : Nat
  leafAt : Nat
  level : Nat
deriving DecidableEq, Repr

/-- PATHOK of R289. -/
def pathOk (p leaf : Nat) : Bool :=
  let target := fld leaf 7 6
  let shared := leaf.testBit 8
  let compress := leaf.testBit 9
  if p ≤ 1 then target == 0 && !shared && !compress
  else if p = 4 then target == 0 && !shared && compress
  else if p = 5 then target == 2 && !shared && !compress
  else if p = 6 then shared && target ≤ 1
  else false

/-- What a leaf found at a level gives for a virtual address (R288, R289); none is a FAULT. -/
def useLeaf (leaf leafAt level va p : Nat) (wr : Bool) : Option Xl :=
  if fld leaf 91 90 ≠ 0 || fld leaf 65 64 ≠ 0 || fld leaf 15 10 ≠ 0 || fld leaf 3 2 = 3 || fld leaf 7 6 = 3 then none
  else if level = 3 then none
  else if 0 < level && (leaf.testBit 8 || leaf.testBit 9) then none
  else
    let frame := fld leaf 63 16
    if frame % 2 ^ (8 * level) ≠ 0 then none
    else if !pathOk p leaf then none
    else if (if wr then !leaf.testBit 5 else !leaf.testBit 4) then none
    else
      let a := frame * 65536 + va % 2 ^ (16 + 8 * level)
      if fld leaf 7 6 = 0 && Config.devMemEnd ≤ a then none else some ⟨leaf, a, leafAt, level⟩

/-- Bytes that the device reads of a place it names itself, with no tag to compare, meet an error that the code does not
correct (R206). -/
def beyondRepair (s : State) (k n : Nat) : Bool := (worstErr s k n none).any (fun e => 1 < e.1)

/-- The levels of WALK (R289): `n` is the level plus one, `node` the node's physical address. An entry that the code does not
correct gives no translation (log entry 16). -/
def walkFrom (s : State) (va p : Nat) (wr : Bool) : Nat → Nat → Option Xl
  | 0, _ => none
  | n + 1, node =>
    let at' := node + 16 * fld va (8 * n + 23) (8 * n + 16)
    let e := leNat (s.bytes at' 16)
    if beyondRepair s at' 16 then none
    else if !e.testBit 0 then none
    else if e.testBit 1 then useLeaf e at' n va p wr
    else if fld e 127 64 ≠ 0 || fld e 11 1 ≠ 0 then none
    else walkFrom s va p wr n (fld e 63 12 * 4096)

/-- The entries that the levels of a walk read. -/
def nodesFrom (s : State) (va : Nat) : Nat → Nat → List Nat
  | 0, _ => []
  | n + 1, node =>
    let at' := node + 16 * fld va (8 * n + 23) (8 * n + 16)
    let e := leNat (s.bytes at' 16)
    at' :: (if beyondRepair s at' 16 || e % 4 ≠ 1 || fld e 127 64 ≠ 0 || fld e 11 2 ≠ 0 then []
      else nodesFrom s va n (fld e 63 12 * 4096))

/-- The address-space entry of an ASID (R287). -/
def asidEntry (s : State) (asid : Nat) : Nat := (Tab.get (0 : BitVec 128) s.asids asid).toNat

/-- A physical address inside a key-value tenant's region (R317). -/
def inRegion (s : State) (a : Nat) : Bool :=
  s.tenants.any (fun t => match t.2 with
    | some d => fld d.toNat 447 384 ≤ a && a < fld d.toNat 447 384 + 65536 * fld d.toNat 383 360
    | none => false)

/-- A result inside a tenant's region is a fault (R317). -/
def outsideRegions (s : State) (x : Option Xl) : Option Xl :=
  match x with
  | some y => if fld y.leaf 7 6 = 0 && inRegion s y.addr then none else some y
  | none => none

/-- WALK (R289): afresh, through the tables. -/
def walk (s : State) (asid va p : Nat) (wr : Bool) : Option Xl :=
  let a := asidEntry s asid
  if a.testBit 0 then outsideRegions s (walkFrom s (va % 2 ^ 48) p wr 4 (fld a 91 64 * 4096)) else none

/-- The table entries that a walk of an address reads. -/
def walkEntries (s : State) (asid va : Nat) : List Nat :=
  let a := asidEntry s asid
  if a.testBit 0 then nodesFrom s (va % 2 ^ 48) 4 (fld a 91 64 * 4096) else []

/-- A cached leaf that serves an address (R290). -/
def cachedLeaf (l : List TlbEnt) (asid va : Nat) : Option TlbEnt :=
  l.find? (fun t => t.asid == asid && va / 2 ^ t.log2 == t.base)

/-- A leaf kept in a cache of `cap` entries, the oldest dropped (the replacement policy is the implementation's). -/
def cacheLeaf (cap asid va : Nat) (x : Xl) (l : List TlbEnt) : List TlbEnt :=
  let k := 16 + 8 * x.level
  let t : TlbEnt := ⟨asid, va % 2 ^ 48 / 2 ^ k, k, x.leafAt, BitVec.ofNat 128 x.leaf⟩
  (t :: l.filter (fun u => !(u.asid == asid && u.base == t.base && u.log2 == k))).take cap

/-- The translation cache of a die. -/
def State.dieCache (s : State) (die : Nat) : List TlbEnt := Tab.get [] s.dieTlb die

/-- Array identifier of a die's translation cache (R209). -/
def tlbArray (die : Nat) : Nat := 8 * 4096 + die

/-- An error in a cached leaf (R205): where the parity of the entry finds it, the entry is dropped; an even number of wrong
bits passes for the leaf (log entry 16). -/
def parityError (j : Inj) (l : List TlbEnt) : List TlbEnt :=
  let i := j.key % 2 ^ 40 / 16
  if j.kind = 0 && popCount j.mask.toNat 64 % 2 = 0 then
    match l[i]? with
    | some t => l.set i { t with leaf := t.leaf ^^^ j.mask.setWidth 128 }
    | none => l
  else if j.kind = 1 && !j.mask.getLsbD 0 then l
  else l.eraseIdx i

/-- An error that applies to a die's translation cache. -/
def parityApply (s : State) (die : Nat) (j : Inj) : State :=
  { s with dieTlb := Tab.set [] s.dieTlb die (parityError j (s.dieCache die)) }

/-- Drops cached leaves of an address range of an ASID (R291). -/
def dropCached (s : State) (asid va len : Nat) : State :=
  let keep : TlbEnt → Bool := fun t =>
    !(t.asid == asid && t.base * 2 ^ t.log2 < va + len && va < (t.base + 1) * 2 ^ t.log2)
  { s with
    clusters := (List.range 16).foldl (fun m c =>
      let v := Tab.get Cluster.reset m c
      Tab.set Cluster.reset m c { v with tlb := (List.range 8).foldl (fun m e => Tab.set [] m e ((Tab.get [] m e).filter keep)) v.tlb })
      s.clusters
    dieTlb := (List.range 4).foldl (fun m d => Tab.set [] m d ((Tab.get [] m d).filter keep)) s.dieTlb }

/-- Status codes of R253. -/
def stOk : Nat := 0
def stRetry : Nat := 1
def stMisalign : Nat := 2
def stMisElem : Nat := 3
def stPoison : Nat := 4
def stStale : Nat := 5
def stRevoked : Nat := 6
def stBound : Nat := 7
def stAborted : Nat := 8
def stLink : Nat := 9

/-- Path of a device address. -/
def pathOf (a : Nat) : Nat := fld a 63 60

/-- The fields R201 requires to be zero. -/
def addrFieldsOk (a : Nat) : Bool :=
  let p := pathOf a
  if p = 0 || p = 1 || p = 4 || p = 6 then fld a 55 48 == 0
  else if p = 5 then fld a 59 48 == 0
  else if p = 2 then fld a 59 36 == 0
  else if p = 3 then fld a 59 36 == 0 && fld a 25 24 ≤ 1 && fld a 23 21 == 0
  else if p = 7 then fld a 59 56 == 0 && fld a 55 48 ≤ 3
  else true

/-- A window entry covers an access (R203). -/
def windowCovers (w : Nat) (a len : Nat) (wr : Bool) : Bool :=
  let p := pathOf a
  let off := if p = 7 then fld a 47 0 else fld a 25 0
  fld w 255 252 == p &&
  (if p = 7 then fld w 239 236 == fld a 55 48 else fld w 249 240 == fld a 35 26) &&
  (if wr then w.testBit 235 else w.testBit 234) &&
  fld w 191 128 ≤ off && off + len ≤ fld w 127 64

/-- Bytes of the space that a path-2 or path-3 address names. -/
def spaceBytes (a : Nat) : Nat :=
  if pathOf a = 2 then wtBytes else if fld a 25 24 = 0 then actBytes else accBytes

/-- Offset within that space. -/
def spaceOff (a : Nat) : Nat := if pathOf a = 2 then fld a 25 0 else fld a 20 0

/-- Key of a path-2 or path-3 address on a core. -/
def spaceKey (core a : Nat) : Nat :=
  if pathOf a = 2 then wtKey core (fld a 25 0)
  else if fld a 25 24 = 0 then actKey core (fld a 20 0) else accKey core (fld a 20 0)

/-- The sheet number of four, from bits 47:6 of an address at its home (R382). -/
def sheetFour (a : Nat) : Nat := (List.range 21).foldl (fun x i => x ^^^ fld a (2 * i + 1) (2 * i)) 0
/-- The index among three sheets in service. -/
def sheetThree (a : Nat) : Nat := a % 3
/-- The index among two. -/
def sheetTwo (a : Nat) : Nat := popCount a 42 % 2

/-- The sheet that an access takes, of the list in service in increasing order (R16, R382): `live` holds two, three or four
sheets, one that every address takes, or none. -/
def sheetIn (live : List Nat) (addr : Nat) : Nat :=
  let a := fld addr 47 6
  let i := if live.length = 4 then sheetFour a else if live.length = 3 then sheetThree a else if live.length = 2 then sheetTwo a else 0
  live.getD i 0
/-- The sheet of an access to the home at key `k` by device address `a`, whichever agent makes it (R16, R382): device memory's
homes are hashed by their physical addresses, every other by the device address. -/
def sheetOf (s : State) (k a : Nat) : Nat := sheetIn s.sheets.live (if k / 2 ^ 60 = 0 then k else a)

/-- Where an access lands: its first key, the tag it carries to a tagged sector, the shared leaf it counts against
(R297), the peer when it leaves the device, and whether it reads the compressed view. -/
structure Spot where
  key : Nat
  tag : Option Nat
  shared : Option Nat
  peer : Option Nat
  view : Bool
deriving DecidableEq, Repr

/-- Bounds of a context that a CPY on its own core is checked against in place of the windows (R256). -/
structure Own where
  core : Nat
  cart : Nat
deriving DecidableEq, Repr

/-- Bounds fields of a cartouche, in bytes (R59, R126). -/
def wtBounds (cart : Nat) : Nat × Nat := (fld cart 271 256 * 4096, fld cart 287 272 * 4096)
def actBounds (cart : Nat) : Nat × Nat := (fld cart 303 288 * 256, fld cart 319 304 * 256)
def accBounds (cart : Nat) : Nat × Nat := (fld cart 335 320 * 128, fld cart 351 336 * 128)

end Sys2Proof.Machine
end

