-- ==== Sys2Proof/Machine/Report.lean ====
section
/-! DEFINITION. What the device reports: rings it produces (R246, R247), notices (R280, R431), error logs (R209),
suspicion scores (R362 to R364, R376), events outward, and reads of a core's buffers with their error handling (R208). -/
namespace Sys2Proof.Machine

/-- Fields of a ring descriptor (R246). -/
def rdWrite (d : Nat) : Nat := fld d 511 448
def rdRead (d : Nat) : Nat := fld d 447 384
def rdBase (d : Nat) : Nat := fld d 383 320
def rdKind (d : Nat) : Nat := fld d 319 316
def rdLog2 (d : Nat) : Nat := fld d 315 311
def rdHalted (d : Nat) : Bool := d.testBit 310
def rdJob (d : Nat) : Nat := fld d 303 288

/-- Entries held, modulo 2^64. -/
def rdCount (d : Nat) : Nat := (rdWrite d + 2 ^ 64 - rdRead d) % 2 ^ 64

/-- A descriptor that may be served (R246). -/
def rdOk (d : Nat) : Bool :=
  let k := rdKind d
  let n := rdLog2 d
  1 ≤ k && k ≤ 7 && 4 ≤ n && (if k = 6 || k = 7 then n ≤ 12 else n ≤ 20) &&
  fld d 309 304 == 0 && fld d 283 256 == 0 && fld d 191 0 == 0

/-- Bytes of an entry by kind (R246). -/
def rdEntry (k : Nat) : Nat :=
  if k = 1 then 64 else if k = 3 || k = 4 then 32 else if k = 6 || k = 7 then 4096 else 8

/-- Source 5 of R431. -/
def srcDevice : Nat := 5 * 2 ^ 60

/-- Writes a word of a descriptor. -/
def State.setDesc (s : State) (k : Nat) (d : Nat) : State := s.put k (leBytes 64 d)
/-- Reads a descriptor; one that its code does not correct holds nothing that could be served (log entry 16). -/
def State.desc (s : State) (k : Nat) : Nat := if beyondRepair s k 64 then 0 else leNat (s.bytes k 64)

/-- Writes one entry of a device-produced ring whose descriptor stands at key `dk`; the slot is found through path 0
of an address space, or is a host bus address. False when the entry is dropped: the ring is full (R247), or no write reaches
its slot or its descriptor (R301). -/
def ringProduce (s : State) (dk asid : Nat) (entry : List Byte) : State × Bool :=
  let d := s.desc dk
  if !rdOk d || 2 ^ rdLog2 d ≤ rdCount d || markedFrame s dk then (s, false)
  else
    let a := rdBase d + rdWrite d % 2 ^ rdLog2 d * rdEntry (rdKind d)
    let k := if pathOf a = 5 then some (hostKey (fld a 47 0))
      else match walk s asid (fld a 47 0) 0 true with
        | some x => if markedFrame s x.addr then none else some x.addr
        | none => none
    match k with
    | none => (s, false)
    | some k =>
      let s1 := s.put k entry
      (s1.setDesc dk (setFld d 511 448 (rdWrite d + 1)), true)

/-- Notice kinds of R280. -/
def nkRecord : Nat := 1
def nkSpillEmpty : Nat := 2
def nkHalted : Nat := 3
def nkSemDropped : Nat := 4
def nkCapacity : Nat := 5
def nkPinnedShared : Nat := 6
def nkFault : Nat := 7
def nkFrozen : Nat := 8
def nkRehash : Nat := 9
def nkRevoked : Nat := 10
def nkRingInvalid : Nat := 11

/-- Posts a notice on a job's notification queue (R247, R280); a full queue or one that cannot be written drops it. -/
def postNotice (s : State) (job kind addr detail : Nat) : State :=
  match s.job job with
  | none => s
  | some j =>
    let asid := fld j.desc.toNat 490 475
    match walk s asid (fld j.desc.toNat 375 328) 0 true with
    | none => s
    | some x =>
      let e := setFld (setFld (setFld (setFld (setFld 0 255 240 kind) 239 224 job) 223 192 j.noteSeq.toNat)
        191 128 addr) 127 64 detail + b2n j.noteOv
      let (s1, ok) := ringProduce s x.addr asid (leBytes 32 e)
      s1.setJob job (some (if ok then { j with noteSeq := j.noteSeq + 1, noteOv := false } else { j with noteOv := true }))

/-- A ring's descriptor that the device writes for a job; one in a frame that holds executable code is not written, and the job
hears of it (R301, R431). -/
def putDesc (s : State) (job va k d : Nat) : State :=
  if markedFrame s k then postNotice s job nkFault va srcDevice else s.setDesc k d

/-- Something sent outward. -/
def emit (s : State) (m : Sent) : State := { s with sent := s.sent ++ [m] }

def State.session (s : State) (n : Nat) : Session := Tab.get Session.none s.sessions n
def State.setSession (s : State) (n : Nat) (v : Session) : State := { s with sessions := Tab.set Session.none s.sessions n v }

/-- Payload bytes that one message holds (R407). -/
def msgRoom : Nat := 4064

/-- Message header (R407). -/
def headerOf (opcode tag job result len : Nat) (more : Bool) : Nat :=
  setFld (setFld (setFld (setFld (setFld (setFld 0 255 240 opcode) 239 224 tag) 223 208 job) 207 200 result) 199 199 (b2n more)) 191 160 len

/-- A payload cut into the messages of its chain, each with whether another follows (R407). -/
def chainOf (bs : List Byte) : List (Bool × List Byte) :=
  let n := max 1 ((bs.length + msgRoom - 1) / msgRoom)
  (List.range n).map (fun i => (decide (i + 1 < n), (bs.drop (msgRoom * i)).take msgRoom))

/-- Words of a payload. -/
def wordBytes (l : List Nat) : List Byte := l.flatMap (leBytes 8)

/-- One message on a session's event ring (R247, R406): 4,096 bytes, which are secured and so not the spec's to name (log
entry 9); a full ring drops it, and the next message carries the overflow. -/
def sessionEntry (s : State) (n : Nat) : State :=
  let v := s.session n
  let dk := hostKey (fld v.ev.toNat 47 0)
  let d := s.desc dk
  if !v.up || !rdOk d || rdKind d ≠ 7 then s
  else
    let msg := (List.range 16).flatMap (fun i => leBytes 256 (Config.freeValue (s.freeCtr + i)).toNat)
    let r := ringProduce { s with freeCtr := s.freeCtr + 16 } dk 0 msg
    r.1.setSession n { v with evOv := !r.2 }

/-- An event: on session 0's ring, and on those of the job's session where it has one, each time its whole chain (R407, R410). -/
def emitEvent (s : State) (opcode : Nat) (job : Option Nat) (payload : List Nat) : State :=
  let s1 := emit s (.event opcode job payload)
  s1.sessions.foldl (fun t v => if v.1 = 0 || (job.isSome && v.2.job = job) then
    (chainOf (wordBytes payload)).foldl (fun u _ => sessionEntry u v.1) t else t) s1

/-- Suspicion score of a component (R362). -/
def State.score (s : State) (i : Nat) : Nat := (Tab.get (0 : BitVec 16) s.scores i).toNat
/-- A score that rises to 256, 4,096 or 16,384: the Surveyor schedules a survey, quarantines or retires (R364). -/
def reaches (a b : Nat) : Bool := [256, 4096, 16384].any (fun t => decide (a < t) && decide (t ≤ b))

/-- Components that the Surveyor is to lease, with one more among them (R364, R370, R376). -/
def withDueSurvey (l : List Nat) (i : Nat) : List Nat := if l.contains i then l else l ++ [i]

/-- The score area of a copy of the retirement table with one score written. -/
def RetTable.keep (t : RetTable) (i v : Nat) : RetTable := { t with scores := Tab.set (0 : BitVec 16) t.scores i (BitVec.ofNat 16 v) }

/-- A score changes; both copies of the retirement table take it when its value div 256 changes, and the Surveyor hears of a threshold
reached (R312, R364). -/
def State.setScore (s : State) (i v : Nat) : State :=
  { s with
    surveyDue := if reaches (s.score i) (v % 65536) then withDueSurvey s.surveyDue i else s.surveyDue
    scores := Tab.set (0 : BitVec 16) s.scores i (BitVec.ofNat 16 v)
    die0 := if s.score i / 256 = v % 65536 / 256 then s.die0 else s.die0.keep i v
    die2 := if s.score i / 256 = v % 65536 / 256 then s.die2 else s.die2.keep i v }

/-- Raises a score, saturating (R363). -/
def chargeScore (s : State) (i n : Nat) : State := s.setScore i (min 65535 (s.score i + n))

/-- Charges a component of a core, provisionally during an excursion of its cluster's voltage (R363, R376). -/
def chargeCore (s : State) (cl i n : Nat) : State :=
  let c := s.cluster cl
  if c.trimMv = 0 then chargeScore s i n
  else s.setCluster cl { c with provisional := Tab.set 0 c.provisional i (Tab.get 0 c.provisional i + n) }

/-- The arithmetic cycle of a cluster: that of its core which has counted most. -/
def clusterCycle (s : State) (cl : Nat) : Nat :=
  s.cores.foldl (fun m k => if clusterOf k.1 = cl then max m k.2.cycle else m) 0

/-- Arithmetic cycles of the trim window (R376). -/
def trimWindow : Nat := 2 ^ 24

/-- Corrected errors of a cluster within the last 2^24 cycles. -/
def trimRecent (s : State) (cl : Nat) : List Nat := (s.cluster cl).trimErrs.filter (clusterCycle s cl < · + trimWindow)

/-- The cluster is inside its trim window: at most eight corrected errors, no UNCORRECTABLE and no PIPE (R376). -/
def inTrimWindow (s : State) (cl : Nat) : Bool :=
  (trimRecent s cl).length ≤ 8 && !(s.cluster cl).trimHard.any (clusterCycle s cl < · + trimWindow)

/-- The trim loop's answer to an error of component `i` of the cluster (R376): up 10 mV above eight corrected errors of the window, to
nominal on an uncorrectable error or a PIPE trip; a rate above eight at nominal asks for the component's survey. -/
def trimError (s : State) (cl i : Nat) (hard : Bool) : State :=
  let c := s.cluster cl
  let now := clusterCycle s cl
  let l := trimRecent s cl ++ [now]
  if hard then s.setCluster cl { c with trimMv := 0, trimErrs := [], trimHard := some now }
  else if 8 < l.length then
    let s1 := s.setCluster cl { c with trimMv := c.trimMv - 10, trimErrs := [] }
    if c.trimMv = 0 then { s1 with surveyDue := withDueSurvey s1.surveyDue i } else s1
  else s.setCluster cl { c with trimErrs := l }

/-- Array identifier of a key (R209). -/
def arrayOfKey (k : Nat) : Nat :=
  let core := k % 2 ^ 60 / 2 ^ 26
  if k / 2 ^ 60 = 0 then 7 * 4096 + Config.channelOf (k / 64) % 48
  else if k / 2 ^ 60 = 10 then k % 2 ^ 60 / 2 ^ 40
  else if k / 2 ^ 60 = 2 then coreArray 2 core
  else if k % 2 ^ 26 < 2 ^ 24 then coreArray 0 core else coreArray 1 core

/-- Core whose array holds a key. -/
def coreOfKey (k : Nat) : Nat :=
  if k / 2 ^ 60 = 10 then k % 2 ^ 52 / 2 ^ 48 * 68 + k % 2 ^ 47 / 2 ^ 40 else k % 2 ^ 60 / 2 ^ 26

/-- Byte address within that array. -/
def addrInArray (k : Nat) : Nat :=
  if k / 2 ^ 60 = 0 then k else if k / 2 ^ 60 = 10 then k % 2 ^ 40 else if k / 2 ^ 60 = 2 then k % 2 ^ 26 else k % 2 ^ 24

/-- Score index that an error at a key charges (R362, R363). -/
def scoreOfKey (k : Nat) : Nat :=
  let core := coreOfKey k
  if k / 2 ^ 60 = 0 then 2176 + 64 * (Config.channelOf (k / 64) % 48) + Config.windowOf (k / 64) % 64
  else if k / 2 ^ 60 = 2 then 1088 + core else core

/-- Who consumed bad data: ctx.id bits 10:0 of a context, and the job (R209). -/
structure Consumer where
  ctxId : Option Nat
  job : Nat
deriving DecidableEq, Repr

/-- The charge of an error of a class (R363). -/
def chargeOf (cls : Nat) : Nat := if cls = 1 then 4 else if cls = 2 || cls = 4 then 256 else 0

/-- An error charges its component, and a cluster's trim loop hears of it (R363, R376). -/
def chargeError (s : State) (k cls : Nat) : State :=
  if k / 2 ^ 60 = 0 then chargeScore s (scoreOfKey k) (chargeOf cls)
  else
    let cl := clusterOf (coreOfKey k)
    let s1 := chargeCore s cl (scoreOfKey k) (chargeOf cls)
    if cls = 1 then trimError s1 cl (scoreOfKey k) false else if cls = 2 then trimError s1 cl (scoreOfKey k) true else s1

/-- An error-log record goes to the ring of its array (R209); none goes to an array without one, and one that cannot be written
for the frame its slot or descriptor stands in posts a notice (R301). -/
def logError (s : State) (arr : Nat) (record : ErrLog → Nat) : State :=
  let l := Tab.get ErrLog.reset s.errLogs arr
  if l.desc = 0 then s
  else
    let d := s.desc l.desc
    let job := rdJob d
    let slot := rdBase d + rdWrite d % 2 ^ rdLog2 d * 32
    let r := ringProduce s l.desc (jobAsid s job) (leBytes 32 (record l))
    let l1 : ErrLog := if r.2 then { l with seq := l.seq + 1, overflow := false } else { l with overflow := true }
    let s1 := { r.1 with errLogs := Tab.set ErrLog.reset r.1.errLogs arr l1 }
    if r.2 || !rdOk d || 2 ^ rdLog2 d ≤ rdCount d then s1 else postNotice s1 job nkFault slot srcDevice

/-- Writes an error-log record and charges the score (R208, R209, R363). -/
def reportError (s : State) (k cls storedTag accessTag : Nat) (who : Consumer) : State :=
  let arr := arrayOfKey k
  let syn := fresh s
  let e := fun (l : ErrLog) => setFld (setFld (setFld (setFld (setFld (setFld (setFld (setFld (setFld 0 255 192 (addrInArray k))
    191 160 (syn.1.toNat)) 159 144 arr) 143 136 cls) 135 132 storedTag) 131 128 accessTag)
    127 112 (match who.ctxId with | some c => 2 ^ 15 + c % 2 ^ 11 | none => 0)) 111 96 who.job) 95 64 l.seq.toNat
    + b2n l.overflow
  chargeError (logError syn.2 arr e) k cls

/-- An uncorrectable weight row is poisoned; the host hears once of each row group (R208, R410). -/
def weightLost (s : State) (l : Nat) : State :=
  let g := l / 4096 * 4096
  let known := (List.range 64).any (fun i => (s.err (g + 64 * i)).poison)
  let s1 := s.poisonAt l
  if known then s1 else emitEvent s1 0x8007 none [l % 2 ^ 60 / 2 ^ 26, l % 2 ^ 26 / 4096]

/-- A copy reads one code word (R208): the state after, and the class where it is not harmless. -/
def copyReadErr (s : State) (l : Nat) (tag : Option Nat) (w : Consumer) : State × Option Nat :=
  let e := s.err l
  let st := (s.tagAt l).toNat
  let c := errClass l e (match tag with | some t => st != t | none => false)
  let at' := tag.getD 0
  if c = 0 then (s, none)
  else if c = 1 then ((reportError s l 1 0 at' w).setErr l Err.clear, none)
  else if c = 3 then (reportError s l 3 st at' w, some 3)
  else if c = 2 && l / 2 ^ 60 = 2 then (weightLost (reportError s l c 0 at' w) l, some c)
  else (reportError s l c 0 at' w, some c)

/-- Code words read in order; the worst outcome: a tag mismatch stops, anything else is poison. -/
def copyReadLocs (s : State) (ls : List Nat) (tag : Option Nat) (w : Consumer) : State × Bool × Bool :=
  ls.foldl (fun p l =>
    let (s1, c) := copyReadErr p.1 l tag w
    match c with
    | none => (s1, p.2)
    | some c => (s1, p.2.1 || c = 3, p.2.2 || c ≠ 3)) (s, false, false)

/-- The code words of a range. -/
def copyReadErrs (s : State) (k n : Nat) (tag : Option Nat) (w : Consumer) : State × Bool × Bool :=
  if (tag.isNone || (tag == some 0 && s.tags.isEmpty)) && s.errs.isEmpty then (s, false, false)
  else copyReadLocs s (locsOf k n) tag w

/-- What a read leaves of the errors it meets (R208): recorded, charged, and rewritten where they are corrected. -/
def meet (s : State) (k n : Nat) (tag : Option Nat) (w : Consumer) : State := (copyReadErrs s k n tag w).1

/-- A core reads one code word with an error (R208): the state after, and the class when it raises ECC. -/
def readErr (s : State) (l : Nat) (who : Consumer) : State × Option Nat :=
  let e := s.err l
  let c := errClass l e false
  if c = 0 then (s, none)
  else if c = 1 then
    let n := popCount e.data.toNat 64 + popCount e.check.toNat 64
    let s1 := if l / 2 ^ 60 ≠ 0 && l / 2 ^ 60 ≠ 10 && (if l / 2 ^ 60 = 2 then 2 else 1) < n then
        let f := fresh s
        { f.2 with mem := f.2.mem.write l (leBytes (granule l) f.1.toNat) } else s
    ((reportError s1 l 1 0 0 who).setErr l Err.clear, none)
  else
    let s1 := reportError s l c 0 0 who
    if c = 5 then (s1, some c)
    else if l / 2 ^ 60 = 2 then (weightLost s1 l, some c)
    else (s1.poisonAt l, some c)

/-- Reads code words of a core's arrays: errors are handled location by location (R208), and the first location that
raises ECC is given with its class. -/
def readLocs (s : State) (locs : List Nat) (who : Consumer) : State × Option (Nat × Nat) :=
  locs.foldl (fun a l =>
    let (s1, r) := readErr a.1 l who
    (s1, match a.2, r with
      | some x, _ => some x
      | none, some c => some (c, l)
      | none, none => none)) (s, none)

/-- Reads bytes of a core's buffers. -/
def readChecked (s : State) (k n : Nat) (who : Consumer) : State × Option (Nat × Nat) :=
  if s.errs.isEmpty then (s, none) else readLocs s (locsOf k n) who

/-- Reads a range of an array in which few locations bear an error. -/
def readArray (s : State) (k n : Nat) (who : Consumer) : State × Option (Nat × Nat) :=
  if s.errs.isEmpty then (s, none)
  else readLocs s ((s.errs.map (·.1)).filter (fun l => k ≤ l && l < k + n)) who

end Sys2Proof.Machine
end

