-- ==== Sys2Proof/Machine/Ops.lean ====
section
/-! DEFINITION. The named operations of a context: registers with their constants (R68, R71, R109, R141), the due
queue (R46, R47), buffer accesses with forwarding (R126 to R128, R198), commands, counters (R345, R348, R353, R354),
and taking a trap: the rollback of R367 and what follows it (R115, R368). -/
namespace Sys2Proof.Machine

/-! Registers of the captured state. -/

/-- s0 reads zero (R109). -/
def Arch.rdS (a : Arch) (n : Nat) : Word := if n = 0 then 0 else Tab.get 0 a.s n
/-- Writes to s0 are discarded (R71). -/
def Arch.wrS (a : Arch) (n : Nat) (v : Word) : Arch := if n = 0 then a else { a with s := Tab.set 0 a.s n v }
/-- p0 reads true and p1 false (R68). -/
def Arch.rdP (a : Arch) (n : Nat) : Bool := if n = 0 then true else if n = 1 then false else Tab.get false a.p n
def Arch.wrP (a : Arch) (n : Nat) (v : Bool) : Arch := if n ≤ 1 then a else { a with p := Tab.set false a.p n v }
/-- k0 reads all true (R141). -/
def Arch.rdK (a : Arch) (n : Nat) : Word := if n = 0 then BitVec.allOnes 64 else Tab.get 0 a.k n
def Arch.wrK (a : Arch) (n : Nat) (v : Word) : Arch := if n = 0 then a else { a with k := Tab.set 0 a.k n v }
def Arch.rdV (a : Arch) (n : Nat) : Vec := Tab.get 0 a.v n
def Arch.wrV (a : Arch) (n : Nat) (v : Vec) : Arch := { a with v := Tab.set 0 a.v n v }
def Arch.rdW (a : Arch) (n : Nat) : Latch := Tab.get 0 a.w n
def Arch.wrW (a : Arch) (n : Nat) (v : Latch) : Arch := { a with w := Tab.set 0 a.w n v }
def Arch.rdH (a : Arch) (n : Nat) : BitVec 256 := Tab.get 0 a.h n
def Arch.wrH (a : Arch) (n : Nat) (v : BitVec 256) : Arch := { a with h := Tab.set 0 a.h n v }
def Arch.rdF (a : Arch) (n : Nat) : BitVec 16 := Tab.get 0 a.f n
def Arch.wrF (a : Arch) (n : Nat) (v : BitVec 16) : Arch := { a with f := Tab.set 0 a.f n v }
def Arch.rdTb (a : Arch) (n : Nat) : BitVec 27 := Tab.get 0 a.tb n
def Arch.wrTb (a : Arch) (n : Nat) (v : BitVec 27) : Arch := { a with tb := Tab.set 0 a.tb n v }
def Arch.rdQ (a : Arch) (n : Nat) : Option Binding := Tab.get none a.q n
def Arch.wrQ (a : Arch) (n : Nat) (v : Option Binding) : Arch := { a with q := Tab.set none a.q n v }
def Arch.rdLoop (a : Arch) (n : Nat) : Loop := Tab.get Loop.idle a.loops n
def Arch.wrLoop (a : Arch) (n : Nat) (v : Loop) : Arch := { a with loops := Tab.set Loop.idle a.loops n v }
def Arch.rdId (a : Arch) (ch : Nat) : BitVec 32 := Tab.get 0 a.nextId ch
def Arch.wrId (a : Arch) (ch : Nat) (v : BitVec 32) : Arch := { a with nextId := Tab.set 0 a.nextId ch v }
def Arch.rdG (a : Arch) (ch : Nat) : Option Gather := Tab.get none a.gather ch
def Arch.wrG (a : Arch) (ch : Nat) (v : Option Gather) : Arch := { a with gather := Tab.set none a.gather ch v }

/-- Engine words by sel (R173). -/
def MSet.word (m : MSet) (sel : Nat) : Word :=
  if sel = 0 then m.rows else if sel = 1 then m.acc else if sel = 2 then m.astride else if sel = 3 then m.ascale
  else if sel = 4 then m.kpad else if sel = 5 then m.cols else m.mode
def MSet.setWord (m : MSet) (sel : Nat) (v : Word) : MSet :=
  if sel = 0 then { m with rows := v } else if sel = 1 then { m with acc := v }
  else if sel = 2 then { m with astride := v } else if sel = 3 then { m with ascale := v }
  else if sel = 4 then { m with kpad := v } else if sel = 5 then { m with cols := v } else { m with mode := v }
def DSet.word (m : DSet) (sel : Nat) : Word :=
  if sel = 0x10 then m.wstride else if sel = 0x11 then m.wscale else m.mode
def DSet.setWord (m : DSet) (sel : Nat) (v : Word) : DSet :=
  if sel = 0x10 then { m with wstride := v } else if sel = 0x11 then { m with wscale := v } else { m with mode := v }

/-- A shadow word of either engine. -/
def Arch.rdEng (a : Arch) (sel : Nat) : Word := if sel < 0x10 then a.mSh.word sel else a.dSh.word sel
def Arch.wrEng (a : Arch) (sel : Nat) (v : Word) : Arch :=
  if sel < 0x10 then { a with mSh := a.mSh.setWord sel v } else { a with dSh := a.dSh.setWord sel v }

/-- A result landing on its destination (R46). -/
def Arch.land (a : Arch) (d : DueReg) : Arch :=
  match d.dest with
  | .scalar n => a.wrS n (d.val.setWidth 64)
  | .pair n => (a.wrP (2 * n) (d.val.getLsbD 0)).wrP (2 * n + 1) (d.val.getLsbD 1)
  | .kreg n => a.wrK n (d.val.setWidth 64)
  | .vec n => a.wrV n d.val
  | .shape n => a.wrH n (d.val.setWidth 256)
  | .eng sel => a.wrEng sel (d.val.setWidth 64)
  | .owner => { a with bankC := d.val.getLsbD 0 }

/-! The acting context. -/

def State.me (s : State) : Ctx := s.ctx s.cur.core s.cur.ctx
def State.setMe (s : State) (v : Ctx) : State := s.setCtx s.cur.core s.cur.ctx v
def State.arch (s : State) : Arch := s.me.arch
def State.setArch (s : State) (a : Arch) : State := s.setMe { s.me with arch := a }
def State.myCore (s : State) : Core := s.core s.cur.core
def State.setMyCore (s : State) (v : Core) : State := s.setCore s.cur.core v
def rdS (s : State) (n : Nat) : Word := s.arch.rdS n

/-- ctx.id bits 10:0 of a context: bit 0 the context, 10:1 its architectural core (R114). -/
def ctxIdOf (s : State) (core x : Nat) : Nat := (codeOfCore s core).getD 0 * 2 + x

/-- The acting context as a consumer of data (R209). -/
def meConsumer (s : State) : Consumer := ⟨some (ctxIdOf s s.cur.core s.cur.ctx), s.me.job⟩

/-! Traps. -/

/-- Cause codes (R115). -/
def causeCode : Cause → Nat
  | .bound => 1 | .form => 2 | .shape => 3 | .pipe => 4 | .ecc => 5 | .segtag => 6 | .noexec => 7 | .brk => 8
  | .trap => 9 | .waitlong => 10

/-- A barrier word taken apart: err, armed, phase and count (R345). -/
def tbCount (b : BitVec 27) : Int := sx 24 b.toNat
def tbPhase (b : BitVec 27) : Bool := b.getLsbD 24
def tbArmed (b : BitVec 27) : Bool := b.getLsbD 25
def tbErr (b : BitVec 27) : Bool := b.getLsbD 26
def tbMake (err armed phase : Bool) (count : Int) : BitVec 27 :=
  BitVec.ofNat 27 (b2n err * 2 ^ 26 + b2n armed * 2 ^ 25 + b2n phase * 2 ^ 24 + wrapInt 24 count)

/-- CHANGE of R353 by a positive amount. -/
def tbAdd (b : BitVec 27) (n : Nat) : BitVec 27 :=
  let c := tbCount b + n
  if c > 2 ^ 23 - 1 then tbMake true false (!tbPhase b) 0
  else if tbArmed b && c == 0 then tbMake (tbErr b) false (!tbPhase b) c
  else tbMake (tbErr b) (tbArmed b) (tbPhase b) c

/-- CHANGE of R353 by −1, `n` times: the bytes that bring an armed count to zero, then those below it. -/
def tbCharge (b : BitVec 27) (n : Nat) : BitVec 27 :=
  let c := tbCount b
  let flip := tbArmed b && 0 < c && c ≤ n
  let b1 := if flip then tbMake (tbErr b) false (!tbPhase b) 0 else b
  let n1 : Nat := if flip then n - c.toNat else n
  let room : Nat := (tbCount b1 + 2 ^ 23 + 1).toNat
  if n1 < room then tbMake (tbErr b1) (tbArmed b1) (tbPhase b1) (tbCount b1 - n1)
  else
    let k := 1 + (n1 - room) / (2 ^ 23 + 1)
    tbMake true false (if k % 2 = 1 then !tbPhase b1 else tbPhase b1) (-(((n1 - room) % (2 ^ 23 + 1) : Nat) : Int))

/-- A change from outside the context (R347, R348). -/
def Arch.outside (a : Arch) : Outside → Arch
  | .sem f n => a.wrF f (a.rdF f + BitVec.ofNat 16 n)
  | .charge tb n => a.wrTb tb (tbCharge (a.rdTb tb) n)

/-- A change from outside reaches a context and is recorded for the rollback (R348). -/
def Ctx.outsideChange (c : Ctx) (o : Outside) : Ctx :=
  { c with arch := c.arch.outside o, outside := c.outside ++ [o] }

/-- Replays the undo log: rows it holds are written back (R200); the newest entry stands first. -/
def undoRows (s : State) (core : Nat) (rows : List (Nat × Row)) : State :=
  rows.foldl (fun s r => s.put (accKey core (128 * r.1)) (leBytes 128 r.2.toNat)) s

/-- What a core's address queue of a channel holds for a unit: its job, record and channel (R244). -/
def addrQKey (job rec ch : Nat) : Nat := (job * 2 ^ 64 + rec) * 8 + ch % 8

/-- Address queues after a rollback: indices pushed after the capture are discarded (R271). -/
def cutAddrQ (q : Tab (List Word)) (job rec : Nat) (now then' : Arch) : Tab (List Word) :=
  (List.range 8).foldl (fun q ch =>
    let k := addrQKey job rec ch
    let l := Tab.get [] q k
    let pushed := match now.rdG ch with | some g => g.pushed | none => 0
    let kept := match then'.rdG ch with | some g => g.pushed | none => 0
    Tab.set [] q k (l.take (l.length - (pushed - kept)))) q

/-- Arrived counts after a rollback: a gather's arrivals go down to the captured pushes (R271). -/
def cutArrived (t : Tab Nat) (now then' : Arch) : Tab Nat :=
  (List.range 8).foldl (fun t ch => match now.rdG ch with
    | some g =>
      let kept := match then'.rdG ch with | some h => h.pushed | none => 0
      Tab.set 0 t g.q (min (Tab.get 0 t g.q) kept)
    | none => t) t

/-- A gather's rows of indices that a rollback discards are fetched again: its command goes back to the captured pushes
(R271). -/
def Cmd.cutGather (c : Cmd) (x job rec : Nat) (now then' : Arch) : Cmd :=
  match c.kind with
  | .gath _ _ _ _ _ =>
    if c.ctx = x && c.job == job && c.owner == rec && (now.rdG c.ch).isSome then
      let kept := match then'.rdG c.ch with
        | some g => g.pushed
        | none => 0
      let back := fun (n : Nat) (h : List Nat) => if n < kept then c else
        { c with phase := .stream kept { Prog.start with holes := h.filter (· < kept) } }
      match c.phase with
      | .stream n g => back n g.holes
      | _ => c
    else c
  | _ => c

/-- The cartouche that a core's segment cache holds for an offset of a context's kernel. -/
def cachedCart (co : Core) (c : Ctx) (asid : Nat) (off : Nat) : Option (BitVec 512) :=
  (co.segs.find? (fun g => g.asid == asid && g.codeBase == c.codeBase && g.num == off / 4096)).map (·.cart)

/-- The cartouche of the segment that holds ctx.ckpt: the core's verified copy, else the mapped segment; with neither the
bounds stay as they are (R367 step 5). -/
def ckptCart (s : State) (co : Core) (c : Ctx) : BitVec 512 :=
  match cachedCart co c (jobAsid s c.job) (c.ckpt.toNat % 2 ^ 24) with
  | some k => k
  | none => (segCart s (jobAsid s c.job) c.codeBase (c.ckpt.toNat % 2 ^ 24)).getD c.cart

/-- Steps 1 to 5 of R367. The context's registers are written whole. -/
def rollback (s : State) (core x : Nat) : State :=
  let c := s.ctx core x
  let s1 := arrayWritten (undoRows s core c.undo) (ctxArrayKey 5 core x) ctxArrayBytes
  let co := s1.core core
  let a := c.outside.foldl Arch.outside c.shadow
  let cart := ckptCart s1 co c
  let c1 := { c with arch := a, withhold := [], undo := [], arrived := cutArrived c.arrived c.arch c.shadow,
                     cart := cart, bubble := 0, clock := 0, unmet := [], replay := c.bundleCkpt,
                     run := match c.run with | .suspending _ => .running | r => r }
  s1.setCore core ({ co with addrQ := cutAddrQ co.addrQ c.job c.recAddr c.arch c.shadow
                             cmds := co.cmds.map (fun (k : Cmd) => k.cutGather x c.job c.recAddr c.arch c.shadow) }.setCtx x c1)

/-- Writes ctx.cause and ctx.tval (R114, R115); of an offset the low 24 bits (log entry 70). -/
def Ctx.recordTrap (c : Ctx) (t : TrapInfo) : Ctx :=
  let n := min 255 (c.traps + 1)
  { c with traps := c.traps + 1, tval := t.tval
           cause := BitVec.ofNat 64 (t.code % 2 ^ 16 * 2 ^ 48 + t.off % 2 ^ 24 * 2 ^ 24 + t.slot % 8 * 2 ^ 21 +
             n * 2 ^ 8 + causeCode t.cause) }

/-- What follows the rollback (R368). A context in debug-step mode halts on a fatal cause, and on SEGTAG. A unit taken off
tries for its frame at once: its clock stands at the value at which a stop is tried (R31, R370). -/
def afterRollback (s : State) (core x : Nat) (t : TrapInfo) (oldResult : Bool) : State :=
  let c := s.ctx core x
  let debug := c.mode.getLsbD 0
  match t.cause with
  | .pipe =>
    if oldResult then s.setCtx core x { c with run := .removing .interval }
    else if 4 ≤ c.pipes + 1 then s.setCtx core x { c with pipes := c.pipes + 1, run := .takeOff, clock := Config.longWait }
    else s.setCtx core x { c with pipes := c.pipes + 1 }
  | .ecc =>
    if c.eccLocs.contains t.loc then s.setCtx core x { c with run := .removing .interval }
    else s.setCtx core x { c with eccLocs := t.loc :: c.eccLocs }
  | .segtag =>
    if debug then s.setCtx core x { c with halted := true, steps := 0, segtags := t.loc :: c.segtags }
    else if c.segtags.contains t.loc then s.setCtx core x { c with run := .removing .fatal }
    else s.setCtx core x { c with segtags := t.loc :: c.segtags }
  | .waitlong => s
  | _ =>
    if debug then s.setCtx core x { c with halted := true, steps := 0 }
    else s.setCtx core x { c with run := .removing .fatal }

/-- A context as a consumer of data (R209). -/
def ctxConsumer (s : State) (core x : Nat) : Consumer := ⟨some (ctxIdOf s core x), (s.ctx core x).job⟩

/-- The shadow is read for a rollback: whether an error in it cannot be corrected (R205, R208). -/
def readShadow (s : State) (core x : Nat) : State × Bool :=
  let r := readArray s (ctxArrayKey 6 core x) ctxArrayBytes (ctxConsumer s core x)
  (r.1, r.2.isSome)

/-- Takes a trap: ctx.cause and ctx.tval are written, the context is rolled back to its last checkpoint, and the
cause decides what follows (R115, R367, R368); an uncorrectable error in the shadow makes it an interval rollback (R385). -/
def takeTrap (s : State) (core x : Nat) (t : TrapInfo) (oldResult : Bool) : State :=
  let s1 := s.setCtx core x ((s.ctx core x).recordTrap t)
  let r := readShadow s1 core x
  if r.2 then r.1.setCtx core x { r.1.ctx core x with run := .removing .interval }
  else afterRollback (rollback r.1 core x) core x t oldResult

/-- A trap of the acting slot: the rest of the bundle has no effect. -/
def raise (s : State) (cause : Cause) (code : Nat) (tval : Word) : State :=
  let t : TrapInfo := ⟨cause, code, s.cur.slot, s.arch.pc.toNat, tval, 0⟩
  let s1 := takeTrap s s.cur.core s.cur.ctx t false
  { s1 with cur := { s1.cur with trapped := true } }

/-- TRAP with a device code (R135). -/
def raiseTrap (s : State) (code : Nat) : State := raise s .trap code 0

/-! Results and the due queue. -/

/-- The latency that the issuing segment declares for a class (R63). -/
def latency (s : State) (cls : Nat) : Nat := fld s.me.cart.toNat (359 + 8 * cls) (352 + 8 * cls)
/-- The D940's own latency of a class (R63). -/
def ownLatency (cls : Nat) : Nat := Config.d940Latency.getD cls 1

/-- A register result due after `lat` ticks and produced after `own` cycles; a full queue raises TRAP 0xFF11 (R47). -/
def pushResult (s : State) (dest : Dest) (v : Nat) (lat own : Nat) (trap : Option TrapInfo) : State :=
  let a := s.arch
  if 64 ≤ a.dueRegs.length then raiseTrap s 0xFF11
  else s.setArch { a with dueRegs := a.dueRegs ++
    [⟨dest, BitVec.ofNat 2048 v, lat, s.myCore.cycle + own, false, trap, a.pc.toNat⟩] }

/-- A register result of a latency class. -/
def push (s : State) (dest : Dest) (v : Nat) (cls : Nat) : State :=
  pushResult s dest v (latency s cls) (ownLatency cls) none

/-- A scalar result of class alu (R119). -/
def pushScalar (s : State) (n : Nat) (v : Nat) : State := push s (.scalar n) v 0

/-- A predicate pair result: p(2n) and its complement (R124, R125). -/
def pushPair (s : State) (n : Nat) (c : Bool) : State := push s (.pair n) (if c then 1 else 2) 0

/-- A latch load (R177, R178). -/
def pushLatch (s : State) (w : Nat) (v : Nat) (trap : Option TrapInfo) : State :=
  let a := s.arch
  if 8 ≤ a.dueLatches.length then raiseTrap s 0xFF11
  else s.setArch { a with dueLatches := a.dueLatches ++
    [⟨w, BitVec.ofNat 17408 v, latency s 7, s.myCore.cycle + ownLatency 7, false, trap, a.pc.toNat⟩] }

/-- Staged rows held (R279). -/
def stagedRows (a : Arch) : Nat := (a.groups.map (fun g => g.rows.length)).sum

/-- A group of staged accumulator rows (R180, R187, R279). -/
def pushRows (s : State) (rows : List (Nat × Row)) (lat own : Nat) (trap : Option TrapInfo) : State :=
  let a := s.arch
  if rows.isEmpty then s
  else if 16 ≤ a.groups.length || 512 < stagedRows a + rows.length then raiseTrap s 0xFF11
  else s.setArch { a with groups := a.groups ++ [⟨rows, lat, s.myCore.cycle + own, false, trap, a.pc.toNat⟩] }

/-! Buffer accesses. -/

/-- The three core-local spaces (R14). -/
inductive Space where
  | wt | act | acc
deriving DecidableEq, Repr

def spaceBase (s : State) : Space → Nat
  | .wt => wtKey s.cur.core 0
  | .act => actKey s.cur.core 0
  | .acc => accKey s.cur.core 0

/-- Bounds of a space in force for the acting context (R62, R126). -/
def spaceBounds (s : State) : Space → Nat × Nat
  | .wt => wtBounds s.me.cart.toNat
  | .act => actBounds s.me.cart.toNat
  | .acc => accBounds s.me.cart.toNat

/-- Form bit of an activation line of a core (R194); true is ciphertext. -/
def State.form (s : State) (core line : Nat) : Bool := Tab.get false s.forms (core * 8192 + line)
def State.setForm (s : State) (core line : Nat) (v : Bool) : State :=
  { s with forms := Tab.set false s.forms (core * 8192 + line) v }

/-- A fault found by a check: cause, code and the address for ctx.tval. -/
abbrev Flaw := Cause × Nat × Nat

/-- Bounds of an access: the lowest byte outside them (R126, R430). -/
def boundFlaw (b : Nat × Nat) (a n : Nat) : Option Flaw :=
  if n = 0 then none
  else if a < b.1 then some (.bound, 1, a)
  else if b.2 < a + n then some (.bound, 1, max a b.2)
  else none

/-- First ciphertext line of an activation range. -/
def formFlaw (s : State) (a n : Nat) : Option Flaw :=
  if n = 0 then none
  else match ((List.range ((a + n - 1) / 256 + 1 - a / 256)).map (· + a / 256)).find? (s.form s.cur.core ·) with
    | some l => some (.form, 1, max a (256 * l))
    | none => none

/-- The first flaw found. -/
def firstFlaw (l : List (Option Flaw)) : Option Flaw := l.findSome? id

/-- Of several accesses of one instruction the flaw of lowest address among those of one kind (R430, R162). -/
def lowestFlaw (l : List (Option Flaw)) : Option Flaw :=
  l.foldl (fun a b => match a, b with
    | none, y => y
    | some x, none => some x
    | some x, some y => if y.2.2 < x.2.2 then some y else some x) none

/-- The issue checks of an access of `n` bytes aligned to `align`: alignment, bounds, form (R128, R162, R430). -/
def accessFlaw (s : State) (sp : Space) (a n align : Nat) : Option Flaw :=
  firstFlaw [if a % align ≠ 0 then some (.bound, 2, a) else none, boundFlaw (spaceBounds s sp) a n,
    if sp = .act then formFlaw s a n else none]

/-- Raises a flaw in the acting slot. -/
def raiseFlaw (s : State) (f : Flaw) : State := raise s f.1 f.2.1 (BitVec.ofNat 64 f.2.2)

/-- Bytes that the context's own stores of earlier ticks hold in a range while they are withheld or not yet performed, the
latest last (R127, R198, R227). -/
def forwarded (c : Ctx) (k n : Nat) : List (Nat × Byte) :=
  ((c.releasing ++ c.withhold).map (fun e => match e with
    | .store t bs => if t = c.arch.tick then [] else bs.filter (fun b => k ≤ b.1 && b.1 < k + n)
    | .cmd _ _ => [])).flatten

/-- Overlays forwarded bytes. -/
def overlay (bs : List Byte) (k : Nat) (w : List (Nat × Byte)) : List Byte :=
  if w.isEmpty then bs
  else
    let r := w.reverse
    (bs.zipIdx k).map (fun b => match r.find? (fun c => c.1 == b.2) with
      | some c => c.2
      | none => b.1)

/-- Bytes of a core-local space as the acting context sees them at this tick (R127, R163, R227). -/
def seen (s : State) (sp : Space) (a n : Nat) : List Byte :=
  let k := spaceBase s sp + a
  overlay (s.bytes k n) k (forwarded s.me k n)

/-- ECC of the data read (R208), over the ranges read: the state after, and the trap to raise at the due tick. Code
words wholly held by the context's own withheld stores are not read. -/
def readEccMany (s : State) (sp : Space) (rs : List (Nat × Nat)) : State × Option TrapInfo :=
  if s.errs.isEmpty then (s, none)
  else
    let b := spaceBase s sp
    let locs := ((rs.map (fun r => locsOf (b + r.1) r.2)).flatten).eraseDups.filter (fun l =>
      !(List.range (granule l)).all (fun i => (forwarded s.me l (granule l)).any (fun c => c.1 == l + i)))
    let r := locs.foldl (fun (p : State × Option (Nat × Nat)) l =>
      let (s1, e) := readErr p.1 l (meConsumer s)
      (s1, match p.2, e with
        | some y, some c => if l < y.2 then some (c, l) else some y
        | some y, none => some y
        | none, some c => some (c, l)
        | none, none => none)) (s, none)
    (r.1, r.2.map (fun e =>
      let l := e.2 - b
      let first := (rs.filterMap (fun r => if r.1 < l + granule e.2 && l < r.1 + r.2 then some (max r.1 l) else none)).foldl
        min (l + granule e.2)
      ⟨.ecc, e.1, s.cur.slot, s.arch.pc.toNat, BitVec.ofNat 64 first, e.2⟩))

/-- ECC of one range. -/
def readEcc (s : State) (sp : Space) (a n : Nat) : State × Option TrapInfo := readEccMany s sp [(a, n)]

/-- The first of two pending traps. -/
def orTrap (a b : Option TrapInfo) : Option TrapInfo := match a with
  | some x => some x
  | none => b

/-- A store of the acting slot takes one entry of the withhold buffer (R198). -/
def withholdStore (s : State) (bs : List (Nat × Byte)) : State :=
  let c := s.me
  s.setMe { c with withhold := c.withhold ++ [.store c.arch.tick bs] }

/-- Addressed bytes of a store. -/
def addressed (k : Nat) (bs : List Byte) : List (Nat × Byte) := (bs.zipIdx k).map (fun b => (b.2, b.1))

/-- A withheld command of the acting slot (R198). -/
def withholdCmd (s : State) (ch : Nat) (id : BitVec 32) (scope : Nat) (k : CmdKind) : State :=
  let c := s.me
  s.setMe { c with withhold := c.withhold ++
    [.cmd c.arch.tick ⟨0, s.cur.ctx, ch, id, c.job, c.recAddr, scope, k, .queued, c.cart, 0, []⟩] }

/-- The next transfer ID of a channel is taken (R354). -/
def takeId (s : State) (ch : Nat) : BitVec 32 × State :=
  let a := s.arch
  (a.rdId ch, s.setArch (a.wrId ch (a.rdId ch + 1)))

/-- The transfer of control of the acting bundle (R129). -/
def setNext (s : State) (pc : Word) : State := { s with cur := { s.cur with next := some pc } }
/-- Cycles in which the context offers no bundle after a transfer on the D940 (R129, R132, R134). -/
def addBubble (s : State) (n : Nat) : State := s.setMe { s.me with bubble := s.me.bubble + n }

/-- Index words of the acting bundle (R55). -/
def bundleLen (s : State) : Nat := if s.cur.lit then 25 else 1

/-- PASSED of R354. -/
def passed (status x : BitVec 32) : Bool := 1 ≤ (status - x).toNat && (status - x).toNat ≤ 2 ^ 31

/-- A condition on integers (R69). -/
def condHolds : Cond → Int → Int → Bool
  | .eq, a, b => a == b
  | .ne, a, b => a != b
  | .lt, a, b => a < b
  | .le, a, b => a ≤ b
  | .gt, a, b => b < a
  | .ge, a, b => b ≤ a

end Sys2Proof.Machine
end

