-- ==== Sys2Proof/Machine/Operands.lean ====
section
/-! DEFINITION. Operand forms: scalar values by type (R117), vector elements and their governing lanes (R140, R145),
effective addresses (R126, R160). -/
namespace Sys2Proof.Machine

/-- Signedness of a type; code 0 has the signedness the instruction states (R117). -/
def signedTy (t : Ty) (dflt : Bool) : Bool := if t = .none then dflt else tySigned t

/-- X(v, ty) of R117. -/
def opX (v : Word) (t : Ty) (dflt : Bool) : Int :=
  if signedTy t dflt then sx (tyWidth t) v.toNat else ((v.toNat % 2 ^ tyWidth t : Nat) : Int)
/-- U(a): the low W bits unsigned. -/
def opU (v : Word) (t : Ty) : Nat := v.toNat % 2 ^ tyWidth t
/-- S(a): the low W bits signed. -/
def opS (v : Word) (t : Ty) : Int := sx (tyWidth t) v.toNat
/-- FIT(x, ty) of R117. -/
def fit (x : Int) (t : Ty) (dflt : Bool) : Nat :=
  let y := wrapInt (tyWidth t) x
  if signedTy t dflt then wrapInt 64 (sx (tyWidth t) y) else y
/-- SX32(imm32). -/
def sx32 (i : BitVec 32) : Word := i.signExtend 64

/-- An element widened to 64 bits: sign-extended for .iN, zero-extended for every other type (R126, R151). -/
def widen (t : Ty) (x : Nat) : Nat := if tySigned t then wrapInt 64 (sx (tyWidth t) x) else x % 2 ^ tyWidth t

/-- Elements of a register at a type's width (R140). -/
def elemsOf (t : Ty) : Nat := 2048 / tyWidth t
/-- EN(i): the lane-predicate bit that governs element `i` of width `w` (R140). -/
def enabled (k : Word) (w i : Nat) : Bool := k.getLsbD (i * w / 32)
/-- LANEMERGE: disabled elements hold what the destination held at issue (R145). -/
def laneMerge (k : Word) (w : Nat) (old : Vec) (f : Nat → Nat) : Nat :=
  joinElems w ((List.range (2048 / w)).map (fun i => if enabled k w i then f i else elem old.toNat w i))

/-- A vector register of the acting context. -/
def rdV (s : State) (n : Nat) : Vec := s.arch.rdV n
/-- A lane predicate of the acting context. -/
def rdK (s : State) (n : Nat) : Word := s.arch.rdK n

/-- Scalar buffer address (R126). -/
def addrSI (s : State) (f : SI) : Nat := (rdS s f.sa.val + sx32 f.imm).toNat
/-- Vector buffer address (R160). -/
def addrVM (s : State) (f : VM) : Nat := (rdS s f.sa.val + f.off.signExtend 64).toNat

/-- Goes on only when the acting slot has not trapped. -/
def ifOk (s : State) (f : State → State) : State := if s.cur.trapped then s else f s

/-- Bank C registers. -/
def bankC (n : Nat) : Bool := 32 ≤ n && n ≤ 47
/-- Ownership of bank C by the V slot (R143): TRAP 0xFF03 when a named register belongs to the other slot. -/
def ownedV (s : State) (l : List Nat) : Bool := !(s.arch.bankC && l.any bankC)
def ownedM (s : State) (l : List Nat) : Bool := s.arch.bankC || !l.any bankC

end Sys2Proof.Machine
end

