-- ==== Sys2Proof/Machine/Flags.lean ====
section
/-! DEFINITION. Predicates: the machine has no flags in its arithmetic (R118); compares and predicate operations write
predicate pairs and lane predicates (R124, R125, R150, R165). -/
namespace Sys2Proof.Machine

/-- c of R124. -/
def cmpScalar (f : SC) (a b : Word) : Bool := condHolds f.cond (opX a f.ty true) (opX b f.ty true)

/-- The two sources of a predicate operation, complemented as na and nb say (R125). -/
def predA (s : State) (f : SP) : Bool := s.arch.rdP f.pa.val != f.na
def predB (s : State) (f : SP) : Bool := s.arch.rdP f.pb.val != f.nb

/-- A lane-predicate value from a test of each lane's element (R150). -/
def laneBits (test : Nat → Bool) : Nat :=
  joinElems 1 ((List.range 64).map (fun j => b2n (test j)))

/-- Lanes j below d mod 64; all when d is a non-zero multiple of 64; none for 0 (R134). -/
def lanesBelow (d : Nat) : Nat :=
  if d = 0 then 0 else if d % 64 = 0 then 2 ^ 64 - 1 else 2 ^ (d % 64) - 1

end Sys2Proof.Machine
end

