-- ==== Sys2Proof/Machine/Prio.lean ====
section
/-! DEFINITION. Launch records (R304), effective priority (R50) and cluster capacity (R116). -/
namespace Sys2Proof.Machine

/-- A record of a job's launch pool (R304). -/
def poolRec (j : Job) (slot : Nat) : Nat := (Tab.get (0 : BitVec 1024) j.pool slot).toNat
def lrState (r : Nat) : Nat := fld r 1023 1020
def lrArmCount (r : Nat) : Nat := fld r 1019 1004
def lrPin (r : Nat) : Nat := fld r 1001 1000
def lrBasePrio (r : Nat) : Nat := fld r 999 997
def lrPlacement (r : Nat) : Nat := fld r 996 981
def lrUnits (r : Nat) : Nat := fld r 980 959 + 1
def lrEntry (r : Nat) : Nat := fld r 958 935
def lrBitmapBits (r : Nat) : Nat := fld r 836 813
def lrScratchPages (r : Nat) : Nat := fld r 812 797
def lrCodeBase (r : Nat) : Nat := fld r 767 720
def lrDict (r : Nat) : Nat := fld r 719 672
def lrRecordBase (r : Nat) : Nat := fld r 671 624
def lrCounter (r : Nat) : Nat := fld r 623 576
def lrParent (r : Nat) : Nat := fld r 575 528
def lrBitmap (r : Nat) : Nat := fld r 527 480
def lrScratchBase (r : Nat) : Nat := fld r 479 432

/-- Launch slots that a record depends on (R304). -/
def lrEdges (r : Nat) : List Nat :=
  [837, 854, 871, 888].filterMap (fun lo => if r.testBit (lo + 16) then some (fld r (lo + 15) lo) else none)

/-- ARMED or RUNNING. -/
def lrLive (r : Nat) : Bool := lrState r == 1 || lrState r == 2

/-- Launches in state ARMED or RUNNING that depend on one of `set`, added to it, `n` times over (R50). -/
def dependents (j : Job) : Nat → List Nat → List Nat
  | 0, set => set
  | n + 1, set =>
    dependents j n (set ++ (j.pool.filterMap (fun c =>
      if lrLive c.2.toNat && !set.contains c.1 && (lrEdges c.2.toNat).any (set.contains ·) then some c.1 else none)))

/-- INHERIT (R50). -/
def inheritPrio (j : Job) (launch : Nat) : Nat :=
  (((dependents j j.pool.length [launch]).drop 1).map (fun q => lrBasePrio (poolRec j q))).foldl max 0

/-- EFF (R50). -/
def effPrio (s : State) (job launch base age : Nat) : Nat :=
  match s.job job with
  | some j => min (fld j.desc.toNat 495 493) (max (base + age) (inheritPrio j launch))
  | none => 0

/-- Effective priority of a running context: it keeps the AGE it had when placed (R50). -/
def effCtx (s : State) (c : Ctx) : Nat := effPrio s c.job c.launch c.basePrio c.age

/-- core.capacity of a cluster (R116). -/
def capacityOf (s : State) (cl : Nat) : Nat :=
  let c := s.cluster cl
  c.changeSeq.toNat * 2 ^ 16 + b2n s.ret.replacement * 2 ^ 15 + c.spares % 16 * 2 ^ 11 + c.leased % 16 * 2 ^ 7 +
    c.cores % 128

end Sys2Proof.Machine
end

