-- ==== Sys2Proof/Machine/Control.lean ====
section
/-! DEFINITION. The C-slot instructions other than SUSPEND and YIELD (R113 to R116, R129 to R137, R144). -/
namespace Sys2Proof.Machine

/-- A taken transfer costs one cycle without an offered bundle (R129, R132). -/
def transfer (s : State) (pc : Word) (cost : Nat) : State := addBubble (setNext s pc) cost

def execJ (f : CJ) (s : State) : Res := .next (transfer s (f.target.setWidth 64) 1)
/-- JR: (s[sa] + target) mod 2^64 (R129). -/
def execJr (f : CJ) (s : State) : Res := .next (transfer s (rdS s f.sa.val + f.target.setWidth 64) 1)
/-- CALL: the link is the offset after the CALL bundle, in class alu (R129). -/
def execCall (f : CJ) (s : State) : Res :=
  .next (ifOk (pushScalar s f.sd.val ((s.arch.pc + BitVec.ofNat 64 (bundleLen s)).toNat))
    (fun s => transfer s (f.target.setWidth 64) 1))
def execRet (f : CJ) (s : State) : Res := .next (transfer s (rdS s f.sa.val) 1)

/-- Levels from `l` to 5 become inactive (R132). -/
def dropLevels (a : Arch) (l : Nat) : Arch :=
  (List.range 6).foldl (fun a j => if l ≤ j then a.wrLoop j Loop.idle else a) a

/-- A sequencer update: it lands at t + 1 after every other result due then (R111, R132). -/
def seqPush (a : Arch) (d : Dest) (v : Nat) : Arch :=
  { a with seqDue := a.seqDue ++ [⟨d, BitVec.ofNat 2048 v, 1, 0, false, none, a.pc.toNat⟩] }

/-- LOOP (R130, R132). -/
def execLoop (f : CL) (s : State) : Res :=
  let start := s.arch.pc.toNat + bundleLen s
  let len := f.lenM1.toNat + 1
  let n : Word := if f.sa.val = 0 then f.trip.setWidth 64 else rdS s f.sa.val
  if n = 0 then .next (transfer s (BitVec.ofNat 64 (start + len)) 1)
  else
    let lv : Loop := ⟨true, start, start + len - 1, n, f.sd.val, rdS s f.sb.val, f.pair.val⟩
    .next (s.setArch (seqPush ((dropLevels s.arch f.level.val).wrLoop f.level.val lv) (.pair f.pair.val)
      (1 + 2 * b2n (n == 1))))

/-- LBRK (R131, R132). -/
def execLbrk (f : CL) (s : State) : Res :=
  let lv := s.arch.rdLoop f.level.val
  if lv.active then
    .next (transfer (s.setArch (dropLevels s.arch f.level.val)) (BitVec.ofNat 64 (lv.stop + 1)) 1)
  else .next s

/-- The shadow word m.rows as it will stand once every pending write of it has landed (log entry 70). -/
def pendingRows (a : Arch) : Nat :=
  (a.dueRegs.foldl (fun v d => if d.dest = .eng 0 then d.val.toNat % 2 ^ 64 else v) (a.mSh.rows.toNat))

/-- The bucket a table selects for a dimension (R134): first entry whose size is at least `d`. -/
def bucketOf (tab : Nat) (n d : Nat) : Option Nat :=
  (List.range n).find? (fun i => d ≤ fld tab (128 * (i + 1) + 31) (128 * (i + 1)))

/-- Reserved bits of a bucket table set, or a count outside 1 to 64 (R133, R134). -/
def bucketBad (tab n : Nat) : Bool :=
  n = 0 || 64 < n || fld tab 127 32 ≠ 0 || (List.range n).any (fun i => fld tab (128 * (i + 1) + 127) (128 * (i + 1) + 56) ≠ 0)

/-- The padding count b − d; where it does not fit its 16 bits the spec states no value (log entry 2). -/
def padCount (s : State) (b d : Nat) : Nat × State :=
  if b - d < 2 ^ 16 then (b - d, s) else ((fresh s).1.toNat % 2 ^ 16, (fresh s).2)

/-- BSEL (R133, R134). An error of the table is raised when the result lands, with the lowest failing byte as address (log
entry 70). -/
def execBsel (f : CB) (s : State) : Res :=
  let a := (rdS s f.sa.val).toNat
  let d := (rdS s f.sb.val).toNat
  let at' := fun (w : Flaw) => raise s w.1 w.2.1 (rdS s f.sa.val)
  match firstFlaw [if a % 16 ≠ 0 then some (.bound, 2, a) else none, boundFlaw (spaceBounds s .act) a 16] with
  | some w => .next (at' w)
  | none =>
    let n := leNat (seen s .act a 1)
    let size := 16 * (n + 1)
    match firstFlaw [boundFlaw (spaceBounds s .act) a size, formFlaw s a size] with
    | some w => .next (at' w)
    | none =>
      let tab := leNat (seen s .act a size)
      if bucketBad tab n then .next (at' (.shape, 1, a))
      else
        let (s1, e) := readEcc s .act a size
        let r := match bucketOf tab n d with
          | some i => (fld tab (128 * (i + 1) + 31) (128 * (i + 1)), fld tab (128 * (i + 1) + 55) (128 * (i + 1) + 32))
          | none => (d, fld tab 31 8)
        let (pad, s2) := padCount s1 r.1 d
        .next (ifOk (pushResult s2 (.scalar f.sd.val) r.1 (latency s 0) (ownLatency 0) e) (fun s =>
          ifOk (push s (.kreg 15) (lanesBelow d) 0) (fun s =>
            ifOk (push s (.eng 0) (setFld (pendingRows s.arch) 31 16 pad) 0) (fun s =>
              transfer s (BitVec.ofNat 64 r.2) 6))))

/-- LEND (R144): `m` asks for the M slot; nothing happens when the owner is already as asked. The change lands at t + 1:
the D940 value of class alu is the only delay it has, whatever the segment declares (log entry 13). An MDRAIN into bank C that is due while
the M slot owns the bank does not trap a LEND M, which has no effect then (R144, log entry 81). -/
def lend (s : State) (m : Bool) : State :=
  if s.arch.bankC = m then s
  else if s.cur.vdests.any bankC || s.arch.dueRegs.any (fun d => match d.dest with
      | .vec n => bankC n
      | _ => false) then raiseTrap s 0xFF04
  else pushResult s .owner (b2n m) (ownLatency 0) (ownLatency 0) none

def execLendC (f : LF) (s : State) : Res := .next (lend s f.dir)
def execLendV (f : LF) (s : State) : Res := .next (lend s f.dir)

def execTrap (f : CY) (s : State) : Res := .next (raise s .trap f.imm.toNat 0)
def execBrk (f : CY) (s : State) : Res := .next (raise s .brk f.imm.toNat 0)

/-- ctx.id (R114). -/
def ctxIdWord (s : State) (core x : Nat) : Nat := ctxIdOf s core x + physOf core * 2 ^ 16

/-- Value of a system register (R114). -/
def sysValue (s : State) (n : Nat) : Nat :=
  let c := s.me
  let k := c.cart.toNat
  if n = 0 then c.arch.tick.toNat
  else if n = 1 then c.cause.toNat
  else if n = 2 then c.tval.toNat
  else if n = 3 then c.ckpt.toNat
  else if n = 4 then c.spill.toNat
  else if n = 5 then c.job * 2 ^ 38 + c.launch * 2 ^ 22 + c.index
  else if n = 6 then ctxIdWord s s.cur.core s.cur.ctx
  else if n = 7 then c.mode.toNat
  else if n = 8 then effCtx s c
  else if n = 9 then fld k 255 224
  else if n = 10 then c.arch.idle.toNat
  else if n < 0x20 then (if (c.arch.rdLoop (n - 0x10)).active then (c.arch.rdLoop (n - 0x10)).left.toNat else 0)
  else if n = 0x20 then fld k 287 256
  else if n = 0x21 then fld k 319 288
  else if n = 0x22 then fld k 351 320
  else if n = 0x30 then capacityOf s (clusterOf s.cur.core)
  else if n = 0x31 then physOf s.cur.core
  else if n = 0x32 then Config.stepping
  else if n = 0x33 then Config.isaLevel
  else s.score s.cur.core

/-- SYSR: a P register needs ctx.mode bit 3 (R113). -/
def execSysr (f : CY) (s : State) : Res :=
  if f.sys = 0x40 && !s.me.mode.getLsbD 3 then .next (raiseTrap s 0xFF02)
  else .next (pushScalar s f.sd.val (sysValue s f.sys.toNat))

/-- SYSW: only ctx.cause is written, and any write clears it (R113, R114). -/
def execSysw (f : CY) (s : State) : Res :=
  if f.sys = 1 then .next (s.setMe { s.me with cause := 0 }) else .next (raiseTrap s 0xFF01)

/-- Cores that a scope names around a core (R136). -/
def inScope (sc : Scope) (me other : Nat) : Bool :=
  match sc with
  | .context | .core => me == other
  | .cluster => clusterOf me == clusterOf other
  | .die => clusterOf me / 4 == clusterOf other / 4
  | .device | .system => true

/-- A core's verified copies are dropped; a core without power records the drop for its wake (R136). -/
def dropCopies (s : State) (core : Nat) : State :=
  let c := s.core core
  match (s.cluster (clusterOf core)).power with
  | .run => s.setCore core { c with segs := [], dicts := [] }
  | _ => s.setCore core { c with dropAtWake := true }

/-- ICINV (R136). A core that holds no copy and no record of its own has nothing to drop. -/
def execIcinv (f : CY) (s : State) : Res :=
  .next ((s.cores.map (·.1)).foldl (fun t c => if inScope f.scope s.cur.core c then dropCopies t c else t) s)

/-- TICK: the tick of its own bundle (R135). -/
def execTick (f : CY) (s : State) : Res := .next (pushScalar s f.sd.val s.arch.tick.toNat)
/-- IDLE n: n − 1 empty bundles are still to come (R137). -/
def execIdle (f : CY) (s : State) : Res := .next (s.setArch { s.arch with idle := f.imm - 1 })

end Sys2Proof.Machine
end

