-- ==== Sys2Proof/Machine/Scalar.lean ====
section
/-! DEFINITION. The S-slot instructions (R117 to R128): each meaning is the effect of issuing the instruction at the
current tick of the acting context. -/
namespace Sys2Proof.Machine

/-- A result from two register operands. -/
def execSR (f : SR) (s : State) (cls : Nat) (g : Word → Word → Nat) : State :=
  push s (.scalar f.sd.val) (g (rdS s f.sa.val) (rdS s f.sb.val)) cls
/-- A result from a register and an immediate. -/
def execSI (f : SI) (s : State) (g : Word → Word → Nat) : State :=
  push s (.scalar f.sd.val) (g (rdS s f.sa.val) (sx32 f.imm)) 0

/-- Bitwise operation on the low W bits, reduced by FIT. -/
def fitBits (t : Ty) (v : Word) : Nat := fit ((v.toNat % 2 ^ tyWidth t : Nat) : Int) t true
/-- SHL: the low W bits times 2^n. -/
def shlVal (t : Ty) (a : Word) (n : Nat) : Nat := fit (((opU a t) * 2 ^ n : Nat) : Int) t true
def shrVal (t : Ty) (a : Word) (n : Nat) : Nat := fit (((opU a t) / 2 ^ n : Nat) : Int) t true
def sarVal (t : Ty) (a : Word) (n : Nat) : Nat := fit ((opS a t) / ((2 ^ n : Nat) : Int)) t true

/-- Quotient of R121. -/
def divVal (t : Ty) (a b : Word) : Nat :=
  let x := opX a t true
  let y := opX b t true
  if y = 0 then (if signedTy t true then fit (-1) t true else 2 ^ tyWidth t - 1) else fit (x.tdiv y) t true
/-- Remainder of R121. -/
def remVal (t : Ty) (a b : Word) : Nat :=
  let x := opX a t true
  let y := opX b t true
  if y = 0 then fit x t true else fit (x - y * (x.tdiv y)) t true

/-- The divider is occupied for 18 cycles from the cycle of issue (R119). -/
def occupyDiv (s : State) : State :=
  let c := s.myCore
  s.setMyCore { c with busyDiv := c.cycle + Config.divBusy }
/-- The weight port is occupied (R119, R177). -/
def occupyPort (s : State) (n : Nat) : State :=
  let c := s.myCore
  s.setMyCore { c with busyPort := c.cycle + n }

def execAdd (f : SR) (s : State) : Res :=
  .next (execSR f s 0 (fun a b => fit (opX a f.ty true + opX b f.ty true) f.ty true))
def execSub (f : SR) (s : State) : Res :=
  .next (execSR f s 0 (fun a b => fit (opX a f.ty true - opX b f.ty true) f.ty true))
def execMul (f : SR) (s : State) : Res :=
  .next (execSR f s 1 (fun a b => fit (opX a f.ty true * opX b f.ty true) f.ty true))
/-- The high half of a signed product (R120). -/
def execMulh (f : SR) (s : State) : Res :=
  .next (execSR f s 1 (fun a b => fit (opX a f.ty true * opX b f.ty true / ((2 ^ tyWidth f.ty : Nat) : Int)) f.ty true))
/-- The high half of an unsigned product (R120). -/
def execMulhn (f : SR) (s : State) : Res :=
  .next (execSR f s 1 (fun a b => fit ((opU a f.ty * opU b f.ty / 2 ^ tyWidth f.ty : Nat) : Int) f.ty false))
def execDiv (f : SR) (s : State) : Res := .next (execSR f (occupyDiv s) 2 (divVal f.ty))
def execRem (f : SR) (s : State) : Res := .next (execSR f (occupyDiv s) 2 (remVal f.ty))
def execAnd (f : SR) (s : State) : Res := .next (execSR f s 0 (fun a b => fitBits f.ty (a &&& b)))
def execOr (f : SR) (s : State) : Res := .next (execSR f s 0 (fun a b => fitBits f.ty (a ||| b)))
def execXor (f : SR) (s : State) : Res := .next (execSR f s 0 (fun a b => fitBits f.ty (a ^^^ b)))
def execAndn (f : SR) (s : State) : Res := .next (execSR f s 0 (fun a b => fitBits f.ty (a &&& ~~~b)))
/-- Register shifts take the count modulo W (R120). -/
def execShl (f : SR) (s : State) : Res := .next (execSR f s 0 (fun a b => shlVal f.ty a (b.toNat % tyWidth f.ty)))
def execShr (f : SR) (s : State) : Res := .next (execSR f s 0 (fun a b => shrVal f.ty a (b.toNat % tyWidth f.ty)))
def execSar (f : SR) (s : State) : Res := .next (execSR f s 0 (fun a b => sarVal f.ty a (b.toNat % tyWidth f.ty)))
def execMin (f : SR) (s : State) : Res :=
  .next (execSR f s 0 (fun a b => fit (min (opX a f.ty true) (opX b f.ty true)) f.ty true))
def execMax (f : SR) (s : State) : Res :=
  .next (execSR f s 0 (fun a b => fit (max (opX a f.ty true) (opX b f.ty true)) f.ty true))
def execMinn (f : SR) (s : State) : Res :=
  .next (execSR f s 0 (fun a b => fit ((min (opU a f.ty) (opU b f.ty) : Nat) : Int) f.ty false))
def execMaxn (f : SR) (s : State) : Res :=
  .next (execSR f s 0 (fun a b => fit ((max (opU a f.ty) (opU b f.ty) : Nat) : Int) f.ty false))
def execClz (f : SR) (s : State) : Res :=
  .next (execSR f s 0 (fun a _ => clzNat (opU a f.ty) (tyWidth f.ty)))
def execCtz (f : SR) (s : State) : Res :=
  .next (execSR f s 0 (fun a _ => ctzFrom (opU a f.ty) 0 (tyWidth f.ty)))
def execPopc (f : SR) (s : State) : Res :=
  .next (execSR f s 0 (fun a _ => popCount (opU a f.ty) (tyWidth f.ty)))
def execSext (f : SR) (s : State) : Res := .next (execSR f s 0 (fun a _ => wrapInt 64 (opS a f.ty)))
def execZext (f : SR) (s : State) : Res := .next (execSR f s 0 (fun a _ => opU a f.ty))
/-- SEL takes a when the predicate pa is true (R120). -/
def execSel (f : SR) (s : State) : Res :=
  .next (execSR f s 0 (fun a b => (if s.arch.rdP f.pa.val then a else b).toNat))
/-- MADDR (R122). -/
def execMaddr (f : SX) (s : State) : Res :=
  .next (push s (.scalar f.sd.val)
    (((rdS s f.sa.val).toNat + (rdS s f.sb.val).toNat * 2 ^ f.sh.val + (sx32 f.imm).toNat) % 2 ^ 64) 0)
def execAddi (f : SI) (s : State) : Res :=
  .next (execSI f s (fun a b => fit (opX a f.ty true + opX b f.ty true) f.ty true))
def execAndi (f : SI) (s : State) : Res := .next (execSI f s (fun a b => fitBits f.ty (a &&& b)))
def execOri (f : SI) (s : State) : Res := .next (execSI f s (fun a b => fitBits f.ty (a ||| b)))
def execXori (f : SI) (s : State) : Res := .next (execSI f s (fun a b => fitBits f.ty (a ^^^ b)))
def execShli (f : SI) (s : State) : Res := .next (execSI f s (fun a _ => shlVal f.ty a f.imm.toNat))
def execShri (f : SI) (s : State) : Res := .next (execSI f s (fun a _ => shrVal f.ty a f.imm.toNat))
def execSari (f : SI) (s : State) : Res := .next (execSI f s (fun a _ => sarVal f.ty a f.imm.toNat))
/-- LI: the immediate sign-extended from bit 47 (R123). -/
def execLi (f : SL) (s : State) : Res := .next (push s (.scalar f.sd.val) (f.imm.signExtend 64).toNat 0)
/-- LIH reads sd at the start of its tick (R123). -/
def execLih (f : SL) (s : State) : Res :=
  .next (push s (.scalar f.sd.val) (f.imm.toNat * 2 ^ 16 + (rdS s f.sd.val).toNat % 2 ^ 16) 0)

def execCmp (f : SC) (s : State) : Res :=
  .next (pushPair s f.pair.val (cmpScalar f (rdS s f.sa.val) (rdS s f.sb.val)))
def execCmpi (f : SC) (s : State) : Res :=
  .next (pushPair s f.pair.val (cmpScalar f (rdS s f.sa.val) (sx32 f.imm)))
def execPand (f : SP) (s : State) : Res := .next (pushPair s f.pair.val (predA s f && predB s f))
def execPor (f : SP) (s : State) : Res := .next (pushPair s f.pair.val (predA s f || predB s f))
def execPxor (f : SP) (s : State) : Res := .next (pushPair s f.pair.val (predA s f != predB s f))
def execPset (f : SP) (s : State) : Res := .next (pushPair s f.pair.val f.val)

/-- A scalar load (R126, R128): checks at issue, ECC at the due tick. -/
def scalarLoad (f : SI) (s : State) (sp : Space) (cls : Nat) : State :=
  let n := tyWidth f.ty / 8
  let a := addrSI s f
  match accessFlaw s sp a n n with
  | some w => raiseFlaw s w
  | none =>
    let (s1, e) := readEcc s sp a n
    pushResult s1 (.scalar f.sd.val) (widen f.ty (leNat (seen s1 sp a n))) (latency s1 cls) (ownLatency cls) e
/-- A scalar store (R126, R128, R198). -/
def scalarStore (f : SI) (s : State) (sp : Space) : State :=
  let n := tyWidth f.ty / 8
  let a := addrSI s f
  match accessFlaw s sp a n n with
  | some w => raiseFlaw s w
  | none => withholdStore s (addressed (spaceBase s sp + a) (leBytes n (rdS s f.sd.val).toNat))

def execLda (f : SI) (s : State) : Res := .next (scalarLoad f s .act 3)
def execSta (f : SI) (s : State) : Res := .next (scalarStore f s .act)
def execLdc (f : SI) (s : State) : Res := .next (scalarLoad f s .acc 4)
def execStc (f : SI) (s : State) : Res := .next (scalarStore f s .acc)
/-- LDW reads the weight image through the weight port (R119, R126, R127). -/
def execLdw (f : SI) (s : State) : Res := .next (scalarLoad f (occupyPort s 1) .wt 7)

end Sys2Proof.Machine
end

