-- ==== Sys2Proof/Machine/Num.lean ====
section
/-! DEFINITION. Number formats and arithmetic: values as exact dyadics (R85 to R91), ROUND (R92, R93), signs of zero
(R94), comparisons (R95), conversions (R96), block scales (R97), group sums (R98 to R102), reductions (R104 to R106)
and the transcendentals (R107, R108). -/
namespace Sys2Proof.Machine

/-- A value: NaN, an infinity, or (−1)^neg × m × 2^e exactly; zero keeps its sign. -/
inductive FV where
  | nan
  | inf (neg : Bool)
  | fin (neg : Bool) (m : Nat) (e : Int)
deriving DecidableEq, Repr

/-- A format (R85): fraction width, exponent width, bias; `top` is the largest finite significand at exponent field
`topExp`. -/
structure Fmt where
  frac : Nat
  expo : Nat
  bias : Nat
  top : Nat
  topExp : Nat
deriving DecidableEq, Repr

def fmtF32 : Fmt := ⟨23, 8, 127, 2 ^ 24 - 1, 254⟩
def fmtF16 : Fmt := ⟨10, 5, 15, 2 ^ 11 - 1, 30⟩
def fmtBF16 : Fmt := ⟨7, 8, 127, 2 ^ 8 - 1, 254⟩
def fmtE5M2 : Fmt := ⟨2, 5, 15, 7, 30⟩
def fmtE4M3 : Fmt := ⟨3, 4, 7, 14, 15⟩
def fmtE2M1 : Fmt := ⟨1, 2, 1, 3, 3⟩

/-- Format of a floating-point type (R85). -/
def fmtOf : Ty → Fmt
  | .f16 => fmtF16
  | .bf16 => fmtBF16
  | .e5m2 => fmtE5M2
  | .e4m3 => fmtE4M3
  | .e2m1 => fmtE2M1
  | _ => fmtF32

def Fmt.width (f : Fmt) : Nat := 1 + f.expo + f.frac

/-- Formats with infinities: all but E4M3 and E2M1. -/
def Fmt.hasInf (f : Fmt) : Bool := f.frac ≠ 3 && f.frac ≠ 1

/-- The canonical NaN (R85, R87); E2M1 has none and takes +0 (R95). -/
def Fmt.nan (f : Fmt) : Nat :=
  if f.frac = 1 then 0
  else if f.frac = 3 then 0x7F
  else (2 ^ f.expo - 1) * 2 ^ f.frac + 2 ^ (f.frac - 1)

/-- The value of an encoding (R85). -/
def fpDecode (f : Fmt) (x : Nat) : FV :=
  let sign := x.testBit (f.expo + f.frac)
  let e := fld x (f.expo + f.frac - 1) f.frac
  let m := x % 2 ^ f.frac
  if f.hasInf && e = 2 ^ f.expo - 1 then (if m = 0 then .inf sign else .nan)
  else if f.frac = 3 && e = 15 && m = 7 then .nan
  else if e = 0 then .fin sign m (1 - (f.bias : Int) - f.frac)
  else .fin sign (m + 2 ^ f.frac) ((e : Int) - f.bias - f.frac)

/-- The encoding of ±max. -/
def Fmt.maxEnc (f : Fmt) (neg : Bool) : Nat :=
  b2n neg * 2 ^ (f.expo + f.frac) + f.topExp * 2 ^ f.frac + f.top % 2 ^ f.frac

/-- ±inf of a format that has it. -/
def Fmt.infEnc (f : Fmt) (neg : Bool) : Nat := b2n neg * 2 ^ (f.expo + f.frac) + (2 ^ f.expo - 1) * 2 ^ f.frac

/-- INFRES of R93. -/
def infRes (f : Fmt) (neg sat : Bool) : Nat :=
  if f.frac = 1 || sat then f.maxEnc neg else if f.hasInf then f.infEnc neg else f.nan

/-- OVERFLOW of R93. -/
def overflowRes (f : Fmt) (neg : Bool) (r : Rnd) (sat : Bool) : Nat :=
  let toInf := match r with
    | .rne => true
    | .rtz => false
    | .rdn => neg
    | .rup => !neg
  if f.frac = 1 || sat || !toInf then f.maxEnc neg else if f.hasInf then f.infEnc neg else f.nan

/-- The integer part and whether to round it up: `m / 2^sh` with anything below marked by `sticky` (R92). -/
def roundUp (r : Rnd) (neg : Bool) (m sh : Nat) (sticky : Bool) : Bool :=
  let rem := m % 2 ^ sh
  let inexact := rem ≠ 0 || sticky
  match r with
  | .rne => 0 < sh && (2 ^ (sh - 1) < rem || (rem = 2 ^ (sh - 1) && (sticky || (m / 2 ^ sh) % 2 = 1)))
  | .rtz => false
  | .rdn => neg && inexact
  | .rup => !neg && inexact

/-- ROUND (R92, R93) of ±m × 2^e, or of a value strictly between that and ±(m + 1) × 2^e when `sticky`. -/
def roundFin (f : Fmt) (r : Rnd) (sat neg : Bool) (m : Nat) (e : Int) (sticky : Bool) : Nat :=
  let sbit := b2n neg * 2 ^ (f.expo + f.frac)
  if m = 0 && !sticky then sbit
  else
    let emin : Int := 1 - (f.bias : Int)
    let lg : Int := max (e + (m.log2 : Int)) emin
    let qe : Int := lg - f.frac
    let sh : Nat := (qe - e).toNat
    let n0 := if qe ≤ e then m * 2 ^ (e - qe).toNat else m / 2 ^ sh
    let n := if roundUp r neg m sh sticky then n0 + 1 else n0
    let (n, qe) := if n = 2 ^ (f.frac + 1) then (2 ^ f.frac, qe + 1) else (n, qe)
    let topE : Int := (f.topExp : Int) - f.bias - f.frac
    if topE < qe || (topE = qe && f.top < n) then overflowRes f neg r sat
    else if n < 2 ^ f.frac then sbit + n
    else sbit + (qe + f.frac + f.bias).toNat * 2 ^ f.frac + (n - 2 ^ f.frac)

/-- ROUND of a value (R92). -/
def fpRound (f : Fmt) (r : Rnd) (sat : Bool) : FV → Nat
  | .nan => f.nan
  | .inf neg => infRes f neg sat
  | .fin neg m e => roundFin f r sat neg m e false

/-- The signed integer m × 2^(e − lo) of a finite value at a common exponent `lo` ≤ e. -/
def atExp (neg : Bool) (m : Nat) (e lo : Int) : Int :=
  let v : Int := (m * 2 ^ (e - lo).toNat : Nat)
  if neg then -v else v

/-- The value of a signed integer at an exponent; a zero takes the sign given. -/
def ofInt (v : Int) (e : Int) (zeroNeg : Bool) : FV :=
  if v = 0 then .fin zeroNeg 0 0 else .fin (v < 0) v.natAbs e

/-- Exact sum; the sign of an exact zero follows R94. -/
def fvAdd (r : Rnd) : FV → FV → FV
  | .nan, _ => .nan
  | _, .nan => .nan
  | .inf a, .inf b => if a = b then .inf a else .nan
  | .inf a, .fin _ _ _ => .inf a
  | .fin _ _ _, .inf b => .inf b
  | .fin a m e, .fin b n g =>
    if m = 0 && n = 0 then (if a = b then .fin a 0 0 else .fin (r == .rdn) 0 0)
    else
      let lo := min e g
      ofInt (atExp a m e lo + atExp b n g lo) lo (r == .rdn)

/-- Negation of a value. -/
def fvNeg : FV → FV
  | .nan => .nan
  | .inf a => .inf (!a)
  | .fin a m e => .fin (!a) m e

/-- Exact product; the sign is the exclusive-or of the operands' (R94). -/
def fvMul : FV → FV → FV
  | .nan, _ => .nan
  | _, .nan => .nan
  | .inf a, .inf b => .inf (a != b)
  | .inf a, .fin b n _ => if n = 0 then .nan else .inf (a != b)
  | .fin a m _, .inf b => if m = 0 then .nan else .inf (a != b)
  | .fin a m e, .fin b n g => .fin (a != b) (m * n) (e + g)

/-- Scaling by a power of two. -/
def fvScale (x : FV) (k : Int) : FV :=
  match x with
  | .fin a m e => .fin a m (e + k)
  | y => y

/-- Order of two values, zeros equal; none when either is NaN (R95). -/
def fvCmp : FV → FV → Option Ordering
  | .nan, _ => none
  | _, .nan => none
  | .inf a, .inf b => some (if a = b then .eq else if a then .lt else .gt)
  | .inf a, .fin _ _ _ => some (if a then .lt else .gt)
  | .fin _ _ _, .inf b => some (if b then .gt else .lt)
  | .fin a m e, .fin b n g =>
    let lo := min e g
    some (compare (atExp a m e lo) (atExp b n g lo))

/-- A condition on two values: NaN makes every condition but NE false (R95). -/
def fvCond (c : Cond) (a b : FV) : Bool :=
  match fvCmp a b with
  | none => c == .ne
  | some o => match c with
    | .eq => o == .eq
    | .ne => o != .eq
    | .lt => o == .lt
    | .le => o != .gt
    | .gt => o == .gt
    | .ge => o != .lt

/-- Sign of a value. -/
def fvSign : FV → Bool
  | .nan => false
  | .inf a => a
  | .fin a _ _ => a

/-- Minimum and maximum: −0 below +0, NaN prevails (R95). -/
def fvMin (a b : FV) : FV :=
  match fvCmp a b with
  | none => .nan
  | some .lt => a
  | some .gt => b
  | some .eq => if fvSign a then a else b
def fvMax (a b : FV) : FV :=
  match fvCmp a b with
  | none => .nan
  | some .gt => a
  | some .lt => b
  | some .eq => if fvSign a then b else a

/-- A value rounded to an integer (R96). -/
def roundInt (r : Rnd) (neg : Bool) (m : Nat) (e : Int) : Int :=
  let sh := (-e).toNat
  let n0 := if 0 ≤ e then m * 2 ^ e.toNat else m / 2 ^ sh
  let n := if roundUp r neg m sh false then n0 + 1 else n0
  if neg then -(n : Int) else n

/-- Range of an integer type. -/
def intLo (t : Ty) : Int := if tySigned t then -(2 ^ (tyWidth t - 1) : Nat) else 0
def intHi (t : Ty) : Int := if tySigned t then (2 ^ (tyWidth t - 1) : Nat) - 1 else (2 ^ tyWidth t : Nat) - 1
/-- Clamped to the range of a type (R91). -/
def clampInt (t : Ty) (x : Int) : Nat := wrapInt (tyWidth t) (max (intLo t) (min (intHi t) x))
/-- Reduced or clamped (R91). -/
def fitInt (t : Ty) (sat : Bool) (x : Int) : Nat := if sat then clampInt t x else wrapInt (tyWidth t) x
/-- An element as an integer of its type. -/
def intOf (t : Ty) (x : Nat) : Int := if tySigned t then sx (tyWidth t) x else ((x % 2 ^ tyWidth t : Nat) : Int)

/-- An element as a value: exact for every type. -/
def valueOf (t : Ty) (x : Nat) : FV :=
  if tyFloat t then fpDecode (fmtOf t) x else ofInt (intOf t x) 0 false

/-- Conversion of an element (R96). -/
def convert (dst src : Ty) (r : Rnd) (sat : Bool) (x : Nat) : Nat :=
  if tyFloat dst then fpRound (fmtOf dst) r sat (valueOf src x)
  else if tyFloat src then
    match fpDecode (fmtOf src) x with
    | .nan => 0
    | .inf neg => clampInt dst (if neg then intLo dst else intHi dst)
    | .fin neg m e => clampInt dst (roundInt r neg m e)
  else fitInt dst sat (intOf src x)

/-- floor(log2 |x|) of a finite non-zero value. -/
def ilog (m : Nat) (e : Int) : Int := e + (m.log2 : Int)

/-- The scale of a block of 32 FP32 values for an element format (R97, steps 1 to 3). -/
def blockScale (dst : Ty) (xs : List FV) : Nat :=
  if xs.any (fun x => match x with | .fin _ _ _ => false | _ => true) then 0xFF
  else
    let logs := xs.filterMap (fun x => match x with
      | .fin _ m e => if m = 0 then none else some (ilog m e)
      | _ => none)
    match logs with
    | [] => 0x7F
    | l :: ls =>
      let emax : Int := if dst = .e2m1 then 2 else if dst = .e4m3 then 8 else 15
      let k := ls.foldl max l - emax
      (max 0 (min 254 (k + 127))).toNat

/-- A block scale byte as a power of two (R85); the caller has tested for 0xFF. -/
def scaleExp (b : Nat) : Int := (b : Int) - 127

/-! Group sums. -/

/-- One position of a group: its two values and its two scale bytes, 0x7F where there is none; a padded position is
absent (R99). -/
structure Term where
  a : FV
  b : FV
  sa : Nat
  sb : Nat

/-- The exact product of a position (R99). -/
def termProd (t : Term) : FV := fvScale (fvMul t.a t.b) (scaleExp t.sa + scaleExp t.sb)

/-- Truncation toward zero to a multiple of 2^w (R100). -/
def truncTo (w : Int) (m : Nat) (e : Int) : Nat :=
  if w ≤ e then m * 2 ^ (e - w).toNat else m / 2 ^ (w - e).toNat

/-- Sum of signed values at a common exponent. -/
def sumAt (w : Int) (ps : List FV) : Int :=
  (ps.map (fun p => match p with
    | .fin neg m e => let v : Int := truncTo w m e; if neg then -v else v
    | _ => 0)).sum

/-- The group sum (R99 to R101): `window` for 16-bit operands, `float` for operands that have a −0. -/
def groupSum (window float : Bool) (ts : List Term) : FV :=
  let isNan : FV → Bool := fun v => match v with | .nan => true | _ => false
  if ts.any (fun t => isNan t.a || isNan t.b || t.sa = 255 || t.sb = 255) then .nan
  else
    let ps := ts.map termProd
    if ps.any isNan then .nan
    else
      let pos := ps.any (· == .inf false)
      let neg := ps.any (· == .inf true)
      if pos && neg then .nan
      else if pos then .inf false
      else if neg then .inf true
      else
        let fins := ps.filterMap (fun p => match p with
          | .fin _ m e => if m = 0 then none else some (m, e)
          | _ => none)
        let w : Int := match fins with
          | [] => 0
          | (m, e) :: fs =>
            if window then fs.foldl (fun a p => max a (ilog p.1 p.2)) (ilog m e) - 91
            else fs.foldl (fun a p => min a p.2) e
        let allNegZero := float && !ps.isEmpty && ps.all (fun p => match p with | .fin n m _ => n && m == 0 | _ => false)
        ofInt (sumAt w ps) w allNegZero

/-- One accumulation step of R102: c + ROUND(S), rounded, as FP32 encodings. -/
def accumulate (c : Nat) (s : FV) : Nat :=
  let g := fpRound fmtF32 .rne false s
  fpRound fmtF32 .rne false (fvAdd .rne (fpDecode fmtF32 c) (fpDecode fmtF32 g))

/-! Reductions and scans. -/

/-- One level of the tree of R104. -/
def pairUp {α : Type} (op : α → α → α) : List α → List α
  | a :: b :: l => op a b :: pairUp op l
  | l => l

/-- TREE (R104), `n` levels. -/
def treeReduce {α : Type} (op : α → α → α) : Nat → List α → List α
  | 0, l => l
  | n + 1, l => treeReduce op n (pairUp op l)

/-- Running values (R105). -/
def scanList {α : Type} (op : α → α → α) : α → List α → List α
  | a, [] => [a]
  | a, b :: l => a :: scanList op (op a b) l

/-! Transcendentals. -/

/-- Fixed-point places of the evaluation. -/
def fixP : Nat := 320
/-- ln 2 in fixed point. -/
def ln2Fix : Nat := 1480553391661173448385607439722553250922680800745876974795605978609098082859138712941075737848984

/-- Sum of y^k / k! from a term on, in fixed point. -/
def expSeries (y : Nat) : Nat → Nat → Nat → Nat → Nat
  | 0, _, _, acc => acc
  | n + 1, k, t, acc =>
    let t' := t * y / 2 ^ fixP / k
    expSeries y n (k + 1) t' (acc + t')

/-- Sum of t^(2k+1) / (2k+1), in fixed point: atanh. -/
def atanhSeries (t2 : Nat) : Nat → Nat → Nat → Nat → Nat
  | 0, _, _, acc => acc
  | n + 1, k, p, acc => atanhSeries t2 n (k + 2) (p * t2 / 2 ^ fixP) (acc + p / k)

/-- 2^x of a finite x, rounded (R107): an integer x is exact, any other power is irrational. -/
def exp2Round (f : Fmt) (r : Rnd) (sat neg : Bool) (m : Nat) (e : Int) : Nat :=
  let big := m ≠ 0 && 12 ≤ ilog m e
  if big then (if neg then roundFin f r sat false 0 (-100000) true else overflowRes f false r sat)
  else
    -- x = q / 2^w with w ≤ fixP; anything below is far under the last place that counts
    let q : Int := if 0 ≤ e then atExp neg m e 0 * 2 ^ fixP
      else if -e ≤ fixP then atExp neg m (e + fixP) 0 else if neg then -1 else 0
    let k := q / ((2 ^ fixP : Nat) : Int)
    let y := (q % ((2 ^ fixP : Nat) : Int)).toNat
    if y = 0 && (m = 0 || -e ≤ fixP) then roundFin f r sat false 1 k false
    else
      let v := expSeries (y * ln2Fix / 2 ^ fixP) 80 1 (2 ^ fixP) (2 ^ fixP)
      roundFin f r sat false (v / 2 ^ 40) (k - fixP + 40) true

/-- log2 of a positive finite value (R107): a power of two is exact, any other logarithm irrational. -/
def log2Round (f : Fmt) (r : Rnd) (sat : Bool) (m : Nat) (e : Int) : Nat :=
  let k := ilog m e
  if m = 2 ^ m.log2 then fpRound f r sat (ofInt k 0 false)
  else
    let z := m * 2 ^ (fixP - m.log2)
    let t := (z - 2 ^ fixP) * 2 ^ fixP / (z + 2 ^ fixP)
    let l := 2 * atanhSeries (t * t / 2 ^ fixP) 110 1 t 0
    let g := l * 2 ^ (fixP - 40) / ln2Fix
    let v : Int := k * ((2 ^ (fixP - 40) : Nat) : Int) + g
    if 0 ≤ v then roundFin f r sat false v.toNat (40 - (fixP : Int)) true
    else roundFin f r sat true (-v - 1).toNat (40 - (fixP : Int)) true

/-- 1/x of a finite non-zero value. -/
def rcpRound (f : Fmt) (r : Rnd) (sat neg : Bool) (m : Nat) (e : Int) : Nat :=
  let k := m.log2 + 64
  roundFin f r sat neg (2 ^ k / m) (-(k : Int) - e) (2 ^ k % m ≠ 0)

/-- 1/√x of a positive finite value. -/
def rsqRound (f : Fmt) (r : Rnd) (sat : Bool) (m : Nat) (e : Int) : Nat :=
  let (m, e) := if e % 2 = 0 then (m, e) else (2 * m, e - 1)
  let k := m.log2 + 64
  let q := isqrt (2 ^ (2 * k) / m)
  roundFin f r sat false q (-(k : Int) - e / 2) (q * q * m ≠ 2 ^ (2 * k))

/-- The transcendentals with their special values (R107, R108). -/
def fpExp2 (f : Fmt) (r : Rnd) (sat : Bool) : FV → Nat
  | .nan => f.nan
  | .inf neg => if neg then 0 else infRes f false sat
  | .fin neg m e => exp2Round f r sat neg m e
def fpLog2 (f : Fmt) (r : Rnd) (sat : Bool) : FV → Nat
  | .nan => f.nan
  | .inf neg => if neg then f.nan else infRes f false sat
  | .fin neg m e => if m = 0 then infRes f true sat else if neg then f.nan else log2Round f r sat m e
def fpRcp (f : Fmt) (r : Rnd) (sat : Bool) : FV → Nat
  | .nan => f.nan
  | .inf neg => b2n neg * 2 ^ (f.expo + f.frac)
  | .fin neg m e => if m = 0 then infRes f neg sat else rcpRound f r sat neg m e
def fpRsq (f : Fmt) (r : Rnd) (sat : Bool) : FV → Nat
  | .nan => f.nan
  | .inf neg => if neg then f.nan else 0
  | .fin neg m e => if m = 0 then infRes f neg sat else if neg then f.nan else rsqRound f r sat m e

end Sys2Proof.Machine
end

