-- ==== Sys2Proof/Machine/Vector.lean ====
section
/-! DEFINITION. The V-slot instructions (R140 to R165): each meaning is the effect of issuing the instruction at the
current tick of the acting context. -/
namespace Sys2Proof.Machine

/-- Goes on when the vector registers a slot names are the V slot's (R143). -/
def ownV (s : State) (l : List Nat) (f : State → State) : State := if ownedV s l then f s else raiseTrap s 0xFF03

/-- Twice the latency of class vfma (R146). -/
def pushTwice (s : State) (d : Dest) (v : Nat) : State := pushResult s d v (2 * latency s 5) (2 * ownLatency 5) none

/-- The vector registers of format VR. -/
def namesVR (f : VR) : List Nat := [f.vd.val, f.va.val, f.vb.val, f.vc.val]

/-- LANEMERGE of an element function onto the destination (R145). -/
def mergeVR (f : VR) (s : State) (r : Nat → Nat) : Nat := laneMerge (rdK s f.km.val) (tyWidth f.ty) (rdV s f.vd.val) r

/-- An element-wise operation on a, b and c at the width of ty. -/
def elemVR (f : VR) (s : State) (cls : Nat) (g : Nat → Nat → Nat → Nat) : State :=
  ownV s (namesVR f) (fun s =>
    let w := tyWidth f.ty
    let a := (rdV s f.va.val).toNat
    let b := (rdV s f.vb.val).toNat
    let c := (rdV s f.vc.val).toNat
    push s (.vec f.vd.val) (mergeVR f s (fun i => g (elem a w i) (elem b w i) (elem c w i))) cls)

/-- A floating-point element operation rounded once (R148). -/
def floatVR (f : VR) (s : State) (g : FV → FV → FV → FV) : State :=
  elemVR f s 5 (fun a b c =>
    fpRound (fmtOf f.ty) f.rnd f.sat (g (valueOf f.ty a) (valueOf f.ty b) (valueOf f.ty c)))

def execVadd (f : VR) (s : State) : Res := .next (floatVR f s (fun a b _ => fvAdd f.rnd a b))
def execVsub (f : VR) (s : State) : Res := .next (floatVR f s (fun a b _ => fvAdd f.rnd a (fvNeg b)))
def execVmul (f : VR) (s : State) : Res := .next (floatVR f s (fun a b _ => fvMul a b))
def execVfma (f : VR) (s : State) : Res := .next (floatVR f s (fun a b c => fvAdd f.rnd (fvMul a b) c))
def execVfms (f : VR) (s : State) : Res := .next (floatVR f s (fun a b c => fvAdd f.rnd (fvMul a b) (fvNeg c)))
def execVmin (f : VR) (s : State) : Res := .next (floatVR f s (fun a b _ => fvMin a b))
def execVmax (f : VR) (s : State) : Res := .next (floatVR f s (fun a b _ => fvMax a b))
/-- The sign bit is cleared or inverted; a NaN gives the canonical NaN (R148). -/
def signVR (f : VR) (s : State) (g : Nat → Nat → Nat) : State :=
  elemVR f s 5 (fun a _ _ => if valueOf f.ty a = .nan then (fmtOf f.ty).nan else g a (2 ^ (tyWidth f.ty - 1)))
def execVabs (f : VR) (s : State) : Res := .next (signVR f s (fun a m => a % m))
def execVneg (f : VR) (s : State) : Res := .next (signVR f s (fun a m => (a + m) % (2 * m)))

/-- The transcendental unit is occupied for two cycles (R146). -/
def occupyXc (s : State) : State :=
  let c := s.myCore
  s.setMyCore { c with busyXc := c.cycle + Config.xcBusy }
/-- A transcendental (R107, R108). -/
def xcVR (f : VR) (s : State) (g : Fmt → Rnd → Bool → FV → Nat) : State :=
  elemVR f (occupyXc s) 6 (fun a _ _ => g (fmtOf f.ty) f.rnd f.sat (valueOf f.ty a))
def execVexp2 (f : VR) (s : State) : Res := .next (xcVR f s fpExp2)
def execVlog2 (f : VR) (s : State) : Res := .next (xcVR f s fpLog2)
def execVrcp (f : VR) (s : State) : Res := .next (xcVR f s fpRcp)
def execVrsq (f : VR) (s : State) : Res := .next (xcVR f s fpRsq)

/-- An integer element operation (R149). -/
def intVR (f : VR) (s : State) (cls : Nat) (g : Int → Int → Int) : State :=
  elemVR f s cls (fun a b _ => fitInt f.ty f.sat (g (intOf f.ty a) (intOf f.ty b)))
def execViadd (f : VR) (s : State) : Res := .next (intVR f s 0 (· + ·))
def execVisub (f : VR) (s : State) : Res := .next (intVR f s 0 (· - ·))
def execVimul (f : VR) (s : State) : Res := .next (intVR f s 1 (· * ·))
def execVand (f : VR) (s : State) : Res := .next (elemVR f s 0 (fun a b _ => a &&& b))
def execVor (f : VR) (s : State) : Res := .next (elemVR f s 0 (fun a b _ => a ||| b))
def execVxor (f : VR) (s : State) : Res := .next (elemVR f s 0 (fun a b _ => a ^^^ b))
def execVshl (f : VR) (s : State) : Res := .next (elemVR f s 0 (fun a b _ => a * 2 ^ (b % tyWidth f.ty)))
def execVshr (f : VR) (s : State) : Res := .next (elemVR f s 0 (fun a b _ => a / 2 ^ (b % tyWidth f.ty)))
def execVsar (f : VR) (s : State) : Res :=
  .next (elemVR f s 0 (fun a b _ =>
    wrapInt (tyWidth f.ty) (sx (tyWidth f.ty) a / ((2 ^ (b % tyWidth f.ty) : Nat) : Int))))

/-- A compare into a lane predicate (R150): disabled bits are 0. -/
def cmpVR (f : VR) (s : State) (cls : Nat) (test : Nat → Nat → Bool) : State :=
  ownV s [f.va.val, f.vb.val] (fun s =>
    let w := tyWidth f.ty
    let a := (rdV s f.va.val).toNat
    let b := (rdV s f.vb.val).toNat
    let k := rdK s f.km.val
    push s (.kreg f.vd.val) (laneBits (fun j =>
      let i := if w = 32 then j else 2 * j + fld f.ctl.toNat 3 3
      enabled k w i && test (elem a w i) (elem b w i))) cls)
/-- The condition in ctl bits 2:0; the scanner has refused 6 and 7. -/
def condVR (f : VR) : Cond := (condOf (fld f.ctl.toNat 2 0)).getD .eq
def execVcmp (f : VR) (s : State) : Res :=
  .next (cmpVR f s 5 (fun a b => fvCond (condVR f) (valueOf f.ty a) (valueOf f.ty b)))
def execVicmp (f : VR) (s : State) : Res :=
  .next (cmpVR f s 0 (fun a b => condHolds (condVR f) (intOf f.ty a) (intOf f.ty b)))
/-- VSEL writes every element (R150). -/
def execVsel (f : VR) (s : State) : Res :=
  .next (ownV s (namesVR f) (fun s =>
    push s (.vec f.vd.val) (laneMerge (rdK s f.km.val) (tyWidth f.ty) (rdV s f.vb.val)
      (fun i => elem (rdV s f.va.val).toNat (tyWidth f.ty) i)) 0))

/-- VBCST (R151). -/
def execVbcst (f : VI) (s : State) : Res :=
  .next (ownV s [f.vd.val] (fun s =>
    push s (.vec f.vd.val) (laneMerge (rdK s f.km.val) (tyWidth f.ty) (rdV s f.vd.val)
      (fun _ => (rdS s f.sa.val + f.imm.signExtend 64).toNat)) 0))
/-- VMOVS (R151): insert, or extract when bit 15 of imm16 is set. -/
def execVmovs (f : VI) (s : State) : Res :=
  let w := tyWidth f.ty
  let e := fld f.imm.toNat 8 0
  .next (ownV s [f.vd.val, f.va.val] (fun s =>
    if f.imm.getLsbD 15 then push s (.scalar f.sa.val) (widen f.ty (elem (rdV s f.va.val).toNat w e)) 0
    else push s (.vec f.vd.val)
      (setFld (rdV s f.vd.val).toNat (w * e + w - 1) (w * e) (rdS s f.sa.val).toNat) 0))

/-- VPERM (R152). -/
def execVperm (f : VR) (s : State) : Res :=
  .next (ownV s (namesVR f) (fun s =>
    let w := tyWidth f.ty
    let n := 2048 / w
    let b := (rdV s f.vb.val).toNat
    push s (.vec f.vd.val) (mergeVR f s (fun i =>
      let x := elem b w i
      if f.ctl.getLsbD 0 then
        (if x % (2 * n) < n then elem (rdV s f.va.val).toNat w (x % (2 * n))
         else elem (rdV s f.vc.val).toNat w (x % (2 * n) - n))
      else elem (rdV s f.va.val).toNat w (x % n))) 5))
/-- VROT (R152). -/
def execVrot (f : VI) (s : State) : Res :=
  .next (ownV s [f.vd.val, f.va.val] (fun s =>
    let w := tyWidth f.ty
    let n := 2048 / w
    let r := ((rdS s f.sa.val).toNat + f.imm.toNat) % n
    push s (.vec f.vd.val) (laneMerge (rdK s f.km.val) w (rdV s f.vd.val)
      (fun i => elem (rdV s f.va.val).toNat w ((i + r) % n))) 0))

/-- VCVT (R153). -/
def execVcvt (f : VR) (s : State) : Res :=
  .next (ownV s (namesVR f) (fun s =>
    let wd := tyWidth f.ty
    let ws := tyWidth f.ty2
    let h := 64 * fld f.ctl.toNat 0 0
    let a := (rdV s f.va.val).toNat
    let old := (rdV s f.vd.val).toNat
    push s (.vec f.vd.val) (mergeVR f s (fun i =>
      if wd = ws then convert f.ty f.ty2 f.rnd f.sat (elem a ws i)
      else if ws < wd then convert f.ty f.ty2 f.rnd f.sat (elem a ws (h + i))
      else if h ≤ i && i < h + 64 then convert f.ty f.ty2 f.rnd f.sat (elem a ws (i - h))
      else elem old wd i)) 5))

/-- A register whose group h of 64 elements of width w is replaced where lane j is enabled (R140, R154). -/
def groupMerge (k : Word) (w h : Nat) (old : Vec) (g : Nat → Nat) : Nat :=
  joinElems w ((List.range (2048 / w)).map (fun i =>
    if 64 * h ≤ i && i < 64 * h + 64 && k.getLsbD (i - 64 * h) then g (i - 64 * h) else elem old.toNat w i))

/-- VPACK (R154). -/
def execVpack (f : VR) (s : State) : Res :=
  .next (ownV s (namesVR f) (fun s =>
    push s (.vec f.vd.val) (groupMerge (rdK s f.km.val) (tyWidth f.ty) (fld f.ctl.toNat 2 0) (rdV s f.vd.val)
      (fun j => convert f.ty f.ty2 f.rnd f.sat (elem (rdV s f.va.val).toNat 32 j))) 5))
/-- VUNPK (R154); the scaled form gives FP32 values. -/
def execVunpk (f : VR) (s : State) : Res :=
  .next (ownV s (namesVR f) (fun s =>
    let h := fld f.ctl.toNat 2 0
    let x := fun j => elem (rdV s f.va.val).toNat (tyWidth f.ty2) (64 * h + j)
    push s (.vec f.vd.val) (mergeVR f s (fun j =>
      if f.ctl.getLsbD 3 then
        let sc := elem (rdV s f.vb.val).toNat 8 ((64 * h + j) / 32)
        if sc = 255 then fmtF32.nan
        else fpRound fmtF32 f.rnd f.sat (fvScale (valueOf f.ty2 (x j)) (scaleExp sc))
      else convert f.ty f.ty2 .rne false (x j))) 5))
/-- VBSCL (R155, R97). -/
def execVbscl (f : VR) (s : State) : Res :=
  .next (ownV s (namesVR f) (fun s =>
    let h := fld f.ctl.toNat 2 0
    let k := rdK s f.km.val
    let a := (rdV s f.va.val).toNat
    if f.ctl.getLsbD 4 then
      push s (.vec f.vd.val) (groupMerge k (tyWidth f.ty) h (rdV s f.vd.val) (fun j =>
        let sc := elem (rdV s f.vb.val).toNat 8 (2 * h + j / 32)
        if sc = 255 then convert f.ty .f32 f.rnd false (elem a 32 j)
        else fpRound (fmtOf f.ty) f.rnd true (fvScale (valueOf .f32 (elem a 32 j)) (-scaleExp sc)))) 5
    else
      let block := fun b => blockScale f.ty ((List.range 32).map (fun j =>
        if k.getLsbD (32 * b + j) then valueOf .f32 (elem a 32 (32 * b + j)) else .fin false 0 0))
      push s (.vec f.vd.val) (setFld (rdV s f.vd.val).toNat (16 * h + 15) (16 * h) (block 0 + 256 * block 1)) 5))

/-- The result replaces lane 0 (R156). -/
def lane0 (f : VR) (s : State) (x : Nat) : State :=
  pushTwice s (.vec f.vd.val) (setFld (rdV s f.vd.val).toNat 31 0 x)
/-- The elements with an identity for each lane whose mask bit is clear (R106). -/
def maskedElems (f : VR) (s : State) (identity : Nat) : List Nat :=
  let w := tyWidth f.ty
  (List.range (2048 / w)).map (fun i =>
    if enabled (rdK s f.km.val) w i then elem (rdV s f.va.val).toNat w i else identity)
/-- The 32-bit type of a type's signedness (R156). -/
def wideTy (t : Ty) : Ty := if tySigned t then .i32 else .n32
/-- An encoding widened exactly to FP32. -/
def toF32 (t : Ty) (x : Nat) : Nat := fpRound fmtF32 .rne false (valueOf t x)
/-- A rounded FP32 sum of two encodings. -/
def addF32 (r : Rnd) (sat : Bool) (a b : Nat) : Nat :=
  fpRound fmtF32 r sat (fvAdd r (fpDecode fmtF32 a) (fpDecode fmtF32 b))
/-- FP32 maximum or minimum of two encodings (R95). -/
def pickF32 (g : FV → FV → FV) (a b : Nat) : Nat := fpRound fmtF32 .rne false (g (fpDecode fmtF32 a) (fpDecode fmtF32 b))
/-- −0 as an encoding of a floating-point type. -/
def negZero (t : Ty) : Nat := 2 ^ (tyWidth t - 1)

def execVrsum (f : VR) (s : State) : Res :=
  .next (ownV s (namesVR f) (fun s => lane0 f s
    (if tyFloat f.ty then
      ((treeReduce (addF32 f.rnd f.sat) 7 ((maskedElems f s (negZero f.ty)).map (toF32 f.ty))).headD 0)
     else fitInt (wideTy f.ty) f.sat ((maskedElems f s 0).map (intOf f.ty)).sum)))
def execVrmax (f : VR) (s : State) : Res :=
  .next (ownV s (namesVR f) (fun s => lane0 f s
    (if tyFloat f.ty then
      ((treeReduce (pickF32 fvMax) 7 ((maskedElems f s ((fmtOf f.ty).infEnc true)).map (toF32 f.ty))).headD 0)
     else wrapInt 32 (((maskedElems f s (wrapInt (tyWidth f.ty) (intLo f.ty))).map (intOf f.ty)).foldl max (intLo f.ty)))))
def execVrmin (f : VR) (s : State) : Res :=
  .next (ownV s (namesVR f) (fun s => lane0 f s
    (if tyFloat f.ty then
      ((treeReduce (pickF32 fvMin) 7 ((maskedElems f s ((fmtOf f.ty).infEnc false)).map (toF32 f.ty))).headD 0)
     else wrapInt 32 (((maskedElems f s (wrapInt (tyWidth f.ty) (intHi f.ty))).map (intOf f.ty)).foldl min (intHi f.ty)))))

/-- Running values of an operation (R105). -/
def runScan {α : Type} (op : α → α → α) : List α → List α
  | [] => []
  | a :: l => scanList op a l
/-- VSCAN (R157): op 0 sum, 1 maximum, 2 minimum. A masked lane applies the operation with its identity (R105, R106, log entry
70). -/
def execVscan (f : VR) (s : State) : Res :=
  .next (ownV s (namesVR f) (fun s =>
    let op := fld f.ctl.toNat 1 0
    let res : List Nat :=
      if tyFloat f.ty then
        let ident := if op = 0 then negZero f.ty else (fmtOf f.ty).infEnc (op == 1)
        runScan (if op = 0 then addF32 f.rnd f.sat else pickF32 (if op = 1 then fvMax else fvMin))
          ((maskedElems f s ident).map (toF32 f.ty))
      else
        let ident := if op = 0 then 0 else wrapInt 32 (if op = 1 then intLo f.ty else intHi f.ty)
        (runScan (if op = 0 then (· + ·) else if op = 1 then max else min)
          ((maskedElems f s ident).map (intOf f.ty))).map (fitInt f.ty f.sat)
    pushTwice s (.vec f.vd.val) (mergeVR f s (fun i => res.getD i 0))))

/-- The key of an element (R158). -/
def orderKey (t : Ty) (x : Nat) : Nat :=
  let m := 2 ^ (tyWidth t - 1)
  if !tyFloat t then (x + m) % (2 * m)
  else if valueOf t x = .nan then 0
  else if x = m then m
  else if x < m then x + m
  else 2 * m - 1 - x
def execVkey (f : VR) (s : State) : Res :=
  .next (elemVR f s 0 (fun a _ _ =>
    let k := orderKey f.ty a
    if f.ctl.getLsbD 0 then 2 ^ tyWidth f.ty - 1 - k else k))

/-- VHIST (R159). -/
def execVhist (f : VR) (s : State) : Res :=
  .next (ownV s (namesVR f) (fun s =>
    let w := tyWidth f.ty
    let sh := fld f.ctl.toNat 4 0
    let n := 2 ^ fld f.ctl.toNat 7 5
    let xs := ((List.range (2048 / w)).filter (enabled (rdK s f.km.val) w ·)).map (fun i =>
      elem (rdV s f.va.val).toNat w i / 2 ^ sh % n)
    let old := (rdV s f.vd.val).toNat
    pushTwice s (.vec f.vd.val) (joinElems 32 ((List.range 64).map (fun d =>
      if d < n then fitInt .n32 f.sat (((if f.ctl.getLsbD 8 then elem old 32 d else 0) + xs.count d : Nat) : Int)
      else elem old 32 d)))))

/-! Vector buffer access. -/

/-- Byte ranges of the enabled lanes (R160). -/
def laneRanges (k : Word) (a : Nat) : List (Nat × Nat) :=
  ((List.range 64).filter (k.getLsbD ·)).map (fun j => (a + 4 * j, 4))
/-- Flaws of an access to ranges: `bad` gives the misaligned address (R162, R430). -/
def rangesFlaw (s : State) (sp : Space) (rs : List (Nat × Nat)) (bad : Option Nat) : Option Flaw :=
  if rs.isEmpty then none
  else firstFlaw [bad.map (fun a => (.bound, 2, a)), lowestFlaw (rs.map (fun r => boundFlaw (spaceBounds s sp) r.1 r.2)),
    if sp = .act then lowestFlaw (rs.map (fun r => formFlaw s r.1 r.2)) else none]
/-- A misaligned base. -/
def badAlign (a align : Nat) : Option Nat := if a % align ≠ 0 then some a else none

/-- VLDA and VLDC (R160). -/
def vecLoad (f : VM) (s : State) (sp : Space) (cls : Nat) : State :=
  ownV s [f.vd.val] (fun s =>
    let k := rdK s f.km.val
    let a := addrVM s f
    match rangesFlaw s sp (laneRanges k a) (badAlign a 64) with
    | some w => raiseFlaw s w
    | none =>
      let (s1, e) := readEccMany s sp (laneRanges k a)
      let x := leNat (seen s1 sp a 256)
      pushResult s1 (.vec f.vd.val) (laneMerge k 32 (rdV s1 f.vd.val) (elem x 32 ·)) (latency s1 cls) (ownLatency cls) e)
/-- VSTA and VSTC (R160): only enabled elements are written; an empty mask accesses nothing, and the store still takes
its entry of the withhold buffer (R198). -/
def vecStore (f : VM) (s : State) (sp : Space) : State :=
  ownV s [f.va.val] (fun s =>
    let k := rdK s f.km.val
    let a := addrVM s f
    match rangesFlaw s sp (laneRanges k a) (badAlign a 64) with
    | some w => raiseFlaw s w
    | none =>
      withholdStore s ((addressed (spaceBase s sp + a) (leBytes 256 (rdV s f.va.val).toNat)).filter (fun b =>
        k.getLsbD ((b.1 - (spaceBase s sp + a)) / 4))))

def execVlda (f : VM) (s : State) : Res := .next (vecLoad f s .act 3)
def execVsta (f : VM) (s : State) : Res := .next (vecStore f s .act)
def execVldc (f : VM) (s : State) : Res := .next (vecLoad f s .acc 4)
def execVstc (f : VM) (s : State) : Res := .next (vecStore f s .acc)
/-- VGLDA (R161). -/
def execVglda (f : VM) (s : State) : Res :=
  .next (ownV s [f.vd.val, f.va.val] (fun s =>
    let k := rdK s f.km.val
    let at' := fun j => (addrVM s f + elem (rdV s f.va.val).toNat 32 j) % 2 ^ 64
    let js := (List.range 64).filter (k.getLsbD ·)
    let rs := js.map (fun j => (at' j, 4))
    let bad := (js.map at').filter (· % 4 ≠ 0)
    match rangesFlaw s .act rs (if bad.isEmpty then none else some (bad.foldl min (2 ^ 64))) with
    | some w => raiseFlaw s w
    | none =>
      let (s1, e) := readEccMany s .act rs
      pushResult s1 (.vec f.vd.val) (laneMerge k 32 (rdV s1 f.vd.val) (fun j => leNat (seen s1 .act (at' j) 4)))
        (latency s1 3) (ownLatency 3) e))

/-- An SREL of a stream register that has issued and whose release still ends the old binding (R268). -/
def srelHeld (c : Ctx) (q : Nat) : Bool := (c.releasing ++ c.withhold).any (fun e => match e with
  | .cmd _ k => (match k.kind with | .srel r _ => r == q | _ => false)
  | .store _ _ => false)
/-- The arrived count of a stream as the context's consumers see it: elements of a copy that an SREL not yet
released has unbound are no longer theirs (R171, R268). -/
def arrivedCount (c : Ctx) (q : Nat) : Nat := if srelHeld c q then 0 else Tab.get 0 c.arrived q
/-- An element of a stream is available (R171). -/
def streamReady (c : Ctx) (q : Nat) : Bool :=
  match c.arch.rdQ q with
  | some b => b.consumed < arrivedCount c q
  | none => false
/-- Activation address of the element a consuming instruction reads (R171). -/
def elemAddr (b : Binding) : Nat := b.base + b.consumed % (b.slotsM1 + 1) * (64 * b.units)

/-- VMOVQ (R164); a context whose stream holds no element waits, and nothing changes. Its destination is checked before its stream (log
entry 82). -/
def execVmovq (f : VQ) (s : State) : Res :=
  .next (ownV s [f.vd.val] (fun s =>
    match s.arch.rdQ f.q.val with
    | none => raiseTrap s 0xFF05
    | some b =>
      if b.units ≠ 4 then raiseTrap s 0xFF05
      else if !streamReady s.me f.q.val then s
      else
        let (s1, e) := readEccMany s .act (laneRanges (rdK s f.km.val) (elemAddr b))
        let x := leNat (seen s1 .act (elemAddr b) 256)
        pushResult (s1.setArch (s1.arch.wrQ f.q.val (some { b with consumed := b.consumed + 1 }))) (.vec f.vd.val)
          (laneMerge (rdK s1 f.km.val) 32 (rdV s1 f.vd.val) (elem x 32 ·)) (latency s1 0) (ownLatency 0) e))

/-! Lane-predicate instructions (R165). -/

def execKand (f : VK) (s : State) : Res :=
  .next (push s (.kreg f.kd.val) (rdK s f.ka.val &&& rdK s f.kb.val).toNat 0)
def execKor (f : VK) (s : State) : Res :=
  .next (push s (.kreg f.kd.val) (rdK s f.ka.val ||| rdK s f.kb.val).toNat 0)
def execKnot (f : VK) (s : State) : Res := .next (push s (.kreg f.kd.val) (~~~ rdK s f.ka.val).toNat 0)
def execKset (f : VK) (s : State) : Res := .next (push s (.kreg f.kd.val) (rdS s f.sd.val).toNat 0)
def execKpop (f : VK) (s : State) : Res :=
  .next (pushScalar s f.sd.val (popCount (rdK s f.ka.val &&& rdK s f.kb.val).toNat 64))

end Sys2Proof.Machine
end

