-- ==== Sys2Proof/Machine/Matrix.lean ====
section
/-! DEFINITION. The M-slot instructions (R168 to R189): latch loads, the matrix array, shape records, engine
parameters, accumulator rows and the dot engine. -/
namespace Sys2Proof.Machine

/-- Goes on when the vector registers a slot names are the M slot's (R143, R179). -/
def ownM (s : State) (l : List Nat) (f : State → State) : State := if ownedM s l then f s else raiseTrap s 0xFF03

/-! Latch loads (R178). -/

def addrML (s : State) (f : ML) : Nat := (rdS s f.sa.val + sx32 f.imm).toNat

/-- A latch load from a core-local space. -/
def latchLoad (f : ML) (s : State) (sp : Space) : State :=
  let a := addrML s f
  match accessFlaw s sp a 2176 64 with
  | some w => raiseFlaw s w
  | none =>
    let (s1, e) := readEcc s sp a 2176
    pushLatch s1 f.w.val (leNat (seen s1 sp a 2176)) e

def execMlat (f : ML) (s : State) : Res := .next (latchLoad f (occupyPort s Config.mlatPort) .wt)
def execMlata (f : ML) (s : State) : Res := .next (latchLoad f s .act)
/-- MLATQ; a context whose stream holds no element waits, and nothing changes. -/
def execMlatq (f : ML) (s : State) : Res :=
  .next (match s.arch.rdQ f.q.val with
    | none => raiseTrap s 0xFF06
    | some b =>
      if b.units ≠ 34 then raiseTrap s 0xFF06
      else if !streamReady s.me f.q.val then s
      else
        let (s1, e) := readEcc s .act (elemAddr b) 2176
        pushLatch (s1.setArch (s1.arch.wrQ f.q.val (some { b with consumed := b.consumed + 1 }))) f.w.val
          (leNat (seen s1 .act (elemAddr b) 2176)) e)

/-! Engine parameters (R173 to R175). -/

/-- An engine word within the limits of R173. -/
def engWordOk (sel v : Nat) : Bool :=
  if sel = 0 then fld v 63 32 == 0 && fld v 15 9 == 0 && 1 ≤ fld v 8 0 && fld v 8 0 ≤ 256
  else if sel = 1 then fld v 63 24 == 0 && fld v 15 12 == 0 && 1 ≤ fld v 23 16
  else if sel = 2 then fld v 63 24 == 0 && v % 64 == 0
  else if sel = 3 then fld v 63 48 == 0 && fld v 31 21 == 0
  else if sel = 4 then fld v 63 7 == 0
  else if sel = 5 then fld v 63 32 == 0
  else if sel = 6 then fld v 63 5 == 0
  else if sel = 0x10 then fld v 63 24 == 0 && v % 32 == 0
  else if sel = 0x11 then fld v 63 32 == 0 && v % 32 == 0
  else fld v 63 16 == 0 && fld v 15 8 ≤ 63 && fld v 7 6 == 0 && fld v 3 2 == 0

def execMset (f : MS) (s : State) : Res :=
  let v := rdS s f.sa.val
  .next (if engWordOk f.sel.toNat v.toNat then push s (.eng f.sel.toNat) v.toNat 0 else raise s .shape 3 0)

/-- A start of the M engine and of the dot engine (R175). -/
def startM (s : State) : State := s.setArch { s.arch with mAct := s.arch.mSh }
def startD (s : State) : State := s.setArch { s.arch with dAct := s.arch.dSh }

/-! Operand geometry (R98, R168, R169, R176). -/

def wide4 (a b : Ty) : Bool := tyWidth a == 4 && tyWidth b == 4
/-- Group size of a pair. -/
def groupSize (a b : Ty) : Nat := if wide4 a b then 64 else if tyWidth a = 16 then 16 else 32
/-- Tile depth Kt of a pair. -/
def tileDepth (a b : Ty) : Nat := if wide4 a b then 128 else if tyWidth a = 16 then 32 else 64
/-- Dot depth of a pair. -/
def dotDepth (a : Ty) : Nat := if tyWidth a = 16 then 32 else 64
/-- Microscaled operand (R176). -/
def isScaled (t : Ty) (bit : Bool) : Bool := t == .e2m1 || ((t == .e4m3 || t == .e5m2) && bit)

/-- Operands of a reduction: the two element strings with their types, scale strings where they carry scales, the
positions that are not padded, and the group size. -/
structure Reduction where
  ta : Ty
  tb : Ty
  a : Nat
  b : Nat
  sa : Option Nat
  sb : Option Nat
  live : Nat
  g : Nat

/-- The scale byte of a position. -/
def scaleAt (sc : Option Nat) (k : Nat) : Nat := match sc with
  | some x => elem x 8 (k / 32)
  | none => 127
/-- Group sum `j` of a reduction (R99 to R101). -/
def redGroup (r : Reduction) (j : Nat) : FV :=
  groupSum (tyWidth r.ta == 16) (tyFloat r.ta) (((List.range r.g).filter (fun i => j * r.g + i < r.live)).map (fun i =>
    let k := j * r.g + i
    ⟨valueOf r.ta (elem r.a (tyWidth r.ta) k), valueOf r.tb (elem r.b (tyWidth r.tb) k), scaleAt r.sa k, scaleAt r.sb k⟩))
/-- `n` groups accumulated onto `c` in increasing order (R102). -/
def redRun (r : Reduction) (n c : Nat) : Nat := foldFrom (fun c j => accumulate c (redGroup r j)) n 0 c

/-! The matrix array (R179 to R182). -/

/-- Where an A row comes from: bytes at an activation address, bytes of the vector register at an offset, all positions
padded, or no row. -/
inductive ARow where
  | mem (a : Nat)
  | vec (off : Nat)
  | zero
  | skip
deriving DecidableEq, Repr

/-- Latest value staged for a row (R181), and whether one is due after `due` ticks from now. -/
def stagedOn (a : Arch) (row : Nat) : Option Row :=
  a.groups.foldl (fun v g => g.rows.foldl (fun v r => if r.1 = row then some r.2 else v) v) none
def stagedLate (a : Arch) (row due : Nat) : Bool :=
  a.groups.any (fun g => due < g.left && g.rows.any (fun r => r.1 == row))

/-- BASE of a row (R181). -/
def baseRow (s : State) (row : Nat) : Nat :=
  match stagedOn s.arch row with
  | some r => r.toNat
  | none => leNat (seen s .acc (128 * row) 128)

/-- Live rows with their sources and target rows. -/
def liveRows (p : MSet) (src : Nat → ARow) : List (Nat × ARow × Nat) :=
  let m := fld p.rows.toNat 8 0
  ((List.range (m - min (fld p.rows.toNat 31 16) m)).map (fun i =>
    (i, src i, fld p.acc.toNat 11 0 + i * fld p.acc.toNat 23 16))).filter (fun r => r.2.1 != .skip)

/-- Bytes that hold the first `n` elements of a type, and scale bytes of as many positions: the operands of a padded
position are not read (R99, R182). -/
def liveBytes (t : Ty) (n : Nat) : Nat := (n * tyWidth t + 7) / 8
def liveScales (n : Nat) : Nat := (n + 31) / 32

/-- Byte ranges that the live rows read from the activation buffer. -/
def arrayReads (p : MSet) (rows : List (Nat × ARow × Nat)) (nb : Nat) (scales : Option Nat) : List (Nat × Nat) :=
  (rows.map (fun r => (match r.2.1 with | .mem a => [(a, nb)] | _ => []) ++
    (match scales, r.2.1 with
      | some n, .mem _ | some n, .vec _ => [(fld p.ascale.toNat 20 0 + r.1 * fld p.ascale.toNat 47 32, n)]
      | _, _ => []))).flatten

/-- One staged row: 32 columns (R180). -/
def arrayRow (s : State) (p : MSet) (f : MX) (t va : Nat) (r : Nat × ARow × Nat) : Row :=
  let kt := tileDepth f.tya f.tyb
  let g := groupSize f.tya f.tyb
  let live := match r.2.1 with | .zero => 0 | _ => kt - fld p.kpad.toNat 7 0
  let nb := liveBytes f.tya live
  let a := match r.2.1 with
    | .mem x => leNat (seen s .act x nb)
    | .vec o => va >>> (8 * o)
    | _ => 0
  let asc := if isScaled f.tya (p.mode.getLsbD 0) then
      some (match r.2.1 with
        | .zero => 0
        | _ => leNat (seen s .act (fld p.ascale.toNat 20 0 + r.1 * fld p.ascale.toNat 47 32) (liveScales live)))
    else none
  let bscaled := isScaled f.tyb (p.mode.getLsbD 1)
  let base := baseRow s r.2.2
  BitVec.ofNat 1024 (joinElems 32 ((List.range 32).map (fun n =>
    let c0 := elem base 32 n
    if p.cols.getLsbD n then
      redRun ⟨f.tya, f.tyb, a, t >>> (n * kt * tyWidth f.tyb), asc,
          if bscaled then some (t >>> (8 * (2048 + n * (kt / 32)))) else none, live, g⟩ (kt / g)
        (if f.acc then c0 else 0x80000000)
    else c0)))

/-- Array occupied for M cycles, and the latch while it is being read (R177, R178). -/
def occupyArray (s : State) (w m : Nat) : State :=
  let c := s.myCore
  s.setMyCore { c with busyArray := c.cycle + m, latchBusy := Tab.set 0 c.latchBusy (s.cur.ctx * 8 + w) (c.cycle + m) }

/-- ARRAY of R180 with the faults of R182 in their order; `bad` holds for a bad operand of MCONV, `x` is checked for
alignment by MMA alone. -/
def arrayOp (f : MX) (s : State) (src : MSet → Nat → ARow) (bad : MSet → Bool) (align : Option Nat) : State :=
  let s := startM s
  let p := s.arch.mAct
  let kt := tileDepth f.tya f.tyb
  let m := fld p.rows.toNat 8 0
  let rows := liveRows p (src p)
  let due := m + latency s 8
  let live := kt - fld p.kpad.toNat 7 0
  let scales := if isScaled f.tya (p.mode.getLsbD 0) then some (liveScales live) else none
  let reads := arrayReads p rows (liveBytes f.tya live) scales
  let targets := rows.map (fun r => r.2.2)
  if bad p || kt ≤ fld p.kpad.toNat 7 0 then raise s .shape 2 0
  else if targets.any (stagedLate s.arch · due) then raise s .shape 4 0
  else match firstFlaw [
      lowestFlaw (reads.map (fun r => boundFlaw (spaceBounds s .act) r.1 r.2) ++
        targets.map (fun r => boundFlaw (spaceBounds s .acc) (128 * r) 128)),
      align.bind (fun a => if a % 64 ≠ 0 then some (.bound, 2, a) else none),
      lowestFlaw (reads.map (fun r => formFlaw s r.1 r.2))] with
    | some w => raiseFlaw s w
    | none =>
      let (s1, e) := readEccMany s .act reads
      let t := (s1.arch.rdW f.w.val).toNat
      let va := (rdV s1 f.va.val).toNat
      pushRows (occupyArray s1 f.w.val m) (rows.map (fun r => (r.2.2, arrayRow s1 p f t va r))) due (m + ownLatency 8) e

def execMma (f : MX) (s : State) : Res :=
  let x := (rdS s f.sa.val).toNat
  .next (arrayOp f s (fun p m => .mem ((x + m * fld p.astride.toNat 23 0) % 2 ^ 64)) (fun _ => false) (some x))
def execMmav (f : MX) (s : State) : Res :=
  .next (ownM s [f.va.val] (fun s =>
    arrayOp f s (fun _ m => .vec (64 * m)) (fun p => 4 < fld p.rows.toNat 8 0) none))

/-! Shape records (R183 to R186). -/

/-- A derived dimension's numerator (R183). -/
def shapeNum (size padA padB dil filt : Nat) : Int :=
  (size : Int) + padA + padB - ((dil + 1) * filt : Nat) - 1
def outW (h : Nat) : Int :=
  shapeNum (fld h 183 168) (fld h 207 200) (fld h 215 208) (fld h 231 228) (fld h 239 236) / (fld h 223 220 + 1 : Nat) + 1
def outH (h : Nat) : Int :=
  shapeNum (fld h 167 152) (fld h 191 184) (fld h 199 192) (fld h 227 224) (fld h 235 232) / (fld h 219 216 + 1 : Nat) + 1

/-- A valid record (R183). -/
def shapeOk (h : Nat) : Bool :=
  fld h 243 240 == 1 && fld h 183 168 ≠ 0 && fld h 167 152 ≠ 0 && fld h 103 96 ≠ 0 &&
  fld h 84 64 % 64 == 0 && fld h 151 128 % 64 == 0 && fld h 127 104 % 64 == 0 &&
  fld h 255 244 == 0 && fld h 95 85 == 0 && fld h 31 0 == 0 &&
  0 ≤ shapeNum (fld h 183 168) (fld h 207 200) (fld h 215 208) (fld h 231 228) (fld h 239 236) &&
  0 ≤ shapeNum (fld h 167 152) (fld h 191 184) (fld h 199 192) (fld h 227 224) (fld h 235 232) &&
  outW h ≤ 65535 && outH h ≤ 65535

/-- The record with its derived fields. -/
def shapeDerive (h : Nat) : Nat := setFld (setFld h 63 48 (outW h).toNat) 47 32 (outH h).toNat

def execMshape (f : MS) (s : State) : Res :=
  let a := (rdS s f.sa.val).toNat
  .next (match accessFlaw s .act a 32 32 with
    | some w => raiseFlaw s w
    | none =>
      let h := leNat (seen s .act a 32)
      if !shapeOk h || fld h 63 32 ≠ 0 then raise s .shape 1 0
      else
        let (s1, e) := readEcc s .act a 32
        pushResult s1 (.shape f.h.val) (shapeDerive h) (latency s1 3) (ownLatency 3) e)

def execMpad (f : MS) (s : State) : Res :=
  let h := (s.arch.rdH f.h.val).toNat
  let v := (rdS s f.sa.val).toNat
  let n := if f.sel = 0 then
      setFld (setFld (setFld (setFld h 215 208 (fld v 31 24)) 207 200 (fld v 23 16)) 199 192 (fld v 15 8)) 191 184 (fld v 7 0)
    else setFld h 84 64 (fld v 20 0)
  let excess := if f.sel = 0 then fld v 63 32 else fld v 63 21
  .next (if !shapeOk h || excess ≠ 0 || !shapeOk n then raise s .shape 1 0
    else push s (.shape f.h.val) (shapeDerive n) 0)

/-- AROW of MCONV (R186). -/
def convRow (h x m : Nat) : ARow :=
  let o := fld x 31 0 + m
  let w := fld h 63 48
  if fld h 47 32 * w ≤ o then .skip
  else
    let iy : Int := ((o / w * (fld h 219 216 + 1) + fld x 39 32 * (fld h 227 224 + 1) : Nat) : Int) - fld h 191 184
    let ix : Int := ((o % w * (fld h 223 220 + 1) + fld x 47 40 * (fld h 231 228 + 1) : Nat) : Int) - fld h 207 200
    if iy < 0 || (fld h 167 152 : Int) ≤ iy || ix < 0 || (fld h 183 168 : Int) ≤ ix then .zero
    else .mem (fld h 84 64 + iy.toNat * fld h 127 104 + ix.toNat * fld h 151 128 + fld x 55 48 * 64)
/-- A field of x outside its table (R186). -/
def convBad (h x : Nat) : Bool :=
  !shapeOk h || fld x 63 56 ≠ 0 || fld h 103 96 ≤ fld x 55 48 || fld h 239 236 < fld x 47 40 || fld h 235 232 < fld x 39 32

def execMconv (f : MX) (s : State) : Res :=
  let h := (s.arch.rdH f.h.val).toNat
  let x := (rdS s f.sa.val).toNat
  .next (arrayOp f s (fun _ m => convRow h x m) (fun p => convBad h x || isScaled f.tya (p.mode.getLsbD 0)) none)

/-! Accumulator rows (R187, R188). -/

def execMzero (f : MS) (s : State) : Res :=
  let b := (rdS s f.sb.val).toNat
  let rows := (List.range (f.sel.toNat + 1)).map (b + ·)
  let due := latency s 0
  .next (if rows.any (stagedLate s.arch · due) then raise s .shape 4 0
    else match lowestFlaw (rows.map (fun r => boundFlaw (spaceBounds s .acc) (128 * r) 128)) with
      | some w => raiseFlaw s w
      | none => pushRows s (rows.map (fun r => (r, 0))) due (ownLatency 0) none)

/-- One converted row: 32 columns of `w` bits. -/
def drainRow (t : Ty) (mode : Nat) (row : Nat) : Nat :=
  joinElems (tyWidth t) ((List.range 32).map (fun n =>
    let x := elem row 32 n
    if t = .f32 then x else fpRound (fmtOf t) (rndOf (fld mode 3 2)) (mode.testBit 4) (fpDecode fmtF32 x)))

/-- MDRAIN (R188): vector form when sel bit 7 is set, else buffer form. -/
def execMdrain (f : MS) (s : State) : Res :=
  let w := tyWidth f.ty
  let vec := f.sel.getLsbD 7
  let d := fld f.sel.toNat 5 0
  let n := if vec then 2048 / (32 * w) else fld f.sel.toNat 6 0 + 1
  let r0 := (rdS s f.sb.val).toNat
  let a := (rdS s f.sa.val).toNat
  let rows := (List.range n).map (r0 + ·)
  .next (ownM s (if vec then [d] else []) (fun s =>
    let s := startM s
    let mode := s.arch.mAct.mode.toNat
    match firstFlaw [
        if !vec && a % (4 * w) ≠ 0 then some (.bound, 2, a) else none,
        lowestFlaw ((if vec then none else boundFlaw (spaceBounds s .act) a (4 * w * n)) ::
          rows.map (fun r => boundFlaw (spaceBounds s .acc) (128 * r) 128)),
        if vec then none else formFlaw s a (4 * w * n)] with
    | some x => raiseFlaw s x
    | none =>
      let (s1, e) := readEcc s .acc (128 * r0) (128 * n)
      let out := joinElems (32 * w) (rows.map (fun r => drainRow f.ty mode (leNat (seen s1 .acc (128 * r) 128))))
      if vec then pushResult s1 (.vec d) out (latency s1 4) (ownLatency 4) e
      else
        let s2 := withholdStore s1 (addressed (spaceBase s1 .act + a) (leBytes (4 * w * n) out))
        match e with
        | none => s2
        | some t => s2.setArch { s2.arch with seqDue := s2.arch.seqDue ++ [⟨.scalar 0, 0, 1, 0, false, some t, s2.arch.pc.toNat⟩] }))

/-! The dot engine (R189). -/

/-- Dot engine and weight port: one cycle for a 4-bit weight type, two otherwise (R177). -/
def occupyDot (s : State) (t : Ty) : State :=
  let c := s.myCore
  let n := if tyWidth t = 4 then 1 else 2
  s.setMyCore { c with busyDot := c.cycle + n, busyPort := c.cycle + n }

/-- DOT and DOTACC. -/
def dotOp (f : MD) (s : State) (acc : Bool) : State :=
  ownM s [f.vd.val, f.va.val] (fun s =>
    let s := startD s
    let p := s.arch.dAct
    let k := dotDepth f.tya
    let g := groupSize f.tya f.tyb
    let live := k - fld p.mode.toNat 15 8
    let nb := liveBytes f.tyb live
    let a := (rdS s f.sa.val).toNat
    let stride := fld p.wstride.toNat 23 0
    let wsc := isScaled f.tyb (p.mode.getLsbD 1)
    let row := fun l => (a + l * stride) % 2 ^ 64
    let scale := fun l => wrapInt 64 ((a : Int) + sx 32 p.wscale.toNat + (2 * l : Nat))
    let reads := (List.range 16).map (fun l => (row l, nb)) ++
      (if wsc then (List.range 16).map (fun l => (scale l, liveScales live)) else [])
    if k ≤ fld p.mode.toNat 15 8 then raise s .shape 2 0
    else match firstFlaw [
        if a % 32 ≠ 0 then some (.bound, 2, a) else if stride % 32 ≠ 0 then some (.bound, 2, row 1) else none,
        lowestFlaw (reads.map (fun r => boundFlaw (spaceBounds s .wt) r.1 r.2))] with
      | some w => raiseFlaw s w
      | none =>
        let (s1, e) := readEccMany s .wt reads
        let va := (rdV s1 f.va.val).toNat
        let old := (rdV s1 f.vd.val).toNat
        let out := fld p.mode.toNat 5 4
        let xsc := if isScaled f.tya (p.mode.getLsbD 0) then some (va >>> 1024) else none
        let lanes := joinElems 32 ((List.range 64).map (fun j =>
          if 16 * out ≤ j && j < 16 * out + 16 then
            let l := j - 16 * out
            redRun ⟨f.tya, f.tyb, va, leNat (seen s1 .wt (row l) nb), xsc,
                if wsc then some (leNat (seen s1 .wt (scale l) (liveScales live))) else none, live, g⟩ (k / g)
              (if acc then elem old 32 j else 0x80000000)
          else elem old 32 j))
        pushResult (occupyDot s1 f.tyb) (.vec f.vd.val) lanes (latency s1 9) (ownLatency 9) e)

def execDot (f : MD) (s : State) : Res := .next (dotOp f s false)
def execDotacc (f : MD) (s : State) : Res := .next (dotOp f s true)

end Sys2Proof.Machine
end

