-- ==== Sys2Proof/Machine/Crypto.lean ====
section
/-! DEFINITION. The standard functions that the spec names and does not define (log entry 6): SHA-256 and HMAC-SHA-256
(R61, R414), AES-256-GCM (R221, R415) and RSASSA-PSS with RSA-3072 (R414, R428). -/
namespace Sys2Proof.Machine

/-! SHA-256 (FIPS 180-4). -/

/-- Of the numbers below 2^(position), the greatest whose k-th power, added bit by bit from above, stays at most `x`. -/
def rootBits (k x : Nat) : Nat → Nat → Nat
  | 0, r => r
  | b + 1, r => rootBits k x b (if (r + 2 ^ b) ^ k ≤ x then r + 2 ^ b else r)

/-- The first 32 fractional bits of the k-th root of a prime, from which the standard draws its constants. -/
def rootFraction (k p : Nat) : Nat := rootBits k (p * 2 ^ (32 * k)) 37 0 % 2 ^ 32

/-- Primes below a bound. -/
def primesBelow (n : Nat) : List Nat :=
  (List.range n).filter (fun p => 2 ≤ p && (List.range p).all (fun d => d < 2 || p % d != 0))

/-- Round constants: cube roots of the first 64 primes. -/
def shaK : List Nat := (primesBelow 312).map (rootFraction 3)

/-- The hash value that the first block starts from: square roots of the first eight primes. -/
def shaStart : List Nat := (primesBelow 20).map (rootFraction 2)

def rotr32 (x n : Nat) : Nat := (x >>> n) ||| ((x <<< (32 - n)) % 2 ^ 32)

/-- Big-endian value of bytes. -/
def beNat (l : List Byte) : Nat := l.foldl (fun a b => 256 * a + b.toNat) 0
/-- Big-endian bytes of a value. -/
def beBytes (n x : Nat) : List Byte := (leBytes n x).reverse

/-- Splits into runs of `n`, at most `f` of them. -/
def chunks {α : Type} (n : Nat) : Nat → List α → List (List α)
  | 0, _ => []
  | f + 1, l => if l.isEmpty then [] else l.take n :: chunks n f (l.drop n)

/-- The message schedule: `n` further words after the newest-first list `w`. -/
def shaSchedule : Nat → List Nat → List Nat
  | 0, w => w.reverse
  | n + 1, w =>
    let at' := fun i => w.getD (i - 1) 0
    let s0 := rotr32 (at' 15) 7 ^^^ rotr32 (at' 15) 18 ^^^ (at' 15 >>> 3)
    let s1 := rotr32 (at' 2) 17 ^^^ rotr32 (at' 2) 19 ^^^ (at' 2 >>> 10)
    shaSchedule n ((at' 16 + s0 + at' 7 + s1) % 2 ^ 32 :: w)

/-- One round. -/
def shaRound (h : List Nat) (kw : Nat × Nat) : List Nat :=
  match h with
  | [a, b, c, d, e, f, g, hh] =>
    let s1 := rotr32 e 6 ^^^ rotr32 e 11 ^^^ rotr32 e 25
    let ch := (e &&& f) ^^^ ((2 ^ 32 - 1 - e) &&& g)
    let t1 := (hh + s1 + ch + kw.1 + kw.2) % 2 ^ 32
    let s0 := rotr32 a 2 ^^^ rotr32 a 13 ^^^ rotr32 a 22
    let maj := (a &&& b) ^^^ (a &&& c) ^^^ (b &&& c)
    [(t1 + s0 + maj) % 2 ^ 32, a, b, c, (d + t1) % 2 ^ 32, e, f, g]
  | _ => h

/-- One 64-byte block. -/
def shaBlock (h : List Nat) (b : List Byte) : List Nat :=
  let w := shaSchedule 48 ((chunks 4 16 b).map beNat).reverse
  (h.zip ((shaK.zip w).foldl shaRound h)).map (fun p => (p.1 + p.2) % 2 ^ 32)

/-- SHA-256, output byte 0 first. -/
def sha256 (m : List Byte) : List Byte :=
  let pad := 64 - (m.length + 9) % 64
  let msg := m ++ [0x80] ++ List.replicate (pad % 64) 0 ++ beBytes 8 (8 * m.length)
  (((chunks 64 (msg.length / 64) msg).foldl shaBlock shaStart).map (beBytes 4)).flatten

/-- HMAC-SHA-256. -/
def hmac (key m : List Byte) : List Byte :=
  let k0 := if 64 < key.length then sha256 key else key
  let k := k0 ++ List.replicate (64 - k0.length) 0
  sha256 (k.map (· ^^^ 0x5c) ++ sha256 (k.map (· ^^^ 0x36) ++ m))

/-! AES-256 (FIPS 197). -/

/-- Product in GF(2^8) modulo x^8 + x^4 + x^3 + x + 1. -/
def gmul8 (a b : Nat) : Nat :=
  ((List.range 8).foldl (fun (p : Nat × Nat) i =>
    (if b.testBit i then p.1 ^^^ p.2 else p.1,
     if p.2.testBit 7 then ((2 * p.2) % 256) ^^^ 0x1b else 2 * p.2)) (0, a)).1

/-- The S-box: inverse, then the affine map. -/
def sboxOf (x : Nat) : Nat :=
  let sq := fun y => gmul8 y y
  let x2 := sq x
  let x4 := sq x2
  let x8 := sq x4
  let x16 := sq x8
  let x32 := sq x16
  let x64 := sq x32
  let inv := gmul8 (gmul8 (gmul8 x2 x4) (gmul8 x8 x16)) (gmul8 (gmul8 x32 x64) (sq x64))
  let rot := fun n => (inv <<< n ||| inv >>> (8 - n)) % 256
  inv ^^^ rot 1 ^^^ rot 2 ^^^ rot 3 ^^^ rot 4 ^^^ 0x63
def sboxTable : List Nat := (List.range 256).map sboxOf
def sbox (x : Nat) : Nat := sboxTable.getD x 0

/-- Expanded key: `n` further words (lists of 4 bytes) after the newest-first list; `i` is the next word's index. -/
def aesExpand : Nat → Nat → Nat → List (List Nat) → List (List Nat)
  | 0, _, _, w => w.reverse
  | n + 1, i, rcon, w =>
    let prev := w.getD 0 []
    let t := if i % 8 = 0 then
        match (prev.drop 1 ++ prev.take 1).map sbox with
        | x :: r => (x ^^^ rcon) :: r
        | [] => []
      else if i % 8 = 4 then prev.map sbox else prev
    aesExpand n (i + 1) (if i % 8 = 0 then gmul8 rcon 2 else rcon) (((w.getD 7 []).zip t).map (fun p => p.1 ^^^ p.2) :: w)

/-- The 15 round keys of a 32-byte key. -/
def aesKeys (key : List Nat) : List (List Nat) :=
  ((chunks 4 15 (aesExpand 52 8 1 (chunks 4 8 key).reverse))).map List.flatten

def xorL (a b : List Nat) : List Nat := (a.zip b).map (fun p => p.1 ^^^ p.2)
/-- Row r of the column-major state rotates left by r. -/
def aesShiftRows (s : List Nat) : List Nat :=
  (List.range 16).map (fun i => s.getD ((i + 4 * (i % 4)) % 16) 0)
def aesMixColumns (s : List Nat) : List Nat :=
  (List.range 16).map (fun i =>
    let c := i / 4 * 4
    let at' := fun j => s.getD (c + (i + j) % 4) 0
    gmul8 (at' 0) 2 ^^^ gmul8 (at' 1) 3 ^^^ at' 2 ^^^ at' 3)

/-- One block under expanded keys. -/
def aesBlock (keys : List (List Nat)) (b : List Nat) : List Nat :=
  let s := (((keys.drop 1).take 13).foldl (fun s k => xorL (aesMixColumns (aesShiftRows (s.map sbox))) k) (xorL b (keys.getD 0 [])))
  xorL (aesShiftRows (s.map sbox)) (keys.getD 14 [])

/-! GCM (NIST SP 800-38D). -/

/-- Product in GF(2^128), bit 127 first. -/
def gmul128 (x y : Nat) : Nat :=
  ((List.range 128).foldl (fun (p : Nat × Nat) i =>
    (if x.testBit (127 - i) then p.1 ^^^ p.2 else p.1,
     if p.2.testBit 0 then (p.2 >>> 1) ^^^ (0xe1 <<< 120) else p.2 >>> 1)) (0, y)).1

def blockNat (l : List Nat) : Nat := l.foldl (fun a b => 256 * a + b) 0
def natBlock (x : Nat) : List Nat := (beBytes 16 x).map (·.toNat)
/-- Padded to whole blocks. -/
def padBlock (l : List Nat) : List Nat := l ++ List.replicate ((16 - l.length % 16) % 16) 0

/-- GHASH over additional data and ciphertext. -/
def ghash (h : Nat) (aad c : List Nat) : Nat :=
  let data := padBlock aad ++ padBlock c ++ ((beBytes 8 (8 * aad.length)) ++ beBytes 8 (8 * c.length)).map (·.toNat)
  (chunks 16 (data.length / 16) data).foldl (fun y b => gmul128 (y ^^^ blockNat b) h) 0

/-- Key stream applied from counter 2 on, for a 12-byte IV. -/
def gcmCtr (keys : List (List Nat)) (iv : Nat) (m : List Nat) : List Nat :=
  (((chunks 16 (m.length / 16 + 1) m).zipIdx 2).map (fun b =>
    xorL b.1 (aesBlock keys (natBlock (iv * 2 ^ 32 + b.2 % 2 ^ 32))))).flatten

/-- The tag of a ciphertext. -/
def gcmTag (keys : List (List Nat)) (iv : Nat) (aad c : List Nat) : List Nat :=
  xorL (aesBlock keys (natBlock (iv * 2 ^ 32 + 1))) (natBlock (ghash (blockNat (aesBlock keys (List.replicate 16 0))) aad c))

/-- AES-256-GCM: the message under the key stream, and the tag of ciphertext `c`. -/
def gcmCrypt (key iv m : List Byte) : List Byte :=
  (gcmCtr (aesKeys (key.map (·.toNat))) (beNat iv) (m.map (·.toNat))).map (BitVec.ofNat 8 ·)
def gcmAuth (key iv aad c : List Byte) : List Byte :=
  (gcmTag (aesKeys (key.map (·.toNat))) (beNat iv) (aad.map (·.toNat)) (c.map (·.toNat))).map (BitVec.ofNat 8 ·)

/-! RSASSA-PSS (PKCS #1). -/

/-- x^e mod m over the low `n` bits of e. -/
def powMod (x e m : Nat) : Nat → Nat
  | 0 => 1 % m
  | n + 1 =>
    let r := powMod x e m n
    if e.testBit n then r * ((List.range n).foldl (fun y _ => y * y % m) (x % m)) % m else r

/-- MGF1 with SHA-256. -/
def mgf1 (seed : List Byte) (n : Nat) : List Byte :=
  (((List.range (n / 32 + 1)).map (fun i => sha256 (seed ++ beBytes 4 i))).flatten).take n

/-- EMSA-PSS verification for a 3,072-bit modulus and a 32-byte salt. -/
def pssVerify (n e : Nat) (msg sig : List Byte) : Bool :=
  let em := beBytes 384 (powMod (beNat sig) e n (e.log2 + 1))
  let masked := em.take 351
  let h := (em.drop 351).take 32
  let raw := (masked.zip (mgf1 h 351)).map (fun p => p.1 ^^^ p.2)
  let db := raw.take 1 |>.map (· &&& 0x7f)
  let rest := raw.drop 1
  let salt := rest.drop 318
  beNat sig < n && sig.length == 384 && em.drop 383 == [0xbc] && (em.headD 0).toNat < 128 &&
  db == [0] && (rest.take 317).all (· == 0) && (rest.drop 317).take 1 == [1] &&
  h == sha256 (List.replicate 8 0 ++ sha256 msg ++ salt)

end Sys2Proof.Machine
end

