-- ==== Sys2Proof/Machine/Links.lean ====
section
/-! DEFINITION. What leaves over the Ovdex links: flits under the key of their epoch (R421, R422), and the bundle of a job that
migrates (R417). -/
namespace Sys2Proof.Machine

def State.link (s : State) (l : Nat) : Link := Tab.get Link.reset s.links l
def State.setLink (s : State) (l : Nat) (v : Link) : State := { s with links := Tab.set Link.reset s.links l v }

/-- IV of a flit: salt and sequence number of its direction's epoch (R422); outward or inward. -/
def flitIv (l : Nat) (out : Bool) (epoch seq : Nat) : List Byte := leBytes 6 (Config.linkSalt l out epoch).toNat ++ leBytes 6 seq
/-- A flit's plaintext or ciphertext under the key of its epoch, and the MAC of its ciphertext (AES-256-GCM, R422). -/
def flitCrypt (l : Nat) (out : Bool) (epoch seq : Nat) (bs : List Byte) : List Byte :=
  gcmCrypt (leBytes 32 (Config.linkKey l out epoch).toNat) (flitIv l out epoch seq) bs
def flitMac (l : Nat) (out : Bool) (epoch seq : Nat) (text : List Byte) : List Byte :=
  gcmAuth (leBytes 32 (Config.linkKey l out epoch).toNat) (flitIv l out epoch seq) [] text

/-- A flit as it goes out: the same plaintext, epoch and sequence number always make the same flit (R422). -/
def flitOut (l epoch seq : Nat) (plain : List Byte) : Sent :=
  let text := flitCrypt l true epoch seq plain
  .flit l epoch seq text (flitMac l true epoch seq text)
/-- A flit is sent and kept until it is acknowledged (R421). -/
def sendFlit (s : State) (l : Nat) (plain : List Byte) : State :=
  let k := s.link l
  emit (s.setLink l { k with nextSeq := k.nextSeq + 1, unacked := k.unacked ++ [(k.nextSeq, plain)] }) (flitOut l k.epoch k.nextSeq plain)
/-- The peer has asked for a replay: the flits from a sequence number on go out again unchanged (R421). -/
def resend (s : State) (l seq : Nat) : State :=
  let k := s.link l
  (k.unacked.filter (fun u => seq ≤ u.1)).foldl (fun t u => emit t (flitOut l k.epoch u.1 u.2)) s

/-- Sectors of a range that a read cannot correct, counted from its first: they are delivered poisoned (R208, R424). -/
def poisonedIn (s : State) (k n : Nat) : List Nat :=
  (locsOf k n).filterMap (fun l => if (worstErr s l 1 none).any (fun e => 1 < e.1) then some (l / 64 - k / 64) else none)

/-! What a migration sends (R417). -/

/-- Contexts that hold a unit of a job, those being given one among them. -/
def allContextsOf (s : State) (job : Nat) : List (Nat × Nat) :=
  s.cores.flatMap (fun k => (if k.2.ctx0.run != .free && k.2.ctx0.job == job then [(k.1, 0)] else []) ++
    (if k.2.ctx1.run != .free && k.2.ctx1.job == job then [(k.1, 1)] else []))

/-- Virtual pages of device memory that a job's tables name, as a bundle or an image takes them, level by level (R288); a frame in a
tenant's region is none of the job's (R317). -/
def virtualPages (s : State) : Nat → Nat → Nat → List SavedPage
  | 0, _, _ => []
  | n + 1, node, va => (List.range 256).flatMap (fun i =>
    let e := leNat (s.bytes (node + 16 * i) 16)
    let at' := va + i * 2 ^ (16 + 8 * n)
    if !e.testBit 0 then []
    else if e.testBit 1 then
      (if fld e 7 6 = 0 then savedPages s (at' / 65536) (fld e 63 16 * 65536) (2 ^ (8 * n)) else [])
    else virtualPages s n (fld e 63 12 * 4096) at')
where
  savedPages (s : State) (page key n : Nat) : List SavedPage :=
    (List.range n).filterMap (fun i =>
      let k := key + 65536 * i
      if Config.devMemEnd ≤ k || inRegion s k then none
      else some ⟨page + i, s.bytes k 65536, (List.range 1024).map (fun j => (s.tagAt (k + 64 * j)).toNat), poisonedIn s k 65536⟩)

/-- What a migration or a safe checkpoint takes of a job (R417, R420). -/
def bundleOf (s : State) (job : Nat) (j : Job) : MigBundle :=
  let a := asidEntry s (jobAsid s job)
  let k := j.key.getD ⟨0, 0, 0, 0⟩
  { desc := j.desc
    pool := j.pool
    pages := if a.testBit 0 then virtualPages s 4 (fld a 91 64 * 4096) 0 else []
    key := k.key
    salt := k.salt
    keyId := k.keyId
    counter := k.counter }

/-- A job no unit of which stands on a context. -/
def jobStopped (s : State) (job : Nat) : Bool := (allContextsOf s job).isEmpty

/-- Step 2 of R417 for one job: once its units stand in frames, its bundle goes out under the migration key, through host memory or over
a link; over a link that does not deliver, it waits (R427). -/
def sendBundle (s : State) (job : Nat) : State := match s.job job with
  | none => s
  | some j => match j.migKey with
    | none => s
    | some key =>
      let route := (Config.bundleRoute job).map (· % 8)
      if !j.migrating || j.bundleSent || !jobStopped s job || route.any (fun l => (s.link l).state != .up) then s
      else
        let s1 := emit (s.setJob job (some { j with bundleSent := true })) (.bundle job ⟨key, bundleOf s job j⟩)
        match route with
        | some l => sendFlit s1 l (leBytes 8 job)
        | none => s1
/-- The bundles that have become due. -/
def sendBundles (s : State) : State := s.jobs.foldl (fun t j => sendBundle t j.1) s

end Sys2Proof.Machine
end

