-- ==== Sys2Proof/Machine/Access.lean ====
section
/-! DEFINITION. Accesses by the copy engines and by the device: reads and writes of one block with their refusals
(R201 to R208, R253, R257, R301, R424), the interval log (R372), migration counts (R297, R298), and the device's own
accesses to a job's records and counters (R29, R301, R431). -/
namespace Sys2Proof.Machine

/-- An accessing engine: the cluster whose engines serve it, its job, the issuing context's bounds (R256), its ctx.id
for logs, whether it acts for a confidential context (R195), the peer it acts for, and its number in the cluster (R290). -/
structure Eng where
  cl : Nat
  job : Nat
  own : Option Own
  ctx : Option Nat
  conf : Bool
  peer : Option Nat
  unit : Nat
deriving DecidableEq, Repr

/-- A confidential job (R303). -/
def confJob (s : State) (job : Nat) : Bool := jobField s job 492 492 == 1

/-- Which of a cluster's eight copy engines performs a transfer is open: that of a channel's number, or of a ring's job's number
(log entry 19). -/
def engineOf (n : Nat) : Nat := n % 8

/-- Who consumes what an engine reads (R209). -/
def Eng.who (e : Eng) : Consumer := ⟨e.ctx, e.job⟩

/-! Translation by a copy engine, and where an access lands. -/

/-- Fills a die's translation cache (R290); an injection armed on it applies (R223). -/
def fillDie (s : State) (die asid va : Nat) (x : Xl) : State :=
  let s1 := { s with dieTlb := Tab.set [] s.dieTlb die (cacheLeaf 8192 asid va x (s.dieCache die)) }
  match Tab.get none s1.inject (tlbArray die) with
  | some j => { parityApply s1 die j with inject := Tab.set none s1.inject (tlbArray die) none }
  | none => s1

/-- The first-level TLB of copy engine `u` of a cluster (R290). -/
def State.engineTlb (s : State) (cl u : Nat) : List TlbEnt := Tab.get [] (s.cluster cl).tlb u

/-- Fills the first-level TLB of a copy engine and its die's cache (R290). -/
def fillCaches (s : State) (cl u asid va : Nat) (x : Xl) : State :=
  let c := s.cluster cl
  fillDie (s.setCluster cl { c with tlb := Tab.set [] c.tlb u (cacheLeaf 64 asid va x (s.engineTlb cl u)) }) (cl / 4) asid va x

/-- A walk's reads of table entries meet errors as the device's reads do (R208): a corrected one is rewritten. -/
def meetWalk (s : State) (job asid va : Nat) : State :=
  if s.errs.isEmpty then s else (walkEntries s asid va).foldl (fun t a => meet t a 16 none ⟨none, job⟩) s

/-- Translation by a copy engine of a cluster: a cached leaf serves where it allows the access; faults are never
cached, so every other access walks afresh (R290). -/
def translate (s : State) (e : Eng) (va p : Nat) (wr : Bool) : State × Option Xl :=
  let v := va % 2 ^ 48
  let asid := jobAsid s e.job
  let hit := match cachedLeaf (s.engineTlb e.cl e.unit) asid v with
    | some t => some t
    | none => cachedLeaf (s.dieCache (e.cl / 4)) asid v
  let use := outsideRegions s (match hit with
    | some t => useLeaf t.leaf.toNat t.leafAt ((t.log2 - 16) / 8) v p wr
    | none => none)
  match use with
  | some x => (s, some x)
  | none =>
    let s1 := meetWalk s e.job asid v
    match walk s1 asid v p wr with
    | some x => (fillCaches s1 e.cl e.unit asid v x, some x)
    | none => (s1, none)

/-- What the Ovdex links offer an access to a peer (R423; which link leads to a peer is not the spec's, log entry 9):
nothing when one delivers, a refusal with a hint while one retrains, a link failure otherwise. -/
def linkRefusal (s : State) : Option (Nat × Nat) :=
  let st := (List.range 8).map (fun l => (Tab.get Link.reset s.links l).state)
  if st.contains .up then none
  else if st.any (· != .down) then some (stRetry, 0x30) else some (stLink, 0x20)

/-- Entry `i` of the window list that a descriptor names (R203, R303), where it stands whole on a page that the job may read. -/
def listedWindow (s : State) (job i : Nat) : Option (BitVec 256) :=
  let va := (jobField s job 231 184 + 32 * i) % 2 ^ 48
  if 65536 < va % 65536 + 32 then none
  else (walk s (jobAsid s job) va 0 false).map (fun x => BitVec.ofNat 256 (leNat (s.bytes x.addr 32)))
/-- A job's window list: the one that WINDOWS_SET has given, and until then the one that the descriptor names (log entry 73). -/
def jobWindows (s : State) (job : Nat) : List (BitVec 256) := match s.job job with
  | none => []
  | some j =>
    if j.windows.isEmpty then (List.range (jobField s job 458 453 + 1)).filterMap (listedWindow s job) else j.windows

/-- Finds where `len` bytes at a device address lie for a job, or the status and detail that refuse the access
(R201 to R203, R253, R289, R301). `len` bytes lie within one 64-byte block. -/
def locate (s : State) (e : Eng) (a len : Nat) (wr : Bool) : State × Except (Nat × Nat) Spot :=
  let p := pathOf a
  if 8 ≤ p then (s, .error (stBound, 0x01))
  else if !addrFieldsOk a then (s, .error (stBound, 0x08))
  else if wr && (p = 1 || p = 2 || p = 4) then (s, .error (stBound, 0x04))
  else if p = 2 || p = 3 then
    match coreOfCode s (fld a 35 26) with
    | none => (s, .error (stBound, 0x03))
    | some core =>
      let mine := match e.own with
        | some o => p == 3 && o.core == core
        | none => false
      let inSpace := spaceOff a + len ≤ spaceBytes a
      if mine then
        let b := match e.own with
          | some o => if fld a 25 24 = 0 then actBounds o.cart else accBounds o.cart
          | none => (0, 0)
        if inSpace && b.1 ≤ spaceOff a && spaceOff a + len ≤ b.2 then (s, .ok ⟨spaceKey core a, none, none, none, false⟩)
        else (s, .error (stBound, 0x07))
      else
        let ws := jobWindows s e.job
        if inSpace && ws.any (fun w => windowCovers w.toNat a len wr) then
          (s, .ok ⟨spaceKey core a, none, none, none, false⟩)
        else (s, .error (stBound, 0x03))
  else if p = 7 then
    let ws := jobWindows s e.job
    if ws.any (fun w => windowCovers w.toNat a len wr) && Tab.get false s.drives (fld a 55 48) then (s, .error (stLink, 0x21))
    else if ws.any (fun w => windowCovers w.toNat a len wr) then
      (s, .ok ⟨driveKey (fld a 55 48) (fld a 47 0), none, none, none, false⟩)
    else (s, .error (stBound, 0x03))
  else
    match translate s e (fld a 47 0) p wr with
    | (s1, none) => (s1, .error (stBound, 0x01))
    | (s1, some x) =>
      if p = 5 then
        if s1.hostPort then (s1, .ok ⟨hostKey x.addr, none, none, none, false⟩) else (s1, .error (stLink, 0x20))
      else if fld x.leaf 7 6 = 1 then
        match linkRefusal s1 with
        | none => (s1, .ok ⟨peerKey (fld x.leaf 99 92) (fld a 47 0), none, none, some (fld x.leaf 99 92), false⟩)
        | some r => (s1, .error r)
      else if wr && markedFrame s1 x.addr then (s1, .error (stBound, 0x04))
      else (s1, .ok ⟨x.addr, some (fld a 59 56), if p = 6 then some x.leafAt else none, none, p == 4⟩)

/-- Compressed view (R204): the block headers that a read of logical byte `b` reads. -/
def viewHeaders (b : Nat) : Nat := 64 * (b / 4096 + 1)

/-- Compressed view (R204): the sector that holds logical byte `b` of the page whose region starts at `base`; none
for a block whose header is not well formed, a zero key for an absent sector. -/
def viewSector (s : State) (base b : Nat) : Option (Option Nat) :=
  let mask := fun j => leNat (s.bytes (base + 64 * j) 8)
  let j := b / 4096
  let i := b % 4096 / 64
  if (s.bytes (base + 64 * j + 8) 56).any (· != 0) then none
  else if !(mask j).testBit i then some none
  else
    let pos := ((List.range j).map (fun h => popCount (mask h) 64)).sum + popCount (mask j) i
    some (some (base + 1024 + 64 * pos))


/-! Ranges of a job's memory. -/

/-- Splits a range at multiples of `g`: `n` pieces at most. -/
def splitAtMult (g : Nat) : Nat → Nat → Nat → List (Nat × Nat)
  | 0, _, _ => []
  | f + 1, a, n =>
    if n = 0 then []
    else
      let m := min n (g - a % g)
      (a, m) :: splitAtMult g f (a + m) (n - m)

/-- The pages of a range. -/
def pagesOf (a n : Nat) : List (Nat × Nat) := splitAtMult 65536 (n / 65536 + 2) a n

/-- The first address of a range that does not translate as a writable page outside the marked frames. -/
def firstUnwritable (s : State) (job va n : Nat) : Option Nat :=
  (pagesOf va n).findSome? (fun p => match walk s (jobAsid s job) p.1 0 true with
    | some x => if markedFrame s x.addr then some p.1 else none
    | none => some p.1)

/-! The interval log (R372). -/

/-- A context's entries leave the log: a mark for that context alone. -/
def Job.autoMark (j : Job) (ctx : Nat) : Job :=
  { j with marks := j.marks + 1, log := j.log.filter (fun e => e.ctx != ctx) }

/-- Bytes of an entry in the log area: header, then the sector's old data. -/
def logBytes (job : Nat) (e : LogEnt) : List Byte :=
  leBytes 16 (e.sector % 2 ^ 34 * 2 ^ 94 + e.ctx % 2 ^ 11 * 2 ^ 83 + job % 2 ^ 16 * 2 ^ 64 + e.mark % 2 ^ 64) ++ e.old

/-- The lowest place of the log area that no entry holds. -/
def Job.logSlot (j : Job) : Nat := ((List.range (j.log.length + 1)).find? (fun i => j.log.all (·.slot != i))).getD 0

/-- An entry goes to its place in the log area, page by page; where a page of it does not let it be written, the job hears of that
(R301, R372, R431). -/
def putLog (s : State) (job : Nat) (at' : Nat) (bs : List Byte) : State :=
  match firstUnwritable s job at' bs.length with
  | some _ => postNotice s job nkFault at' srcDevice
  | none => (pagesOf at' bs.length).foldl (fun t p => match walk t (jobAsid t job) p.1 0 true with
      | some x => { t with mem := t.mem.write x.addr ((bs.drop (p.1 - at')).take p.2) }
      | none => t) s

/-- One sector about to be written by a context of a job. -/
def logSector (s : State) (job ctx sector : Nat) : State :=
  match s.job job with
  | none => s
  | some j =>
    if j.logCap = 0 then s
    else
      let j1 := if j.logCap < j.log.length + 4096 then j.autoMark ctx else j
      if j1.log.any (fun e => e.sector == sector && e.ctx == ctx) then s.setJob job (some j1)
      else
        let e : LogEnt := ⟨j1.logSlot, sector, ctx, j1.marks, s.bytes (64 * sector) 64⟩
        let s1 := if e.slot < j.logCap then putLog s job (j.logBase + 80 * e.slot) (logBytes job e) else s
        match s1.job job with
        | some j2 => s1.setJob job (some { j2 with marks := j1.marks, log := j1.log ++ [e] })
        | none => s1

/-- The sectors of a write at a physical home. -/
def logWrite (s : State) (job : Nat) (ctx : Option Nat) (k n : Nat) : State :=
  match ctx with
  | none => s
  | some c => if k / 2 ^ 60 ≠ 0 then s else (locsOf k n).foldl (fun s l => logSector s job c (l / 64)) s

/-! Migration counts (R297, R298). -/

/-- COUNT of R298 on the fields 127:64 of a leaf: the new fields, whether to move, whether to pin. -/
def countLeaf (leaf threshold : Nat) (src : Option Nat) : Nat × Bool × Bool :=
  let acc := fld leaf 127 104 + 1
  let l1 := if acc = 2 ^ 24 then setFld (setFld (setFld (setFld leaf 127 104 0) 103 101 0) 100 100 0) 81 66 0
    else setFld leaf 127 104 acc
  match src with
  | none => (setFld l1 81 66 0, false, false)
  | some p =>
    let run := if p = fld l1 89 82 then min (fld l1 81 66 + 1) 65535 else 1
    let l2 := setFld (setFld l1 89 82 p) 81 66 run
    if run = threshold && !l2.testBit 100 then
      if fld l2 103 101 < 4 then (setFld l2 81 66 0, true, false)
      else (setFld (setFld l2 81 66 0) 100 100 1, false, true)
    else (l2, false, false)

/-- The notice of a page that stays at its home for the rest of its window, on this device (R298). -/
def pinNotice (s : State) (asid page : Nat) : State :=
  postNotice s (fld (asidEntry s asid) 31 16) nkPinnedShared (page + 6 * 2 ^ 60) 4

/-- One counted access to a shared page at its home, in the address space that names it. -/
def countAccess (s : State) (asid va leafAt : Nat) (src : Option Nat) : State :=
  let th := fld (asidEntry s asid) 63 48
  if th = 0 then s
  else
    let r := countLeaf (leNat (s.bytes leafAt 16)) th src
    let s1 := { s with mem := s.mem.write leafAt (leBytes 16 r.1) }
    let page := va % 2 ^ 48 / 65536 * 65536
    let s2 := match src with
      | some p => if r.2.1 then { s1 with moveReqs := s1.moveReqs ++ [⟨asid, page, p, .due⟩] } else s1
      | none => s1
    if r.2.2 then pinNotice (emit s2 (.pinNote asid page)) asid page else s2

/-! Block accesses. -/

/-- What a block read gives: its bytes, whether poisoned, whether from a ciphertext line, and the sheet that brought it (R382). -/
structure Blk where
  bytes : List Byte
  poison : Bool
  cipher : Bool
  sheet : Nat
deriving DecidableEq, Repr

/-- A core-local byte that its cluster does not hold readable: the weight buffer outside RUN, the other buffers from OFF until the
wake from it completes (R20). What a read of one gives is open (log entry 67). -/
def darkAt (s : State) (k : Nat) : Bool :=
  let cl := clusterOf (k % 2 ^ 60 / 2 ^ 26)
  match k / 2 ^ 60, (s.cluster cl).power with
  | 2, .doze => true
  | 2, .off => true
  | 2, .waking _ => true
  | 3, .off => true
  | 3, .waking true => true
  | _, _ => false

/-- The sector that an access reads, through the compressed view where its path is 4 (R204): none for one that is not stored. A
header that its code does not correct places no sector, and the copy stops as before a poisoned one (log entry 16). -/
def viewPlace (s : State) (e : Eng) (sp : Spot) : State × Except (Nat × Nat) (Option Nat) :=
  if sp.view then
    let base := sp.key / 65536 * 65536
    let b := sp.key % 65536
    let (s1, _, poison) := copyReadErrs s base (viewHeaders b) none e.who
    if poison then (s1, .error (stPoison, 0))
    else (s1, match viewSector s1 base b with
      | none => .error (stBound, 0)
      | some none => .ok none
      | some (some k) => .ok (some (k + sp.key % 64)))
  else (s, .ok (some sp.key))

/-- Reads `n` bytes at a device address, within one 64-byte block; `cnt` counts the access toward migration. -/
def readBlk (s : State) (e : Eng) (a n : Nat) (cnt : Bool) : State × Except (Nat × Nat) Blk :=
  match locate s e a n false with
  | (s1, .error x) => (s1, .error x)
  | (s1, .ok sp) =>
    let s1 := match sp.shared with
      | some l => if cnt then countAccess s1 (jobAsid s1 e.job) (fld a 47 0) l e.peer else s1
      | none => s1
    match viewPlace s1 e sp with
    | (s1, .error x) => (s1, .error x)
    | (s1, .ok none) => (s1, .ok ⟨List.replicate n 0, false, false, sheetOf s1 sp.key a⟩)
    | (s1, .ok (some k)) =>
      if darkAt s1 k then
        let (s2, bs) := openBytes s1 n
        (s2, .ok ⟨bs, false, false, sheetOf s2 k a⟩)
      else
      let (s2, tagBad, poison) := copyReadErrs s1 k n sp.tag e.who
      if tagBad then (s2, .error (stBound, 0x05))
      else
        let cipher := k / 2 ^ 60 = 3 && k % 2 ^ 26 < 2 ^ 24 &&
          s2.form (k % 2 ^ 60 / 2 ^ 26) (k % 2 ^ 24 / 256)
        (s2, .ok ⟨s2.bytes k n, poison, cipher, sheetOf s2 k a⟩)

/-- Whether a job's host takes poison (R424). -/
def hostPoison (s : State) (job : Nat) : Bool := match s.job job with
  | some j => j.poison
  | none => false

/-- A write of part of a sector or word merges with what is stored: the errors of the words it covers in part are met
first (R206, R257). -/
def mergeErrs (s : State) (k n : Nat) (tag : Option Nat) (w : Consumer) : State × Option (Nat × Nat) :=
  let g := granule k
  if g = 0 || (k % g = 0 && n % g = 0) || (s.errs.isEmpty && s.tags.isEmpty && tag.all (· == 0)) then (s, none)
  else
    let (s1, tagBad, poison) := copyReadLocs s ((locsOf k n).filter (fun l => l < k || k + n < l + g)) tag w
    (s1, if tagBad then some (stBound, 0x05) else if poison then some (stPoison, 0) else none)

/-- Poisons every code word a write touched. -/
def poisonRange (s : State) (k n : Nat) : State := (locsOf k n).foldl State.poisonAt s

/-- Writes bytes at a device address, within one 64-byte block. -/
def writeBlk (s : State) (e : Eng) (a : Nat) (bs : List Byte) (poison cnt : Bool) : State × Except (Nat × Nat) Unit :=
  match locate s e a bs.length true with
  | (s1, .error x) => (s1, .error x)
  | (s1, .ok sp) =>
    let k := sp.key
    let room := k / 2 ^ 60
    if poison && (room = 7 || (room = 5 && !hostPoison s1 e.job)) then (s1, .error (stPoison, 0))
    else
      let s1 := match sp.shared with
        | some l => if cnt then countAccess s1 (jobAsid s1 e.job) (fld a 47 0) l e.peer else s1
        | none => s1
      match mergeErrs s1 k bs.length sp.tag e.who with
      | (s2, some x) => (s2, .error x)
      | (s2, none) =>
        let s3 := (logWrite s2 e.job e.ctx k bs.length).put k bs
        let s4 := match sp.tag with
          | some t => s3.setTags k bs.length t
          | none => s3
        (if poison then poisonRange s4 k bs.length else s4, .ok ())

/-! The device's own accesses to a job's memory. -/

/-- Reads a job's memory at a path-0 address with tag 0; none when a page does not translate or a sector is bad (R29, R206). -/
def devRead (s : State) (job va n : Nat) : Option (List Byte) :=
  let asid := jobAsid s job
  (pagesOf va n).foldl (fun acc p => match acc with
    | none => none
    | some bs => match walk s asid p.1 0 false with
      | some x => if (worstErr s x.addr p.2 (some 0)).any (fun e => 1 < e.1) then none else some (bs ++ s.bytes x.addr p.2)
      | none => none) (some [])

/-- A read of a job's memory by the device: the errors it meets in the tables and in the data (R208). -/
def devMeet (s : State) (job : Nat) (ctx : Option Nat) (va n : Nat) : State :=
  if s.errs.isEmpty && s.tags.isEmpty then s
  else (pagesOf va n).foldl (fun t p =>
    let t1 := meetWalk t job (jobAsid t job) p.1
    match walk t1 (jobAsid t1 job) p.1 0 false with
    | some x => meet t1 x.addr p.2 (some 0) ⟨ctx, job⟩
    | none => t1) s

/-- The sectors that a store of the device merges with, decoded with tag 0 (R206): whether one of them is bad. -/
def devMerge (s : State) (job : Nat) (ctx : Option Nat) (va n : Nat) : State × Bool :=
  if s.errs.isEmpty && s.tags.isEmpty then (s, false)
  else (pagesOf va n).foldl (fun p q => match walk p.1 (jobAsid p.1 job) q.1 0 true with
    | some x =>
      let m := mergeErrs p.1 x.addr q.2 (some 0) ⟨ctx, job⟩
      (m.1, p.2 || m.2.isSome)
    | none => p) (s, false)

/-- Stores at a path-0 address of a job with tag 0, whole or not at all, logged for the context on whose behalf it is
made. -/
def devStore (s : State) (job : Nat) (ctx : Option Nat) (va : Nat) (bs : List Byte) : State × Bool :=
  match firstUnwritable s job va bs.length with
  | some _ => (s, false)
  | none =>
    let m := devMerge s job ctx va bs.length
    if m.2 then (m.1, false)
    else
      ((pagesOf va bs.length).foldl (fun p q =>
        match walk p (jobAsid p job) q.1 0 true with
        | some x =>
          let part := (bs.drop (q.1 - va)).take q.2
          ((logWrite p job ctx x.addr q.2).put x.addr part).setTags x.addr q.2 0
        | none => p) m.1, true)

/-- The same with its notice when a page does not let it be made (R301, R431). -/
def devWrite (s : State) (job : Nat) (ctx : Option Nat) (va : Nat) (bs : List Byte) : State :=
  let r := devStore s job ctx va bs
  if (firstUnwritable s job va bs.length).isSome then postNotice r.1 job nkFault va srcDevice else r.1

/-- Physical key of a path-0 address of a job for an aligned word of a counter. -/
def devKey (s : State) (job va : Nat) (wr : Bool) : Option Nat :=
  match walk s (jobAsid s job) va 0 wr with
  | some x => if wr && markedFrame s x.addr then none else some x.addr
  | none => none

/-- Reads an aligned word that a wait or a packet names (paths 0, 5 and 6), or gives what refuses the read (R29, R252,
R357); its tag is checked where the path carries one (R202, R206), and an error is met as by a copy (R208). -/
def peekWord (s : State) (e : Eng) (a n : Nat) : State × Except (Nat × Nat) Nat :=
  match locate s e a n false with
  | (s1, .error x) => (s1, .error x)
  | (s1, .ok sp) =>
    let (s2, tagBad, poison) := copyReadErrs s1 sp.key n sp.tag e.who
    (s2, if tagBad then .error (stBound, 5) else if poison then .error (stPoison, 0) else .ok (leNat (s2.bytes sp.key n)))

end Sys2Proof.Machine
end

