-- ==== Sys2Proof/Machine/EIssue.lean ====
section
/-! DEFINITION. The E-slot instructions at issue (R198, R216, R219, R223, R265 to R274, R307, R331, R351 to R361): counter
instructions act in their issue cycle, commands are checked and withheld. A wait whose condition is unmet leaves the
state as it stands: its bundle does not issue (R350). -/
namespace Sys2Proof.Machine

/-! Issue checks of buffer images and records. -/

/-- Alignment, then bounds, then form over the ranges (address, bytes, alignment) of one instruction (R265). -/
def imageFlaw (s : State) (l : List (Nat × Nat × Nat)) : Option Flaw :=
  firstFlaw [lowestFlaw (l.map (fun r => if r.1 % r.2.2 ≠ 0 then some (.bound, 2, r.1) else none)),
    lowestFlaw (l.map (fun r => boundFlaw (spaceBounds s .act) r.1 r.2.1)),
    lowestFlaw (l.map (fun r => formFlaw s r.1 r.2.1))]

/-- Status record or result block that s[sc] names; none with s0 (R265, R308, R331). -/
def recordRange (s : State) (sc : Fin 64) (n : Nat) : List (Nat × Nat × Nat) :=
  if sc.val = 0 then [] else [((rdS s sc.val).toNat, n, 16)]
/-- The same as a withheld command carries it: 0 for none, else the address plus one. -/
def recordAt (s : State) (sc : Fin 64) : Nat := if sc.val = 0 then 0 else (rdS s sc.val).toNat + 1
/-- Register operand as an address. -/
def regNat (s : State) (n : Fin 64) : Nat := (rdS s n.val).toNat
/-- Barrier to charge (flags 19). -/
def tbOf (f : ER) : Option Nat := if erFl f 19 19 = 1 then some f.tb.val else none
/-- Semaphore to deliver to (flags 19, imm8). -/
def semOf (f : ER) : Option Nat := if erFl f 19 19 = 1 then some f.imm.toNat else none

/-- A command that takes a transfer ID: sd receives it, with the trap of an operand that its issue has read, and the
command is withheld (R198, R354). -/
def issueTrapped (f : ER) (s : State) (t : Option TrapInfo) (k : CmdKind) : State :=
  let (id, s1) := takeId s f.ch.val
  ifOk (pushResult s1 (.scalar f.sd.val) id.toNat (latency s1 0) (ownLatency 0) t)
    (fun s => withholdCmd s f.ch.val id (erFl f 13 11) k)
/-- One whose issue reads no operand that could bear an error. -/
def issueWithId (f : ER) (s : State) (k : CmdKind) : State := issueTrapped f s none k

/-- Goes on when no check fails. -/
def checked (s : State) (w : Option Flaw) (f : State → State) : State := match w with
  | some x => raiseFlaw s x
  | none => f s

/-- The binding of q with a copy attached (R171). -/
def attach (s : State) (q ch : Nat) (id : BitVec 32) : State :=
  match s.arch.rdQ q with
  | some b => s.setArch (s.arch.wrQ q (some { b with att := some (ch, id) }))
  | none => s
/-- q unbound, or attached already. -/
def cannotAttach (s : State) (q : Nat) : Bool := match s.arch.rdQ q with
  | some b => b.att.isSome
  | none => true

/-- CPY (R265). -/
def execCpy (f : ER) (s : State) : Res :=
  .next (checked s (imageFlaw s ((regNat s f.sa, 64, 64) :: recordRange s f.sc 16)) (fun s =>
    let q := if erFl f 18 18 = 1 then some f.q.val else none
    match q with
    | some q' =>
      if cannotAttach s q' then raiseTrap s 0xFF0C
      else issueWithId f (attach s q' f.ch.val (s.arch.rdId f.ch.val)) (.cpy (regNat s f.sa) (recordAt s f.sc) (tbOf f) q)
    | none => issueWithId f s (.cpy (regNat s f.sa) (recordAt s f.sc) (tbOf f) q)))

/-- SBIND (R266): not withheld. -/
def execSbind (f : ER) (s : State) : Res :=
  let a := regNat s f.sa
  let slots := f.imm.toNat + 1
  let units := erFl f 13 8
  .next (checked s (firstFlaw [if a % 64 ≠ 0 then some (.bound, 2, a) else none,
      boundFlaw (spaceBounds s .act) a (slots * 64 * units)]) (fun s =>
    if (s.arch.rdQ f.q.val).isSome then raiseTrap s 0xFF0A
    else
      let s1 := s.setArch (s.arch.wrQ f.q.val (some ⟨a, f.imm.toNat, units, none, 0⟩))
      if srelHeld s.me f.q.val then s1 else s1.setMe { s1.me with arrived := Tab.set 0 s1.me.arrived f.q.val 0 }))

/-- The stream number that a withheld SREL of an unbound register carries: no register has it, so its release has no
effect (R268), while it takes its entry (R198). -/
def noStream : Nat := 16

/-- SREL (R268): unbound at once for the context's consumers; the copy is stopped at release. -/
def execSrel (f : ER) (s : State) : Res :=
  .next (match s.arch.rdQ f.q.val with
    | none => withholdCmd s 9 0 0 (.srel noStream none)
    | some b => withholdCmd (s.setArch (s.arch.wrQ f.q.val none)) 9 0 0 (.srel f.q.val b.att))

/-- GATH (R269). -/
def execGath (f : ER) (s : State) : Res :=
  let n := regNat s f.sb
  .next (checked s (imageFlaw s ((regNat s f.sa, 64, 64) :: recordRange s f.sc 16)) (fun s =>
    if n = 0 || 2 ^ 24 ≤ n || (s.arch.rdG f.ch.val).isSome || cannotAttach s f.q.val then raiseTrap s 0xFF0B
    else
      let s1 := attach s f.q.val f.ch.val (s.arch.rdId f.ch.val)
      issueWithId f (s1.setArch (s1.arch.wrG f.ch.val (some ⟨f.q.val, n, 0⟩)))
        (.gath (regNat s f.sa) n (recordAt s f.sc) (tbOf f) f.q.val)))

/-- Indices held in a channel's address queue, of whatever unit (R244). -/
def addrQHeld (c : Core) (ch : Nat) : Nat :=
  ((c.addrQ.filter (fun q => q.1 % 8 == ch)).map (fun q => q.2.length)).sum

/-- GIDX (R270): not withheld; with a full queue the bundle does not issue. -/
def execGidx (f : ER) (s : State) : Res :=
  .next (match s.arch.rdG f.ch.val with
    | none => raiseTrap s 0xFF0B
    | some g =>
      if g.remaining = 0 then raiseTrap s 0xFF0B
      else if 64 ≤ addrQHeld s.myCore f.ch.val then s
      else
        let s1 := s.setArch (s.arch.wrG f.ch.val (some { g with remaining := g.remaining - 1, pushed := g.pushed + 1 }))
        let c := s1.myCore
        let k := addrQKey s.me.job s.me.recAddr f.ch.val
        s1.setMyCore { c with addrQ := Tab.set [] c.addrQ k (Tab.get [] c.addrQ k ++ [rdS s f.sa.val]) })

/-- QAPP (R273). -/
def execQapp (f : ER) (s : State) : Res :=
  .next (checked s (imageFlaw s ((regNat s f.sb, 64, 64) :: recordRange s f.sc 16)) (fun s =>
    issueWithId f s (.qapp (rdS s f.sa.val) (regNat s f.sb) (recordAt s f.sc))))

/-- ATOM (R217). -/
def execAtom (f : ER) (s : State) : Res :=
  let r := regNat s f.sc
  .next (checked s (accessFlaw s .act r 16 16) (fun s =>
    let cas := erFl f 19 16 = 7
    let cmp := if cas then leNat (seen s .act r 8) else 0
    let e := if cas then readEcc s .act r 8 else (s, none)
    issueTrapped f e.1 e.2 (.atom (rdS s f.sa.val) (rdS s f.sb.val) (BitVec.ofNat 64 cmp) r (erFl f 19 16)
      (erFl f 15 15 = 1) (erFl f 14 14 = 1))))

/-- FENCE and SFENCE (R274). -/
def execFence (f : ER) (s : State) : Res :=
  .next (withholdCmd s 9 0 (erFl f 13 11) (.fence (erFl f 19 19 = 1) (erFl f 18 18 = 1)))
def execSfence (f : ER) (s : State) : Res := .next (withholdCmd s 9 0 (erFl f 13 11) .sfence)

/-- Checks of SEAL and OPEN (R219). -/
def cipherIssue (f : ER) (s : State) (k : CmdKind) : State :=
  let a := regNat s f.sa
  let b := regNat s f.sb
  let n := f.imm.toNat + 1
  if !s.me.mode.getLsbD 2 then raiseTrap s 0xFF07
  else checked s (firstFlaw [
      lowestFlaw [if a % 256 ≠ 0 then some (.bound, 2, a) else none, if b % 32 ≠ 0 then some (.bound, 2, b) else none],
      lowestFlaw [boundFlaw (spaceBounds s .act) a (256 * n), boundFlaw (spaceBounds s .act) b (32 * n)],
      if a < b + 32 * n && b < a + 256 * n then some (.bound, 3, max a b) else none,
      formFlaw s b (32 * n)]) (fun s => issueWithId f s k)
def execSeal (f : ER) (s : State) : Res :=
  .next (cipherIssue f s (.seal (regNat s f.sa) (regNat s f.sb) (f.imm.toNat + 1)))
def execUnseal (f : ER) (s : State) : Res :=
  .next (cipherIssue f s (.unseal (regNat s f.sa) (regNat s f.sb) (f.imm.toNat + 1)))

/-- Bytes of an array by its identifier, none where it names none (R14, R209); the sizes of kinds 5, 6 and 8 are
log entry 16's. -/
def arrayBytes (id : Nat) : Option Nat :=
  let kind := id / 4096
  let inst := id % 4096
  if 65536 ≤ id then none
  else if kind ≤ 6 then
    (if inst.testBit 7 || 68 ≤ inst % 128 then none
     else some (if kind = 0 then actBytes else if kind = 1 then accBytes else if kind = 2 then wtBytes
       else if kind = 3 then 196608 else if kind = 4 then 131072 else 2 * ctxArrayBytes))
  else if kind = 7 then (if inst < 48 then some Config.devMemEnd else none)
  else if kind = 8 then (if inst < 4 then some 131072 else none)
  else none
/-- An injection that R223 allows: a channel's sectors are those that it holds. -/
def injectOk (id addr kind : Nat) : Bool :=
  match arrayBytes id with
  | none => false
  | some n => addr < n && (id / 4096 ≠ 7 || Config.channelOf (addr / 64) % 48 = id % 4096) && ((kind ≠ 2 && kind ≠ 3) || id / 4096 = 7)
/-- ERRINJ (R223). -/
def execErrinj (f : ER) (s : State) : Res :=
  .next (if !s.me.mode.getLsbD 3 then raiseTrap s 0xFF08
    else if !injectOk (regNat s f.sa) (regNat s f.sb) (erFl f 19 16) then raiseTrap s 0xFF09
    else withholdCmd s 9 0 0 (.errinj (regNat s f.sa) (regNat s f.sb) (rdS s f.sc.val) (erFl f 19 16) (erFl f 15 15 = 1)))

/-! Counters (R351 to R361). -/

/-- v of a two-form instruction. -/
def twoForm (f : EC) (s : State) : Word := if f.sa.val = 0 then f.imm.setWidth 64 else rdS s f.sa.val

def execSemset (f : EC) (s : State) : Res :=
  .next (s.setArch (s.arch.wrF f.f.toNat ((twoForm f s).setWidth 16)))
def execSemadd (f : EC) (s : State) : Res :=
  .next (s.setArch (s.arch.wrF f.f.toNat (s.arch.rdF f.f.toNat + (twoForm f s).setWidth 16)))

/-- A semaphore as every test of the cycle sees it (R347). -/
def semTested (s : State) (n : Nat) : Nat := (Tab.get (0 : BitVec 16) s.cur.sems n).toNat
def semwtMet (f : EC) (s : State) : Bool := condHolds f.cond (semTested s f.f.toNat) f.imm.toNat
def execSemwt (f : EC) (s : State) : Res :=
  .next (if semwtMet f s then pushScalar s f.sd.val (semTested s f.f.toNat) else s)

/-- TBARM and TBEXP trap on a phase already armed, or not, and on a count above 2^23 − 1 (R353). -/
def execTbarm (f : EC) (s : State) : Res :=
  let b := s.arch.rdTb f.tb.val
  let n := (twoForm f s).toNat
  .next (if tbArmed b || 2 ^ 23 ≤ n then raiseTrap s 0xFF0E
    else s.setArch (s.arch.wrTb f.tb.val (tbAdd (tbMake false true (tbPhase b) (tbCount b)) n)))
def execTbexp (f : EC) (s : State) : Res :=
  let b := s.arch.rdTb f.tb.val
  let n := (twoForm f s).toNat
  .next (if !tbArmed b || 2 ^ 23 ≤ n then raiseTrap s 0xFF0E else s.setArch (s.arch.wrTb f.tb.val (tbAdd b n)))
def tbwaitMet (f : EC) (s : State) : Bool := b2n (tbPhase (s.arch.rdTb f.tb.val)) == f.imm.toNat
def execTbwait (f : EC) (s : State) : Res :=
  .next (if tbwaitMet f s then pushScalar s f.sd.val (s.arch.rdTb f.tb.val).toNat else s)

/-- A channel's status word (R354). -/
def statusWord (c : Ctx) (ch : Nat) : BitVec 32 := Tab.get 0 c.status ch
def execXidrd (f : EC) (s : State) : Res :=
  .next (pushScalar s f.sd.val (if f.imm = 0 then statusWord s.me f.ch.val else s.arch.rdId f.ch.val).toNat)
/-- An ID that no command has received (R355). -/
def xidUnknown (f : EC) (s : State) : Bool :=
  ((rdS s f.sa.val).setWidth 32 - s.arch.rdId f.ch.val).toNat < 2 ^ 31
def xidwtMet (f : EC) (s : State) : Bool :=
  xidUnknown f s || passed (statusWord s.me f.ch.val) ((rdS s f.sa.val).setWidth 32)
/-- XIDWT: an ID passed lets it issue without effect of its own. -/
def execXidwt (f : EC) (s : State) : Res := .next (if xidUnknown f s then raiseTrap s 0xFF0F else s)

/-- Issue checks of SIGADD and SIGWT (R356). -/
def signalFlaw (a : Nat) : Option Flaw :=
  if a % 8 ≠ 0 then some (.bound, 2, a)
  else if (pathOf a ≠ 0 && pathOf a ≠ 5 && pathOf a ≠ 6) || !addrFieldsOk a then some (.bound, 4, a)
  else none
def execSigadd (f : EC) (s : State) : Res :=
  .next (checked s (signalFlaw (regNat s f.sa)) (fun s =>
    let (id, s1) := takeId s f.ch.val
    ifOk (pushScalar s1 f.sd.val id.toNat) (fun t =>
      withholdCmd t f.ch.val id 5 (.sigadd (rdS s f.sa.val) (rdS s f.sb.val)))))

/-- The signal object that SIGWT reads (R357). -/
def sigwtRead (f : EC) (s : State) : State × Except (Nat × Nat) Nat :=
  peekWord s ⟨clusterOf s.cur.core, s.me.job, none, some (ctxIdOf s s.cur.core s.cur.ctx), confJob s s.me.job, none,
    engineOf (s.cur.core + f.ch.val)⟩ (regNat s f.sa) 8
/-- A read that ends the wait: a translation fault or poison, and nothing else (R357, log entry 25). -/
def sigwtEnds (x : Nat × Nat) : Bool := x == (stBound, 1) || x == (stPoison, 0)
def sigwtMet (f : EC) (s : State) : Bool :=
  (signalFlaw (regNat s f.sa)).isSome ||
  match (sigwtRead f s).2 with
  | .error x => sigwtEnds x
  | .ok v => sx 64 v < 0 || condHolds f.cond (sx 64 v) (rdS s f.sb.val).toInt
def execSigwt (f : EC) (s : State) : Res :=
  .next (checked s (signalFlaw (regNat s f.sa)) (fun s =>
    match sigwtRead f s with
    | (t, .error x) =>
      let s1 := if x = (stBound, 1) then postNotice t s.me.job nkFault (regNat s f.sa) (2 * 2 ^ 60 + f.ch.val * 2 ^ 32) else t
      if sigwtEnds x then pushScalar s1 f.sd.val (2 ^ 63) else s
    | (t, .ok v) => if sigwtMet f s then pushScalar t f.sd.val v else s))

/-- BMSET (R361): the bit is set at release. -/
def execBmset (f : EC) (s : State) : Res :=
  let i := regNat s f.sa
  let r := match s.job s.me.job with
    | some j => poolRec j s.me.launch
    | none => 0
  .next (if lrBitmap r = 0 || lrBitmapBits r ≤ i then raiseTrap s 0xFF10
    else withholdCmd s 8 0 4 (.bmset (lrBitmap r) i))

/-- The record of the pool whose bitmap stands at an address. -/
def bitmapLaunch (s : State) (job a : Nat) : Option Nat := match s.job job with
  | some j => (j.pool.map (·.2.toNat)).find? (fun r => lrBitmap r ≠ 0 && lrBitmap r == a)
  | none => none

/-- The device's read of a bitmap's bit meets errors (R208). -/
def meetBitmap (s : State) (job : Nat) (ctx : Option Nat) (a i : Nat) : State :=
  if (bitmapLaunch s job a).isSome then devMeet s job ctx (a + i / 8) 1 else s

/-- The outcome of a wait on a bitmap's bit (R361): none while it waits; a bitmap that cannot be read leaves the value
open (log entry 2). -/
def bitmapOutcome (s : State) (job a i : Nat) : Option (Option Nat) :=
  match bitmapLaunch s job a with
  | none => some (some 2)
  | some r =>
    if lrBitmapBits r ≤ i then some (some 2)
    else match devRead s job (a + i / 8) 1 with
      | none => some none
      | some bs => if (leNat bs).testBit (i % 8) then some (some 1) else if lrLive r then none else some (some 0)
def bmwaitOutcome (f : EC) (s : State) : Option (Option Nat) :=
  bitmapOutcome s s.me.job (regNat s f.sa) (regNat s f.sb)
def bmwaitMet (f : EC) (s : State) : Bool := (bmwaitOutcome f s).isSome
def execBmwait (f : EC) (s : State) : Res :=
  let t := meetBitmap s s.me.job (some (ctxIdOf s s.cur.core s.cur.ctx)) (regNat s f.sa) (regNat s f.sb)
  .next (match bmwaitOutcome f s with
    | none => s
    | some (some v) => pushScalar t f.sd.val v
    | some none => pushScalar (fresh t).2 f.sd.val ((fresh t).1.toNat % 2 ^ 64))

/-! Launches, cancels and key-value commands. -/

def execLarm (f : ER) (s : State) : Res :=
  .next (checked s (imageFlaw s (recordRange s f.sc 16)) (fun s =>
    withholdCmd s 8 0 4 (.larm (rdS s f.sa.val) (recordAt s f.sc) (semOf f))))
def execLpatch (f : ER) (s : State) : Res :=
  .next (checked s (imageFlaw s (recordRange s f.sc 16)) (fun s =>
    withholdCmd s 8 0 4 (.lpatch (rdS s f.sa.val) (rdS s f.sb.val) (recordAt s f.sc) (erFl f 17 16) (semOf f))))
def execCancel (f : ER) (s : State) : Res :=
  .next (checked s (imageFlaw s (recordRange s f.sc 16)) (fun s =>
    withholdCmd s 8 0 4 (.cancel (erFl f 17 15) (rdS s f.sa.val) (recordAt s f.sc) (erFl f 18 18 = 1) (semOf f))))

/-- A key-value command with its image and result block (R331, R332). -/
def kvIssue (f : ER) (s : State) (ranges : List (Nat × Nat × Nat)) (block : Nat) (k : CmdKind) : State :=
  checked s (imageFlaw s (ranges ++ recordRange s f.sc block)) (fun s => issueWithId f s k)
def execKvref (f : ER) (s : State) : Res :=
  .next (kvIssue f s [(regNat s f.sa, 64, 64)] 16 (.kvref (regNat s f.sa) (recordAt s f.sc) (tbOf f)))
def execKvapp (f : ER) (s : State) : Res :=
  let n := regNat s f.sb
  .next (if n = 0 || 4096 < n then raiseTrap s 0xFF0D
    else kvIssue f s [(regNat s f.sa, 16 * n, 16)] (16 + n)
      (.kvapp (regNat s f.sa) n (recordAt s f.sc) (f.imm.toNat + 1) (erFl f 8 8 = 1)))
def execKvrej (f : ER) (s : State) : Res :=
  .next (kvIssue f s [] 16 (.kvrej (rdS s f.sa.val) (rdS s f.sb.val) (recordAt s f.sc)))
def execKvcommit (f : ER) (s : State) : Res := .next (kvIssue f s [] 16 (.kvcommit (rdS s f.sa.val) (recordAt s f.sc)))
def execKvfree (f : ER) (s : State) : Res := .next (kvIssue f s [] 16 (.kvfree (rdS s f.sa.val) (recordAt s f.sc)))
def execGzclaim (f : ER) (s : State) : Res :=
  .next (kvIssue f s [] 48 (.gzclaim (rdS s f.sa.val) (rdS s f.sb.val) (recordAt s f.sc) (erFl f 8 8 = 1)))
def execGzjoin (f : ER) (s : State) : Res :=
  .next (kvIssue f s [] 16 (.gzjoin (rdS s f.sa.val) (rdS s f.sb.val) (recordAt s f.sc)))
def execGzfind (f : ER) (s : State) : Res :=
  .next (kvIssue f s [] 48 (.gzfind (rdS s f.sa.val) (rdS s f.sb.val) (recordAt s f.sc)))

end Sys2Proof.Machine
end

