-- ==== Sys2Proof/Machine/KVTable.lean ====
section
/-! DEFINITION. The tables of key-value tenants (R316 to R325, R330): descriptors, handle entries, lists, directories, the
dereference check with its in_flight count, gazetteer buckets, and the end of a handle. -/
namespace Sys2Proof.Machine

/-! Tenant descriptors (R316). -/

def tdConf (d : Nat) : Bool := d.testBit 499
def tdSlotLog2 (d : Nat) : Nat := fld d 498 494
def tdSlotBytes (d : Nat) : Nat := 2 ^ tdSlotLog2 d
/-- Token slots per page. -/
def tdTpp (d : Nat) : Nat := 2 ^ (16 - tdSlotLog2 d)
def tdMaxPages (d : Nat) : Nat := fld d 493 480 + 1
def tdDepth (d : Nat) : Nat := fld d 479 471
def tdTableLog2 (d : Nat) : Nat := fld d 470 466
def tdGzLog2 (d : Nat) : Nat := fld d 465 461
def tdRegion (d : Nat) : Nat := fld d 447 384
def tdRegionPages (d : Nat) : Nat := fld d 383 360
def tdFreePages (d : Nat) : Nat := fld d 359 320
def tdFreeSlots (d : Nat) : Nat := fld d 319 280
def tdSpill (d : Nat) : Nat := fld d 279 240
def tdEntryAt (d slot : Nat) : Nat := fld d 239 200 + 64 * slot
def tdBucketAt (d b : Nat) : Nat := fld d 199 160 + 32 * b
def tdDirAt (d slot i : Nat) : Nat := fld d 159 120 + 8 * tdMaxPages d * slot + 8 * i
def tdJournalAt (d slot i : Nat) : Nat :=
  fld d 119 80 + tdDepth d * (16 + tdSlotBytes d) * slot + (16 + tdSlotBytes d) * i

/-- A tenant's descriptor; 0 when there is none. -/
def tenantDesc (s : State) (t : Nat) : Nat := match Tab.get none s.tenants t with
  | some d => d.toNat
  | none => 0
/-- A tenant granted to a job. -/
def granted (s : State) (job t : Nat) : Bool := match s.job job with
  | some j => j.tenants.contains t && (Tab.get none s.tenants t).isSome
  | none => false

/-! Words of a region, written by the device itself. -/

def physNat (s : State) (a n : Nat) : Nat := leNat (s.bytes a n)
def physPut (s : State) (a n v : Nat) : State := s.put a (leBytes n v)

/-! Handles and entries (R320, R321). -/

def hdTenant (h : Nat) : Nat := fld h 63 52
def hdGen (h : Nat) : Nat := fld h 51 40
def hdSlot (h : Nat) : Nat := fld h 39 16
def hdRead (h : Nat) : Bool := h.testBit 15
def hdWrite (h : Nat) : Bool := h.testBit 14
def hdLimit (h : Nat) : Nat := fld h 13 0 + 1
def mkHandle (tenant gen slot cls : Nat) : Nat :=
  tenant % 2 ^ 12 * 2 ^ 52 + gen % 2 ^ 12 * 2 ^ 40 + slot % 2 ^ 24 * 2 ^ 16 + cls % 2 ^ 16

def heGen (e : Nat) : Nat := fld e 511 500
def heState (e : Nat) : Nat := fld e 487 485
def heClass (e : Nat) : Nat := fld e 484 469
def heFlight (e : Nat) : Nat := fld e 468 453
def heRefs (e : Nat) : Nat := fld e 452 437
def hePages (e : Nat) : Nat := fld e 436 422
def heTokens (e : Nat) : Nat := fld e 421 390
def heParentSlot (e : Nat) : Nat := fld e 389 366
def heParentPages (e : Nat) : Nat := fld e 353 339
def heJournal (e : Nat) : Nat := fld e 338 330
def heGz (e : Nat) : Bool := e.testBit 329

def readEntry (s : State) (d slot : Nat) : Nat := physNat s (tdEntryAt d slot) 64
def writeEntry (s : State) (d slot e : Nat) : State := physPut s (tdEntryAt d slot) 64 e
/-- Changes one field of an entry. -/
def setEntry (s : State) (d slot hi lo v : Nat) : State := writeEntry s d slot (setFld (readEntry s d slot) hi lo v)

/-! Lists (R317, R321). -/

/-- Location of a page descriptor: 0 device memory, 1 storage, 2 none. -/
def pdLoc (p : Nat) : Nat := fld p 63 62
def pdDrive (p : Nat) : Nat := fld p 55 54
def pdIndex (p : Nat) : Nat := fld p 47 0
/-- The page descriptor of no page. -/
def pdNone : Nat := 2 * 2 ^ 62

/-- Entries that R321 allows in a free-page list, a spill list, a free-slot list. -/
def frameOk (d p : Nat) : Bool := pdLoc p == 0 && fld p 61 48 == 0 && pdIndex p < tdRegionPages d
def spillOk (p : Nat) : Bool := pdLoc p == 1 && fld p 61 56 == 0 && fld p 53 48 == 0
def slotOk (d p : Nat) : Bool := p < 2 ^ 24 && p < 2 ^ tdTableLog2 d

/-- Entries in a list whose descriptor stands at a physical address. -/
def listCount (s : State) (a : Nat) : Nat := let r := s.desc a; if rdOk r && rdKind r = 5 then rdCount r else 0

/-- Takes the first allowed entry; others are discarded with a notice, which names no address: the list has only a physical
one (R317, R431; log entry 26). -/
def takeList (a : Nat) (ok : Nat → Bool) : Nat → State → State × Option Nat
  | 0, s => (s, none)
  | n + 1, s =>
    let r := s.desc a
    if listCount s a = 0 then (s, none)
    else
      let v := physNat s (rdBase r % 2 ^ 48 + rdRead r % 2 ^ rdLog2 r * 8) 8
      let s1 := s.setDesc a (setFld r 447 384 (rdRead r + 1))
      if ok v then (s1, some v) else takeList a ok n (postNotice s1 (rdJob r) nkRingInvalid 0 0)

/-- Returns an entry at write_index. -/
def returnList (s : State) (a v : Nat) : State :=
  let r := s.desc a
  if rdOk r && rdKind r = 5 then
    (physPut s (rdBase r % 2 ^ 48 + rdWrite r % 2 ^ rdLog2 r * 8) 8 v).setDesc a (setFld r 511 448 (rdWrite r + 1))
  else s

/-- A page goes back to the list of its location. -/
def returnPage (s : State) (d p : Nat) : State :=
  if pdLoc p = 0 then returnList s (tdFreePages d) p
  else if pdLoc p = 1 then returnList s (tdSpill d) p else s

/-! Directories (R321). -/

def dirPage (s : State) (d slot i : Nat) : Nat := physNat s (tdDirAt d slot i) 8
def setDir (s : State) (d slot i p : Nat) : State := physPut s (tdDirAt d slot i) 8 p

/-- PAGE, with the slot that owns the page: at most seven parents (R339). -/
def pageOf (s : State) (d : Nat) : Nat → Nat → Nat → Nat × Nat
  | 0, slot, i => (slot, dirPage s d slot i)
  | n + 1, slot, i =>
    let e := readEntry s d slot
    if i < heParentPages e then pageOf s d n (heParentSlot e) i else (slot, dirPage s d slot i)

/-- Ancestors of a slot. -/
def parentDepth (s : State) (d : Nat) : Nat → Nat → Nat
  | 0, _ => 0
  | n + 1, slot =>
    let e := readEntry s d slot
    if heParentPages e = 0 then 0 else 1 + parentDepth s d n (heParentSlot e)

/-! The gazetteer (R330). -/

def bkDigest (b : Nat) : Nat := fld b 255 192
def bkHandle (b : Nat) : Nat := fld b 191 128
def bkState (b : Nat) : Nat := fld b 127 126
def bkReady (b : Nat) : Nat := fld b 125 111
def readBucket (s : State) (d b : Nat) : Nat := physNat s (tdBucketAt d b) 32
def writeBucket (s : State) (d b v : Nat) : State := physPut s (tdBucketAt d b) 32 v

/-- PROBE: the bucket found, and the insertion point. -/
def probe (s : State) (d dig : Nat) : Option Nat × Option Nat :=
  let n := 2 ^ tdGzLog2 d
  let r := (List.range 16).foldl (fun (p : Option Nat × Option Nat × Bool) i =>
    if p.2.2 || p.1.isSome then p
    else
      let b := (dig % n + i) % n
      let v := readBucket s d b
      let ins := match p.2.1 with
        | some x => some x
        | none => if bkState v = 0 || bkState v = 3 then some b else none
      if bkState v = 0 then (p.1, ins, true)
      else if (bkState v = 1 || bkState v = 2) && bkDigest v = dig then (some b, ins, false)
      else (none, ins, false)) (none, none, false)
  (r.1, r.2.1)

/-- The bucket that names a slot's handle. -/
def bucketOfSlot (s : State) (d slot : Nat) : Option Nat :=
  let g := heGen (readEntry s d slot)
  (List.range (2 ^ tdGzLog2 d)).find? (fun b =>
    let v := readBucket s d b
    (bkState v == 1 || bkState v == 2) && hdSlot (bkHandle v) == slot && hdGen (bkHandle v) == g)

/-! References and the end of a handle (R325, R337). -/

/-- refs falls by one; at zero the entry retires. -/
def lowerRefs (s : State) (d slot : Nat) : State :=
  let e := readEntry s d slot
  let e1 := setFld e 452 437 (heRefs e - 1)
  writeEntry s d slot (if heRefs e ≤ 1 then setFld e1 487 485 2 else e1)

/-- A bucket becomes TOMB and drops its reference. -/
def tombBucket (s : State) (d b : Nat) : State :=
  let slot := hdSlot (bkHandle (readBucket s d b))
  let s1 := writeBucket s d b (setFld (readBucket s d b) 127 126 3)
  lowerRefs (setEntry s1 d slot 329 329 0) d slot

/-- A slot ends: pages, bucket, entry, free-slot list (R325). -/
def endSlot (s : State) (d slot : Nat) : State :=
  let e := readEntry s d slot
  let s1 := (List.range (hePages e - heParentPages e)).foldl (fun s i =>
    returnPage s d (dirPage s d slot (heParentPages e + i))) s
  let s2 := match (if heGz e then bucketOfSlot s1 d slot else none) with
    | some b => writeBucket s1 d b (setFld (readBucket s1 d b) 127 126 3)
    | none => s1
  let s3 := writeEntry s2 d slot (setFld (setFld 0 511 500 (heGen e + 1)) 499 488 (fld e 499 488))
  returnList s3 (tdFreeSlots d) slot

/-- One handle ends, and its parent's refs falls (R325). -/
def endHandle (s : State) (d slot : Nat) : State :=
  let e := readEntry s d slot
  let s1 := endSlot s d slot
  if 0 < heParentPages e then lowerRefs s1 d (heParentSlot e) else s1

/-- Steps 5 and 6 of a tenant cancel (R326): once nothing is in flight every revoked entry ends, whatever its refs, parents
among them, the gazetteer is cleared, and the job hears of each handle that was in flight at step 1. -/
def endRevoked (s : State) (tenant d : Nat) : State :=
  let slots := List.range (2 ^ tdTableLog2 d)
  if slots.any (fun i => heFlight (readEntry s d i) != 0) then s
  else
    let s1 := (slots.filter (fun i => heState (readEntry s d i) == 3)).foldl (fun t i => endSlot t d i) s
    let s2 := { s1 with mem := s1.mem.zero (tdBucketAt d 0) (32 * 2 ^ tdGzLog2 d), revoking := s1.revoking.filter (fun q => q.1 != tenant) }
    (s1.revoking.filter (fun q => q.1 == tenant)).foldl (fun t q => q.2.2.foldl (fun u h => postNotice u q.2.1 nkRevoked 0 h) t) s2

/-- HANDLE_END (R325, R326 step 5). -/
def execHandleEnd (tenant slot : Nat) (s : State) : Res :=
  .next (match Tab.get none s.tenants tenant with
    | none => s
    | some t =>
      let d := t.toNat
      let e := readEntry s d slot
      if s.power ≠ .on || 2 ^ tdTableLog2 d ≤ slot then s
      else if heState e = 2 && heFlight e = 0 then endHandle s d slot
      else if heState e = 3 then endRevoked s tenant d
      else s)

/-! The check (R323). -/

/-- Right that an operation needs. -/
def rightsOk (h : Nat) (write : Bool) : Bool := if write then hdWrite h else hdRead h

/-- CHECK after the tenant's grant: the status, or none while it waits. -/
def check (s : State) (h : Nat) (write : Bool) : Option Nat :=
  let d := tenantDesc s (hdTenant h)
  if 2 ^ tdTableLog2 d ≤ hdSlot h then some stStale
  else
    let e := readEntry s d (hdSlot h)
    let c := heClass e
    if heGen e ≠ hdGen h then some stStale
    else if heState e = 3 then some stRevoked
    else if heState e ≠ 1 then some stStale
    else if (hdRead h && !c.testBit 15) || (hdWrite h && !c.testBit 14) || fld c 13 0 < fld h 13 0 then some stBound
    else if !rightsOk h write then some stBound
    else if heFlight e = 65535 then none
    else some stOk

/-- in_flight of a handle's entry rises or falls. -/
def flight (s : State) (h : Nat) (up : Bool) : State :=
  let d := tenantDesc s (hdTenant h)
  let n := heFlight (readEntry s d (hdSlot h))
  setEntry s d (hdSlot h) 468 453 (if up then n + 1 else n - 1)

/-! Page operations (R255, R327): the fields of their packets. -/

def kvHandle (p : Nat) : Nat := fld p 255 192
def kvAddr (p : Nat) : Nat := fld p 191 128
def kvOp (p : Nat) : Nat := fld p 127 124
def kvFirst (p : Nat) : Nat := fld p 123 100
def kvPages (p : Nat) : Nat := fld p 99 76

/-- Key of a byte of a page: none for a page of no location. -/
def pageKey (d p off : Nat) : Option Nat :=
  if pdLoc p = 0 then some (tdRegion d + pdIndex p * 65536 + off)
  else if pdLoc p = 1 then some (driveKey (pdDrive p) (pdIndex p * 65536 + off)) else none

/-- Bytes of a token slot: its page's key and offset. -/
def tokenKey (s : State) (d slot t : Nat) : Option Nat :=
  pageKey d (pageOf s d 8 slot (t / tdTpp d)).2 (t % tdTpp d * tdSlotBytes d)

/-- Handle and source of the entries of a KVAPP. -/
def kvappEntries (ents n : Nat) : List (Nat × Nat) :=
  (List.range n).map (fun j => (fld ents (128 * j + 63) (128 * j), fld ents (128 * j + 127) (128 * j + 64)))

end Sys2Proof.Machine
end

