-- ==== Sys2Proof/Machine/Unit.lean ====
section
/-! DEFINITION. Units off their context: continuation records (R28), the counter and stream areas of a spill frame (R32,
R35, R345), what reaches a context from outside (R348), transfer IDs and their completion (R354), violations (R383). -/
namespace Sys2Proof.Machine

/-! Continuation records (R28). -/

def crSpill (r : Nat) : Nat := fld r 191 156 * 4096
def crFrame (r : Nat) : Bool := r.testBit 155
def crLiveMap (r : Nat) : Nat := fld r 154 125
def crResume (r : Nat) : Nat := fld r 124 101
def crJob (r : Nat) : Nat := fld r 100 85
def crLaunch (r : Nat) : Nat := fld r 84 69
def crUnit (r : Nat) : Nat := fld r 68 47
def crBase (r : Nat) : Nat := fld r 46 44
def crState (r : Nat) : Nat := fld r 43 41
def crReason (r : Nat) : Nat := fld r 40 37
def crPinned (r : Nat) : Bool := r.testBit 36
def crCore (r : Nat) : Nat := fld r 33 24
def crWaitKind (r : Nat) : Nat := fld r 23 20
def crWaitOp (r : Nat) : Nat := fld r 19 0

/-- Unit states and reasons of R28. -/
def usReady : Nat := 0
def usRunning : Nat := 1
def usSuspended : Nat := 2
def usWaiting : Nat := 3
def usDone : Nat := 4
def usCancelled : Nat := 5
def usFrozen : Nat := 6

/-- A record with a new state and reason. -/
def crSet (r state reason : Nat) : Nat := setFld (setFld r 43 41 state) 40 37 reason

/-- Reads a record of a job. -/
def readRecord (s : State) (job va : Nat) : Option Nat := (devRead s job va 64).map leNat
/-- Writes a record as it was read and then changed: what the read met is handled first (R208), and a failing write is dropped with
its notice (R301, R431). -/
def writeRecord (s : State) (job va r : Nat) : State := devWrite (devMeet s job none va 64) job none va (leBytes 64 r)
/-- Changes state and reason of a record in place. -/
def markRecord (s : State) (job va state reason : Nat) : State :=
  match readRecord s job va with
  | some r => writeRecord s job va (crSet r state reason)
  | none => s

/-- Frame areas (R31). -/
def frWait : Nat := 0x288
def frEngine : Nat := 0x400
def frStream : Nat := 0x21400
def frCounter : Nat := 0x22400

/-- The spill frame of a stopped unit. -/
def frameOf (s : State) (job rec : Nat) : Option Nat := match readRecord s job rec with
  | some r => if crFrame r then some (crSpill r) else none
  | none => none
/-- A field of a frame. -/
def frameNat (s : State) (job fr off n : Nat) : Nat := leNat ((devRead s job (fr + off) n).getD [])
def setFrame (s : State) (job fr off n v : Nat) : State := (devStore s job none (fr + off) (leBytes n v)).1

/-! Changes from outside a context. -/

/-- A context that runs a unit. -/
def Ctx.live (c : Ctx) : Bool := match c.run with
  | .free | .placing => false
  | _ => true

/-- The unit that issued a command still stands in its context. -/
def ownerRuns (s : State) (core : Nat) (c : Cmd) : Bool :=
  let x := s.ctx core c.ctx
  x.live && x.job == c.job && x.recAddr == c.owner

/-- An outside change in a frame's counter area (R35, R345). -/
def frameOutside (s : State) (job fr : Nat) : Outside → State
  | .sem f n => setFrame s job fr (frCounter + 2 * f) 2 ((frameNat s job fr (frCounter + 2 * f) 2 + n) % 65536)
  | .charge tb n =>
    let at' := frCounter + 0x200 + 4 * tb
    setFrame s job fr at' 4 (tbCharge (BitVec.ofNat 27 (frameNat s job fr at' 4)) n).toNat

/-- A charge or delivery that belongs to the unit of a command: to its context, or to its frame (R35, R348). -/
def outsideTo (s : State) (core : Nat) (c : Cmd) (o : Outside) : State :=
  if ownerRuns s core c then s.setCtx core c.ctx ((s.ctx core c.ctx).outsideChange o)
  else match frameOf s c.job c.owner with
    | some fr => frameOutside s c.job fr o
    | none => s

/-- Bytes charged to a transaction barrier, when the command names one (R263). -/
def chargeTo (s : State) (core : Nat) (c : Cmd) (tb : Option Nat) (n : Nat) : State := match tb with
  | some t => if n = 0 then s else outsideTo s core c (.charge t n)
  | none => s

/-- What a command has charged after `n` bytes of its total have been charged: each byte is charged once, also where a
rollback has it fetched again (R263, R271). -/
def Cmd.paidTo (c : Cmd) (n : Nat) : Cmd := { c with paid := max c.paid n }

/-! Key-value handles in flight (R323). -/

/-- in_flight of the handles rises by one each. -/
def raiseAll (s : State) (l : List Nat) : State := l.foldl (fun t h => flight t h true) s
/-- It falls again. -/
def lowerAll (s : State) (l : List Nat) : State := l.foldl (fun t h => flight t h false) s

/-! Transfer IDs. -/

/-- A command that took a transfer ID (R354). -/
def Cmd.hasId (c : Cmd) : Bool := c.ch < 8

/-- IDs of a unit's commands on a channel that have not completed, those not yet handed over among them. -/
def openIds (s : State) (core x : Nat) (job owner ch : Nat) : List (BitVec 32) :=
  ((s.core core).cmds.filter (fun k => k.hasId && k.ch == ch && k.ctx == x && k.job == job && k.owner == owner)).map (·.id) ++
  (((s.ctx core x).releasing ++ (s.ctx core x).withhold).filterMap (fun e => match e with
    | .cmd _ k => if k.hasId && k.ch == ch && k.owner == owner then some k.id else none
    | .store _ _ => none))

/-- The status word after a completion: the lowest open ID counting up from its previous value, or the next ID. -/
def advanceStatus (st next : BitVec 32) (l : List (BitVec 32)) : BitVec 32 :=
  st + BitVec.ofNat 32 (l.foldl (fun m i => min m (i - st).toNat) (next - st).toNat)

/-- A command leaves its channel and its ID completes (R354); the handles it dereferences are in flight no longer (R323). -/
def completeId (s : State) (core : Nat) (c : Cmd) : State :=
  let co := s.core core
  let s1 := lowerAll (s.setCore core { co with cmds := co.cmds.filter (fun k => k.seq != c.seq) }) c.flight
  if !c.hasId then s1
  else
    let l := openIds s1 core c.ctx c.job c.owner c.ch
    if ownerRuns s1 core c then
      let x := s1.ctx core c.ctx
      s1.setCtx core c.ctx { x with status := Tab.set 0 x.status c.ch (advanceStatus (statusWord x c.ch) (x.arch.rdId c.ch) l) }
    else match frameOf s1 c.job c.owner with
      | some fr =>
        let at' := frCounter + 0x280 + 8 * c.ch
        setFrame s1 c.job fr (at' + 4) 4
          (advanceStatus (BitVec.ofNat 32 (frameNat s1 c.job fr (at' + 4) 4)) (BitVec.ofNat 32 (frameNat s1 c.job fr at' 4))
            l).toNat
      | none => s1

/-- The command of a hand-over number in a core's channels. -/
def findCmd (s : State) (core seq : Nat) : Option Cmd := (s.core core).cmds.find? (·.seq == seq)
/-- Replaces a command. -/
def setCmd (s : State) (core : Nat) (c : Cmd) : State :=
  let co := s.core core
  s.setCore core { co with cmds := co.cmds.map (fun k => if k.seq = c.seq then c else k) }

/-- A command whose accesses have been performed. -/
def Cmd.performed (c : Cmd) : Bool := match c.phase with
  | .done _ _ _ _ => true
  | _ => match c.kind with
    | .fence _ _ => true
    | _ => false

/-- Earlier commands of the same unit. -/
def earlier (s : State) (core : Nat) (c : Cmd) : List Cmd :=
  (s.core core).cmds.filter (fun k => k.seq < c.seq && k.ctx == c.ctx && k.owner == c.owner && k.job == c.job)

/-- A unit's reservations end (R48). -/
def unreserve (s : State) (job va : Nat) : State :=
  s.cores.foldl (fun s k =>
    let co := s.core k.1
    if co.resv.any (fun v => v.job == job && v.recAddr == va) then
      s.setCore k.1 { co with resv := co.resv.filter (fun v => !(v.job == job && v.recAddr == va)) } else s) s

/-! Engines. -/

/-- The engine that performs a command: it acts for the context that issued it; a CPY's own core is checked against the
bounds of its issue (R256), every other command's under the windows (R203, R218). -/
def engOf (s : State) (core : Nat) (c : Cmd) : Eng :=
  { cl := clusterOf core
    job := c.job
    own := match c.kind with
      | .cpy _ _ _ _ => some ⟨core, c.cart.toNat⟩
      | _ => none
    ctx := some (ctxIdOf s core c.ctx)
    conf := confJob s c.job
    peer := none
    unit := engineOf (core + c.ch) }

/-- The engine that serves a ring's packets (R249). -/
def engRing (job cl : Nat) (conf : Bool) : Eng :=
  { cl := cl
    job := job
    own := none
    ctx := none
    conf := conf
    peer := none
    unit := engineOf job }

/-- A unit leaves every ready queue. -/
def dequeueUnit (s : State) (job va : Nat) : State :=
  (List.range 16).foldl (fun s c =>
    let k := s.cluster c
    if k.ready.any (fun u => u.job == job && u.recAddr == va) then
      s.setCluster c { k with ready := k.ready.filter (fun u => !(u.job == job && u.recAddr == va)) } else s) s

/-- The context that runs or is being given a unit. -/
def ctxOfUnit (s : State) (job va : Nat) : Option (Nat × Nat) :=
  s.cores.findSome? (fun c =>
    if c.2.ctx0.run != .free && c.2.ctx0.job == job && c.2.ctx0.recAddr == va then some (c.1, 0)
    else if c.2.ctx1.run != .free && c.2.ctx1.job == job && c.2.ctx1.recAddr == va then some (c.1, 1) else none)

/-! Violations (R383, R416). -/

/-- The unit of a context is frozen: its record says so, and its context stays. -/
def freezeCtx (s : State) (core x : Nat) : State :=
  let c := s.ctx core x
  if c.frozen || !c.live then s
  else
    let s1 := s.setCtx core x { c with frozen := true }
    let s2 := match readRecord s1 c.job c.recAddr with
      | some r => writeRecord s1 c.job c.recAddr (crSet r usFrozen (crReason r))
      | none => s1
    postNotice s2 c.job nkFrozen 0 (ctxIdOf s2 core x)

/-- A context that runs a unit of a job is frozen. -/
def freezeAt (s : State) (job core x : Nat) : State :=
  let c := s.ctx core x
  if c.job = job && c.live then freezeCtx s core x else s

/-- Records of a job's RUNNING launches. -/
def jobRecords (s : State) (job : Nat) : List Nat := match s.job job with
  | some j => (j.pool.map (fun c =>
      let r := c.2.toNat
      if lrState r = 2 then (List.range (lrUnits r)).map (fun i => lrRecordBase r + 64 * i) else [])).flatten
  | none => []

/-- A unit leaves its queue, and the placement that has begun for it is undone: whether a cancel was pending on that (R39). -/
def withdrawUnit (s : State) (job va : Nat) : State × Bool :=
  let s1 := dequeueUnit s job va
  match ctxOfUnit s1 job va with
  | some (c, x) =>
    let k := s1.ctx c x
    if k.run = .placing then (s1.freeCtx c x, k.softCancel || k.preempt) else (s1, false)
  | none => (s1, false)

/-- A unit off its context is frozen: its record says so, and its job remembers the state it had (R36); `place` is the
context that the violating command came from. -/
def freezeUnit (s : State) (job va : Nat) (place : Option (Nat × Nat)) : State :=
  match readRecord s job va with
  | some r =>
    if crState r = usReady || crState r = usSuspended || crState r = usWaiting then
      let w := withdrawUnit s job va
      match w.1.job job with
      | some j => writeRecord (w.1.setJob job (some { j with frozenUnits := j.frozenUnits ++ [⟨va, crState r, w.2, place⟩] })) job va
          (crSet r usFrozen (crReason r))
      | none => s
    else s
  | none => s

/-- Every unit of a job is frozen (R36, R412). -/
def freezeJob (s : State) (job : Nat) : State :=
  let s1 := s.cores.foldl (fun t k => freezeAt (freezeAt t job k.1 0) job k.1 1) s
  let s2 := (List.range 16).foldl (fun t c =>
    let k := t.cluster c
    if k.ready.any (·.job == job) then t.setCluster c { k with ready := k.ready.filter (·.job != job) } else t) s1
  (jobRecords s2 job).foldl (fun t va => freezeUnit t job va none) s2

/-- The TDI of a confidential job enters ERROR (R412). -/
def tdiError (s : State) (job : Nat) : State :=
  match s.job job with
  | some j => if confJob s job && j.tdi ≠ .error then
      freezeJob (s.setJob job (some { j with tdi := .error, frozen := true })) job else s
  | none => s

/-- A context's violation (R383, R412). -/
def violateCtx (s : State) (core x : Nat) : State := tdiError (freezeCtx s core x) (s.ctx core x).job

/-- The violation of a command whose unit has left its context (R35, R383): the unit is frozen where it is, under the name of
the context that issued the command. -/
def violateAway (s : State) (job va core x : Nat) : State :=
  match readRecord s job va with
  | some r =>
    if crState r = usReady || crState r = usSuspended || crState r = usWaiting then
      tdiError (postNotice (freezeUnit s job va (some (core, x))) job nkFrozen 0 (ctxIdOf s core x)) job
    else tdiError s job
  | none => tdiError s job

/-- What the engines hold of a ring they serve. -/
def findRing (s : State) (r : RingRef) : RingRun := (s.rings.find? (·.r == r)).getD ⟨r, [], false, none, 0⟩
def setRing (s : State) (v : RingRun) : State :=
  { s with rings := s.rings.filter (fun x => x.r != v.r) ++ [v] }

/-- A ring is frozen. -/
def freezeRing (s : State) (r : RingRef) : State :=
  let v := findRing s r
  if v.frozen then s else postNotice (setRing s { v with frozen := true }) r.job nkFrozen 0 r.desc.toNat

/-- A violation by a ring's packet (R324, R383). -/
def violateRing (s : State) (r : RingRef) : State := tdiError (freezeRing s r) r.job

end Sys2Proof.Machine
end

