-- ==== Sys2Proof/Machine/Copy.lean ====
section
/-! DEFINITION. Packets and images (R250, R251, R254, R255), the movement of their bytes (R194, R195, R256 to R258, R295),
signal objects and deliveries (R252), status records (R253) and atomic words (R217, R218). -/
namespace Sys2Proof.Machine

/-! Packet fields (R250). -/

def pkSeq (p : Nat) : Nat := fld p 511 480
def pkType (p : Nat) : Nat := fld p 479 476
def pkBarrier (p : Nat) : Bool := p.testBit 475
def pkWaitEn (p : Nat) : Bool := p.testBit 474
def pkCond (p : Nat) : Nat := fld p 473 471
def pkSigKind (p : Nat) : Nat := fld p 470 469
def pkStatusEn (p : Nat) : Bool := p.testBit 468
def pkWaitValue (p : Nat) : Int := sx 32 (fld p 463 432)
def pkSigDelta (p : Nat) : Int := sx 16 (fld p 431 416)
def pkErrDelta (p : Nat) : Int := sx 16 (fld p 415 400)
def pkWaitAddr (p : Nat) : Nat := fld p 399 352
def pkSigTarget (p : Nat) : Nat := fld p 351 304
def pkStatusAddr (p : Nat) : Nat := fld p 303 256

/-- A short address of R251. -/
def shortBad (a : Nat) : Bool := fld a 47 46 == 3 || a.testBit 45
/-- The device address it stands for. -/
def shortAddr (a : Nat) : Nat :=
  (if fld a 47 46 = 0 then 0 else if fld a 47 46 = 1 then 5 else 6) * 2 ^ 60 + fld a 44 0 * 8

/-- A malformed header (R251, R254). A wait or status address is a short address whether or not it is used, and its path
selector and bit 45 count always; a signal target has the form that sig_kind gives it, and none with sig_kind 0 (log entry 32). -/
def headerBad (p : Nat) : Bool :=
  pkType p == 0 || 10 ≤ pkType p || 5 < pkCond p || pkSigKind p == 3 || fld p 467 464 != 0 ||
  shortBad (pkWaitAddr p) || shortBad (pkStatusAddr p) || (pkStatusEn p && (pkStatusAddr p).testBit 0) ||
  (pkSigKind p == 1 && shortBad (pkSigTarget p)) ||
  (pkSigKind p == 2 && (fld (pkSigTarget p) 47 19 != 0 || pkSigDelta p < 0 || 255 < pkSigDelta p ||
    pkErrDelta p < 0 || 255 < pkErrDelta p))

/-! Bodies (R255). -/

def cpSrc (p : Nat) : Nat := fld p 255 192
def cpDst (p : Nat) : Nat := fld p 191 128
def cpRowBytes (p : Nat) : Nat := fld p 127 104
def cpRows (p : Nat) : Nat := fld p 103 80 + 1
def cpSrcStride (p : Nat) : Nat := fld p 79 56
def cpDstStride (p : Nat) : Nat := fld p 55 32
def cpForm (p : Nat) : Bool := p.testBit 31
def cpScout (p : Nat) : Bool := p.testBit 30
def cpScoutPages (p : Nat) : Nat := fld p 29 22
def gaTable (p : Nat) : Nat := fld p 255 192
def gaOther (p : Nat) : Nat := fld p 191 128
def gaIdx (p : Nat) : Nat := fld p 127 80
def gaCount (p : Nat) : Nat := fld p 79 56
def gaRowBytes (p : Nat) : Nat := fld p 55 40
def gaStride (p : Nat) : Nat := fld p 39 16
def gaIdx64 (p : Nat) : Bool := p.testBit 15

/-- A malformed body (R254, R255). -/
def bodyBad (p : Nat) : Bool :=
  match pkType p with
  | 1 => fld p 254 0 != 0
  | 2 => cpRowBytes p == 0 || (cpScout p != (cpScoutPages p != 0)) || fld p 21 0 != 0
  | 3 | 4 => shortBad (gaIdx p) || gaCount p == 0 || gaRowBytes p == 0 || fld p 14 0 != 0
  | 5 => 3 < fld p 239 236 || fld p 231 192 != 0
  | 6 => fld p 109 0 != 0 || (List.range 3).any (fun i => shortBad (fld p (255 - 48 * i) (208 - 48 * i)))
  | 7 => fld p 254 192 != 0 || fld p 127 0 != 0 || (p.testBit 255 && pkSigKind p != 1)
  | 8 => 7 < fld p 63 60 || fld p 57 0 != 0
  | 9 => 3 < fld p 127 124 || fld p 99 76 == 0 || fld p 75 0 != 0
  | _ => true

/-- A malformed packet of a ring. -/
def packetBad (p : Nat) : Bool := headerBad p || bodyBad p

/-- Header fields that an image holds zero (R255). -/
def imageHeaderBad (p : Nat) : Bool := headerBad p || pkSeq p != 0 || pkBarrier p || pkStatusEn p

/-- A malformed packet whose status or signal address cannot name an object delivers nothing there (R254). -/
def cleanHeader (p : Nat) : Nat :=
  let p1 := if pkStatusEn p && (shortBad (pkStatusAddr p) || (pkStatusAddr p).testBit 0) then setFld p 468 468 0 else p
  if pkSigKind p1 = 3 || (pkSigKind p1 = 1 && shortBad (pkSigTarget p1)) ||
    (pkSigKind p1 = 2 && (fld (pkSigTarget p1) 47 19 != 0 || pkErrDelta p1 < 0 || 255 < pkErrDelta p1)) then
    setFld p1 470 469 0 else p1

/-- A malformed CPY image; bound to a stream it declares form 0 and names no destination (R255, R267). -/
def cpyBad (p : Nat) (stream : Bool) : Bool :=
  imageHeaderBad p || bodyBad p || !(pkType p == 2 || pkType p == 3 || pkType p == 4) ||
  (stream && pkType p == 2 && (cpDst p != 0 || cpForm p))

/-- A malformed GATH image for elements of `e` bytes (R255, R269). -/
def gathBad (p e : Nat) : Bool :=
  imageHeaderBad p || pkType p != 3 || gaIdx p != 0 || gaCount p != 0 || fld p 14 0 != 0 || gaRowBytes p != e

/-- Bytes that a COPY, GATHER or SCATTER packet transfers in all (R263). -/
def totalBytes (p : Nat) : Nat :=
  if pkType p = 2 then cpRows p * cpRowBytes p
  else if pkType p = 3 || pkType p = 4 then gaCount p * gaRowBytes p else 0

/-! Moving bytes. -/

/-- A transfer under way: bytes delivered, what stopped it with the address concerned, a violation, rows skipped, the
activation ranges written, the pages its scout has walked, the rows known and not moved yet, and the pieces of activation
lines that wait for the rest of their line (R228). -/
structure Mv where
  st : State
  bytes : Nat
  stop : Option (Nat × Nat)
  at' : Nat
  viol : Bool
  skipped : Nat
  segs : List (Nat × Nat)
  scouted : Nat
  left : List (Option (Nat × Nat))
  part : List (Nat × List Byte × Bool)

/-- A transfer goes on from where it stands. -/
def Mv.resume (s : State) (g : Prog) : Mv := ⟨s, g.bytes, none, 0, false, g.skipped, g.segs, g.scouted, g.rows, []⟩
def Mv.start (s : State) : Mv := Mv.resume s Prog.start

/-- An access refused with a retry hint (R264). -/
def Mv.refused (m : Mv) : Bool := m.stop == some (stRetry, 0x30)

/-- Refusals that the access at which a transfer stands has met, this one among them (R264). -/
def Mv.tries (m : Mv) (g : Prog) : Nat := if g.bytes = m.bytes && g.skipped = m.skipped && g.at' = m.at' then g.tries + 1 else 1

/-- Where a transfer stands, to go on later; `n` counts the refusals of its next access. -/
def Mv.pause (m : Mv) (n : Nat) : Prog :=
  { Prog.start with bytes := m.bytes, skipped := m.skipped, tries := n, at' := if n = 0 then 0 else m.at', scouted := m.scouted, segs := m.segs, rows := m.left, part := m.part }

/-- Unit of a path (R256). -/
def pathUnit (a : Nat) : Nat := if pathOf a = 7 then 4096 else 4
/-- An address in some core's activation buffer. -/
def isAct (a : Nat) : Bool := pathOf a == 3 && fld a 25 24 == 0

/-- What a span of at most 64 bytes holds, with whether some of it lies in plaintext or ciphertext activation lines. -/
structure Span where
  bytes : List Byte
  poison : Bool
  plain : Bool
  cipher : Bool

/-- Reads a span, split at the source's 64-byte blocks; the access of a page part counts once (R297). -/
def readSpan (s : State) (e : Eng) (a n : Nat) (first : Bool) : State × Except ((Nat × Nat) × Nat) Span :=
  (splitAtMult 64 3 a n).foldl (fun p q => match p with
    | (s, .error x) => (s, .error x)
    | (s, .ok v) =>
      match readBlk s e q.1 q.2 ((first && q.1 == a) || q.1 % 65536 == 0) with
      | (s1, .error x) => (s1, .error (x, q.1))
      | (s1, .ok b) => (s1, .ok ⟨v.bytes ++ b.bytes, v.poison || b.poison, v.plain || (isAct q.1 && !b.cipher),
          v.cipher || b.cipher⟩)) (s, .ok ⟨[], false, false, false⟩)

/-- One piece within a 64-byte block of the destination (R257). -/
def mvPiece (e : Eng) (src dst : Nat) (m : Mv) (q : Nat × Nat) : Mv :=
  if m.stop.isSome then m
  else
    let from' := src + (q.1 - dst)
    match readSpan m.st e from' q.2 (q.1 == dst) with
    | (s1, .error x) => { m with st := s1, stop := some x.1, at' := x.2 }
    | (s1, .ok v) =>
      if e.conf && v.plain && 5 ≤ pathOf dst then { m with st := s1, stop := some (stBound, 6), at' := from', viol := true }
      else match writeBlk s1 e q.1 v.bytes v.poison (q.1 == dst || q.1 % 65536 == 0) with
        | (s2, .error x) => { m with st := s2, stop := some x, at' := q.1 }
        | (s2, .ok _) => { m with st := s2, bytes := m.bytes + q.2
                                  segs := if isAct dst then m.segs ++ [(q.1, q.2)] else m.segs }

/-- Bytes `off` to `off + len − 1` of a row. -/
def mvSpan (e : Eng) (off len : Nat) (m : Mv) (r : Option (Nat × Nat)) : Mv :=
  if m.stop.isSome then m
  else match r with
    | none => { m with skipped := m.skipped + 1 }
    | some (src, dst) => (splitAtMult 64 (len / 64 + 2) (dst + off) len).foldl (mvPiece e src dst) m

/-- One row (R256). -/
def mvRow (e : Eng) (n : Nat) (m : Mv) (r : Option (Nat × Nat)) : Mv := mvSpan e 0 n m r

/-- The lines of activation buffers that ranges touch, as (core code, line). -/
def linesOf (segs : List (Nat × Nat)) : List (Nat × Nat) :=
  ((segs.map (fun g => (List.range ((fld g.1 20 0 + g.2 - 1) / 256 + 1 - fld g.1 20 0 / 256)).map
    (fun i => (fld g.1 35 26, fld g.1 20 0 / 256 + i)))).flatten).eraseDups
/-- A line that ranges cover whole. -/
def lineWhole (segs : List (Nat × Nat)) (l : Nat × Nat) : Bool :=
  (List.range 256).all (fun i => segs.any (fun g =>
    fld g.1 35 26 == l.1 && fld g.1 20 0 ≤ l.2 * 256 + i && l.2 * 256 + i < fld g.1 20 0 + g.2))

/-- A line of another form that a copy would write in part (R195). -/
def formRefused (s : State) (segs : List (Nat × Nat)) (form : Bool) : Bool :=
  (linesOf segs).any (fun l => match coreOfCode s l.1 with
    | some c => l.2 < 8192 && s.form c l.2 != form && !lineWhole segs l
    | none => false)
/-- Of some lines those that ranges cover whole take the declared form (R194). -/
def declareLines (s : State) (lines segs : List (Nat × Nat)) (form : Bool) : State :=
  lines.foldl (fun s l => match coreOfCode s l.1 with
    | some c => if lineWhole segs l then s.setForm c l.2 form else s
    | none => s) s
/-- Whole lines written take the declared form (R194). -/
def declareForm (s : State) (segs : List (Nat × Nat)) (form : Bool) : State := declareLines s (linesOf segs) segs form

/-! A line that a transfer writes whole is written as one (R228): what it has of a line while it waits stands beside it. -/

/-- Lines that a transfer writes whole (`all`) and of which only a part is written (`done`). -/
def halfLines (all done : List (Nat × Nat)) : List (Nat × Nat) :=
  (linesOf done).filter (fun l => lineWhole all l && !lineWhole done l)

/-- What the ranges written hold of a line, as key, bytes and whether poisoned. -/
def linePart (s : State) (done : List (Nat × Nat)) (l : Nat × Nat) : List (Nat × List Byte × Bool) :=
  match coreOfCode s l.1 with
  | none => []
  | some c => done.filterMap (fun g =>
      let lo := max (fld g.1 20 0) (256 * l.2)
      let hi := min (fld g.1 20 0 + g.2) (256 * l.2 + 256)
      let k := actKey c lo
      if fld g.1 35 26 = l.1 && lo < hi then
        some (k, s.bytes k (hi - lo), (locsOf k (hi - lo)).any (fun w => (s.err w).poison)) else none)

/-- A line stands again as it did in `s`. -/
def lineBack (s : State) (t : State) (l : Nat × Nat) : State := match coreOfCode s l.1 with
  | none => t
  | some c =>
    let k := actKey c (256 * l.2)
    { t with mem := t.mem.write k (s.bytes k 256)
             errs := (locsOf k 256).foldl (fun e w => Tab.set Err.clear e w (s.err w)) t.errs }

/-- The pieces kept beside their lines are written. -/
def applyPart (s : State) (l : List (Nat × List Byte × Bool)) : State :=
  l.foldl (fun t q => let u := t.put q.1 q.2.1
                      if q.2.2 then poisonRange u q.1 q.2.1.length else u) s

/-- A transfer that waits leaves the lines that it has written in part as they stood in `s`. -/
def Mv.holdLines (m : Mv) (s : State) (all : List (Nat × Nat)) : Mv :=
  let half := halfLines all m.segs
  { m with st := half.foldl (lineBack s) m.st, part := half.flatMap (linePart m.st m.segs) }

/-- A row on the issuing core that leaves the bounds of the issue (R256). -/
def ownRefused (s : State) (e : Eng) (a n : Nat) : Bool := match e.own with
  | none => false
  | some o => pathOf a == 3 && addrFieldsOk a && coreOfCode s (fld a 35 26) == some o.core &&
      (let b := if fld a 25 24 = 0 then actBounds o.cart else accBounds o.cart
       !(b.1 ≤ spaceOff a && spaceOff a + n ≤ b.2))

/-- Rows of a transfer: none for a skipped element; what stops the index array's reading, and where. -/
structure Rows where
  st : State
  rows : List (Option (Nat × Nat))
  stop : Option ((Nat × Nat) × Nat)

/-- Rows of a COPY. -/
def copyRows (p : Nat) : List (Option (Nat × Nat)) :=
  (List.range (cpRows p)).map (fun j => some ((cpSrc p + j * cpSrcStride p) % 2 ^ 64, (cpDst p + j * cpDstStride p) % 2 ^ 64))

/-- Address of the row that an index names (R258). -/
def rowAt (p x : Nat) : Nat := (gaTable p + (if gaStride p = 0 then x else x * gaStride p)) % 2 ^ 64

/-- Rows `i0` to `i1 − 1` of a GATHER or SCATTER, from its index array: each as the row's place in the table, none where
it is misaligned, and its place among the packed rows. -/
def indexRows (s : State) (e : Eng) (p i0 i1 : Nat) : Rows :=
  let w := if gaIdx64 p then 8 else 4
  ((List.range (i1 - i0)).map (i0 + ·)).foldl (fun r i =>
    if r.stop.isSome then r
    else
      let a := shortAddr (gaIdx p) + w * i
      match readBlk r.st e a w false with
      | (s1, .error x) => { r with st := s1, stop := some (x, a) }
      | (s1, .ok b) =>
        if b.poison then { r with st := s1, stop := some ((stPoison, 0), a) }
        else
          let t := rowAt p (leNat b.bytes)
          let o := (gaOther p + i * gaRowBytes p) % 2 ^ 64
          { r with st := s1
                   rows := r.rows ++ [if t % pathUnit (gaTable p) ≠ 0 then none
                     else some (if pkType p = 3 then (t, o) else (o, t))] }) ⟨s, [], none⟩

/-- Bytes of a row. -/
def rowBytes (p : Nat) : Nat := if pkType p = 2 then cpRowBytes p else gaRowBytes p
/-- Rows of a transfer. -/
def rowCount (p : Nat) : Nat := if pkType p = 2 then cpRows p else gaCount p
/-- Rows `i0` to `i1 − 1` of a transfer as it reads them. -/
def rowsOf (s : State) (e : Eng) (p i0 i1 : Nat) : Rows :=
  if pkType p = 2 then ⟨s, ((copyRows p).take i1).drop i0, none⟩ else indexRows s e p i0 i1

/-- A weight row on a core under a journal transaction: held until its END (R225). -/
def weightHeldAt (s : State) (a n : Nat) : Bool := match s.txn with
  | some t => t.begun && pathOf a == 2 && [a, a + n - 1].any (fun b => match coreOfCode s (fld b 35 26) with
    | some c => t.cores.contains c
    | none => false)
  | none => false
/-- A transfer that reads such a row. -/
def weightHeld (s : State) (e : Eng) (p : Nat) : Bool :=
  match s.txn with
  | none => false
  | some _ => (rowsOf s e p 0 (rowCount p)).rows.any (fun r => match r with
    | some (a, _) => weightHeldAt s a (rowBytes p)
    | none => false)

/-- The end that a stream-bound transfer reads: the packed rows of a SCATTER, whose table its ring replaces (log entry 22). -/
def streamSource (p : Nat) : Nat := if pkType p = 4 then fld p 191 128 else fld p 255 192

/-- Alignment checked before any byte moves (R256, R258); a stream has no destination address. -/
def misaligned (p : Nat) (stream : Bool) : Bool :=
  if pkType p = 2 then
    let u := max (pathUnit (cpSrc p)) (if stream then 4 else pathUnit (cpDst p))
    cpSrc p % u != 0 || (!stream && cpDst p % u != 0) || cpRowBytes p % u != 0 ||
      (1 < cpRows p && (cpSrcStride p % u != 0 || (!stream && cpDstStride p % u != 0)))
  else if stream then gaRowBytes p % pathUnit (streamSource p) != 0 || (pkType p = 4 && gaOther p % pathUnit (gaOther p) != 0)
  else gaRowBytes p % max (pathUnit (gaTable p)) (pathUnit (gaOther p)) != 0 || gaOther p % pathUnit (gaOther p) != 0

/-- Reserved address fields set (R202). -/
def fieldsBad (p : Nat) (stream : Bool) : Bool :=
  if stream then !addrFieldsOk (streamSource p) else !addrFieldsOk (fld p 255 192) || !addrFieldsOk (fld p 191 128)

/-- Pages that a scout meets in copy order, each once (R295): source page, then destination page, of the first `n` bytes
of each row. -/
def scoutPages (stream : Bool) (n : Nat) (rows : List (Option (Nat × Nat))) : List (Nat × Bool) :=
  let l := ((rows.map (fun r => match r with
    | some (a, b) => (pagesOf a n).map (fun q => (q.1, false)) ++ (if stream then [] else (pagesOf b n).map (fun q => (q.1, true)))
    | none => [])).flatten).filter (fun a => pathOf a.1 != 2 && pathOf a.1 != 3 && pathOf a.1 != 7)
  l.foldl (fun l a => if l.any (fun b => b.1 / 65536 == a.1 / 65536) then l else l ++ [a]) []

/-- A notice of a translation fault (R280, R431). -/
def faultNotice (s : State) (job a detail : Nat) : State := postNotice s job nkFault a detail

/-- A scout walks pages, posting one notice for each without translation (R257, R295). -/
def scout (s : State) (e : Eng) (detail : Nat) (l : List (Nat × Bool)) : State :=
  l.foldl (fun s a =>
    match translate s e (fld a.1 47 0) (pathOf a.1) a.2 with
    | (s1, none) => faultNotice s1 e.job a.1 detail
    | (s1, some _) => s1) s

/-- How far ahead the scout of a COPY must have walked when its data stands at `off` of row `i` (R257). -/
def scoutGoal (p : Nat) (stream : Bool) (i off : Nat) : List (Nat × Bool) × Nat :=
  let rows := copyRows p
  let all := scoutPages stream (cpRowBytes p) rows
  let reached := scoutPages stream (cpRowBytes p) (rows.take i) ++ scoutPages stream (off + 1) ((rows.drop i).take 1)
  let met := (reached.foldl (fun l a => if l.any (fun b => b.1 / 65536 == a.1 / 65536) then l else l ++ [a]) []).length
  (all, min all.length (met + cpScoutPages p))

/-- Bytes of a row from `off` on that lie in one page on both sides (R231). -/
def pagePart (n off : Nat) (r : Option (Nat × Nat)) : Nat := match r with
  | some (a, b) => min (n - off) (min (65536 - (a + off) % 65536) (65536 - (b + off) % 65536))
  | none => 0

/-- Drives that a transfer names (R201). -/
def drivesOf (p : Nat) (stream : Bool) : List Nat :=
  (if stream then [streamSource p] else [fld p 255 192, fld p 191 128]).filterMap
    (fun a => if pathOf a = 7 then some (fld a 55 48) else none)

/-- A transfer whose rows are all moved, or that has stopped for good: it does not go on later. -/
def mvEnds (p : Nat) (g : Prog) (m : Mv) : Bool := match m.stop with
  | some x => x ≠ (stRetry, 0x30) || 16 ≤ m.tries g
  | none => rowCount p ≤ m.skipped + m.bytes / rowBytes p

/-- The scout of a COPY whose data stands at `off` of row `i` has pages to walk first: how many it will then have walked. -/
def scoutDue (p i off : Nat) (g : Prog) : Option Nat :=
  if pkType p == 2 && cpScout p then
    let n := (scoutGoal p false i off).2
    if g.scouted < n then some n else none
  else none

/-- A drive writes whole blocks: one whose bytes are not all there is not written (R228, R281). -/
def wholeBlock (s : State) (g : Prog) (off : Nat) (r : Option (Nat × Nat)) (m : Mv) : Mv := match r with
  | some (_, b) =>
    if m.stop.isSome && pathOf b = 7 then
      let k := driveKey (fld b 55 48) (fld (b + off) 47 0)
      { m with st := { m.st with mem := m.st.mem.write k (s.bytes k (m.bytes - g.bytes)) }, bytes := g.bytes }
    else m
  | none => m

/-- What one step moves of the rows that remain: one 4 KiB block of a transfer that a drive serves (R281), one page part of a
COPY with scout, every row of another. -/
def moveRows (s : State) (e : Eng) (p : Nat) (g : Prog) (off : Nat) : List (Option (Nat × Nat)) → Mv
  | [] => Mv.resume s g
  | x :: l =>
    let n := rowBytes p
    if !(drivesOf p false).isEmpty then
      wholeBlock s g off x (mvSpan e off (min (n - off) (4096 - off % 4096)) (Mv.resume s g) x)
    else if pkType p == 2 && cpScout p then mvSpan e off (pagePart n off x) (Mv.resume s g) x
    else l.foldl (mvRow e n) (mvSpan e off (n - off) (Mv.resume s g) x)

/-- What a transfer to memory comes to from where it stands (R256 to R258): checks, then the rows in order. With a scout one
step walks the pages that lie ahead, or moves one page part. -/
def transferMem (s0 : State) (e : Eng) (p detail : Nat) (g : Prog) : Mv :=
  let s := applyPart s0 g.part
  let fail := fun (s : State) (x : Nat × Nat) => { Mv.resume s g with stop := some x }
  let n := rowBytes p
  let i := g.skipped + g.bytes / n
  let off := g.bytes % n
  if misaligned p false then fail s (stMisalign, 0)
  else if fieldsBad p false then fail s (stBound, 8)
  else
    let r0 := rowsOf s e p (i + g.rows.length) (rowCount p)
    let r := { r0 with rows := g.rows ++ r0.rows }
    if r.rows.any (fun x => match x with
        | some (a, b) => ownRefused s e a n || ownRefused s e b n
        | none => false) then fail r.st (stBound, 7)
    else
      let segs := r.rows.filterMap (fun x => match x with
        | some (_, b) => if isAct b then some (b, n) else none
        | none => none)
      let form := pkType p == 2 && cpForm p
      if formRefused r.st (g.segs ++ segs) form then fail r.st (stBound, 6)
      else
        let m2 := match scoutDue p i off g with
          | some k => { Mv.resume (scout r.st e detail (((scoutGoal p false i off).1.take k).drop g.scouted)) g with scouted := k }
          | none =>
            let m := moveRows r.st e p g off r.rows
            let m1 := if m.stop.isSome || m.skipped + m.bytes / n < i + r.rows.length then m else match r.stop with
              | some x => { m with stop := some x.1, at' := x.2 }
              | none => m
            { m1 with st := declareForm m1.st m1.segs form
                      left := if pkType p = 2 then [] else r.rows.drop (m1.skipped + m1.bytes / n - i) }
        if mvEnds p g m2 then m2 else m2.holdLines s0 (g.segs ++ segs)

/-- The status of a transfer: what stopped it, else skipped elements (R253). -/
def mvStatus (m : Mv) : Nat × Nat := match m.stop with
  | some x => x
  | none => if 0 < m.skipped then (stMisElem, 0) else (stOk, 0)

/-- After a transfer: the one notice of its translation fault (R293). -/
def mvNotice (m : Mv) (job detail : Nat) : State :=
  if m.stop = some (stBound, 1) then faultNotice m.st job m.at' detail else m.st

/-! Signal objects, status records and atomic words. -/

/-- A signal object as it is read; none for a failed read, with whether it did not translate (R29, R252). -/
def readSignal (s : State) (e : Eng) (a : Nat) : State × Option Int × Bool :=
  match peekWord s e a 8 with
  | (s1, .ok v) => (s1, some (sx 64 v), false)
  | (s1, .error x) => (s1, none, x == (stBound, 1))

/-- A write that a page refuses: no translation, or a marked frame (R293, R301). -/
def pageRefuses (x : Nat × Nat) : Bool := x == (stBound, 1) || x == (stBound, 4)

/-- A write of one aligned word, whole (R217): the state after and the old value, or the refusal; `cnt` counts it toward
migration, and it is not logged (R372). -/
def rmwWord (s : State) (e : Eng) (a n : Nat) (cnt : Bool) (f : Nat → Nat) : State × Except (Nat × Nat) Nat :=
  match readBlk s e a n cnt with
  | (s1, .error x) => (s1, .error x)
  | (s1, .ok b) =>
    if b.poison then (s1, .error (stPoison, 0))
    else match writeBlk s1 { e with ctx := none } a (leBytes n (f (leNat b.bytes) % 2 ^ (8 * n))) false false with
      | (_, .error x) => (s, .error x)
      | (s2, .ok _) => (s2, .ok (leNat b.bytes))

/-- new of R217: the low W bits of the operands. -/
def atomNew (op w : Nat) (sgn : Bool) (opnd cmp old : Nat) : Nat :=
  let o := opnd % 2 ^ w
  let less := if sgn then decide (sx w old < sx w o) else decide (old < o)
  match op with
  | 0 => (old + o) % 2 ^ w
  | 1 => old &&& o
  | 2 => old ||| o
  | 3 => old ^^^ o
  | 4 => if less then old else o
  | 5 => if less then o else old
  | 6 => o
  | _ => if old = cmp % 2 ^ w then o else old

/-- An atomic operation on a device word (R217, R218). -/
def atomicOp (s : State) (e : Eng) (target op : Nat) (w64 sgn : Bool) (opnd cmp : Nat) : State × Except (Nat × Nat) Nat :=
  let n := if w64 then 8 else 4
  let p := pathOf target
  if target % n ≠ 0 then (s, .error (stMisalign, 0))
  else if p = 7 then (s, .error (stBound, 9))
  else if p = 1 || p = 2 || p = 4 then (s, .error (stBound, 4))
  else if p = 5 && op ≠ 0 && op ≠ 6 && op ≠ 7 then (s, .error (stBound, 9))
  else rmwWord s e target n true (atomNew op (8 * n) sgn opnd cmp)

/-- A delivery to a signal object, or a store into it (R252); `detail` for a translation fault, `ring` and `index` for a
delivery dropped. -/
def signalWrite (s : State) (e : Eng) (a : Nat) (f : Nat → Nat) (detail ring index : Nat) : State :=
  match rmwWord s e a 8 false f with
  | (s1, .ok _) => s1
  | (s1, .error x) => if x = (stBound, 1) then faultNotice s1 e.job a detail
      else postNotice s1 e.job nkSemDropped ring index

/-- A delivery to a core semaphore (R252). -/
def semDeliver (s : State) (job t n ring index : Nat) : State :=
  match coreOfCode s (fld t 18 9) with
  | some core =>
    let x := fld t 8 8
    let c := s.ctx core x
    if c.live && c.job == job then s.setCtx core x (c.outsideChange (.sem (fld t 7 0) n))
    else postNotice s job nkSemDropped ring index
  | none => postNotice s job nkSemDropped ring index

/-- The signal of a packet or image at completion (R252). -/
def deliverSignal (s : State) (e : Eng) (p status detail ring index : Nat) : State :=
  let d := if status = stOk || status = stMisElem then pkSigDelta p else pkErrDelta p
  if pkSigKind p = 1 then
    signalWrite s e (shortAddr (pkSigTarget p)) (fun v => wrapInt 64 (v + d)) detail ring index
  else if pkSigKind p = 2 then semDeliver s e.job (pkSigTarget p) d.toNat ring index
  else s

/-- A status record (R253). -/
def statusRecord (id skipped detail status bytes : Nat) : Nat :=
  id % 2 ^ 32 * 2 ^ 96 + min skipped 65535 * 2 ^ 80 + detail % 256 * 2 ^ 72 + status % 256 * 2 ^ 64 + bytes % 2 ^ 64

/-- A status record at a device address of a job (R252, R301, R431). -/
def writeStatus (s : State) (e : Eng) (a rec : Nat) : State :=
  match writeBlk s e a (leBytes 16 rec) false false with
  | (s1, .ok _) => s1
  | (s1, .error x) => if pageRefuses x then faultNotice s1 e.job a srcDevice else s1

/-- A record or block in the issuing core's activation buffer; 0 names none, else the address plus one. -/
def writeAct (s : State) (core sc : Nat) (bs : List Byte) : State :=
  if sc = 0 then s else s.put (actKey core (sc - 1)) bs

end Sys2Proof.Machine
end

