-- ==== Sys2Proof/Machine/Order.lean ====
section
/-! DEFINITION. Which command of a context, and which packet of a ring, may be performed next (R226, R230 to R237, R240,
R241, R249, R261, R274): the order of a channel, fences, releases, one location, and pages of kind SO. -/
namespace Sys2Proof.Machine

/-! What a command or packet has access to. -/

/-- A range of bytes at its home, and whether its page is of kind SO. -/
structure Reach where
  key : Nat
  len : Nat
  so : Bool
deriving DecidableEq, Repr

/-- A page part at its home. -/
def reachPage (s : State) (job p : Nat) (q : Nat × Nat) : List Reach :=
  let asid := jobAsid s job
  let x := match walk s asid q.1 p false with
    | some x => some x
    | none => walk s asid q.1 p true
  match x with
  | none => []
  | some x =>
    let so := fld x.leaf 3 2 == 0
    if p = 5 then [⟨hostKey x.addr, q.2, so⟩]
    else if fld x.leaf 7 6 = 1 then [⟨peerKey (fld x.leaf 99 92) (q.1 % 2 ^ 48), q.2, so⟩]
    else if p = 4 then [⟨x.addr / 65536 * 65536, 65536, so⟩] else [⟨x.addr, q.2, so⟩]

/-- A range of device addresses at its home; path 2 reads a fixed image, which nothing orders (R240). -/
def reachOf (s : State) (job a n : Nat) : List Reach :=
  let p := pathOf a
  if n = 0 || p = 2 || 8 ≤ p then []
  else if p = 3 then match coreOfCode s (fld a 35 26) with
    | some core => [⟨spaceKey core a, n, false⟩]
    | none => []
  else if p = 7 then [⟨driveKey (fld a 55 48) (fld a 47 0), n, false⟩]
  else (pagesOf (fld a 47 0) n).flatMap (reachPage s job p)

/-- The pages of a handle, at their tiers (R340). -/
def reachPages (s : State) (h first n : Nat) : List Reach :=
  let d := tenantDesc s (hdTenant h)
  (List.range n).filterMap (fun i => (pageKey d (pageOf s d 8 (hdSlot h) (first + i)).2 0).map (fun k => ⟨k, 65536, false⟩))

/-- Token slots of a handle (R333, R336, R340). -/
def reachTokens (s : State) (h : Nat) (l : List Nat) : List Reach :=
  let d := tenantDesc s (hdTenant h)
  l.filterMap (fun t => (tokenKey s d (hdSlot h) t).map (fun k => ⟨k, tdSlotBytes d, false⟩))

/-- The word whose value a packet or image waits for (R252). -/
def reachWait (s : State) (job p : Nat) : List Reach :=
  if pkWaitEn p then reachOf s job (shortAddr (pkWaitAddr p)) 8 else []

/-- What a packet or image writes at its completion: its status record and its signal object (R252). -/
def reachEnd (s : State) (job p : Nat) : List Reach :=
  (if pkStatusEn p then reachOf s job (shortAddr (pkStatusAddr p)) 16 else []) ++
  (if pkSigKind p = 1 then reachOf s job (shortAddr (pkSigTarget p)) 8 else [])

/-- The accesses of a packet's or image's body; `stream` tells that a stream's ring takes the place of the destination. -/
def reachBody (s : State) (e : Eng) (p : Nat) (stream : Bool) : List Reach :=
  let rows := fun (_ : Unit) => (rowsOf s e p 0 (rowCount p)).rows.flatMap (fun r => match r with
    | some (a, b) => reachOf s e.job a (rowBytes p) ++ (if stream then [] else reachOf s e.job b (rowBytes p))
    | none => [])
  match pkType p with
  | 2 => rows ()
  | 3 => rows () ++ reachOf s e.job (shortAddr (gaIdx p)) ((if gaIdx64 p then 8 else 4) * gaCount p)
  | 4 => rows () ++ reachOf s e.job (shortAddr (gaIdx p)) ((if gaIdx64 p then 8 else 4) * gaCount p)
  | 6 => (List.range (fld p 111 110)).flatMap (fun i => reachOf s e.job (shortAddr (fld p (255 - 48 * i) (208 - 48 * i))) 8)
  | 8 => reachOf s e.job (fld p 255 192) 8
  | 9 => (if kvOp p ≤ 1 then reachOf s e.job (kvAddr p) (65536 * kvPages p) else []) ++ reachPages s (kvHandle p) (kvFirst p) (kvPages p)
  | _ => []

/-- The accesses of a packet. -/
def reachPacket (s : State) (e : Eng) (p : Nat) : List Reach :=
  reachBody s e p false ++ reachWait s e.job p ++ reachEnd s e.job p

/-- The ring of a stream, in its core's activation buffer. -/
def reachRing (s : State) (core x q : Nat) : List Reach := match (s.ctx core x).arch.rdQ q with
  | some b => [⟨actKey core b.base, (b.slotsM1 + 1) * 64 * b.units, false⟩]
  | none => []

/-- The slot into which a QAPP writes its packet: that of the index it has claimed, or the next one (R273). -/
def reachSlot (s : State) (job desc : Nat) (ph : Phase) : List Reach := match reachOf s job desc 64 with
  | r :: _ =>
    let d := s.desc r.key
    let w := match ph with
      | .claimed w _ => w
      | _ => rdWrite d
    r :: reachOf s job (pathOf desc * 2 ^ 60 + (rdBase d % 2 ^ 60 + w % 2 ^ rdLog2 d * 64) % 2 ^ 60) 64
  | [] => []

/-- The image of a transfer and its status record's place (0 none). -/
def Cmd.image (c : Cmd) : Nat := match c.kind with
  | .cpy p _ _ _ => p
  | .gath p _ _ _ _ => p
  | .kvref p _ _ => p
  | _ => 0
def Cmd.record (c : Cmd) : Nat := match c.kind with
  | .cpy _ sc _ _ => sc
  | .gath _ _ sc _ _ => sc
  | .qapp _ _ sc => sc
  | .kvref _ sc _ => sc
  | _ => 0

/-- Result block of a key-value command that carries its own (R331); 0 none, else the address plus one. -/
def Cmd.block (c : Cmd) : Nat := match c.kind with
  | .kvapp _ _ sc _ _ => sc
  | .kvrej _ _ sc => sc
  | .kvcommit _ sc => sc
  | .kvfree _ sc => sc
  | .gzclaim _ _ sc _ => sc
  | .gzjoin _ _ sc => sc
  | .gzfind _ _ sc => sc
  | _ => 0

/-- A place in a core's activation buffer that is named as an address plus one, 0 naming none. -/
def reachAct (core sc n : Nat) : List Reach := if sc = 0 then [] else [⟨actKey core (sc - 1), n, false⟩]

/-- What a command accesses before its completion: a gather's are those of the indices pushed so far. -/
def reachKind (s : State) (core : Nat) (c : Cmd) : List Reach :=
  match c.kind with
  | .cpy p _ _ none => reachBody s (engOf s core c) p false
  | .cpy p _ _ (some q) => reachBody s (engOf s core c) p true ++ reachRing s core c.ctx q
  | .gath p _ _ _ q => (Tab.get [] (s.core core).addrQ (addrQKey c.job c.owner c.ch)).flatMap (fun x =>
      reachOf s c.job (rowAt p x.toNat) (gaRowBytes p)) ++ reachRing s core c.ctx q
  | .qapp desc _ _ => reachSlot s c.job desc.toNat c.phase
  | .atom target _ _ r _ w64 _ => reachOf s c.job target.toNat (if w64 then 8 else 4) ++ reachAct core (r + 1) 16
  | .seal line rec n => [⟨actKey core line, 256 * n, false⟩, ⟨actKey core rec, 32 * n, false⟩]
  | .unseal line rec n => [⟨actKey core line, 256 * n, false⟩, ⟨actKey core rec, 32 * n, false⟩]
  | .sigadd a _ => reachOf s c.job a.toNat 8
  | .bmset base i => reachOf s c.job (base + i / 8) 1
  | .kvref p _ _ => reachBody s (engOf s core c) p false
  | .kvapp ents n sc k _ => reachAct core sc (16 + n) ++ (kvappEntries ents n).flatMap (fun x =>
      let d := tenantDesc s (hdTenant x.1)
      reachOf s c.job x.2 (k * tdSlotBytes d) ++
        reachTokens s x.1 ((List.range k).map (heTokens (readEntry s d (hdSlot x.1)) + ·)))
  | .kvrej h keep sc => reachAct core sc 16 ++
      (let d := tenantDesc s (hdTenant h.toNat)
       reachTokens s h.toNat (((List.range (heJournal (readEntry s d (hdSlot h.toNat)))).drop keep.toNat).map (fun j =>
         physNat s (tdJournalAt d (hdSlot h.toNat) j) 4)))
  | .gzclaim _ _ sc _ => reachAct core sc 48
  | .gzfind _ _ sc => reachAct core sc 48
  | _ => reachAct core c.block 16

/-- The accesses that a command still has to make: one whose accesses are performed writes its record and its signal at its
completion; the word that a waiting command tests again is read by no access that later ones would overtake (R252). -/
def reachCmd (s : State) (core : Nat) (c : Cmd) : List Reach :=
  let last := reachAct core c.record 16 ++ reachEnd s c.job c.image
  match c.phase with
  | .done _ _ _ _ => last
  | .queued => reachWait s c.job c.image ++ reachKind s core c ++ last
  | _ => reachKind s core c ++ last

/-- Two accesses of one agent that keep its order: they meet in a location (R232), or both are to SO pages (R233). -/
def clash (x y : List Reach) : Bool :=
  x.any (fun a => y.any (fun b => (a.key < b.key + b.len && b.key < a.key + a.len) || (a.so && b.so)))

/-! Commands of a context. -/

/-- A COPY with both ends on path 7: no release covers any of its accesses (R234). -/
def copyOnDrives (p : Nat) : Bool := pkType p == 2 && pathOf (cpSrc p) == 7 && pathOf (cpDst p) == 7
def Cmd.onDrives (c : Cmd) : Bool := match c.kind with
  | .cpy p _ _ none => copyOnDrives p
  | _ => false

/-- A command that names a drive (R201). -/
def Cmd.namesDrive (c : Cmd) : Bool := match c.kind with
  | .cpy p _ _ q => !(drivesOf p q.isSome).isEmpty
  | .gath p _ _ _ _ => !(drivesOf p true).isEmpty
  | _ => false

/-- A command that waits for a drive's completion, or will before it has issued another access: an SFENCE does not wait for it
(R236). One whose access on another path has been refused and will be made again has issued it. -/
def Cmd.awaitsDrive (c : Cmd) : Bool := match c.phase with
  | .nvme _ => true
  | .queued => c.namesDrive
  | .waiting => c.namesDrive
  | .moving g => c.namesDrive && g.tries == 0
  | .stream _ g => c.namesDrive && g.tries == 0 && g.bytes == 0
  | _ => false

/-- Earlier commands that a FENCE still waits for: an acquire waits for the reads of path 7 too (R234, R274). -/
def fenceOpen (f k : Cmd) : Bool :=
  !k.performed && (match f.kind with
    | .fence true _ => true
    | _ => !k.onDrives)

/-- Earlier commands whose accesses a command covers: none of one that is no release, those that need no drive's completion of
an SFENCE (R236), every one of SEAL and OPEN (R222), all but path 7's of a release (R234, R237). A change to a handle's tokens,
pages or directory or to a bucket is one (R341). -/
def Cmd.covers (c k : Cmd) : Bool := match c.kind with
  | .cpy _ _ _ _ => false
  | .gath _ _ _ _ _ => false
  | .qapp _ _ _ => false
  | .kvref p _ _ => decide (1 < kvOp p) && !k.onDrives
  | .gzfind _ _ _ => false
  | .lpatch _ _ _ _ _ => false
  | .fence _ _ => false
  | .srel _ _ => false
  | .errinj _ _ _ _ _ => false
  | .sfence => !k.onDrives && !k.awaitsDrive
  | .seal _ _ _ => true
  | .unseal _ _ _ => true
  | _ => !k.onDrives

/-- An earlier command of its unit keeps a command waiting while its accesses are not performed: one of the same channel (R261),
an SFENCE, one that a FENCE between them waits for (R274), or one that it covers. Whatever it has still to access, no later
command overtakes it to the same location or between SO pages (R232, R233). -/
def waitsOn (s : State) (core : Nat) (c k : Cmd) : Bool :=
  let fences := (earlier s core c).filter (fun f => match f.kind with | .fence _ _ => true | _ => false)
  (!k.performed && (k.ch == c.ch || (match k.kind with | .sfence => true | _ => false) || c.covers k ||
    fences.any (fun f => k.seq < f.seq && fenceOpen f k))) || clash (reachCmd s core k) (reachCmd s core c)

/-- The unit of a command is FROZEN, on its context or off it. -/
def ownerFrozen (s : State) (core : Nat) (c : Cmd) : Bool :=
  let k := s.ctx core c.ctx
  (k.frozen && k.live && k.job == c.job && k.recAddr == c.owner) ||
  (match s.job c.job with
   | some j => j.frozenUnits.any (·.recAddr == c.owner)
   | none => false)

/-- A command that its channel may take up: the fabric takes accesses, its channel is not frozen (R383), it is in progress where its
unit is FROZEN (R365), and no earlier command of its unit keeps it waiting. -/
def mayPerform (s : State) (core : Nat) (c : Cmd) : Bool :=
  s.power == .on && !s.sheets.busy && !Tab.get false (s.core core).chFrozen c.ch && !(c.phase == .queued && ownerFrozen s core c) &&
  (earlier s core c).all (fun k => !waitsOn s core c k)

/-- Every earlier command is performed (R273). -/
def allPerformed (s : State) (core : Nat) (c : Cmd) : Bool := (earlier s core c).all (·.performed)

/-- Fences with nothing open before them have had their effect (R274). -/
def dropFences (s : State) (core : Nat) : State :=
  let co := s.core core
  s.setCore core { co with cmds := co.cmds.filter (fun c => match c.kind with
    | .fence _ _ => (earlier s core c).any (fenceOpen c)
    | _ => true) }

/-! Packets of a ring. -/

/-- A packet that has accesses of its own to make and has not made them: one that waits on a signal or a wait list has issued
none, and is overtaken (R226, R252). -/
def Pkt.pending (q : Pkt) : Bool := match q.phase with
  | .queued => true
  | .nvme _ => true
  | .retry _ => true
  | .moving _ => true
  | .claimed _ _ => pkType q.bits.toNat != 6
  | _ => false

/-- A packet whose accesses were issued and refused, or are under way: later packets of its ring wait for them, so that no
signal of theirs is delivered before (R252). -/
def Pkt.issued (q : Pkt) : Bool := match q.phase with
  | .retry _ => true
  | .moving _ => true
  | _ => false

/-- A packet that a drive serves and that has accesses on other paths: a later signal covers them (R234, R252). -/
def Pkt.atDrive (q : Pkt) : Bool := match q.phase with
  | .nvme _ => !copyOnDrives q.bits.toNat
  | _ => false

/-- Earlier packets of its ring whose accesses a packet waits for, its signal covering those of a drive's (R252). -/
def signalHeld (before : List Pkt) (p : Nat) : Bool :=
  before.any Pkt.issued || (pkSigKind p != 0 && before.any Pkt.atDrive)

/-- A packet that must wait for an earlier one of its ring (R232, R233, R252). -/
def packetHeld (s : State) (e : Eng) (before : List Pkt) (p : Nat) : Bool :=
  signalHeld before p || (before.any Pkt.pending &&
    (let mine := reachPacket s e p
     before.any (fun q => q.pending && clash (reachPacket s e q.bits.toNat) mine)))

end Sys2Proof.Machine
end

