-- ==== Sys2Proof/Machine/Channel.lean ====
section
/-! DEFINITION. The copy channels: how released commands are performed and completed (R260 to R274, R354), streams
(R171, R267), appends to rings (R273), atomic operations (R217), SIGADD, BMSET and the fences. -/
namespace Sys2Proof.Machine

/-- Source 1 of R431. -/
def srcCmd (c : Cmd) : Nat := 2 ^ 60 + c.ch % 8 * 2 ^ 32 + c.id.toNat

/-- Refusals with a retry hint so far (R264). -/
def Cmd.tries (c : Cmd) : Nat := match c.phase with
  | .retry n => n
  | .claimed _ n => n
  | _ => 0

/-- A command's accesses are performed: its outcome waits for its completion. -/
def setDone (s : State) (core : Nat) (c : Cmd) (st detail skipped bytes : Nat) : State :=
  setCmd s core { c with phase := .done st detail skipped (BitVec.ofNat 64 bytes) }

/-- Stream register and barrier of a transfer. -/
def Cmd.tb (c : Cmd) : Option Nat := match c.kind with
  | .cpy _ _ tb _ => tb
  | .gath _ _ _ tb _ => tb
  | .kvref _ _ tb => tb
  | _ => none
/-- Bytes a transfer charges in all (R263). -/
def Cmd.total (c : Cmd) : Nat := match c.kind with
  | .cpy p _ _ _ => totalBytes p
  | .gath p n _ _ _ => n * gaRowBytes p
  | .kvref p _ _ => 65536 * fld p 99 76
  | _ => 0
/-- Where a transfer stands. -/
def Cmd.prog (c : Cmd) : Prog := match c.phase with
  | .moving g => g
  | .nvme g => g
  | .stream _ g => g
  | _ => Prog.start
/-- Charges what a transfer has delivered beyond what it has charged, and the command that knows it (R263). -/
def payTo (s : State) (core : Nat) (c : Cmd) (n : Nat) : State × Cmd := (chargeTo s core c c.tb (n - c.paid), c.paidTo n)

/-- A gather whose transfer has completed is open no longer, whatever a rollback restores; its queue is empty (R244, R269). -/
def closeGather (s : State) (core : Nat) (c : Cmd) : State := match c.kind with
  | .gath _ _ _ _ _ =>
    let co := s.core core
    let s1 := s.setCore core { co with addrQ := Tab.set [] co.addrQ (addrQKey c.job c.owner c.ch) [] }
    if ownerRuns s1 core c then
      let x := s1.ctx core c.ctx
      s1.setCtx core c.ctx { x with arch := x.arch.wrG c.ch none, shadow := x.shadow.wrG c.ch none }
    else match frameOf s1 c.job c.owner with
      | some fr => setFrame s1 c.job fr (frStream + 0x200 + 16 * (c.ch % 8)) 16 0
      | none => s1
  | _ => s

/-- TRANSFER_COMPLETE for a command that has been performed: the bytes not written are charged, the status record is
written, the ID completes, and the image's signal is delivered (R252, R263, R265, R269, R354). -/
def finishCmd (s : State) (core : Nat) (c : Cmd) (st detail skipped bytes : Nat) : State :=
  let s1 := chargeTo s core c c.tb (c.total - c.paid)
  let s2 := writeAct s1 core c.record (leBytes 16 (statusRecord c.id.toNat skipped detail st bytes))
  let s3 := dropFences (completeId (closeGather s2 core c) core c) core
  if c.image = 0 then s3 else deliverSignal s3 (engOf s3 core c) (cleanHeader c.image) st (srcCmd c) 0 (srcCmd c)

/-- TRANSFER_COMPLETE (R354). -/
def execTransferComplete (core seq : Nat) (s : State) : Res :=
  .next (match findCmd s core seq with
    | none => s
    | some c => match c.phase with
      | .done st d k b => if s.power = .on && c.hasId then finishCmd s core c st d k b.toNat else s
      | _ => s)

/-! The drives' queue pairs (R244, R281). -/

/-- Queue pair `i` of a drive: 0 is its administration pair, 1 to 64 take I/O. -/
def queuePair (d i : Nat) : Nat := 65 * d + i
/-- Commands that an I/O queue pair holds, and those that all of a drive's hold. -/
def State.pair (s : State) (q : Nat) : List NvmeCmd := Tab.get [] s.nvmeQ q
def State.driveCmds (s : State) (d : Nat) : List NvmeCmd := (List.range 64).flatMap (fun i => s.pair (queuePair d (i + 1)))

/-- A Read or Write command that a transfer asks of a drive: whether it writes, its first 4 KiB block and how many. -/
structure Ask where
  drive : Nat
  write : Bool
  lba : Nat
  blocks : Nat
deriving DecidableEq, Repr

/-- A command joins the first I/O queue pair of its drive that has room for it. -/
def enqueue (s : State) (w : Waiter) (a : Ask) : State :=
  match ((List.range 64).map (fun i => queuePair a.drive (i + 1))).find? (fun q => decide ((s.pair q).length < 1024)) with
  | some q => { s with nvmeQ := Tab.set [] s.nvmeQ q (s.pair q ++ [⟨w, a.write, a.lba, a.blocks⟩]) }
  | none => s

/-- A command or packet hands its commands to the drives; none where their queue pairs have no room for all of them. -/
def submit (s : State) (w : Waiter) (l : List Ask) : Option State :=
  if l.all (fun a => decide ((s.driveCmds a.drive).length + l.length ≤ 65536)) then some (l.foldl (fun t a => enqueue t w a) s) else none

/-- Whole 4 KiB blocks that hold `n` bytes of a path-7 address. -/
def askAt (a n : Nat) (wr : Bool) : Ask := ⟨fld a 55 48, wr, fld a 47 12, (a % 4096 + n + 4095) / 4096⟩

/-- What the next block of a transfer that names a drive asks of the drives at its two ends (R281); nothing for a row that is
skipped. -/
def blockAsks (s : State) (e : Eng) (p : Nat) (g : Prog) : List Ask :=
  let n := rowBytes p
  let i := g.skipped + g.bytes / n
  let off := g.bytes % n
  match (g.rows ++ (rowsOf s e p (i + g.rows.length) (i + 1)).rows).head? with
  | some (some (a, b)) => [(a + off, false), (b + off, true)].filterMap (fun q =>
      if pathOf q.1 = 7 then some (askAt q.1 (min (n - off) (4096 - off % 4096)) q.2) else none)
  | _ => []

/-- A transfer is handed to the drives for its next block. -/
inductive DriveGo where
  | scout (g : Prog) (s : State)
  | wait (s : State)
  | full
  | move

/-- What comes next of a transfer that names a drive: pages for its scout to walk, commands for the drives, or nothing that needs
them. -/
def driveNext (s : State) (e : Eng) (w : Waiter) (p detail : Nat) (g : Prog) : DriveGo :=
  let n := rowBytes p
  let i := g.skipped + g.bytes / n
  let off := g.bytes % n
  if (drivesOf p false).isEmpty || misaligned p false || fieldsBad p false then .move
  else match scoutDue p i off g with
    | some k => .scout { g with scouted := k } (scout s e detail (((scoutGoal p false i off).1.take k).drop g.scouted))
    | none => match blockAsks s e p g with
      | [] => .move
      | l => match submit s w l with
        | some t => .wait t
        | none => .full

/-! CPY. -/

/-- What a transfer to memory has come to: one refused with a hint, or with bytes to move, stands where it is; else its
outcome is kept for its completion (R263, R264). -/
def settleCmd (core : Nat) (c : Cmd) (m : Mv) : State :=
  let x := payTo m.st core c m.bytes
  if !mvEnds c.image c.prog m then
    setCmd x.1 core { x.2 with phase := .moving (m.pause (if m.refused then m.tries c.prog else 0)) }
  else
    let s1 := mvNotice { m with st := x.1 } c.job (srcCmd c)
    let s2 := if !m.viol then s1 else if ownerRuns s1 core c then violateCtx s1 core c.ctx else violateAway s1 c.job c.owner core c.ctx
    setDone s2 core x.2 (mvStatus m).1 (mvStatus m).2 m.skipped m.bytes

/-- The ring of a stream that a transfer is attached to: base, slots, element bytes, and the consumed count that frees
slots, as the last checkpoint captured it (R171); in its frame for a stopped unit (R32). -/
def streamRing (s : State) (core : Nat) (c : Cmd) (q : Nat) : Option (Nat × Nat × Nat × Nat) :=
  let mine := fun (x : Option Binding) => match x with
    | some b => if b.att = some (c.ch, c.id) then some b else none
    | none => none
  if ownerRuns s core c then
    let x := s.ctx core c.ctx
    match mine (x.shadow.rdQ q), mine (x.arch.rdQ q) with
    | some b, _ => some (b.base, b.slotsM1 + 1, 64 * b.units, b.consumed)
    | none, some b => some (b.base, b.slotsM1 + 1, 64 * b.units, 0)
    | none, none => none
  else match frameOf s c.job c.owner with
    | none => none
    | some fr =>
      let e := frameNat s c.job fr (frStream + 32 * q) 32
      if e.testBit 31 && e.testBit 48 && fld e 51 49 = c.ch && fld e 95 64 = c.id.toNat then
        some (fld e 20 0, fld e 37 32 + 1, 64 * fld e 45 40, fld e 255 192)
      else none

/-- Bytes that a command has delivered: whole elements of a stream and what it has of the next, else what it was done with. -/
def delivered (s : State) (core : Nat) (c : Cmd) : Nat :=
  let element := fun (q : Nat) => match streamRing s core c q with
    | some r => r.2.2.1
    | none => 0
  match c.phase, c.kind with
  | .done _ _ _ b, _ => b.toNat
  | .moving g, _ => g.bytes
  | .nvme g, _ => g.bytes
  | .stream n g, .cpy _ _ _ (some q) => n * element q + g.bytes
  | .stream n g, .gath _ _ _ _ q => if g.ended.isSome then g.bytes else n * element q + g.bytes
  | _, _ => 0

/-- A command ends ABORTED with what it has delivered (R268, R325, R374); one whose accesses are performed completes as it
came out. -/
def abortCmd (s : State) (core : Nat) (c : Cmd) (detail : Nat) : State :=
  if c.hasId then match c.phase with
    | .done st d k b => finishCmd s core c st d k b.toNat
    | _ => finishCmd (writeAct (applyPart s c.prog.part) core c.block (leBytes 16 (statusRecord c.id.toNat 0 detail stAborted 0))) core c
        stAborted detail 0 (delivered s core c)
  else
    let co := s.core core
    dropFences (s.setCore core { co with cmds := co.cmds.filter (fun k => k.seq != c.seq) }) core

/-- An element has arrived (R171, R267). -/
def setArrived (s : State) (core : Nat) (c : Cmd) (q n : Nat) : State :=
  if ownerRuns s core c then
    let x := s.ctx core c.ctx
    s.setCtx core c.ctx { x with arrived := Tab.set 0 x.arrived q n }
  else match frameOf s c.job c.owner with
    | some fr => setFrame s c.job fr (frStream + 32 * q + 16) 8 n
    | none => s

/-- The engine that writes a stream's ring, whose range SBIND has checked. -/
def ringEng (e : Eng) (core : Nat) : Eng := { e with own := some ⟨core, 8192 * 2 ^ 304⟩ }
/-- Device address of a byte of a core's activation buffer. -/
def actAddr (s : State) (core off : Nat) : Nat := 3 * 2 ^ 60 + (codeOfCore s core).getD 0 * 2 ^ 26 + off

/-- A piece of an element: where it is read (none: zero bytes), where it goes, how long it is; `base` starts a row or
part that counts toward migration (R297). -/
def streamPiece (e w : Eng) (m : Mv) (q : Option (Nat × Bool) × Nat × Nat) : Mv :=
  if m.stop.isSome then m
  else
    let r : State × Except ((Nat × Nat) × Nat) Span := match q.1 with
      | none => (m.st, .ok ⟨List.replicate q.2.2 0, false, false, false⟩)
      | some a => readSpan m.st e a.1 q.2.2 a.2
    match r with
    | (s1, .error x) => { m with st := s1, stop := some x.1, at' := x.2 }
    | (s1, .ok v) =>
      if v.cipher then { m with st := s1, stop := some (stBound, 6), at' := (q.1.map (·.1)).getD 0 }
      else match writeBlk s1 w q.2.1 v.bytes v.poison false with
        | (s2, .error x) => { m with st := s2, stop := some x, at' := q.2.1 }
        | (s2, .ok _) => { m with st := s2, bytes := m.bytes + q.2.2, segs := m.segs ++ [(q.2.1, q.2.2)] }

/-- The pieces of `n` bytes of a stream from position `pos`, toward `dst`; `rows` begin with row `i0`. -/
def elementPieces (rows : List (Option Nat)) (i0 rb pos n dst : Nat) : List (Option (Nat × Bool) × Nat × Nat) :=
  ((splitAtMult rb (n + 1) pos n).map (fun q =>
    (splitAtMult 64 (q.2 / 64 + 2) (dst + (q.1 - pos)) q.2).map (fun d =>
      let off := q.1 % rb + (d.1 - (dst + (q.1 - pos)))
      (match rows[q.1 / rb - i0]? with
        | some (some a) => some ((a + off) % 2 ^ 64, off == 0)
        | _ => none, d.1, d.2)))).flatten

/-- The part of a stream's next element that is not delivered yet: the rows it reads from row `i0` on, which rows of it are
skipped, what stops the reading of indices after those rows, and whether it is the last. -/
structure Element where
  rows : List (Option Nat)
  i0 : Nat
  rb : Nat
  stop : Option ((Nat × Nat) × Nat)
  holes : List Nat
  last : Bool

/-- The elements of a stream end with an outcome. A gather's outcome waits until the pushes that its elements took are captured
(R271), so its fetches can still be made afresh. -/
def endStream (s : State) (core : Nat) (c : Cmd) (n : Nat) (g : Prog) (st detail skipped bytes : Nat) : State := match c.kind with
  | .gath _ _ _ _ _ => setCmd s core { c with phase := .stream n { g with bytes := bytes, ended := some (st, detail, skipped) } }
  | _ => setDone s core c st detail skipped bytes

/-- What a stream has written of its ring when `m` bytes of element `n` stand there: a line may be whole through several elements. -/
def ringWritten (s : State) (core base slots size n m : Nat) : List (Nat × Nat) :=
  [(actAddr s core base, if slots ≤ n then slots * size else n * size + m)]

/-- An element lands whole, or what stops it (R267); a full ring holds it back (R171). `popped` is what its arrival takes. -/
def streamElement (s : State) (core : Nat) (c : Cmd) (q n : Nat) (g : Prog) (el : Element) (popped : State → State) : State :=
  match streamRing s core c q with
  | none => s
  | some (base, slots, size, freed) =>
    if freed + slots ≤ n then s
    else
      let e := engOf s core c
      let dst := actAddr s core (base + n % slots * size)
      let room := match el.stop with
        | some _ => min (size - g.bytes) ((el.i0 + el.rows.length) * el.rb - (n * size + g.bytes))
        | none => size - g.bytes
      let m0 := (elementPieces el.rows el.i0 el.rb (n * size + g.bytes) room (dst + g.bytes)).foldl (streamPiece e (ringEng e core))
        (Mv.resume (applyPart s g.part) g)
      let m1 := if m0.stop.isSome then m0 else match el.stop with
        | some x => { m0 with stop := some x.1, at' := x.2 }
        | none => m0
      let again := m1.refused && m1.tries g < 16
      let m2 := { m1 with st := declareLines m1.st (linesOf m1.segs) (ringWritten s core base slots size n m1.bytes) false }
      let m := if again then m2.holdLines s [(dst, size)] else m2
      let x := payTo m.st core c (n * size + m.bytes)
      if again then
        setCmd x.1 core { x.2 with phase := .stream n { m.pause (m.tries g) with holes := g.holes } }
      else
        let s1 := mvNotice { m with st := x.1 } c.job (srcCmd c)
        if m.stop.isSome then
          endStream s1 core x.2 n { Prog.start with holes := g.holes } (mvStatus m).1 (mvStatus m).2
            (if m.stop = some (stLink, 0x21) then 0x7FF else (g.holes.length + (el.holes.filter (fun i => (i + 1) * el.rb ≤ n * size + m.bytes)).length))
            (n * size + m.bytes)
        else
          let k := g.holes ++ el.holes
          let s2 := popped (setArrived s1 core c q (n + 1))
          if el.last then setDone s2 core x.2 (if k.isEmpty then stOk else stMisElem) 0 k.length ((n + 1) * size)
          else setCmd s2 core { x.2 with phase := .stream (n + 1) { Prog.start with holes := k, scouted := g.scouted } }

/-- A stream of `total` bytes would write a ciphertext line of its ring of `n` bytes in part (R195). -/
def ringForm (s : State) (core base n total : Nat) : Bool := formRefused s [(actAddr s core base, min n total)] false

/-- Rows `i0` to `i1 − 1` of a stream-bound transfer as its elements read them; those skipped read as zero (R258). -/
def streamRows (s : State) (e : Eng) (p i0 i1 : Nat) : State × List (Option Nat) × Option ((Nat × Nat) × Nat) :=
  if pkType p = 2 then (s, (((copyRows p).take i1).drop i0).map (fun r => r.map (·.1)), none)
  else if pkType p = 4 then
    (s, ((List.range (i1 - i0)).map (fun i => some ((gaOther p + (i0 + i) * gaRowBytes p) % 2 ^ 64))), none)
  else
    let r := indexRows s e p i0 i1
    (r.st, r.rows.map (fun x => x.map (·.1)), r.stop)

/-- A stream-bound CPY begins (R267). -/
def startStream (s : State) (core : Nat) (c : Cmd) (p q : Nat) : State :=
  match streamRing s core c q with
  | none => s
  | some (base, slots, size, _) =>
    if misaligned p true || totalBytes p % size ≠ 0 then setDone s core c stMisalign 0 0 0
    else if fieldsBad p true then setDone s core c stBound 8 0 0
    else if (streamRows s (engOf s core c) p 0 (rowCount p)).2.1.any (fun r => match r with
        | some a => ownRefused s (engOf s core c) a (rowBytes p)
        | none => false) then setDone s core c stBound 7 0 0
    else if ringForm s core base (slots * size) (totalBytes p) then setDone s core c stBound 6 0 0
    else setCmd s core { c with phase := .stream 0 Prog.start }

/-- A transfer to memory goes on with its bytes, or with the commands that its next block asks of the drives (R281). -/
def cpyMove (s : State) (core : Nat) (c : Cmd) (p : Nat) : State :=
  match driveNext s (engOf s core c) (.cmd core c.seq) p (srcCmd c) c.prog with
  | .scout g t => setCmd t core { c with phase := .moving g }
  | .wait t => setCmd t core { c with phase := .nvme c.prog }
  | .full => setCmd s core { c with phase := .moving c.prog }
  | .move => settleCmd core c (transferMem s (engOf s core c) p (srcCmd c) c.prog)

/-- A transfer takes its way once its wait is met. -/
def startCpy (s : State) (core : Nat) (c : Cmd) (p : Nat) (q : Option Nat) : State :=
  match q with
  | some q => startStream s core c p q
  | none =>
    if weightHeld s (engOf s core c) p then setCmd s core { c with phase := .queued }
    else if (drivesOf p false).any (Tab.get false s.drives ·) then setDone s core c stLink 0x21 0x7FF 0
    else cpyMove s core c p

/-- The wait of an image: none while unmet, else whether it goes on (R252); a failed read posts its notice. -/
def waitTest (s : State) (e : Eng) (p detail : Nat) : State × Option Bool :=
  if !pkWaitEn p then (s, some true)
  else
    let a := shortAddr (pkWaitAddr p)
    match readSignal s e a with
    | (s1, none, f) => (if f then faultNotice s1 e.job a detail else s1, some false)
    | (s1, some v, _) =>
      if v < 0 then (s1, some false)
      else match condOf (pkCond p) with
        | some k => (s1, if condHolds k v (pkWaitValue p) then some true else none)
        | none => (s1, some false)

/-- A CPY as its channel takes it up, tests its wait again, or goes on with its bytes (R252, R265). -/
def cpyStep (s : State) (core : Nat) (c : Cmd) (p : Nat) (q : Option Nat) : State :=
  let go := fun (s : State) => match waitTest s (engOf s core c) p (srcCmd c) with
    | (s1, none) => setCmd s1 core { c with phase := .waiting }
    | (s1, some false) => setDone s1 core c stAborted 0x10 0 0
    | (s1, some true) => startCpy s1 core c p q
  match c.phase with
  | .queued => if cpyBad p q.isSome then setDone s core c stBound 2 0 0 else go s
  | .waiting => go s
  | .moving g =>
    if weightHeld s (engOf s core c) p then s
    else if (drivesOf p false).any (Tab.get false s.drives ·) then setDone s core c stLink 0x21 0x7FF g.bytes
    else cpyMove s core c p
  | _ => s

/-- Index of a gather, popped from its address queue (R269). -/
def popIndex (s : State) (core : Nat) (c : Cmd) : State :=
  let co := s.core core
  let k := addrQKey c.job c.owner c.ch
  s.setCore core { co with addrQ := Tab.set [] co.addrQ k ((Tab.get [] co.addrQ k).drop 1) }

/-- The first `n` pushes of a gather are captured: no rollback withdraws their rows any more (R271). -/
def pushesCaptured (s : State) (core : Nat) (c : Cmd) (n : Nat) : Bool :=
  !ownerRuns s core c ||
  (let x := s.ctx core c.ctx
   let held := fun (g : Option Gather) => match g with
     | some g => decide (n ≤ g.pushed)
     | none => false
   (x.arch.rdG c.ch).isNone || (held (x.arch.rdG c.ch) && (held (x.shadow.rdG c.ch) || (match x.run with
     | .suspending _ => true
     | _ => false))))

/-- The commands that an element of `size` bytes at position `pos` asks of its drive: whole blocks of each of its rows (R281). -/
def elementAsks (el : Element) (pos size : Nat) : List Ask :=
  (splitAtMult el.rb (size + 1) pos size).filterMap (fun q => match el.rows[q.1 / el.rb - el.i0]? with
    | some (some a) => some (askAt (a + q.1 % el.rb) q.2 false)
    | _ => none)

/-- An element is asked of its drive first (R281); one of weight rows waits for the journal (R225). -/
def fetchElement (s : State) (core : Nat) (c : Cmd) (q n : Nat) (g : Prog) (el : Element) (src : Nat) (granted : Bool)
    (popped : State → State) : State :=
  if el.rows.any (fun r => match r with
    | some a => weightHeldAt s a el.rb
    | none => false) then s
  else if pathOf src ≠ 7 || granted then streamElement s core c q n { g with drive := false } el popped
  else
    let d := fld src 55 48
    let ready := match streamRing s core c q with
      | some (_, slots, _, freed) => decide (n < freed + slots)
      | none => false
    if Tab.get false s.drives d then endStream s core c n g stLink 0x21 0x7FF (delivered s core c)
    else if g.drive || !ready then s
    else match streamRing s core c q with
      | none => s
      | some (_, _, size, _) =>
        match submit s (.cmd core c.seq) (elementAsks el (n * size) size) with
        | some t => setCmd t core { c with phase := .stream n { g with drive := true } }
        | none => s

/-- The scout of a stream-bound COPY walks the source's pages that lie ahead (R257, R295); none where it has. -/
def scoutStream (s : State) (core : Nat) (c : Cmd) (p n size : Nat) (g : Prog) : Option State :=
  if pkType p = 2 && cpScout p then
    let pos := n * size + g.bytes
    let goal := scoutGoal p true (pos / cpRowBytes p) (pos % cpRowBytes p)
    if g.scouted < goal.2 then
      some (setCmd (scout s (engOf s core c) (srcCmd c) ((goal.1.take goal.2).drop g.scouted)) core
        { c with phase := .stream n { g with scouted := goal.2 } })
    else none
  else none

/-- The next element of a stream-bound transfer; `granted` when its drive has delivered it. -/
def nextElement (s : State) (core : Nat) (c : Cmd) (granted : Bool) : State :=
  match c.phase, c.kind with
  | .stream n g, .cpy p _ _ (some q) =>
    (match streamRing s core c q with
    | none => s
    | some (_, _, size, _) => match scoutStream s core c p n size g with
      | some t => t
      | none =>
        let rb := rowBytes p
        let i0 := (n * size + g.bytes) / rb
        let i1 := ((n + 1) * size + rb - 1) / rb
        let r := streamRows s (engOf s core c) p i0 i1
        let holes := (List.range r.2.1.length).filterMap (fun i =>
          if (r.2.1[i]?).join.isNone && n * size ≤ (i0 + i) * rb then some (i0 + i) else none)
        fetchElement r.1 core c q n g ⟨r.2.1, i0, rb, r.2.2, holes, decide (totalBytes p ≤ (n + 1) * size)⟩ (streamSource p) granted id)
  | .stream n g, .gath p cnt _ _ q =>
    if let some (st, d, k) := g.ended then
      (if pushesCaptured s core c (n + 1) then setDone s core c st d k g.bytes else s)
    else if cnt ≤ n then
      (if pushesCaptured s core c cnt then
        setDone s core c (if g.holes.isEmpty then stOk else stMisElem) 0 g.holes.length (n * gaRowBytes p) else s)
    else match Tab.get [] (s.core core).addrQ (addrQKey c.job c.owner c.ch) with
      | [] => s
      | x :: _ =>
        let a := rowAt p x.toNat
        let skip := a % pathUnit (gaTable p) ≠ 0
        fetchElement s core c q n g ⟨[if skip then none else some a], n, gaRowBytes p, none, if skip then [n] else [], false⟩
          (gaTable p) (granted || skip) (fun s => popIndex s core c)
  | _, _ => s

/-- STREAM_ELEMENT_ARRIVAL (R267). -/
def execStreamElementArrival (core seq : Nat) (s : State) : Res :=
  .next (match findCmd s core seq with
    | none => s
    | some c => if mayPerform s core c then nextElement s core c false else s)

/-- A gather begins (R269). -/
def startGath (s : State) (core : Nat) (c : Cmd) (p q : Nat) : State :=
  match streamRing s core c q with
  | none => s
  | some (base, slots, size, _) =>
    if gathBad p size then setDone s core c stBound 2 0 0
    else if misaligned p true then setDone s core c stMisalign 0 0 0
    else if fieldsBad p true then setDone s core c stBound 8 0 0
    else if ringForm s core base (slots * size) c.total then setDone s core c stBound 6 0 0
    else match waitTest s (engOf s core c) p (srcCmd c) with
      | (s1, none) => setCmd s1 core { c with phase := .waiting }
      | (s1, some false) => setDone s1 core c stAborted 0x10 0 0
      | (s1, some true) => nextElement (setCmd s1 core { c with phase := .stream 0 Prog.start }) core
          { c with phase := .stream 0 Prog.start } false

/-- GATH_PERFORM (R269). -/
def execGathPerform (core seq : Nat) (s : State) : Res :=
  .next (match findCmd s core seq with
    | none => s
    | some c => match c.kind with
      | .gath p _ _ _ q =>
        if !mayPerform s core c then s
        else match c.phase with
          | .queued => startGath s core c p q
          | .waiting => startGath s core c p q
          | .stream _ _ => nextElement s core c false
          | _ => s
      | _ => s)

/-! QAPP. -/

/-- The descriptor that a QAPP names, or its refusal (R246, R273). -/
def qappDesc (s : State) (e : Eng) (a : Nat) : State × Except (Nat × Nat) Nat :=
  if a % 64 ≠ 0 then (s, .error (stMisalign, 0))
  else if pathOf a ≠ 0 && pathOf a ≠ 5 && pathOf a ≠ 6 then (s, .error (stBound, 9))
  else if !addrFieldsOk a then (s, .error (stBound, 8))
  else match readBlk s e a 64 false with
    | (s1, .error x) => (s1, .error x)
    | (s1, .ok b) => if b.poison then (s1, .error (stPoison, 0)) else (s1, .ok (leNat b.bytes))

/-- A failed append: its notice, and its outcome kept for completion. -/
def qappFail (s : State) (core : Nat) (c : Cmd) (a : Nat) (x : Nat × Nat) : State :=
  let s1 := if x = (stBound, 1) then faultNotice s c.job a (srcCmd c) else s
  setDone s1 core c x.1 x.2 0 0

/-- An append's access was refused: a retry hint leaves it to the retry in phase `ph`, sixteen refusals end it (R264). -/
def qappRefused (s : State) (core : Nat) (c : Cmd) (a : Nat) (x : Nat × Nat) (ph : Phase) : State :=
  if x = (stRetry, 0x30) && c.tries < 15 then setCmd s core { c with phase := ph } else qappFail s core c a x

/-- The packet written into its slot, once there is room and earlier entries are performed (R273). -/
def qappWrite (s : State) (core : Nat) (c : Cmd) (desc p w : Nat) : State :=
  let e := engOf s core c
  match readBlk s e desc 64 false with
  | (s1, .error x) => qappRefused s1 core c desc x (.claimed w (c.tries + 1))
  | (s1, .ok b) =>
    let d := leNat b.bytes
    if 2 ^ rdLog2 d ≤ (w + 2 ^ 64 - rdRead d) % 2 ^ 64 || !allPerformed s core c then
      setCmd s1 core { c with phase := .claimed w 0 }
    else
      let slot := pathOf desc * 2 ^ 60 + (rdBase d % 2 ^ 60 + w % 2 ^ rdLog2 d * 64) % 2 ^ 60
      match writeBlk s1 e slot (leBytes 64 (setFld p 511 480 w)) false false with
      | (s2, .error x) => qappRefused s2 core c slot x (.claimed w (c.tries + 1))
      | (s2, .ok _) => setDone s2 core c stOk 0 0 w

/-- A QAPP taken up: its checks in their order, then its index (R273). -/
def qappStart (s : State) (core : Nat) (c : Cmd) (desc p : Nat) : State :=
  let e := engOf s core c
  match qappDesc s e desc with
  | (s1, .error x) => qappRefused s1 core c desc x (.retry (c.tries + 1))
  | (s1, .ok d) =>
    if !rdOk d then qappFail (postNotice s1 c.job nkRingInvalid desc 0) core c desc (stBound, 2)
    else if rdKind d ≠ 1 then qappFail s1 core c desc (stBound, 2)
    else match rmwWord s1 e (desc + 56) 8 false (· + 1) with
      | (s2, .error x) => qappRefused s2 core c desc x (.retry (c.tries + 1))
      | (s2, .ok w) => qappWrite s2 core { c with phase := .claimed w 0 } desc p w

/-- QAPP_PERFORM (R273). -/
def execQappPerform (core seq : Nat) (s : State) : Res :=
  .next (match findCmd s core seq with
    | none => s
    | some c => match c.kind with
      | .qapp desc p _ =>
        if !mayPerform s core c then s
        else match c.phase with
          | .claimed w _ => qappWrite s core c desc.toNat p w
          | .queued => qappStart s core c desc.toNat p
          | .retry _ => qappStart s core c desc.toNat p
          | _ => s
      | _ => s)

/-! ATOM, SIGADD, BMSET and the fences. -/

/-- ATOM_PERFORM (R217, R218). -/
def execAtomPerform (core seq : Nat) (s : State) : Res :=
  .next (match findCmd s core seq with
    | none => s
    | some c => match c.kind with
      | .atom target opnd cmp r op w64 sgn =>
        if !mayPerform s core c || c.performed then s
        else match atomicOp s (engOf s core c) target.toNat op w64 sgn opnd.toNat cmp.toNat with
          | (s1, .ok old) =>
            setDone (writeAct s1 core (r + 1) (leBytes 16 (statusRecord c.id.toNat 0 0 stOk old))) core c stOk 0 0 old
          | (s1, .error x) =>
            if x = (stRetry, 0x30) && c.tries < 15 then setCmd s core { c with phase := .retry (c.tries + 1) }
            else
              let s2 := if x = (stBound, 1) then faultNotice s1 c.job target.toNat (srcCmd c) else s1
              setDone (writeAct s2 core (r + 1) (leBytes 16 (statusRecord c.id.toNat 0 x.2 x.1 0))) core c x.1 x.2 0 0
      | _ => s)

/-- SIGADD_PERFORM (R357). -/
def execSigaddPerform (core seq : Nat) (s : State) : Res :=
  .next (match findCmd s core seq with
    | none => s
    | some c => match c.kind with
      | .sigadd a v =>
        if !mayPerform s core c || c.performed then s
        else match rmwWord s (engOf s core c) a.toNat 8 false (· + v.toNat) with
          | (s1, .ok _) => finishCmd s1 core c stOk 0 0 0
          | (s1, .error x) =>
            if x = (stRetry, 0x30) && c.tries < 15 then setCmd s core { c with phase := .retry (c.tries + 1) }
            else finishCmd (if pageRefuses x then faultNotice s1 c.job a.toNat (srcCmd c) else s1) core c x.1 x.2 0 0
      | _ => s)

/-- A command without transfer ID leaves the channels. -/
def dropCmd (s : State) (core : Nat) (c : Cmd) : State :=
  let co := s.core core
  dropFences (s.setCore core { co with cmds := co.cmds.filter (fun k => k.seq != c.seq) }) core

/-- BMSET_PERFORM (R361): the bit is set by one atomic OR. -/
def execBmsetPerform (core seq : Nat) (s : State) : Res :=
  .next (match findCmd s core seq with
    | none => s
    | some c => match c.kind with
      | .bmset base i =>
        if !mayPerform s core c then s
        else
          let a := base + i / 8
          match rmwWord s (engOf s core c) a 1 false (fun v => v ||| 2 ^ (i % 8)) with
          | (s1, .ok _) => dropCmd s1 core c
          | (s1, .error x) =>
            if x = (stRetry, 0x30) && c.tries < 15 then setCmd s core { c with phase := .retry (c.tries + 1) }
            else dropCmd (if pageRefuses x then faultNotice s1 c.job a srcDevice else s1) core c
      | _ => s)

/-- SFENCE_COMPLETE (R236, R274). -/
def execSfenceComplete (core seq : Nat) (s : State) : Res :=
  .next (match findCmd s core seq with
    | none => s
    | some c => match c.kind with
      | .sfence => if mayPerform s core c then dropCmd s core c else s
      | _ => s)

end Sys2Proof.Machine
end

