-- ==== Sys2Proof/Machine/Sched.lean ====
section
/-! DEFINITION. The work scheduler: level counters (R358, R359), ready queues (R51, R277), arms, starts and ends of
launches (R305, R306), cancels (R39, R360), argument patches (R309) and wait conditions (R29, R32, R49). -/
namespace Sys2Proof.Machine

/-! Level counters (R358). -/

def lcRemaining (v : Nat) : Nat := fld v 22 0
def lcCancelled (v : Nat) : Nat := fld v 45 23
def lcCancel (v : Nat) : Nat := fld v 47 46
def lcParent (v : Nat) : Nat := fld v 111 64

/-- A counter as it stands. -/
def readCounter (s : State) (job va : Nat) : Option Nat := (devRead s job va 16).map leNat
/-- A counter read, changed and written by the device, whole; not logged (R372). -/
def writeCounter (s : State) (job va v : Nat) : State := devWrite (devMeet s job none va 16) job none va (leBytes 16 v)

/-- The launch slot whose counter stands at an address and which runs. -/
def launchAt (s : State) (job va : Nat) : Option Nat := match s.job job with
  | some j => (j.pool.find? (fun c => lrCounter c.2.toNat == va && lrLive c.2.toNat)).map (·.1)
  | none => none

/-- A launch record of a job's pool; 0 for an empty slot. -/
def launchRec (s : State) (job slot : Nat) : Nat := match s.job job with
  | some j => poolRec j slot
  | none => 0
def setLaunch (s : State) (job slot r : Nat) : State := match s.job job with
  | some j => s.setJob job (some { j with pool := Tab.set (0 : BitVec 1024) j.pool slot (BitVec.ofNat 1024 r) })
  | none => s

/-! Ready queues (R51, R277). -/

/-- Cores in service of a cluster, in architectural order. -/
def coresOf (s : State) (cl : Nat) : List Nat :=
  let c := s.cluster cl
  (c.map.take c.cores).map (fun p => 68 * cl + p)

/-- A core that may be given units (R370, R380). -/
def placeable (s : State) (core : Nat) : Bool :=
  let c := s.core core
  !c.leased && !c.noPlace

/-- Free contexts of a cluster. -/
def freeContexts (s : State) (cl : Nat) : Nat :=
  ((coresOf s cl).filter (placeable s)).foldl (fun n c => n + b2n ((s.ctx c 0).run == .free) + b2n ((s.ctx c 1).run == .free)) 0

/-- A cluster in RUN. -/
def inRun (s : State) (cl : Nat) : Bool := (s.cluster cl).power == .run

/-- The first of a list with the greatest measure. -/
def argMax (f : Nat → Nat) (l : List Nat) : Option Nat :=
  l.foldl (fun b c => match b with
    | none => some c
    | some d => if f d < f c then some c else b) none

/-- The cluster whose queue receives a READY unit (R51), and whether it must be woken; a mask that names no cluster leaves the
unit in cluster 0's queue, where no context is ELIGIBLE for it, and wakes none (log entry 66). -/
def queueCluster (s : State) (mask : Nat) (pin : Option Nat) : Nat × Bool :=
  match pin with
  | some code => (code / 64 % 16, !inRun s (code / 64 % 16))
  | none =>
    let named := (List.range 16).filter (fun c => mask.testBit c)
    let run := named.filter (inRun s)
    match argMax (freeContexts s) (run.filter (fun c => 0 < freeContexts s c)) with
    | some c => (c, false)
    | none => match argMax (fun c => 2 ^ 64 - (s.cluster c).ready.length) run with
      | some c => (c, false)
      | none => (named.headD 0, !named.isEmpty)

/-- A wake of a cluster is requested (R22). -/
def requestWake (s : State) (cl : Nat) : State :=
  let c := s.cluster cl
  match c.power with
  | .doze => s.setCluster cl { c with power := .waking false }
  | .off => s.setCluster cl { c with power := .waking true }
  | .entering _ => s.setCluster cl { c with wakePending := true }
  | _ => s

/-- A job whose units are not placed: the host has paused it (R36), a transaction names it (R211), or it uses a model that is
invalid (R214). -/
def jobPaused (s : State) (job : Nat) : Bool := s.badModels.any (fun b => b.2.contains job) || s.txn.any (·.jobs.contains job) || (match s.job job with
  | some j => j.paused
  | none => true)

/-- A unit that may not be queued now: its job's placement is paused, or its pinned core is leased or its cluster not in
RUN (R36). -/
def heldBack (s : State) (job r : Nat) : Bool :=
  jobPaused s job || (crPinned r && (!inRun s (crCore r / 64 % 16) ||
    (match coreOfCode s (crCore r) with
     | some c => !placeable s c
     | none => true)))

/-- A unit whose record says READY enters a ready queue (R51), waiting since `waited` decisions; one held back is written SUSPENDED
(R36). -/
def enqueueWaited (s : State) (job va waited : Nat) : State :=
  match readRecord s job va with
  | none => s
  | some r =>
    if heldBack s job r then
      let s1 := writeRecord s job va (crSet r usSuspended (crReason r))
      if crPinned r && !jobPaused s job then requestWake s1 (crCore r / 64 % 16) else s1
    else
      let q := queueCluster s (lrPlacement (launchRec s job (crLaunch r))) (if crPinned r then some (crCore r) else none)
      let s1 := if q.2 then requestWake s q.1 else s
      let c := s1.cluster q.1
      s1.setCluster q.1 { c with decideDue := c.decideDue + 1, ready := c.ready ++
        [⟨job, va, crLaunch r, crUnit r, (c.decisions.toNat + 2 ^ 64 - waited) % 2 ^ 64⟩] }

/-- A unit enters the READY state and its queue (R50, R51). -/
def enqueueUnit (s : State) (job va : Nat) : State := enqueueWaited s job va 0

/-! Starts, ends and decrements as one list of work (R37, R306, R359). -/

/-- Work that one change of a level leads to: a decrement of a counter by `n` children in one step (`canc`: ended CANCELLED or with
cancelled children), `n` decrements by one child each, the end of a launch, the start of one. -/
inductive Work where
  | dec (va : Nat) (canc : Bool) (n : Nat)
  | each (va : Nat) (canc : Bool) (n : Nat)
  | ended (slot : Nat)
  | start (slot : Nat)
deriving DecidableEq, Repr

/-- One decrement of a counter (R359); `who` is the context it is made for. -/
def decrement (s : State) (job : Nat) (who : Option Nat) (va : Nat) (canc : Bool) (n : Nat) : State × List Work :=
  match readCounter s job va with
  | none => (faultNotice s job va srcDevice, [])
  | some v =>
    if lcRemaining v < n then (postNotice s job nkRecord va 0, [])
    else
      let left := lcRemaining v - n
      let v1 := setFld (setFld v 22 0 left) 45 23 (if canc then min (2 ^ 23 - 1) (lcCancelled v + n) else lcCancelled v)
      let s0 := if left = 0 then match who, s.job job with
          | some c, some j => s.setJob job (some (j.autoMark c))
          | _, _ => s else s
      let s1 := writeCounter s0 job va v1
      if left ≠ 0 then (s1, [])
      else match launchAt s1 job va with
        | some slot => (s1, [.ended slot])
        | none => if lcParent v1 = 0 then (s1, []) else (s1, [.dec (lcParent v1) (lcCancelled v1 != 0) 1])

/-- Decrements by one child each (R359). -/
def decrements (job : Nat) (who : Option Nat) (va : Nat) (canc : Bool) : Nat → State → State × List Work
  | 0, s => (s, [])
  | n + 1, s =>
    let a := decrement s job who va canc 1
    let b := decrements job who va canc n a.1
    (b.1, a.2 ++ b.2)

/-- Every valid edge of a record names an ENDED record (R306). -/
def edgesMet (s : State) (job r : Nat) : Bool := (lrEdges r).all (fun q => lrState (launchRec s job q) == 3)

/-- PINCORE and CORES (R306): the cores of the named clusters in order. -/
def pinCores (s : State) (r : Nat) : List Nat :=
  (((List.range 16).filter (fun c => (lrPlacement r).testBit c)).map (fun c =>
    (List.range (s.cluster c).cores).map (fun i => 64 * c + i))).flatten

/-- The record that START writes for unit `i` (R306). -/
def newRecord (job slot r i : Nat) (pin : Option Nat) : Nat :=
  let live := fld r 191 0 + fld r 255 192 * 2 ^ 192 + i * 2 ^ 256
  let scratch := (lrScratchBase r + 4096 * lrScratchPages r * i) % 2 ^ 48
  live * 2 ^ 192 + scratch / 4096 * 2 ^ 156 + fld r 934 905 * 2 ^ 125 + lrEntry r * 2 ^ 101 + job % 2 ^ 16 * 2 ^ 85 +
    slot % 2 ^ 16 * 2 ^ 69 + i % 2 ^ 22 * 2 ^ 47 + lrBasePrio r * 2 ^ 44 +
    (match pin with | some c => 2 ^ 36 + c * 2 ^ 24 | none => 0)

/-- START: the units are written and queued in increasing order; one whose record cannot be written ends at once. -/
def startLaunch (s : State) (job slot : Nat) : State × List Work :=
  let r := launchRec s job slot
  let cores := pinCores s r
  let s0 := setLaunch s job slot (setFld r 1023 1020 2)
  let res := (List.range (lrUnits r)).foldl (fun (p : State × Nat) i =>
    let va := lrRecordBase r + 64 * i
    let rec' := newRecord job slot r i (if lrPin r = 2 then cores[i]? else none)
    let w := devStore p.1 job none va (leBytes 64 rec')
    if w.2 then (enqueueUnit w.1 job va, p.2) else (faultNotice p.1 job va srcDevice, p.2 + 1)) (s0, 0)
  (res.1, if res.2 = 0 then [] else [.each (lrCounter r) true res.2])

/-- END: the parent is decremented, and ARMED dependents whose edges are met start. -/
def endLaunch (s : State) (job slot : Nat) : State × List Work :=
  let r := launchRec s job slot
  let canc := match readCounter s job (lrCounter r) with
    | some v => lcCancelled v != 0
    | none => false
  let s1 := setLaunch s job slot (setFld r 1023 1020 3)
  let deps := match s1.job job with
    | some j => j.pool.filterMap (fun c =>
        if lrState c.2.toNat = 1 && (lrEdges c.2.toNat).contains slot && edgesMet s1 job c.2.toNat then some (Work.start c.1)
        else none)
    | none => []
  (s1, [.dec (lrParent r) canc 1] ++ deps)

/-- Performs a list of work; each launch is started and ended once, so that the fuel of `settle` covers every chain. -/
def runWork (job : Nat) (who : Option Nat) : Nat → List Work → State → State
  | 0, _, s => s
  | _ + 1, [], s => s
  | n + 1, w :: ws, s =>
    let r := match w with
      | .dec va canc k => decrement s job who va canc k
      | .each va canc k => decrements job who va canc k s
      | .ended slot => endLaunch s job slot
      | .start slot => if lrState (launchRec s job slot) = 1 then startLaunch s job slot else (s, [])
    runWork job who n (r.2 ++ ws) r.1

/-- Performs work to its end. -/
def settle (s : State) (job : Nat) (who : Option Nat) (w : List Work) : State :=
  let n := match s.job job with
    | some j => j.pool.length
    | none => 0
  runWork job who (16 * (n + 2) + 8 * w.length) w s

/-- A unit ends: its launch's counter is decremented (R36, R37). -/
def unitEnded (s : State) (job launch : Nat) (who : Option Nat) (canc : Bool) : State :=
  settle s job who [.dec (lrCounter (launchRec s job launch)) canc 1]

/-! Arms (R306). -/

/-- The counter, or a level above it, is cancelled. -/
def levelCancelled (s : State) (job : Nat) : Nat → Nat → Bool
  | 0, _ => false
  | n + 1, va => match readCounter s job va with
    | none => false
    | some v => lcCancel v != 0 || (lcParent v != 0 && levelCancelled s job n (lcParent v))

/-- The first address that an arm of a record cannot write. -/
def armFault (s : State) (job r : Nat) : Option Nat :=
  let l : List (Nat × Nat) := [(lrCounter r, 16), (lrParent r, 16)] ++
    (if lrBitmap r = 0 then [] else [(lrBitmap r, (lrBitmapBits r + 7) / 8)]) ++ [(lrRecordBase r, 64 * lrUnits r)]
  l.findSome? (fun p => firstUnwritable s job p.1 p.2)

/-- ARM: the state after, and the failure's status and detail or the new arm_count. -/
def armLaunch (s : State) (job slot : Nat) (who : Option Nat) : State × Except (Nat × Nat) Nat :=
  let r := launchRec s job slot
  if lrLive r then (s, .error (stBound, 2))
  else if (match readCounter s job (lrParent r) with | some v => lcRemaining v == 0 | none => false) ||
      levelCancelled s job 4 (lrParent r) then (s, .error (stBound, 2))
  else if lrPin r = 2 && (pinCores s r).length < lrUnits r then (s, .error (stBound, 2))
  else match armFault s job r with
    | some a => (faultNotice s job a srcDevice, .error (stBound, 1))
    | none =>
      let n := (lrArmCount r + 1) % 2 ^ 16
      let s1 := setLaunch s job slot (setFld (setFld r 1019 1004 n) 1023 1020 1)
      let bits := lrBitmapBits r
      let old := leNat ((devRead s1 job (lrBitmap r) ((bits + 7) / 8)).getD [])
      let s2 := if lrBitmap r = 0 then s1
        else devWrite s1 job who (lrBitmap r) (leBytes ((bits + 7) / 8) (old / 2 ^ bits * 2 ^ bits))
      let s3 := writeCounter s2 job (lrCounter r) (lrUnits r % 2 ^ 23 + n * 2 ^ 48 + lrParent r * 2 ^ 64)
      let s4 := match readCounter s3 job (lrParent r) with
        | some v => writeCounter s3 job (lrParent r) (setFld v 22 0 (lcRemaining v + 1))
        | none => s3
      (if edgesMet s4 job r then settle s4 job who [.start slot] else s4, .ok n)

/-! Cancels (R39, R360). -/

/-- Units of a launch, as (record, contents). -/
def unitsOf (s : State) (job slot : Nat) : List (Nat × Nat) :=
  let r := launchRec s job slot
  (List.range (lrUnits r)).filterMap (fun i =>
    let va := lrRecordBase r + 64 * i
    (readRecord s job va).map (fun v => (va, v)))

/-- A context whose unit is being removed already (R374). -/
def Ctx.leaving (c : Ctx) : Bool := match c.run with
  | .removing _ => true
  | _ => false

/-- A hard cancel of a unit on its context: during a removal it has no effect beyond it (R385); a unit that the removal is to place
again is CANCELLED then. -/
def Ctx.hardCancelled (c : Ctx) : Ctx :=
  if c.leaving then { c with softCancel := true } else { c with run := .removing .hardCancel, softCancel := true }

/-- A frozen unit remembers the cancel (R36). -/
def noteFrozenCancel (s : State) (job va : Nat) : State :=
  let s1 := match ctxOfUnit s job va with
    | some (c, x) => s.setCtx c x (s.ctx c x).hardCancelled
    | none => s
  match s1.job job with
  | some j => s1.setJob job (some { j with frozenUnits := j.frozenUnits.map (fun f =>
      if f.recAddr = va then { f with cancel := true } else f) })
  | none => s1

/-- A cancel reaches one unit. -/
def cancelUnit (s : State) (job va r : Nat) (hard : Bool) : State :=
  if crState r = usFrozen then noteFrozenCancel s job va
  else match ctxOfUnit s job va with
    | some (c, x) =>
      let k := s.ctx c x
      if k.frozen then noteFrozenCancel s job va
      else if hard && k.run ≠ .placing then s.setCtx c x k.hardCancelled
      else s.setCtx c x { k with softCancel := true, preempt := k.preempt || hard }
    | none =>
      if crState r = usReady || crState r = usWaiting || crState r = usSuspended then
        unitEnded (writeRecord (unreserve (dequeueUnit s job va) job va) job va (crSet r usCancelled 5)) job (crLaunch r) none true
      else s

/-- A cancel reaches one launch: one that had not started ends at once, with none of its units created. -/
def cancelLaunch (s : State) (job slot : Nat) (armed hard : Bool) : State :=
  let r := launchRec s job slot
  if armed then
    match readCounter s job (lrCounter r) with
    | some v => settle s job none [.dec (lrCounter r) true (lcRemaining v)]
    | none => s
  else if lrState r = 2 then (unitsOf s job slot).foldl (fun s u => match readRecord s job u.1 with
    | some v => cancelUnit s job u.1 v hard
    | none => s) s
  else s

/-- A cancel reaches launches, as one operation (R305): those ARMED no longer start, whichever of them ends first (R39). -/
def cancelLaunches (s : State) (job : Nat) (slots : List Nat) (hard : Bool) : State :=
  let armed := slots.filter (fun q => lrState (launchRec s job q) == 1)
  let s1 := armed.foldl (fun s q => setLaunch s job q (setFld (launchRec s job q) 1023 1020 2)) s
  slots.foldl (fun s q => cancelLaunch s job q (armed.contains q) hard) s1

/-- Launches below a counter: through the chain of parents. -/
def below (s : State) (job level : Nat) : Nat → Nat → Bool
  | 0, _ => false
  | n + 1, va => va == level || (match readCounter s job va with
    | some v => lcParent v != 0 && below s job level n (lcParent v)
    | none => false)

/-- A cancel of a level or unit (R360): the status, its detail, and remaining when read. -/
def cancelLevel (s : State) (job level addr : Nat) (hard : Bool) : State × Nat × Nat × Nat :=
  if level = 0 then
    match readRecord s job addr with
    | none => (s, stBound, 2, 0)
    | some r =>
      let inLaunch := match s.job job with
        | some j => j.pool.any (fun c => lrState c.2.toNat != 0 && (unitsOf s job c.1).any (fun u => u.1 == addr))
        | none => false
      if !inLaunch || crJob r ≠ job then (s, stBound, 2, 0)
      else if crState r = usDone || crState r = usCancelled then (s, stOk, 0, 0)
      else (cancelUnit s job addr r hard, stOk, 0, 0)
  else
    let known := match s.job job with
      | some j => if level = 1 then j.pool.any (fun c => lrCounter c.2.toNat == addr && lrState c.2.toNat != 0)
          else j.levels.contains addr || (level = 2 && j.pool.any (fun c => lrParent c.2.toNat == addr && lrState c.2.toNat != 0))
      | none => false
    match (if known then readCounter s job addr else none) with
    | none => (s, stBound, 2, 0)
    | some v =>
      if lcRemaining v = 0 then (s, stOk, 0, 0)
      else
        let s1 := writeCounter s job addr (setFld v 47 46 (if hard then 2 else max (lcCancel v) 1))
        let slots : List Nat := match s1.job job with
          | some j => j.pool.filterMap (fun c => if lrLive c.2.toNat && below s1 job addr 5 (lrCounter c.2.toNat) then some c.1 else none)
          | none => []
        (cancelLaunches s1 job slots hard, stOk, 0, lcRemaining v)

/-! Units kept off a core (R36). -/

/-- READY and WAITING units of a job that `sel` picks become SUSPENDED. -/
def holdUnits (s : State) (job : Nat) (sel : Nat → Bool) : State :=
  (jobRecords s job).foldl (fun t va => match readRecord t job va with
    | some r => if sel r && (crState r == usReady || crState r == usWaiting) && (ctxOfUnit t job va).isNone then
        writeRecord (dequeueUnit t job va) job va (crSet r usSuspended (crReason r)) else t
    | none => t) s

/-- A context's unit is taken off before its placement is made: it has been READY all the time, so that its AGE goes on (R50), and
a cancel that is pending on it takes effect (R39). -/
def unplace (s : State) (core x : Nat) : State :=
  let c := s.ctx core x
  if c.run ≠ .placing then s
  else
    let s1 := s.freeCtx core x
    let waited := ((s.cluster (clusterOf core)).decisions.toNat + 2 ^ 64 - c.stamp) % 2 ^ 64
    match readRecord s1 c.job c.recAddr with
    | some r => if c.preempt || c.softCancel then cancelUnit s1 c.job c.recAddr r c.preempt else enqueueWaited s1 c.job c.recAddr waited
    | none => s1

/-- No unit is placed on a core: those being placed on it go back, those pinned to it are held (R36, R370, R380). -/
def keepOff (s : State) (core : Nat) : State :=
  let s1 := unplace (unplace s core 0) core 1
  s1.jobs.foldl (fun t j => holdUnits t j.1 (fun r => crPinned r && coreOfCode t (crCore r) == some core)) s1

/-! LARM, LPATCH and CANCEL (R309, R360). -/

/-- The status record and the semaphore of a scheduler's command; the command leaves its queue. -/
def schedFinish (s : State) (core : Nat) (c : Cmd) (sc : Nat) (f : Option Nat) (rec : Nat) : State :=
  let s1 := writeAct s core sc (leBytes 16 rec)
  let s2 := match f with
    | some n => outsideTo s1 core c (.sem n 1)
    | none => s1
  dropCmd s2 core c

/-- A slot outside the pool (R309). -/
def slotBad (s : State) (job slot : Nat) : Bool := 65536 ≤ slot || jobField s job 474 459 < slot

/-- LARM_PERFORM (R309). -/
def execLarmPerform (core seq : Nat) (s : State) : Res :=
  .next (match findCmd s core seq with
    | none => s
    | some c => match c.kind with
      | .larm slot sc f =>
        if !mayPerform s core c then s
        else
          let n := slot.toNat
          let who := some (ctxIdOf s core c.ctx)
          let r := if slotBad s c.job n then (s, Except.error (stBound, 2)) else armLaunch s c.job n who
          match r with
          | (s1, .ok k) => schedFinish s1 core c sc f (statusRecord n 0 0 stOk k)
          | (s1, .error x) => schedFinish s1 core c sc f (statusRecord n 0 x.2 x.1 0)
      | _ => s)

/-- An argument word patched (R309). -/
def patchArg (s : State) (job slot j v : Nat) : State :=
  setLaunch s job slot (setFld (launchRec s job slot) (64 * j + 63) (64 * j) v)

/-- LPATCH_PERFORM (R309): in the withhold order of the context's scheduler commands. -/
def execLpatchPerform (core seq : Nat) (s : State) : Res :=
  .next (match findCmd s core seq with
    | none => s
    | some c => match c.kind with
      | .lpatch slot value sc j f =>
        if !mayPerform s core c then s
        else
          let n := slot.toNat
          if slotBad s c.job n || lrLive (launchRec s c.job n) then
            schedFinish s core c sc f (statusRecord n 0 2 stBound 0)
          else schedFinish (patchArg s c.job n j value.toNat) core c sc f (statusRecord n 0 0 stOk 0)
      | _ => s)

/-- CANCEL_PERFORM (R360): the status record and the semaphore come before the removal of the issuing unit. -/
def execCancelPerform (core seq : Nat) (s : State) : Res :=
  .next (match findCmd s core seq with
    | none => s
    | some c => match c.kind with
      | .cancel level addr sc hard f =>
        if !mayPerform s core c then s
        else
          let r := cancelLevel s c.job level addr.toNat hard
          schedFinish r.1 core c sc f (statusRecord 0 0 r.2.2.1 r.2.1 r.2.2.2)
      | _ => s)

/-! Wait conditions (R29, R32, R49). -/

/-- The value that live_map gave a register of a wait operand. -/
def liveValue (r n : Nat) : Nat :=
  match (List.range 5).find? (fun i => n ≠ 0 && fld (crLiveMap r) (6 * i + 5) (6 * i) = n) with
  | some i => fld r (255 + 64 * i) (192 + 64 * i)
  | none => 0

/-- The engine by which the device reads a wait's object as an access of the job (R29). -/
def schedEng (job : Nat) : Eng := ⟨0, job, none, none, false, none, 0⟩

/-- A signal condition: satisfied also by a failed or negative read (R29). -/
def sigHolds (s : State) (job a cond v : Nat) : Bool :=
  if !addrFieldsOk a then true
  else match (readSignal s (schedEng job) a).2 with
    | (none, _) => true
    | (some x, _) => x < 0 || (match condOf cond with | some k => condHolds k x (sx 64 v) | none => false)

/-- An entry of a frame's wait block (R32). -/
def entryHolds (s : State) (job fr : Nat) (w : WaitEnt) : Bool :=
  match w.kind with
  | 1 => w.value ≤ frameNat s job fr (frCounter + 2 * w.index) 2
  | 2 =>
    let e := frameNat s job fr (frStream + 32 * w.index) 32
    fld e 255 192 < fld e 191 128
  | 3 => b2n ((frameNat s job fr (frCounter + 0x200 + 4 * w.index) 4).testBit 24) == w.phase
  | 4 => passed (BitVec.ofNat 32 (frameNat s job fr (frCounter + 0x284 + 8 * w.index) 4)) (BitVec.ofNat 32 w.value)
  | 5 => sigHolds s job w.addr.toNat w.cond w.operand.toNat
  | 6 => (bitmapOutcome s job w.addr.toNat w.operand.toNat).isSome
  | _ => match condOf w.cond with
    | some k => condHolds k (frameNat s job fr (frCounter + 2 * w.index) 2) w.value
    | none => false

/-- An entry of the wait block as bytes give it. -/
def waitEntry (v : Nat) : WaitEnt :=
  ⟨fld v 7 0, fld v 15 8, fld v 23 16, fld v 31 24, fld v 63 32, BitVec.ofNat 64 (fld v 127 64), BitVec.ofNat 64 (fld v 191 128)⟩
/-- The entries in use of a wait block. -/
def waitEntries (s : State) (job fr : Nat) : List WaitEnt :=
  let w := frameNat s job fr frWait 120
  (List.range (min 4 (fld w 31 24))).map (fun j => waitEntry (fld w (64 + 192 * j + 191) (64 + 192 * j)))

/-- The level counter that a wait names, read on the path of its address; none for a read that fails (R29). -/
def levelRead (s : State) (job a : Nat) : Option Nat :=
  if !addrFieldsOk a then none
  else if pathOf a = 0 then readCounter s job (fld a 47 0)
  else match (peekWord s (schedEng job) a 16).2 with
    | .ok v => some v
    | .error _ => none

/-- The wait of a record is satisfied (R29). -/
def waitHolds (s : State) (job r : Nat) : Bool :=
  let op := crWaitOp r
  match crWaitKind r with
  | 0 => true
  | 5 => sigHolds s job (liveValue r (fld op 19 14)) (fld op 2 0) (liveValue r (fld op 13 8))
  | 6 => (bitmapOutcome s job (liveValue r (fld op 19 14)) (liveValue r (fld op 13 8))).isSome
  | 7 => match levelRead s job (liveValue r (fld op 19 14)) with
    | none => true
    | some v => lcRemaining v == 0
  | 8 => (waitEntries s job (crSpill r)).all (entryHolds s job (crSpill r))
  | _ => false

/-- Addresses that a wait reads and that do not translate: each is named by one notice (R29). -/
def waitFaults (s : State) (job r : Nat) : List Nat :=
  let op := crWaitOp r
  let sig := fun a => if addrFieldsOk a && (readSignal s (schedEng job) a).2 == (none, true) then [a] else []
  let map := fun a i => if bitmapOutcome s job a i == some none && (walk s (jobAsid s job) ((a + i / 8) % 2 ^ 48) 0 false).isNone
    then [a + i / 8] else []
  match crWaitKind r with
  | 5 => sig (liveValue r (fld op 19 14))
  | 6 => map (liveValue r (fld op 19 14)) (liveValue r (fld op 13 8))
  | 7 => sig (liveValue r (fld op 19 14))
  | 8 => ((waitEntries s job (crSpill r)).map (fun w => if w.kind = 5 then sig w.addr.toNat
      else if w.kind = 6 then map w.addr.toNat w.operand.toNat else [])).flatten
  | _ => []

/-- What the device reads to test a wait: the objects of device memory, and the frame's wait block (R29, R32). -/
def waitReads (s : State) (job r : Nat) : List (Nat × Nat) :=
  let op := crWaitOp r
  let map := fun (a i : Nat) => if (bitmapLaunch s job a).isSome then [(a + i / 8, 1)] else []
  let l : List (Nat × Nat) := match crWaitKind r with
    | 5 => [(liveValue r (fld op 19 14), 8)]
    | 6 => map (liveValue r (fld op 19 14)) (liveValue r (fld op 13 8))
    | 7 => [(liveValue r (fld op 19 14), 16)]
    | 8 => (crSpill r + frWait, 120) :: (waitEntries s job (crSpill r)).flatMap (fun (w : WaitEnt) =>
        if w.kind = 5 then [(w.addr.toNat, 8)] else if w.kind = 6 then map w.addr.toNat w.operand.toNat else [])
    | _ => []
  l.filter (fun q => pathOf q.1 == 0 && addrFieldsOk q.1)

/-- The device tests the wait of a record: what its reads meet (R208), the notices of those that fault (R29), and whether the
wait is satisfied. -/
def testWait (s : State) (job r : Nat) : State × Bool :=
  ((waitFaults s job r).foldl (fun s a => faultNotice s job a srcDevice)
    ((waitReads s job r).foldl (fun t q => devMeet t job none (fld q.1 47 0) q.2) s), waitHolds s job r)

/-- WAIT_SATISFIED (R49): a WAITING unit whose condition holds becomes READY. -/
def execWaitSatisfied (job va : Nat) (s : State) : Res :=
  .next (match readRecord s job va with
    | none => s
    | some r =>
      let w := testWait s job r
      if s.power ≠ .on || crState r ≠ usWaiting || (ctxOfUnit s job va).isSome || !w.2 then s
      else
        enqueueUnit (writeRecord w.1 job va (crSet r usReady (crReason r))) job va)

end Sys2Proof.Machine
end

