-- ==== Sys2Proof/Machine/Rings.lean ====
section
/-! DEFINITION. Packet rings as their cluster's copy engines serve them (R246 to R249, R252, R260): taking a packet up,
completing it, halting a ring. -/
namespace Sys2Proof.Machine

/-- The descriptor of a ring where its job names it: its key and contents; none where it does not translate. -/
def ringDesc (s : State) (r : RingRef) : Option (Nat × Nat) :=
  let a := r.desc.toNat
  if pathOf a = 5 then (walk s (jobAsid s r.job) (fld a 47 0) 5 false).map (fun x => (hostKey x.addr, s.desc (hostKey x.addr)))
  else if pathOf a ≠ 0 then none
  else (walk s (jobAsid s r.job) (fld a 47 0) 0 false).map (fun x => (x.addr, s.desc x.addr))

/-- Key of slot `i` of a packet ring. -/
def slotKey (s : State) (r : RingRef) (d i : Nat) : Option Nat :=
  let a := rdBase d + i % 2 ^ rdLog2 d * 64
  if pathOf a = 5 then (walk s (jobAsid s r.job) (fld a 47 0) 5 false).map (fun x => hostKey x.addr)
  else (walk s (jobAsid s r.job) (fld a 47 0) 0 false).map (·.addr)

/-- A packet taken up and not complete. -/
def Pkt.open (p : Pkt) : Bool := match p.phase with
  | .done _ _ _ _ => false
  | _ => true

/-- The engine that serves a ring. -/
def ringEngine (s : State) (r : RingRef) (d : Nat) : Eng := engRing r.job (4 * fld d 287 286 + fld d 285 284) (confJob s r.job)

/-- One notice for a ring that cannot be read at an index (R249). -/
def ringFault (s : State) (r : RingRef) (a i : Nat) : State :=
  let v := findRing s r
  if v.fault.isSome then s else faultNotice (setRing s { v with fault := some i }) r.job a (i % 2 ^ 60)

/-- A ring halts at an index (R260). -/
def haltRing (s : State) (r : RingRef) (i : Nat) : State :=
  match ringDesc s r with
  | none => s
  | some (k, d) => postNotice (putDesc s r.job r.desc.toNat k (setFld (setFld d 310 310 1) 255 192 i)) r.job nkHalted r.desc.toNat i

/-- A ring whose next packet may be looked at: its descriptor, and the index after those taken up (R249). -/
def ringNext (s : State) (r : RingRef) : Option (Nat × Nat) :=
  let v := findRing s r
  match ringDesc s r with
  | none => none
  | some (_, d) =>
    let u := (rdRead d + v.pkts.length) % 2 ^ 64
    if rdOk d && rdKind d = 1 && !v.frozen && v.fault.isNone && u ≠ rdWrite d && (v.pkts.filter Pkt.open).length < 64 then
      some (d, u) else none

/-- Earlier packets allow this one to be taken up (R249). -/
def barrierAllows (v : RingRun) (p : Nat) : Bool :=
  !(v.pkts.any (fun q => q.open && pkBarrier q.bits.toNat)) && (!pkBarrier p || v.pkts.all (fun q => !q.open))

/-- A slot that cannot be read whole (R249). -/
def slotBroken (s : State) (k : Nat) : Bool := (worstErr s k 64 (some 0)).any (fun e => 1 < e.1)

/-- The packet that stands at the next index, ready to be taken up, with its slot readable or not. -/
def peekPacket (s : State) (r : RingRef) (index : Nat) : Option (Nat × Nat × Bool) :=
  match ringNext s r with
  | none => none
  | some (d, u) =>
    if u ≠ index then none
    else match slotKey s r d u with
      | none => none
      | some k =>
        let p := leNat (s.bytes k 64)
        if slotBroken s k then some (d, p, true)
        else if pkSeq p = u % 2 ^ 32 && barrierAllows (findRing s r) p then some (d, p, false) else none

/-- A ring whose next slot or whose descriptor does not translate posts its notice and waits (R249). -/
def noteRingFault (s : State) (r : RingRef) : State :=
  match ringDesc s r with
  | none => ringFault s r r.desc.toNat (findRing s r).next.toNat
  | some (_, d) => match ringNext s r with
    | none => s
    | some (_, u) => if (slotKey s r d u).isNone then ringFault s r (rdBase d + u % 2 ^ rdLog2 d * 64) u else s

/-- The engines' reads of a ring's descriptor and slot meet errors as a copy's reads do (R208). -/
def meetRing (s : State) (r : RingRef) (index : Nat) : State :=
  if s.errs.isEmpty && s.tags.isEmpty then s
  else
    let w : Consumer := ⟨none, r.job⟩
    let s1 := meetWalk s r.job (jobAsid s r.job) (fld r.desc.toNat 47 0)
    match ringDesc s1 r with
    | none => s1
    | some (k, d) =>
      let s2 := meetWalk (meet s1 k 64 (some 0) w) r.job (jobAsid s r.job) (fld (rdBase d + index % 2 ^ rdLog2 d * 64) 47 0)
      match slotKey s2 r d index with
      | some q => meet s2 q 64 (some 0) w
      | none => s2

/-- A packet joins those taken up. -/
def takePacket (s0 : State) (r : RingRef) (index p : Nat) (ph : Phase) : State :=
  let s := meetRing s0 r index
  let v := findRing s r
  setRing s { v with pkts := v.pkts ++ [⟨BitVec.ofNat 64 index, BitVec.ofNat 512 p, ph, []⟩], next := BitVec.ofNat 64 (index + 1) }

/-- A packet's phase. -/
def setPkt (s : State) (r : RingRef) (index : Nat) (ph : Phase) : State :=
  let v := findRing s r
  setRing s { v with pkts := v.pkts.map (fun q => if q.index.toNat = index then { q with phase := ph } else q) }

/-- The handles that a packet dereferences are in flight (R323). -/
def raisePkt (s : State) (r : RingRef) (index : Nat) (l : List Nat) : State :=
  let v := findRing s r
  setRing (raiseAll s l) { v with pkts := v.pkts.map (fun q => if q.index.toNat = index then { q with flight := q.flight ++ l } else q) }
/-- They are no longer. -/
def lowerPkt (s : State) (r : RingRef) (index : Nat) : State :=
  let v := findRing s r
  let l := (v.pkts.filter (fun q => q.index.toNat = index)).flatMap (·.flight)
  if l.isEmpty then s
  else lowerAll (setRing s { v with pkts := v.pkts.map (fun q => if q.index.toNat = index then { q with flight := [] } else q) }) l

/-- Packets done at the front of the ring are freed: read_index passes them (R249). While the descriptor cannot be read, or stands in
a frame that nobody writes (R301), they stay. -/
def freePackets (s : State) (r : RingRef) : State :=
  let v := findRing s r
  let n := (v.pkts.takeWhile (fun q => !q.open)).length
  match ringDesc s r with
  | some (k, d) =>
    if n = 0 || !rdOk d then s
    else if markedFrame s k then postNotice s r.job nkFault r.desc.toNat srcDevice
    else (setRing s { v with pkts := v.pkts.drop n }).setDesc k (setFld d 447 384 (rdRead d + n))
  | none => s

/-- A packet completes (R252, R253): status record, signal, the ring's halt on an abort of a barrier packet (R260). -/
def completePacket (s : State) (r : RingRef) (index p st detail skipped bytes : Nat) (deliver : Bool) : State :=
  let d := match ringDesc s r with
    | some (_, d) => d
    | none => 0
  let e := ringEngine s r d
  let s1 := if deliver && pkStatusEn p then
      writeStatus s e (shortAddr (pkStatusAddr p)) (statusRecord index skipped detail st bytes) else s
  let s2 := if deliver then deliverSignal s1 e p st (index % 2 ^ 60) r.desc.toNat index else s1
  let s3 := freePackets (setPkt (lowerPkt s2 r index) r index (.done st detail skipped (BitVec.ofNat 64 bytes))) r
  if st = stAborted && detail = 0x10 && pkBarrier p then haltRing s3 r index else s3

/-- Completes a packet that is taken up, its status and signal delivered. -/
def finishPacket (s : State) (r : RingRef) (index p st detail skipped bytes : Nat) : State :=
  completePacket s r index (cleanHeader p) st detail skipped bytes true

/-- A packet taken up and not complete, and its refusals so far. -/
def findPkt (s : State) (r : RingRef) (index : Nat) : Option Pkt :=
  (findRing s r).pkts.find? (fun q => q.index.toNat == index && q.open)

/-- Whether a ring's halted state holds. -/
def ringHalted (s : State) (r : RingRef) : Bool := match ringDesc s r with
  | some (_, d) => rdHalted d
  | none => false

end Sys2Proof.Machine
end

