-- ==== Sys2Proof/Machine/KV.lean ====
section
/-! DEFINITION. Operations on key-value handles (R327 to R341): page operations, appends, rejection and commit, the
gazetteer. -/
namespace Sys2Proof.Machine

/-! Page operations (R327, R328). -/

/-- A piece between a page and the data side: `off` in the page, `a` the device address. Bytes from `lim` on are not moved,
and a drive of `bad` answers with an error. -/
def kvPiece (e : Eng) (d pg base lim : Nat) (store : Bool) (bad : List Nat) (m : Mv) (q : Nat × Nat) : Mv :=
  if m.stop.isSome || lim ≤ m.bytes then m
  else if pdLoc pg = 1 && bad.contains (pdDrive pg) then { m with stop := some (stLink, 0x21), at' := q.1 }
  else
    let off := q.1 - base
    match pageKey d pg off with
    | none =>
      if store then { m with bytes := m.bytes + q.2 }
      else match writeBlk m.st e q.1 (List.replicate q.2 0) false (q.1 == base || q.1 % 65536 == 0) with
        | (s2, .error x) => { m with st := s2, stop := some x, at' := q.1 }
        | (s2, .ok _) => { m with st := s2, bytes := m.bytes + q.2, segs := if isAct q.1 then m.segs ++ [q] else m.segs }
    | some k =>
      if store then
        match readSpan m.st e q.1 q.2 (q.1 == base) with
        | (s1, .error x) => { m with st := s1, stop := some x.1, at' := x.2 }
        | (s1, .ok v) =>
          if v.poison && pdLoc pg = 1 then { m with st := s1, stop := some (stPoison, 0), at' := q.1 }
          else
            let s2 := s1.put k v.bytes
            { m with st := if v.poison then poisonRange s2 k q.2 else s2, bytes := m.bytes + q.2 }
      else
        let (s1, _, poison) := copyReadErrs m.st k q.2 none e.who
        match writeBlk s1 e q.1 (s1.bytes k q.2) poison (q.1 == base || q.1 % 65536 == 0) with
        | (s2, .error x) => { m with st := s2, stop := some x, at' := q.1 }
        | (s2, .ok _) => { m with st := s2, bytes := m.bytes + q.2, segs := if isAct q.1 then m.segs ++ [q] else m.segs }

/-- FETCH and STORE from where they stand, page by page, up to byte `lim`. -/
def kvMove (s : State) (e : Eng) (d p : Nat) (store : Bool) (g : Prog) (lim : Nat) (bad : List Nat) : Mv :=
  let slot := hdSlot (kvHandle p)
  let a := kvAddr p
  let segs := if !store && isAct a then [(a, 65536 * kvPages p)] else []
  if formRefused s segs false then { Mv.resume s g with stop := some (stBound, 6) }
  else
    let m := ((List.range (kvPages p)).drop (g.bytes / 65536)).foldl (fun m i =>
      let pg := (pageOf m.st d 8 slot (kvFirst p + i)).2
      let base := (a + 65536 * i) % 2 ^ 64
      let off := if i = g.bytes / 65536 then g.bytes % 65536 else 0
      (splitAtMult 64 1025 (base + off) (65536 - off)).foldl (kvPiece e d pg base lim store bad) m) (Mv.resume s g)
    { m with st := declareForm m.st m.segs false }

/-- Copies a whole page between tiers, errors met on the way marking it poisoned where it lands in device memory. -/
def movePage (s : State) (src dst : Nat) (w : Consumer) : State :=
  (List.range 1024).foldl (fun s i =>
    let (s1, _, poison) := copyReadErrs s (src + 64 * i) 64 none w
    let s2 := s1.put (dst + 64 * i) (s1.bytes (src + 64 * i) 64)
    if poison && dst / 2 ^ 60 = 0 then poisonRange s2 (dst + 64 * i) 64 else s2) s

/-- A page holds data that a drive may not receive (R424). -/
def pagePoisoned (s : State) (k : Nat) : Bool := (worstErr s k 65536 none).any (fun x => 1 < x.1)

/-- SPILL (`out`) and PRELOAD of one page; pages that need no move count too. -/
def kvTier (e : Eng) (d slot : Nat) (out : Bool) (bad : List Nat) (m : Mv) (i : Nat) : Mv :=
  if m.stop.isSome then m
  else
    let (own, pg) := pageOf m.st d 8 slot i
    if pdLoc pg ≠ (if out then 0 else 1) then { m with bytes := m.bytes + 65536 }
    else
      match pageKey d pg 0 with
      | none => m
      | some src =>
        if out && pagePoisoned m.st src then { m with stop := some (stPoison, 0) }
        else
          let list := if out then tdSpill d else tdFreePages d
          match takeList list (fun v => if out then spillOk v else frameOk d v) (listCount m.st list) m.st with
          | (s1, none) => { m with st := s1, stop := some (stBound, 0) }
          | (s1, some new) =>
            if bad.contains (pdDrive (if out then new else pg)) then { m with stop := some (stLink, 0x21) }
            else
              let s2 := movePage s1 src ((pageKey d new 0).getD 0) e.who
              { m with st := returnPage (setDir s2 d own i new) d pg, bytes := m.bytes + 65536 }

/-- The next entries of the spill list that it allows. -/
def spillNext (s : State) (d n : Nat) : List Nat :=
  let r := s.desc (tdSpill d)
  (((List.range (listCount s (tdSpill d))).map (fun i =>
    physNat s (rdBase r % 2 ^ 48 + (rdRead r + i) % 2 ^ rdLog2 r * 8) 8)).filter (fun v => spillOk v)).take n

/-- What a page operation asks of the drives that hold its pages, or will: sixteen blocks for each page (R281, R327). -/
def kvAsks (s : State) (p : Nat) : List Ask :=
  let d := tenantDesc s (hdTenant (kvHandle p))
  let pages := (List.range (kvPages p)).map (fun i => (pageOf s d 8 (hdSlot (kvHandle p)) (kvFirst p + i)).2)
  (if kvOp p = 2 then spillNext s d (pages.filter (pdLoc · == 0)).length else pages.filter (pdLoc · == 1)).map
    (fun v => ⟨pdDrive v, kvOp p == 1 || kvOp p == 2, 16 * pdIndex v, 16⟩)

/-- Of what is asked of drives, that which a drive will answer. -/
def liveAsks (s : State) (l : List Ask) : List Ask := l.filter (fun a => !Tab.get false s.drives a.drive)

/-- Drives that no longer answer. -/
def deadDrives (s : State) : List Nat := (List.range 4).filter (fun d => Tab.get false s.drives d)

/-- A plaintext export of a confidential tenant (R328). -/
def kvExport (s : State) (p : Nat) : Bool :=
  tdConf (tenantDesc s (hdTenant (kvHandle p))) &&
  (kvOp p == 2 || (kvOp p ≤ 1 && (pathOf (kvAddr p) == 5 || pathOf (kvAddr p) == 6)))

/-- The pages of an operation by the slot that owns them. -/
def kvOwned (s : State) (p : Nat) : List (Nat × Nat) :=
  let d := tenantDesc s (hdTenant (kvHandle p))
  (List.range (kvPages p)).map (fun i => ((pageOf s d 8 (hdSlot (kvHandle p)) (kvFirst p + i)).1, kvFirst p + i))

/-- An operation whose bytes are under way. -/
def Phase.begun : Phase → Bool
  | .nvme _ => true
  | .moving _ => true
  | _ => false

/-- Accesses begun on one of the pages of an operation by a FETCH or STORE (R328). -/
def pagesBegun (s : State) (p : Nat) : Bool :=
  let mine := kvOwned s p
  let meets := fun (ph : Phase) (q : Nat) => ph.begun && pkType q == 9 && kvOp q ≤ 1 && hdTenant (kvHandle q) == hdTenant (kvHandle p) &&
    (kvOwned s q).any mine.contains
  s.cores.any (fun k => k.2.cmds.any (fun c => match c.kind with
    | .kvref q _ _ => meets c.phase q
    | _ => false)) || s.rings.any (fun v => v.pkts.any (fun q => meets q.phase q.bits.toNat))

/-- What a page operation does at this moment: it is a violation, it waits (0 for a bucket, 1 for room in in_flight, 2 for
accesses begun on its pages), it ends at once, or it goes on. -/
inductive KvGo where
  | violation
  | wait (w : Nat)
  | ends (status detail : Nat)
  | go
deriving DecidableEq, Repr

/-- The checks of R323, R327, R328 and R339 before any byte moves; `held` when the operation is in flight already. -/
def kvBegin (s : State) (job p : Nat) (held : Bool) : KvGo :=
  let h := kvHandle p
  let d := tenantDesc s (hdTenant h)
  let op := kvOp p
  if !granted s job (hdTenant h) || kvExport s p then .violation
  else
    let st := check s h (op == 1)
    let revoked := held && heGen (readEntry s d (hdSlot h)) == hdGen h && heState (readEntry s d (hdSlot h)) == 3
    match (if held then (if revoked then some stRevoked else some stOk) else st) with
    | none => .wait 1
    | some 0 =>
      let e := readEntry s d (hdSlot h)
      let bucket := match (if heGz e && op ≠ 1 && !hdWrite h then bucketOfSlot s d (hdSlot h) else none) with
        | some b => readBucket s d b
        | none => 2 * 2 ^ 126 + (2 ^ 15 - 1) * 2 ^ 111
      let last := kvFirst p + kvPages p
      if bkState bucket = 1 then .wait 0
      else if bkReady bucket < last || hePages e < last || hdLimit h < last || (op = 1 && kvFirst p < heParentPages e) then
        .ends stBound 0
      else if op ≤ 1 && kvAddr p % 64 ≠ 0 then .ends stMisalign 0
      else if op ≤ 1 && !([0, 3, 5, 6].contains (pathOf (kvAddr p))) then .ends stBound 9
      else if 1 < op && kvAddr p ≠ 0 then .ends stBound 2
      else if 1 < op && pagesBegun s p then .wait 2
      else .go
    | some st => .ends st 0

/-- A bucket that an operation in flight waits on has become TOMB, and its entry names none any more (R337, R339). -/
def bucketGone (s : State) (p : Nat) : Bool :=
  let e := readEntry s (tenantDesc s (hdTenant (kvHandle p))) (hdSlot (kvHandle p))
  !heGz e && heState e != 3

/-- The page operation from where it stands, up to byte `lim`; drives of `bad` answer with an error (R327). -/
def kvRun (s : State) (e : Eng) (p : Nat) (g : Prog) (lim : Nat) (bad : List Nat) : Mv :=
  let d := tenantDesc s (hdTenant (kvHandle p))
  if kvOp p ≤ 1 then kvMove s e d p (kvOp p == 1) g lim bad
  else ((List.range (kvPages p)).drop (g.bytes / 65536)).foldl (fun m i =>
    if lim ≤ m.bytes then m else kvTier e d (hdSlot (kvHandle p)) (kvOp p == 2) bad m (kvFirst p + i)) (Mv.resume s g)

/-- Bytes of a page operation in all (R327). -/
def kvTotal (p : Nat) : Nat := 65536 * kvPages p

/-- Where a page operation stops that a tenant cancel meets at byte `n`: the end of its 4 KiB block; a page between tiers is
not divided (R326, R328). -/
def kvCut (p n : Nat) : Nat := if kvOp p ≤ 1 then min (kvTotal p) ((n / 4096 + 1) * 4096) else n

/-! KVREF (R331). -/

/-- A violation by a command: its master is frozen, and it completes without status or signal (R324, R383). -/
def kvViolation (s : State) (core : Nat) (c : Cmd) : State :=
  let s1 := if ownerRuns s core c then violateCtx s core c.ctx else violateAway s c.job c.owner core c.ctx
  dropFences (completeId (chargeTo s1 core c c.tb (c.total - c.paid)) core c) core

/-- A malformed KVREF image (R255, R331). -/
def kvrefBad (p : Nat) : Bool := imageHeaderBad p || pkType p != 9 || bodyBad p

/-- A page operation's outcome is kept for its completion; what was delivered is charged (R263). -/
def kvrefDone (s : State) (core : Nat) (c : Cmd) (x : Nat × Nat) (skipped bytes : Nat) : State :=
  let r := payTo s core c bytes
  setDone r.1 core r.2 x.1 x.2 skipped bytes

/-- What a page operation has come to: one refused with a hint stands where it is (R264), else it is done; `code` is what a
drive's error carries. -/
def kvrefSettle (core : Nat) (c : Cmd) (m : Mv) (code : Nat) : State :=
  if m.refused && m.tries c.prog < 16 then
    let r := payTo m.st core c m.bytes
    setCmd r.1 core { r.2 with phase := .moving (m.pause (m.tries c.prog)) }
  else kvrefDone (mvNotice m c.job (srcCmd c)) core c (mvStatus m) (if m.stop = some (stLink, 0x21) then code else 0) m.bytes

/-- The page operation runs, or is handed to the drives that answer; it is in flight. -/
def kvrefGo (s : State) (core : Nat) (c : Cmd) (p : Nat) : State :=
  let l := liveAsks s (kvAsks s p)
  if l.isEmpty || c.prog ≠ Prog.start then
    kvrefSettle core c (kvRun s (engOf s core c) p c.prog (kvTotal p) (deadDrives s)) 0x7FF
  else match submit s (.cmd core c.seq) l with
    | some t => setCmd t core { c with phase := .nvme Prog.start }
    | none => setCmd s core { c with phase := .moving Prog.start }

/-- The handles that a command dereferences are in flight until it completes (R323). -/
def raiseCmd (s : State) (core : Nat) (c : Cmd) (l : List Nat) : State × Cmd :=
  let c1 := { c with flight := c.flight ++ l }
  (setCmd (raiseAll s l) core c1, c1)

/-- KVREF once its wait is met (R323, R327). -/
def kvrefStep (s : State) (core : Nat) (c : Cmd) (p : Nat) : State :=
  let h := kvHandle p
  let held := !c.flight.isEmpty
  let x := if held then (s, c) else raiseCmd s core c [h]
  match kvBegin s c.job p held with
  | .violation => kvViolation s core c
  | .wait 1 => setCmd s core { c with phase := .waiting }
  | .wait w => setCmd x.1 core { x.2 with phase := .claimed w 0 }
  | .ends st d =>
    if held || (check s h (kvOp p == 1)) = some stOk then kvrefDone x.1 core x.2 (st, d) 0 0 else kvrefDone s core c (st, d) 0 0
  | .go => kvrefGo x.1 core x.2 p

/-- KVREF as its channel takes it up (R331). -/
def kvrefPerform (s : State) (core : Nat) (c : Cmd) (p : Nat) : State :=
  let go := fun (s : State) => match waitTest s (engOf s core c) p (srcCmd c) with
    | (s1, none) => setCmd s1 core { c with phase := .waiting }
    | (s1, some false) => setDone s1 core c stAborted 0x10 0 0
    | (s1, some true) => kvrefStep s1 core c p
  match c.phase with
  | .queued => if kvrefBad p then setDone s core c stBound 2 0 0 else go s
  | .waiting => go s
  | .claimed w _ => if w = 0 && bucketGone s p then kvrefDone s core c (stStale, 0) 0 0 else kvrefStep s core c p
  | .moving _ => kvrefGo s core c p
  | _ => s

/-- CPY_PERFORM (R265), and the same of a KVREF, whose image is read and waits as a CPY's (R331). -/
def execCpyPerform (core seq : Nat) (s : State) : Res :=
  .next (match findCmd s core seq with
    | none => s
    | some c => match c.kind with
      | .cpy p _ _ q => if mayPerform s core c then cpyStep s core c p q else s
      | .kvref p _ _ => if mayPerform s core c then kvrefPerform s core c p else s
      | _ => s)

/-- COPY_RETRY (R264): an access refused with a hint is made again. -/
def execCopyRetry (core seq : Nat) (s : State) : Res :=
  .next (match findCmd s core seq with
    | none => s
    | some c => match c.phase, c.kind with
      | .moving _, .cpy p _ _ q => if mayPerform s core c then cpyStep s core c p q else s
      | .moving _, .kvref p _ _ => if mayPerform s core c then kvrefGo s core c p else s
      | _, _ => s)

/-- A command is flushed (R374): a dereference in flight ends with it (R325). -/
def flushCmd (s : State) (core : Nat) (c : Cmd) (detail : Nat) : State := abortCmd s core c detail

/-! KVAPP (R333, R334). -/

/-- Result of one sequence. -/
def rGranted : Nat := 0
def rDeferred : Nat := 1
def rStale : Nat := 2
def rBound : Nat := 3
def rRevoked : Nat := 4
def rFailed : Nat := 5

/-- `n` free pages for directory indices from `i` on; those taken, newest first. -/
def takeFrames (d slot i : Nat) : Nat → State → State × List Nat
  | 0, s => (s, [])
  | n + 1, s =>
    let r := takeFrames d slot i n s
    match takeList (tdFreePages d) (frameOk d) (listCount r.1 (tdFreePages d)) r.1 with
    | (s1, some f) => (setDir s1 d slot (i + n) f, f :: r.2)
    | (s1, none) => (s1, r.2)

/-- An undo record (R329). -/
def undoRecord (s : State) (d slot j t old taken : Nat) : State :=
  let bytes := match tokenKey s d slot t with
    | some k => s.bytes k (tdSlotBytes d)
    | none => List.replicate (tdSlotBytes d) 0
  s.put (tdJournalAt d slot j) (leBytes 4 t ++ leBytes 4 old ++ leBytes 8 taken ++ bytes)

/-- Whether a drive of `bad` holds the page of a token slot. -/
def tokenLost (s : State) (d slot t : Nat) (bad : List Nat) : Bool :=
  let pg := (pageOf s d 8 slot (t / tdTpp d)).2
  pdLoc pg == 1 && bad.contains (pdDrive pg)

/-- Copies new data into slots `pos` to `pos + k − 1`; true when the source fails. Poison goes with the data into device
memory, and no drive receives it (R208, R424). -/
def appendData (s : State) (e : Eng) (d slot pos k src : Nat) (bad : List Nat) : State × Bool :=
  (splitAtMult 64 (k * tdSlotBytes d / 64 + 1) src (k * tdSlotBytes d)).foldl (fun (p : State × Bool) q =>
    if p.2 then p
    else match readSpan p.1 e q.1 q.2 (q.1 == src) with
      | (s1, .error _) => (s1, true)
      | (s1, .ok v) =>
        let off := q.1 - src
        let t := pos + off / tdSlotBytes d
        match tokenKey s1 d slot t with
        | none => (s1, false)
        | some key =>
          if tokenLost s1 d slot t bad || (v.poison && key / 2 ^ 60 ≠ 0) then (s1, true)
          else
            let at' := key + off % tdSlotBytes d
            let s2 := s1.put at' v.bytes
            (if v.poison then poisonRange s2 at' q.2 else s2, false)) (s, false)

/-- A handle whose tenant has been cancelled while it was in flight (R326). -/
def handleRevoked (s : State) (h : Nat) : Bool :=
  let e := readEntry s (tenantDesc s (hdTenant h)) (hdSlot h)
  heGen e == hdGen h && heState e == 3

/-- One sequence of a KVAPP whose handle has passed its check and is in flight: the state after, and its result. -/
def appendOne (s : State) (e : Eng) (h src k : Nat) (spec : Bool) (bad : List Nat) : State × Nat :=
  let d := tenantDesc s (hdTenant h)
  let slot := hdSlot h
  let en := readEntry s d slot
  let pos := heTokens en
  let need := ceilDiv (pos + k) (tdTpp d) - hePages en
  if handleRevoked s h then (s, rRevoked)
  else if (spec && tdDepth d < heJournal en + k) || (!spec && 0 < heJournal en) || hdLimit h < hePages en + need then (s, rBound)
  else if listCount s (tdFreePages d) < need then (s, rDeferred)
  else
    let (s1, got) := takeFrames d slot (hePages en) need s
    let back := fun (s : State) => got.foldl (fun s f => returnList s (tdFreePages d) f) s
    if got.length < need then (back s1, rDeferred)
    else if src % 64 ≠ 0 || !(pathOf src == 0 || pathOf src == 3) then (back s1, rFailed)
    else
      let s2 := if spec then (List.range k).foldl (fun s i =>
          undoRecord s d slot (heJournal en + i) (pos + i) pos (if i = 0 then need else 0)) s1 else s1
      let (s3, failed) := appendData s2 e d slot pos k src bad
      if failed then (back s3, rFailed)
      else
        let e1 := setFld (setFld (readEntry s3 d slot) 436 422 (hePages en + need)) 421 390 (pos + k)
        (writeEntry s3 d slot (if spec then setFld e1 338 330 (heJournal en + k) else e1), rGranted)

/-- Blocks of a drive that hold token slots of a handle (R281, R340). -/
def tokenAsks (s : State) (h : Nat) (l : List Nat) : List Ask :=
  let d := tenantDesc s (hdTenant h)
  (l.filterMap (fun t =>
    let pg := (pageOf s d 8 (hdSlot h) (t / tdTpp d)).2
    if pdLoc pg = 1 then
      some ⟨pdDrive pg, true, 16 * pdIndex pg + t % tdTpp d * tdSlotBytes d / 4096, (tdSlotBytes d + 4095) / 4096⟩
    else none)).eraseDups

/-- What a sequence of a KVAPP asks of the drives that hold the pages into which it appends (R340). -/
def appendAsks (s : State) (h k : Nat) : List Ask :=
  let en := readEntry s (tenantDesc s (hdTenant h)) (hdSlot h)
  tokenAsks s h ((List.range k).map (heTokens en + ·))

/-- A check's status as the result of a sequence (R333). -/
def checkResult (st : Nat) : Nat := if st = stStale then rStale else if st = stRevoked then rRevoked else rBound

/-- Where a KVAPP stands before its next sequence: the results so far, and whether that sequence is in flight. -/
def appendProg (res : List Nat) (held : Bool) : Prog := { Prog.start with skipped := res.length, holes := res, drive := held }

/-- A KVAPP's block and completion (R333, R335). -/
def kvappEnd (s : State) (core : Nat) (c : Cmd) (sc : Nat) (res : List Nat) : State :=
  let g := (res.filter (· == rGranted)).length
  setDone (writeAct s core sc (leBytes 16 (statusRecord c.id.toNat 0 0 stOk g) ++ res.map (BitVec.ofNat 8 ·))) core c stOk 0 0 g

/-- The sequences of a KVAPP in order (R333), each checked once (R323): one whose handle's in_flight is full waits, one whose
pages are in storage waits for its drives (R340). `held` tells that the first is in flight; `bad` holds the answer of its drives. -/
def kvappFrom (core sc k : Nat) (spec : Bool) : List (Nat × Nat) → State → Cmd → List Nat → Bool → Option (List Nat) → State
  | [], s, c, res, _, _ => kvappEnd s core c sc res
  | x :: l, s, c, res, held, bad =>
    if res.getLast? = some rDeferred then kvappFrom core sc k spec l s c (res ++ [rDeferred]) false none
    else match (if held then some stOk else check s x.1 true) with
      | none => setCmd s core { c with phase := .moving (appendProg res false) }
      | some st =>
        if st ≠ stOk then kvappFrom core sc k spec l s c (res ++ [checkResult st]) false none
        else
          let y := if held then (s, c) else raiseCmd s core c [x.1]
          let asks := liveAsks y.1 (appendAsks y.1 x.1 k)
          if asks.isEmpty || bad.isSome || handleRevoked y.1 x.1 then
            let a := appendOne y.1 (engOf y.1 core y.2) x.1 x.2 k spec (bad.getD [] ++ deadDrives y.1)
            kvappFrom core sc k spec l a.1 y.2 (res ++ [a.2]) false none
          else match submit y.1 (.cmd core c.seq) asks with
            | some t => setCmd t core { y.2 with phase := .nvme (appendProg res true) }
            | none => setCmd y.1 core { y.2 with phase := .moving (appendProg res true) }

/-- A KVAPP goes on from where it stands; `bad` holds its drives' answer. The tenants of all entries are checked before the first
sequence (R324). -/
def kvappGo (s : State) (core : Nat) (c : Cmd) (ents n sc k : Nat) (spec : Bool) (bad : Option (List Nat)) : State :=
  let hs := kvappEntries ents n
  if hs.any (fun x => !granted s c.job (hdTenant x.1)) then kvViolation s core c
  else kvappFrom core sc k spec (hs.drop c.prog.skipped) s c c.prog.holes c.prog.drive bad

/-- A command that waits for a drive. -/
def Cmd.atDrive (c : Cmd) : Bool := match c.phase with
  | .nvme _ => true
  | _ => false

/-- KVAPP_PERFORM (R333); its entries are the bytes read at release. -/
def execKvappPerform (core seq : Nat) (s : State) : Res :=
  .next (match findCmd s core seq with
    | none => s
    | some c => match c.kind with
      | .kvapp ents n sc k spec =>
        if !mayPerform s core c || c.performed || c.atDrive then s
        else kvappGo s core c ents n sc k spec none
      | _ => s)

/-! KVREJ, KVCOMMIT, KVFREE (R336, R337). -/

/-- A key-value command's block: its status record and result area; the ID completes later. -/
def kvBlock (s : State) (core : Nat) (c : Cmd) (sc st detail skipped : Nat) (area : List Byte) : State :=
  setDone (writeAct s core sc (leBytes 16 (statusRecord c.id.toNat skipped detail st 0) ++ area)) core c st detail skipped 0

/-- Runs an operation on a handle under its check; the handle is in flight until the command completes. -/
def kvOn (s : State) (core : Nat) (c : Cmd) (h sc : Nat) (f : State → Nat → Nat → State × Nat × Nat) : State :=
  if !granted s c.job (hdTenant h) then kvViolation s core c
  else match check s h true with
    | none => s
    | some st =>
      if st ≠ stOk then kvBlock s core c sc st 0 0 []
      else
        let x := raiseCmd s core c [h]
        let r := f x.1 (tenantDesc s (hdTenant h)) (hdSlot h)
        kvBlock r.1 core x.2 sc r.2.1 r.2.2 0 []

/-- Operations that wait on the bucket of a slot end with a status (R326, R337): dereferences, joins and packets. -/
def endWaiters (s : State) (tenant slot st : Nat) : State :=
  let mine := fun (h : Nat) => hdTenant h == tenant && hdSlot h == slot
  let s1 := s.cores.foldl (fun t k => ((t.core k.1).cmds).foldl (fun u c => match c.kind, c.phase with
    | .kvref p _ _, .claimed 0 _ => if mine (kvHandle p) then kvrefDone u k.1 c (st, 0) 0 0 else u
    | .gzjoin _ q sc, .claimed 0 _ => if mine q.toNat then kvBlock u k.1 c sc st 0 0 [] else u
    | _, _ => u) t) s
  s1.rings.foldl (fun t v => v.pkts.foldl (fun u q => match q.phase with
    | .claimed 0 _ => if pkType q.bits.toNat = 9 && mine (kvHandle q.bits.toNat) then
        finishPacket u v.r q.index.toNat q.bits.toNat st 0 0 0 else u
    | _ => u) t) s1

/-- One record undone (R336). -/
def undoOne (s : State) (d slot : Nat) : State :=
  let e := readEntry s d slot
  let a := tdJournalAt d slot (heJournal e - 1)
  let s1 := match tokenKey s d slot (physNat s a 4) with
    | some k => s.put k (s.bytes (a + 16) (tdSlotBytes d))
    | none => s
  let taken := physNat s a 16 / 2 ^ 64 % 256
  let s2 := (List.range taken).foldl (fun s i => returnPage s d (dirPage s d slot (hePages e - 1 - i))) s1
  writeEntry s2 d slot (setFld (setFld (setFld e 421 390 (physNat s (a + 4) 4)) 436 422 (hePages e - taken))
    338 330 (heJournal e - 1))

/-- KVREJ on a checked handle. -/
def rejectAbove (s : State) (d slot keep : Nat) : State :=
  (List.range (heJournal (readEntry s d slot) - keep)).foldl (fun s _ => undoOne s d slot) s

/-- KVCOMMIT on a checked handle. -/
def commitHandle (s : State) (d slot : Nat) : State :=
  let e := readEntry s d slot
  let s1 := writeEntry s d slot (setFld e 338 330 0)
  match (if heGz e then bucketOfSlot s1 d slot else none) with
  | some b =>
    let v := readBucket s1 d b
    if bkState v = 1 then writeBucket s1 d b (setFld (setFld v 127 126 2) 125 111 (heTokens e / tdTpp d)) else s1
  | none => s1

/-- KVFREE on a checked handle; operations that wait on its bucket end at once (R337). -/
def freeHandle (s : State) (tenant d slot : Nat) : State × Nat × Nat :=
  let e := readEntry s d slot
  if heRefs e = 0 then (s, stBound, 0)
  else
    let s1 := lowerRefs s d slot
    match (if heGz e then bucketOfSlot s d slot else none) with
    | some b => (if bkState (readBucket s d b) = 1 then endWaiters (tombBucket s1 d b) tenant slot stStale else s1, stOk, 0)
    | none => (s1, stOk, 0)

/-- Blocks of the drives that hold the slots that KVREJ restores (R340). -/
def rejectAsks (s : State) (h keep : Nat) : List Ask :=
  let d := tenantDesc s (hdTenant h)
  tokenAsks s h (((List.range (heJournal (readEntry s d (hdSlot h)))).drop keep).map (fun j => physNat s (tdJournalAt d (hdSlot h) j) 4))

/-- KVREJ, its handle in flight, once its drives have answered; an error of one of them ends it with nothing restored (R281). -/
def kvrejRun (s : State) (core : Nat) (c : Cmd) (h keep sc : Nat) (bad : List Nat) (code : Nat) : State :=
  if handleRevoked s h then kvBlock s core c sc stRevoked 0 0 []
  else if (rejectAsks s h keep).any (fun a => bad.contains a.drive) then kvBlock s core c sc stLink 0x21 code []
  else kvBlock (rejectAbove s (tenantDesc s (hdTenant h)) (hdSlot h) keep) core c sc stOk 0 0 []

/-- KVREJ, its handle in flight: its drives are asked first. -/
def kvrejGo (s : State) (core : Nat) (c : Cmd) (h keep sc : Nat) : State :=
  let l := liveAsks s (rejectAsks s h keep)
  if l.isEmpty then kvrejRun s core c h keep sc (deadDrives s) 0x7FF
  else match submit s (.cmd core c.seq) l with
    | some t => setCmd t core { c with phase := .nvme Prog.start }
    | none => setCmd s core { c with phase := .moving Prog.start }

/-- KVREJ_PERFORM (R336): its check is made once, and its handle stays in flight until it completes (R323). -/
def execKvrejPerform (core seq : Nat) (s : State) : Res :=
  .next (match findCmd s core seq with
    | none => s
    | some c => match c.kind with
      | .kvrej h keep sc =>
        if !mayPerform s core c || c.performed || c.atDrive then s
        else if !granted s c.job (hdTenant h.toNat) then kvViolation s core c
        else if !c.flight.isEmpty then kvrejGo s core c h.toNat keep.toNat sc
        else match check s h.toNat true with
          | none => s
          | some st =>
            if st ≠ stOk then kvBlock s core c sc st 0 0 []
            else
              let x := raiseCmd s core c [h.toNat]
              kvrejGo x.1 core x.2 h.toNat keep.toNat sc
      | _ => s)

/-- KVCOMMIT_PERFORM (R336). -/
def execKvcommitPerform (core seq : Nat) (s : State) : Res :=
  .next (match findCmd s core seq with
    | none => s
    | some c => match c.kind with
      | .kvcommit h sc =>
        if !mayPerform s core c || c.performed then s
        else kvOn s core c h.toNat sc (fun s d slot => (commitHandle s d slot, stOk, 0))
      | _ => s)

/-- KVFREE_PERFORM (R337). -/
def execKvfreePerform (core seq : Nat) (s : State) : Res :=
  .next (match findCmd s core seq with
    | none => s
    | some c => match c.kind with
      | .kvfree h sc =>
        if !mayPerform s core c || c.performed then s
        else kvOn s core c h.toNat sc (fun s d slot => freeHandle s (hdTenant h.toNat) d slot)
      | _ => s)

/-! GZCLAIM, GZFIND, GZJOIN (R338, R339). -/

/-- The result area of a claim or find. -/
def gzArea (s : State) (d own role : Nat) (b : Option Nat) : List Byte :=
  let v := match b with
    | some b => readBucket s d b
    | none => 0
  leBytes 8 own ++ leBytes 8 (match b with | some _ => setFld (bkHandle v) 14 14 0 | none => 0) ++
    leBytes 1 role ++ leBytes 1 (bkState v) ++ leBytes 2 (bkReady v) ++ List.replicate 12 0

/-- The claim of a digest for a handle (R338): the role and the bucket named. -/
def claimDigest (s : State) (d own dig : Nat) : State × Nat × Option Nat :=
  let e := readEntry s d (hdSlot own)
  match probe s d dig with
  | (some b, _) => (s, if bkHandle (readBucket s d b) = own then 1 else 2, some b)
  | (none, none) => (s, 3, none)
  | (none, some b) =>
    if heGz e then (s, 3, none)
    else
      let s1 := writeBucket s d b (dig * 2 ^ 192 + own * 2 ^ 128 + 1 * 2 ^ 126)
      (writeEntry s1 d (hdSlot own) (setFld (setFld e 329 329 1) 452 437 (heRefs e + 1)), 1, some b)

/-- A new handle (R338): the state after, and the handle. -/
def newHandle (s : State) (t cls : Nat) : State × Option Nat :=
  let d := tenantDesc s t
  match takeList (tdFreeSlots d) (slotOk d) (listCount s (tdFreeSlots d)) s with
  | (s1, none) => (s1, none)
  | (s1, some slot) =>
    let g := heGen (readEntry s1 d slot)
    (writeEntry s1 d slot (g * 2 ^ 500 + t * 2 ^ 488 + 1 * 2 ^ 485 + cls * 2 ^ 469 + 1 * 2 ^ 437), some (mkHandle t g slot cls))

/-- GZCLAIM_PERFORM (R338). -/
def execGzclaimPerform (core seq : Nat) (s : State) : Res :=
  .next (match findCmd s core seq with
    | none => s
    | some c => match c.kind with
      | .gzclaim a dg sc new =>
        let x := a.toNat
        let dig := dg.toNat
        let zero := List.replicate 32 (0 : Byte)
        if !mayPerform s core c || c.performed then s
        else if new then
          let t := fld x 27 16
          let cls := fld x 15 0
          if fld x 63 28 ≠ 0 then kvBlock s core c sc stBound 2 0 zero
          else if !granted s c.job t then kvViolation s core c
          else
            let d := tenantDesc s t
            if !cls.testBit 14 || tdMaxPages d ≤ fld cls 13 0 then kvBlock s core c sc stBound 2 0 zero
            else match newHandle s t cls with
              | (s1, none) => kvBlock s1 core c sc stBound 0 0 zero
              | (s1, some own) =>
                if dig = 0 then kvBlock s1 core c sc stOk 0 0 (gzArea s1 d own 0 none)
                else
                  let r := claimDigest s1 d own dig
                  kvBlock r.1 core c sc stOk 0 0 (gzArea r.1 d own r.2.1 r.2.2)
        else if !granted s c.job (hdTenant x) then kvViolation s core c
        else match check s x true with
          | none => s
          | some st =>
            if st ≠ stOk then kvBlock s core c sc st 0 0 zero
            else
              let d := tenantDesc s (hdTenant x)
              let y := raiseCmd s core c [x]
              if dig = 0 then kvBlock y.1 core y.2 sc stBound 2 0 zero
              else
                let r := claimDigest y.1 d x dig
                kvBlock r.1 core y.2 sc stOk 0 0 (gzArea r.1 d x r.2.1 r.2.2)
      | _ => s)

/-- GZFIND_PERFORM (R338). -/
def execGzfindPerform (core seq : Nat) (s : State) : Res :=
  .next (match findCmd s core seq with
    | none => s
    | some c => match c.kind with
      | .gzfind a dg sc =>
        if !mayPerform s core c || c.performed then s
        else if 4096 ≤ a.toNat then kvBlock s core c sc stBound 2 0 (List.replicate 32 0)
        else if !granted s c.job a.toNat then kvViolation s core c
        else
          let d := tenantDesc s a.toNat
          let b := (probe s d dg.toNat).1
          kvBlock s core c sc stOk 0 0 (gzArea s d 0 (if b.isSome then 2 else 0) b)
      | _ => s)

/-- The pages of a prefix are shared (R339), or BOUND. -/
def joinPrefix (s : State) (d p q n : Nat) : State × Nat :=
  let ep := readEntry s d p
  let eq := readEntry s d q
  if p = q || 0 < heParentPages ep || 0 < heJournal ep || heTokens ep < n * tdTpp d || 7 ≤ parentDepth s d 8 q then (s, stBound)
  else
    let s1 := (List.range n).foldl (fun s i => setDir (returnPage s d (dirPage s d p i)) d p i pdNone) s
    let e1 := setFld (setFld (setFld (readEntry s1 d p) 389 366 q) 365 354 (heGen eq)) 353 339 n
    let s2 := writeEntry s1 d p e1
    (setEntry s2 d q 452 437 (heRefs eq + 1), stOk)

/-- GZJOIN_PERFORM (R339); both handles are in flight until it completes, so also while the bucket is PENDING. -/
def execGzjoinPerform (core seq : Nat) (s : State) : Res :=
  .next (match findCmd s core seq with
    | none => s
    | some c => match c.kind with
      | .gzjoin a b sc =>
        let p := a.toNat
        let q := b.toNat
        if !mayPerform s core c || c.performed then s
        else
          let held := !c.flight.isEmpty
          let d := tenantDesc s (hdTenant q)
          if !granted s c.job (hdTenant p) || !granted s c.job (hdTenant q) then kvViolation s core c
          else match (if held then some stOk else check s p true), (if held then some stOk else check s q false) with
            | some 0, some 0 =>
              let x := if held then (s, c) else raiseCmd s core c [p, q]
              let e := readEntry s d (hdSlot q)
              if held && (heState e = 3 || heState (readEntry s (tenantDesc s (hdTenant p)) (hdSlot p)) = 3) then
                kvBlock s core c sc stRevoked 0 0 []
              else match (if heGz e then bucketOfSlot s d (hdSlot q) else none) with
                | none => kvBlock x.1 core x.2 sc (if held then stStale else stBound) 0 0 []
                | some k =>
                  if bkState (readBucket s d k) = 1 then
                    if held then s else setCmd x.1 core { x.2 with phase := .claimed 0 0 }
                  else if hdTenant p ≠ hdTenant q then kvBlock x.1 core x.2 sc stBound 0 0 []
                  else
                    let r := joinPrefix x.1 d (hdSlot p) (hdSlot q) (bkReady (readBucket s d k))
                    kvBlock r.1 core x.2 sc r.2 0 0 []
            | some 0, some st =>
              let x := raiseCmd s core c [p]
              kvBlock x.1 core x.2 sc st 0 0 []
            | some 0, none => s
            | some st, _ => kvBlock s core c sc st 0 0 []
            | none, _ => s
      | _ => s)

end Sys2Proof.Machine
end

