-- ==== Sys2Proof/Machine/Packets.lean ====
section
/-! DEFINITION. The packets of a ring (R249 to R260, R309, R327, R391): one step takes a packet up, or goes on with one
that was refused or held back, and completes it where nothing holds it. A packet's effect is written once for all rows,
so that a wait met later (PACKET_WAIT_RETEST) leads to the same effect. -/
namespace Sys2Proof.Machine

/-- The serving engines run: the device has power and its sheets are not being rehashed (R377, R382). -/
def serving (s : State) : Bool := s.power == .on && !s.sheets.busy

/-- Refusals with a hint so far. -/
def Pkt.tries (q : Pkt) : Nat := match q.phase with
  | .retry n => n
  | _ => 0
/-- Where a packet's transfer stands. -/
def Pkt.prog (q : Pkt) : Prog := match q.phase with
  | .moving g => g
  | .nvme g => g
  | _ => Prog.start

def pktTries (s : State) (r : RingRef) (index : Nat) : Nat := match findPkt s r index with
  | some q => q.tries
  | none => 0
def pktProg (s : State) (r : RingRef) (index : Nat) : Prog := match findPkt s r index with
  | some q => q.prog
  | none => Prog.start

/-- A transfer's outcome completes its packet; one refused with a hint, or with bytes to move, stands where it is (R264). -/
def settlePacket (s : State) (r : RingRef) (index p : Nat) (m : Mv) : State :=
  let g := pktProg s r index
  if !mvEnds p g m then setPkt m.st r index (.moving (m.pause (if m.refused then m.tries g else 0)))
  else
    let s1 := mvNotice m r.job (index % 2 ^ 60)
    finishPacket (if m.viol then violateRing s1 r else s1) r index p (mvStatus m).1 (mvStatus m).2 m.skipped m.bytes

/-- COPY, GATHER and SCATTER: path 7 goes through the drives, block by block (R281). -/
def runTransfer (s : State) (e : Eng) (r : RingRef) (index p : Nat) : State :=
  let g := pktProg s r index
  if weightHeld s e p then (if g = Prog.start then setPkt s r index .queued else s)
  else if (drivesOf p false).any (Tab.get false s.drives ·) then finishPacket s r index p stLink 0x21 0x7FF g.bytes
  else match driveNext s e (.pkt r index) p (index % 2 ^ 60) g with
    | .scout g t => setPkt t r index (.moving g)
    | .wait t => setPkt t r index (.nvme g)
    | .full => setPkt s r index (.moving g)
    | .move => settlePacket s r index p (transferMem s e p (index % 2 ^ 60) g)

/-- LAUNCH: the patches and the arm as one (R259, R309). -/
def runLaunch (s : State) (r : RingRef) (index p : Nat) : State :=
  let slot := fld p 255 240
  let n := fld p 239 236
  let first := fld p 235 232
  if slotBad s r.job slot || 4 < first + n || lrLive (launchRec s r.job slot) then finishPacket s r index p stBound 2 0 0
  else
    let s1 := (List.range n).foldl (fun s j => patchArg s r.job slot (first + j) (fld p (64 * j + 63) (64 * j))) s
    match armLaunch s1 r.job slot none with
    | (s2, .ok _) => finishPacket s2 r index p stOk 0 0 0
    | (s2, .error x) => finishPacket (setLaunch s2 r.job slot (launchRec s r.job slot)) r index p x.1 x.2 0 0

/-- One round of a BARRIER (R391): the reads in order, the first negative or failed one ending it. -/
def barrierRound (e : Eng) (index p : Nat) : Nat → Nat → State → State × Option Bool
  | 0, _, t => (t, some true)
  | n + 1, i, t =>
    let a := shortAddr (fld p (255 - 48 * i) (208 - 48 * i))
    match readSignal t e a with
    | (t1, none, f) => (if f then faultNotice t1 e.job a (index % 2 ^ 60) else t1, some false)
    | (t1, some v, _) =>
      if v < 0 then (t1, some false)
      else
        match barrierRound e index p n (i + 1) t1 with
        | (u, some true) => (u, if v = 0 then some true else none)
        | x => x

/-- BARRIER (R259, R391). -/
def runBarrier (s : State) (e : Eng) (r : RingRef) (index p : Nat) : State :=
  match barrierRound e index p (fld p 111 110) 0 s with
  | (s1, some true) => finishPacket s1 r index p stOk 0 0 0
  | (s1, some false) => finishPacket s1 r index p stAborted 0x10 0 0
  | (s1, none) => setPkt s1 r index (.claimed 0 0)

/-- SIGNAL: the value takes the place of sig_delta where the packet stores (R259). -/
def runSignal (s : State) (e : Eng) (r : RingRef) (index p : Nat) : State :=
  if p.testBit 255 then
    let s1 := if pkStatusEn p then
        writeStatus s e (shortAddr (pkStatusAddr p)) (statusRecord index 0 0 stOk 0) else s
    let s2 := signalWrite s1 e (shortAddr (pkSigTarget p)) (fun _ => fld p 191 128) (index % 2 ^ 60) r.desc.toNat index
    completePacket s2 r index p stOk 0 0 0 false
  else finishPacket s r index p stOk 0 0 0

/-- ATOMIC (R259). -/
def runAtomic (s : State) (e : Eng) (r : RingRef) (index p : Nat) : State :=
  match atomicOp s e (fld p 255 192) (fld p 63 60) (p.testBit 59) (p.testBit 58) (fld p 191 128) (fld p 127 64) with
  | (s1, .ok old) => finishPacket s1 r index p stOk 0 0 old
  | (s1, .error x) =>
    if x = (stRetry, 0x30) && pktTries s r index < 15 then setPkt s r index (.retry (pktTries s r index + 1))
    else finishPacket (if x = (stBound, 1) then faultNotice s1 r.job (fld p 255 192) (index % 2 ^ 60) else s1)
      r index p x.1 x.2 0 0

/-- NOP, with resume (R260). -/
def runNop (s : State) (r : RingRef) (index p : Nat) : State :=
  let s1 := if p.testBit 255 then
      match ringDesc s r with
      | some (k, d) => if rdHalted d then putDesc s r.job r.desc.toNat k (setFld d 310 310 0) else s
      | none => s
    else s
  finishPacket s1 r index p stOk 0 0 0

/-- What a page operation of a ring has come to (R264); `code` is what a drive's error carries. -/
def kvSettle (s : State) (r : RingRef) (index p : Nat) (m : Mv) (code : Nat) : State :=
  let g := pktProg s r index
  if m.refused && m.tries g < 16 then setPkt m.st r index (.moving (m.pause (m.tries g)))
  else finishPacket (mvNotice m r.job (index % 2 ^ 60)) r index p (mvStatus m).1 (mvStatus m).2
    (if m.stop = some (stLink, 0x21) then code else 0) m.bytes

/-- A page operation runs, or is handed to the drives that answer. -/
def kvGoPkt (s : State) (e : Eng) (r : RingRef) (index p : Nat) : State :=
  let l := liveAsks s (kvAsks s p)
  if l.isEmpty || pktProg s r index ≠ Prog.start then
    kvSettle s r index p (kvRun s e p (pktProg s r index) (kvTotal p) (deadDrives s)) 0x7FF
  else match submit s (.pkt r index) l with
    | some t => setPkt t r index (.nvme Prog.start)
    | none => setPkt s r index (.moving Prog.start)

/-- A page operation of a ring (R323, R324, R327). -/
def runKv (s : State) (e : Eng) (r : RingRef) (index p : Nat) : State :=
  let h := kvHandle p
  let held := match findPkt s r index with
    | some q => !q.flight.isEmpty
    | none => false
  let s1 := if held then s else raisePkt s r index [h]
  match kvBegin s r.job p held with
  | .violation => completePacket (violateRing s r) r index p stBound 0 0 0 false
  | .wait 1 => setPkt s r index (.claimed 1 0)
  | .wait w => setPkt s1 r index (.claimed w 0)
  | .ends st d => finishPacket (if held || (check s h (kvOp p == 1)) = some stOk then s1 else s) r index p st d 0 0
  | .go => kvGoPkt s1 e r index p

/-- The effect of a packet whose wait is met. -/
def runPacket (s : State) (e : Eng) (r : RingRef) (index p : Nat) : State :=
  match pkType p with
  | 1 => runNop s r index p
  | 2 => runTransfer s e r index p
  | 3 => runTransfer s e r index p
  | 4 => runTransfer s e r index p
  | 5 => runLaunch s r index p
  | 6 => runBarrier s e r index p
  | 7 => runSignal s e r index p
  | 8 => runAtomic s e r index p
  | _ => runKv s e r index p

/-- A packet taken up, or tested again: its wait, then its effect (R252). -/
def waitPacket (s : State) (e : Eng) (r : RingRef) (index p : Nat) : State :=
  match waitTest s e p (index % 2 ^ 60) with
  | (s1, none) => setPkt s1 r index .waiting
  | (s1, some false) => finishPacket s1 r index p stAborted 0x10 0 0
  | (s1, some true) => runPacket s1 e r index p

/-- A well-formed NOP with resume (R260). -/
def isResume (p : Nat) : Bool := pkType p == 1 && p.testBit 255 && !packetBad p

/-- A packet is taken up: a halted ring ends it at once (R260), unless it resumes the ring. -/
def beginPacket (s : State) (e : Eng) (r : RingRef) (index p : Nat) : State :=
  let s1 := takePacket s r index p .queued
  if ringHalted s r && !isResume p then finishPacket s1 r index p stAborted 0x11 0 0
  else if packetBad p then finishPacket s1 r index p stBound 2 0 0
  else waitPacket s1 e r index p

/-- The packets of a ring taken up before an index. -/
def pktsBefore (s : State) (r : RingRef) (index : Nat) : List Pkt :=
  (findRing s r).pkts.takeWhile (fun q => q.index.toNat != index)

/-- The step of one row: takes up the packet at an index, or goes on with it after a refusal or a page held back; earlier
packets whose accesses it must not overtake come first (R232, R233, R252). -/
def packetStep (ours : Nat → Bool) (r : RingRef) (index : Nat) (s : State) : State :=
  if !serving s then s
  else match findPkt s r index with
    | some q =>
      let p := q.bits.toNat
      let e := ringEngine s r (match ringDesc s r with | some (_, d) => d | none => 0)
      if (findRing s r).frozen || !ours p || packetHeld s e (pktsBefore s r index) p then s
      else match q.phase with
        | .queued => waitPacket s e r index p
        | .moving _ => if pkType p = 9 then kvGoPkt s e r index p else runTransfer s e r index p
        | .retry _ => runPacket s e r index p
        | .claimed w _ =>
          if pkType p ≠ 9 then s
          else if w = 0 && bucketGone s p then finishPacket s r index p stStale 0 0 0
          else runKv s e r index p
        | _ => s
    | none => match peekPacket s r index with
      | some (d, p, false) =>
        if packetBad p || !ours p || packetHeld s (ringEngine s r d) (findRing s r).pkts p then s
        else beginPacket s (ringEngine s r d) r index p
      | _ => noteRingFault s r

/-- NOP (R259, R260). -/
def execNop (r : RingRef) (index : Word) (s : State) : Res := .next (packetStep (fun p => pkType p == 1) r index.toNat s)
/-- COPY (R256, R257). -/
def execCopy (r : RingRef) (index : Word) (s : State) : Res := .next (packetStep (fun p => pkType p == 2) r index.toNat s)
/-- GATHER (R258). -/
def execGather (r : RingRef) (index : Word) (s : State) : Res := .next (packetStep (fun p => pkType p == 3) r index.toNat s)
/-- SCATTER (R258). -/
def execScatter (r : RingRef) (index : Word) (s : State) : Res := .next (packetStep (fun p => pkType p == 4) r index.toNat s)
/-- LAUNCH (R259, R309). -/
def execLaunch (r : RingRef) (index : Word) (s : State) : Res := .next (packetStep (fun p => pkType p == 5) r index.toNat s)
/-- BARRIER (R259): its first round. -/
def execBarrier (r : RingRef) (index : Word) (s : State) : Res := .next (packetStep (fun p => pkType p == 6) r index.toNat s)
/-- SIGNAL (R259). -/
def execSignal (r : RingRef) (index : Word) (s : State) : Res := .next (packetStep (fun p => pkType p == 7) r index.toNat s)
/-- ATOMIC (R259). -/
def execAtomic (r : RingRef) (index : Word) (s : State) : Res := .next (packetStep (fun p => pkType p == 8) r index.toNat s)
/-- FETCH (R327). -/
def execFetch (r : RingRef) (index : Word) (s : State) : Res :=
  .next (packetStep (fun p => pkType p == 9 && kvOp p == 0) r index.toNat s)
/-- STORE (R327). -/
def execStore (r : RingRef) (index : Word) (s : State) : Res :=
  .next (packetStep (fun p => pkType p == 9 && kvOp p == 1) r index.toNat s)
/-- SPILL (R327). -/
def execSpill (r : RingRef) (index : Word) (s : State) : Res :=
  .next (packetStep (fun p => pkType p == 9 && kvOp p == 2) r index.toNat s)
/-- PRELOAD (R327). -/
def execPreload (r : RingRef) (index : Word) (s : State) : Res :=
  .next (packetStep (fun p => pkType p == 9 && kvOp p == 3) r index.toNat s)

/-- A packet that waits is tested again; `wanted` picks the row's packets by phase and bits. -/
def retest (wanted : Phase → Nat → Bool) (run : State → Eng → RingRef → Nat → Nat → State) (r : RingRef) (index : Nat) (s : State) :
    State :=
  match findPkt s r index with
  | some q =>
    let e := ringEngine s r (match ringDesc s r with | some (_, d) => d | none => 0)
    if serving s && !(findRing s r).frozen && wanted q.phase q.bits.toNat && !packetHeld s e (pktsBefore s r index) q.bits.toNat then
      run s e r index q.bits.toNat
    else s
  | none => s

/-- BARRIER_ROUND (R391): a new round of a barrier whose first round has been made. -/
def execBarrierRound (r : RingRef) (index : Word) (s : State) : Res :=
  .next (retest (fun q p => pkType p == 6 && q == .claimed 0 0) runBarrier r index.toNat s)
/-- PACKET_WAIT_RETEST (R252). -/
def execPacketWaitRetest (r : RingRef) (index : Word) (s : State) : Res :=
  .next (retest (fun q _ => q == .waiting) waitPacket r index.toNat s)

/-- MALFORMED_PACKET (R254); a slot that cannot be read ends its packet and halts the ring (R249). -/
def execMalformedPacket (r : RingRef) (index : Word) (s : State) : Res :=
  .next (if !serving s then s
    else match peekPacket s r index.toNat with
      | some (_, p, true) =>
        haltRing (completePacket (takePacket s r index.toNat p .queued) r index.toNat 0 stAborted 0x11 0 0 false) r index.toNat
      | some (d, p, false) => if packetBad p && !signalHeld (findRing s r).pkts (cleanHeader p) then beginPacket s (ringEngine s r d) r index.toNat p else s
      | none => noteRingFault s r)

end Sys2Proof.Machine
end

