-- ==== Sys2Proof/Machine/Frame.lean ====
section
/-! DEFINITION. Spill frames (R31, R32, R279, R345): the bytes that a save writes, the checks of R33, what a placement
restores from them (R35), and the free-frame queue (R31, R278). -/
namespace Sys2Proof.Machine

/-! Writing a frame. -/

/-- Class and number of a register entry (R279). -/
def destClass : Dest → Nat × Nat
  | .scalar n => (0, n)
  | .pair n => (1, 2 * n)
  | .kreg n => (2, n)
  | .vec n => (3, n)
  | .shape n => (4, n)
  | .eng sel => (5, sel)
  | .owner => (6, 0)

/-- Bits of a payload by class (R279). -/
def classBits (c : Nat) : Nat :=
  if c = 0 || c = 2 || c = 5 then 64 else if c = 1 then 2 else if c = 3 then 2048 else if c = 4 then 256 else 1

/-- The destination of a class and number. -/
def classDest (c n : Nat) : Dest :=
  if c = 0 then .scalar n else if c = 1 then .pair (n / 2) else if c = 2 then .kreg n else if c = 3 then .vec n
  else if c = 4 then .shape n else if c = 5 then .eng n else .owner

/-- A 3-byte entry of the directory. -/
def dirEntry (cls num ticks : Nat) : Nat := 2 ^ 23 + cls * 2 ^ 20 + num * 2 ^ 14 + min ticks 511

/-- First payload index of each group. -/
def groupStarts : List Group → Nat → List Nat
  | [], _ => []
  | g :: gs, i => i :: groupStarts gs (i + g.rows.length)

/-- The due-queue directory (R279). -/
def dirBytes (a : Arch) : List Byte :=
  let rows := (a.groups.map (·.rows)).flatten
  leBytes 768 (joinElems 12 (rows.map (·.1))) ++
  leBytes 192 (joinElems 24 (a.dueRegs.map (fun d => dirEntry (destClass d.dest).1 (destClass d.dest).2 d.left))) ++
  leBytes 24 (joinElems 24 (a.dueLatches.map (fun d => dirEntry d.w 0 d.left))) ++
  leBytes 2 (rows.length + a.groups.length * 1024) ++
  leBytes 36 (joinElems 18 ((a.groups.zip (groupStarts a.groups 0)).map (fun g => g.2 * 2 ^ 9 + min g.1.left 511))) ++
  leBytes 2 0

/-- Bytes padded with zeros. -/
def padTo (n : Nat) (l : List Byte) : List Byte := l ++ List.replicate (n - l.length) 0

/-- Words of 8 bytes. -/
def words8 (l : List Nat) : List Byte := (l.map (leBytes 8)).flatten

/-- A loop level (R32). -/
def loopBytes (l : Loop) : List Byte :=
  leBytes 8 l.left.toNat ++ leBytes 8 l.stride.toNat ++ leBytes 3 l.start ++ leBytes 3 l.stop ++ leBytes 1 l.target ++
  leBytes 1 l.pair ++ leBytes 1 (b2n l.active) ++ leBytes 7 0

/-- The engine and control area (R32). -/
def engineBytes (c : Ctx) (a : Arch) : List Byte :=
  let m := fun (x : MSet) => words8 ((List.range 7).map (fun i => (x.word i).toNat))
  let d := fun (x : DSet) => words8 ((List.range 3).map (fun i => (x.word (0x10 + i)).toNat))
  m a.mAct ++ m a.mSh ++ d a.dAct ++ d a.dSh ++ ((List.range 6).map (fun j => loopBytes (a.rdLoop j))).flatten ++
  leBytes 2 a.idle.toNat ++ leBytes 1 (b2n a.bankC) ++ leBytes 5 0 ++
  leBytes 8 (fld c.spill.toNat 47 12 * 4096) ++ List.replicate 656 0

/-- A stream entry (R32). -/
def streamBytes (b : Option Binding) (arrived : Nat) : List Byte := match b with
  | none => List.replicate 32 0
  | some b => leBytes 4 (2 ^ 31 + b.base % 2 ^ 21) ++ leBytes 1 b.slotsM1 ++ leBytes 1 b.units ++
      (match b.att with
       | some x => leBytes 2 (1 + 2 * x.1) ++ leBytes 4 x.2.toNat
       | none => leBytes 6 0) ++ leBytes 4 0 ++ leBytes 8 arrived ++ leBytes 8 b.consumed

/-- An open-gather entry (R32). -/
def gatherBytes : Option Gather → List Byte
  | none => List.replicate 16 0
  | some g => leBytes 4 (2 ^ 31 + g.remaining % 2 ^ 24) ++ leBytes 4 g.q ++ leBytes 8 g.pushed

/-- The counter area (R345). -/
def counterBytes (c : Ctx) (a : Arch) : List Byte :=
  ((List.range 256).map (fun i => leBytes 2 (a.rdF i).toNat)).flatten ++
  ((List.range 32).map (fun i => leBytes 4 (a.rdTb i).toNat)).flatten ++
  ((List.range 8).map (fun ch => leBytes 4 (a.rdId ch).toNat ++ leBytes 4 (statusWord c ch).toNat)).flatten ++
  List.replicate 320 0

/-- The frame of captured state (R31), with a wait block of 120 bytes. -/
def frameBytes (c : Ctx) (a : Arch) (wait : List Byte) : List Byte :=
  words8 ((List.range 64).map (fun i => (a.rdS i).toNat)) ++
  leBytes 8 (joinElems 1 ((List.range 24).map (fun i => b2n (a.rdP i)))) ++
  words8 ((List.range 16).map (fun i => (a.rdK i).toNat)) ++ padTo 120 wait ++
  ((List.range 8).map (fun i => leBytes 32 (a.rdH i).toNat)).flatten ++ engineBytes c a ++
  ((List.range 64).map (fun i => leBytes 256 (a.rdV i).toNat)).flatten ++
  ((List.range 8).map (fun i => leBytes 2176 (a.rdW i).toNat)).flatten ++ dirBytes a ++
  padTo 16384 ((a.dueRegs.map (fun d => leBytes 256 (d.val.toNat % 2 ^ classBits (destClass d.dest).1))).flatten) ++
  padTo 17408 ((a.dueLatches.map (fun d => leBytes 2176 d.val.toNat)).flatten) ++
  padTo 65536 ((a.groups.map (fun g => (g.rows.map (fun r => leBytes 128 r.2.toNat)).flatten)).flatten) ++
  padTo 4096 (((List.range 16).map (fun q => streamBytes (a.rdQ q) (Tab.get 0 c.arrived q))).flatten ++
    ((List.range 8).map (fun ch => gatherBytes (a.rdG ch))).flatten) ++
  counterBytes c a ++ List.replicate 6144 0

/-- A wait-block entry (R32). -/
def waitEntBytes (w : WaitEnt) : List Byte :=
  leBytes 1 w.kind ++ leBytes 1 w.cond ++ leBytes 1 w.index ++ leBytes 1 w.phase ++ leBytes 4 w.value ++
  leBytes 8 w.addr.toNat ++ leBytes 8 w.operand.toNat

/-- The wait block of a stalled bundle (R32). -/
def waitBlock (pc : Nat) (l : List WaitEnt) : List Byte :=
  leBytes 3 pc ++ leBytes 1 l.length ++ leBytes 4 0 ++ (l.map waitEntBytes).flatten

/-! Reading a frame. -/

/-- `n` bytes of a frame at an offset, as a number. -/
def frNat (fr : List Byte) (off n : Nat) : Nat := leNat ((fr.drop off).take n)
/-- Bytes that must be zero. -/
def frZero (fr : List Byte) (off n : Nat) : Bool := ((fr.drop off).take n).all (· == 0)

def frMSet (fr : List Byte) (off : Nat) : MSet :=
  (List.range 7).foldl (fun m i => m.setWord i (BitVec.ofNat 64 (frNat fr (off + 8 * i) 8))) MSet.reset
def frDSet (fr : List Byte) (off : Nat) : DSet :=
  (List.range 3).foldl (fun m i => m.setWord (0x10 + i) (BitVec.ofNat 64 (frNat fr (off + 8 * i) 8))) DSet.reset
def frLoop (fr : List Byte) (j : Nat) : Loop :=
  let v := frNat fr (0x4A0 + 32 * j) 32
  { active := v.testBit 192
    start := fld v 151 128
    stop := fld v 175 152
    left := BitVec.ofNat 64 (fld v 63 0)
    target := fld v 181 176
    stride := BitVec.ofNat 64 (fld v 127 64)
    pair := fld v 187 184 }

/-- Directory of a frame (R279). -/
def frDir (fr : List Byte) : Nat := frNat fr 0x8C00 1024
def dirTag (d i : Nat) : Nat := fld d (12 * i + 11) (12 * i)
def dirReg (d i : Nat) : Nat := fld d (8 * 768 + 24 * i + 23) (8 * 768 + 24 * i)
def dirLatch (d i : Nat) : Nat := fld d (8 * 960 + 24 * i + 23) (8 * 960 + 24 * i)
def dirRows (d : Nat) : Nat := fld d (8 * 984 + 9) (8 * 984)
def dirGroups (d : Nat) : Nat := fld d (8 * 984 + 14) (8 * 984 + 10)
def dirGroup (d i : Nat) : Nat := fld d (8 * 986 + 18 * i + 17) (8 * 986 + 18 * i)

/-- Offset that the model gives the bundles whose results a frame holds: the directory keeps none (log entry 15). -/
def frOffset : Nat := 0

/-- Register entries of a frame: results of bundles before the capture, produced already (R388). -/
def frDueRegs (fr : List Byte) : List DueReg :=
  let d := frDir fr
  (List.range 64).filterMap (fun i =>
    let e := dirReg d i
    if e.testBit 23 then
      some ⟨classDest (fld e 22 20) (fld e 19 14), BitVec.ofNat 2048 (frNat fr (0x9000 + 256 * i) 256), fld e 8 0, 0, true, none, frOffset⟩
    else none)
def frDueLatches (fr : List Byte) : List DueLatch :=
  let d := frDir fr
  (List.range 8).filterMap (fun i =>
    let e := dirLatch d i
    if e.testBit 23 then
      some ⟨fld e 22 20, BitVec.ofNat 17408 (frNat fr (0xD000 + 2176 * i) 2176), fld e 8 0, 0, true, none, frOffset⟩
    else none)
def frGroups (fr : List Byte) : List Group :=
  let d := frDir fr
  (List.range (dirGroups d)).map (fun i =>
    let first := fld (dirGroup d i) 17 9
    let next := if i + 1 < dirGroups d then fld (dirGroup d (i + 1)) 17 9 else dirRows d
    { rows := (List.range (next - first)).map (fun j =>
        (dirTag d (first + j), BitVec.ofNat 1024 (frNat fr (0x11400 + 128 * (first + j)) 128)))
      left := fld (dirGroup d i) 8 0
      ready := 0
      old := true
      trap := none
      off := frOffset })

/-- Stream entry of a frame: binding and arrived count. -/
def frStreamEnt (fr : List Byte) (q : Nat) : Option Binding × Nat :=
  let e := frNat fr (frStream + 32 * q) 32
  (if e.testBit 31 then
    some ⟨fld e 20 0, fld e 37 32, fld e 45 40, if e.testBit 48 then some (fld e 51 49, BitVec.ofNat 32 (fld e 95 64)) else none,
      fld e 255 192⟩
   else none, fld e 191 128)
def frGather (fr : List Byte) (ch : Nat) : Option Gather :=
  let e := frNat fr (frStream + 0x200 + 16 * ch) 16
  if e.testBit 31 then some ⟨fld e 35 32, fld e 23 0, fld e 127 64⟩ else none

/-- Captured state of a frame, with issue to begin at `pc` (R35). -/
def frArch (fr : List Byte) (pc : Word) : Arch :=
  let put := fun (n : Nat) (f : Arch → Nat → Arch) (a : Arch) => (List.range n).foldl f a
  let a0 : Arch := { Arch.reset pc with
    bankC := (frNat fr 0x562 1).testBit 0
    mAct := frMSet fr 0x400
    mSh := frMSet fr 0x438
    dAct := frDSet fr 0x470
    dSh := frDSet fr 0x488
    idle := BitVec.ofNat 16 (frNat fr 0x560 2)
    dueRegs := frDueRegs fr
    dueLatches := frDueLatches fr
    groups := frGroups fr }
  let a1 := put 64 (fun a i => a.wrS i (BitVec.ofNat 64 (frNat fr (8 * i) 8))) a0
  let a2 := put 24 (fun a i => a.wrP i ((frNat fr 0x200 8).testBit i)) a1
  let a3 := put 16 (fun a i => a.wrK i (BitVec.ofNat 64 (frNat fr (0x208 + 8 * i) 8))) a2
  let a4 := put 8 (fun a i => a.wrH i (BitVec.ofNat 256 (frNat fr (0x300 + 32 * i) 32))) a3
  let a5 := put 64 (fun a i => a.wrV i (BitVec.ofNat 2048 (frNat fr (0x800 + 256 * i) 256))) a4
  let a6 := put 8 (fun a i => a.wrW i (BitVec.ofNat 17408 (frNat fr (0x4800 + 2176 * i) 2176))) a5
  let a7 := put 6 (fun a i => a.wrLoop i (frLoop fr i)) a6
  let a8 := put 256 (fun a i => a.wrF i (BitVec.ofNat 16 (frNat fr (frCounter + 2 * i) 2))) a7
  let a9 := put 32 (fun a i => a.wrTb i (BitVec.ofNat 27 (frNat fr (frCounter + 0x200 + 4 * i) 4))) a8
  let b0 := put 8 (fun a i => a.wrId i (BitVec.ofNat 32 (frNat fr (frCounter + 0x280 + 8 * i) 4))) a9
  let b1 := put 16 (fun a i => a.wrQ i (frStreamEnt fr i).1) b0
  put 8 (fun a i => a.wrG i (frGather fr i)) b1

/-- The scratch value that a frame keeps (R32). -/
def frScratch (fr : List Byte) : Nat := frNat fr 0x568 8

/-! The checks of R33. -/

/-- An entry of the wait block with its unused bytes zero and its index within its file. -/
def waitEntOk (w : WaitEnt) : Bool :=
  let noAddr := w.addr == 0 && w.operand == 0
  match w.kind with
  | 1 => w.cond == 0 && w.phase == 0 && 1 ≤ w.value && w.value ≤ 255 && noAddr
  | 2 => w.cond == 0 && w.phase == 0 && w.value == 0 && w.index ≤ 15 && noAddr
  | 3 => w.cond == 0 && w.phase ≤ 1 && w.value == 0 && w.index ≤ 31 && noAddr
  | 4 => w.cond == 0 && w.phase == 0 && w.index ≤ 7 && noAddr
  | 5 => w.cond ≤ 5 && w.index == 0 && w.phase == 0 && w.value == 0
  | 6 => w.cond == 0 && w.index == 0 && w.phase == 0 && w.value == 0
  | 9 => w.cond ≤ 5 && w.phase == 0 && w.value ≤ 65535 && noAddr
  | _ => false

/-- The wait block matches the record's wait kind. -/
def waitBlockOk (fr : List Byte) (kind : Nat) : Bool :=
  let w := frNat fr frWait 120
  let n := fld w 31 24
  if kind = 8 then
    1 ≤ n && n ≤ 4 && fld w 63 32 == 0 && frZero fr (frWait + 104) 16 && frZero fr (frWait + 8 + 24 * n) (24 * (4 - n)) &&
      (List.range n).all (fun j => waitEntOk (waitEntry (fld w (64 + 192 * j + 191) (64 + 192 * j))))
  else w == 0

/-- A loop level of a frame. -/
def loopOk (fr : List Byte) (j : Nat) : Bool :=
  let v := frNat fr (0x4A0 + 32 * j) 32
  let l := frLoop fr j
  fld v 255 193 == 0 && fld v 191 188 == 0 && fld v 183 182 == 0 &&
  (!l.active || (l.start ≤ l.stop && l.stop - l.start < 256 && 1 ≤ l.pair && l.pair ≤ 11))

/-- The engine and control area. -/
def engineOk (fr : List Byte) : Bool :=
  (List.range 7).all (fun i => engWordOk i (frNat fr (0x400 + 8 * i) 8) && engWordOk i (frNat fr (0x438 + 8 * i) 8)) &&
  (List.range 3).all (fun i => engWordOk (0x10 + i) (frNat fr (0x470 + 8 * i) 8) &&
    engWordOk (0x10 + i) (frNat fr (0x488 + 8 * i) 8)) &&
  (List.range 6).all (loopOk fr) && frNat fr 0x562 1 ≤ 1 && frZero fr 0x563 5 && fld (frScratch fr) 11 0 == 0 &&
  fld (frScratch fr) 63 48 == 0 && frZero fr 0x570 656

/-- A valid register entry of the directory: zero bits, its class and number, no payload byte beyond its width (R33). -/
def dirRegOk (fr : List Byte) (d i : Nat) : Bool :=
  let e := dirReg d i
  let c := fld e 22 20
  let n := fld e 19 14
  let p := frNat fr (0x9000 + 256 * i) 256
  !e.testBit 23 ||
    (fld e 13 9 == 0 && 1 ≤ fld e 8 0 && p < 2 ^ ((classBits c + 7) / 8 * 8) &&
      (c != 1 || p.testBit 0 != p.testBit 1) &&
      (match c with
       | 0 => true
       | 1 => n % 2 == 0 && 2 ≤ n && n ≤ 22
       | 2 => n ≤ 15
       | 3 => true
       | 4 => n ≤ 7
       | 5 => selNumbers.contains n
       | 6 => n == 0
       | _ => false))
def dirLatchOk (d i : Nat) : Bool :=
  let e := dirLatch d i
  !e.testBit 23 || (fld e 19 9 == 0 && 1 ≤ fld e 8 0)

/-- The due-queue directory. -/
def dirOk (fr : List Byte) : Bool :=
  let d := frDir fr
  let n := dirRows d
  let g := dirGroups d
  n ≤ 512 && g ≤ 16 && (n == 0) == (g == 0) && !d.testBit (8 * 984 + 15) && fld d (8 * 1024 - 1) (8 * 1022) == 0 &&
  (List.range g).all (fun i =>
    let first := fld (dirGroup d i) 17 9
    1 ≤ fld (dirGroup d i) 8 0 && first < n && (if i = 0 then first == 0 else fld (dirGroup d (i - 1)) 17 9 < first)) &&
  (List.range 64).all (dirRegOk fr d) && (List.range 8).all (dirLatchOk d)

/-- Stream and gather entries. -/
def streamOk (fr : List Byte) (q : Nat) : Bool :=
  let e := frNat fr (frStream + 32 * q) 32
  let slots := fld e 37 32 + 1
  let units := fld e 45 40
  fld e 30 21 == 0 && fld e 39 38 == 0 && fld e 47 46 == 0 && fld e 63 52 == 0 && fld e 127 96 == 0 &&
  fld e 255 192 ≤ fld e 191 128 && (!e.testBit 48 || e.testBit 31) &&
  (!e.testBit 31 || (2 ≤ slots && 1 ≤ units && fld e 20 0 + slots * 64 * units ≤ actBytes))
def gatherOk (fr : List Byte) (ch : Nat) : Bool :=
  let e := frNat fr (frStream + 0x200 + 16 * ch) 16
  fld e 30 24 == 0 && fld e 63 36 == 0 &&
  (!e.testBit 31 || (frNat fr (frStream + 32 * fld e 35 32) 32).testBit 31)

/-- A frame that a placement may restore (R33). -/
def frameOkFor (fr : List Byte) (kind : Nat) : Bool :=
  frZero fr 0 8 && fld (frNat fr 0x200 8) 63 24 == 0 && waitBlockOk fr kind && engineOk fr && dirOk fr &&
  (List.range 16).all (streamOk fr) && (List.range 8).all (gatherOk fr) && frZero fr (frStream + 0x280) 3456 &&
  (List.range 32).all (fun i => fld (frNat fr (frCounter + 0x200 + 4 * i) 4) 31 27 == 0) &&
  frZero fr (frCounter + 0x2C0) 320 && frZero fr 0x22800 6144

/-! The free-frame queue (R31, R278). -/

/-- Key of a job's free-frame queue descriptor (R303). -/
def freeFrameKey (s : State) (job : Nat) : Option Nat := devKey s job (jobField s job 327 280) true

/-- A job's queue whose descriptor stands in a frame that nobody writes is left as it is, and the job hears of it (R301). -/
def queueRefused (s : State) (job va : Nat) : State :=
  match devKey s job va false with
  | some k => if markedFrame s k then postNotice s job nkFault va srcDevice else s
  | none => s

/-- Takes a frame; malformed entries are discarded. -/
def takeFrame (job dk : Nat) : Nat → State → State × Option Nat
  | 0, s => (s, none)
  | n + 1, s =>
    let r := s.desc dk
    if !rdOk r || rdKind r ≠ 2 || rdCount r = 0 then (s, none)
    else match devRead s job (rdBase r + rdRead r % 2 ^ rdLog2 r * 8) 8 with
      | none => (s, none)
      | some bs =>
        let v := leNat bs
        let s0 := devMeet s job none (rdBase r + rdRead r % 2 ^ rdLog2 r * 8) 8
        let s1 := s0.setDesc dk (setFld r 447 384 (rdRead r + 1))
        if fld v 63 48 = 0 && fld v 11 0 = 0 && (firstUnwritable s1 job v Config.frameBytes).isNone then (s1, some v)
        else takeFrame job dk n (postNotice s1 job nkSpillEmpty v 0)

/-- A frame for a save, with the notice of an empty episode (R31). -/
def frameFor (s : State) (job : Nat) : State × Option Nat :=
  let r := match freeFrameKey s job with
    | none => (queueRefused s job (jobField s job 327 280), none)
    | some k => takeFrame job k (rdCount (s.desc k) % 2 ^ 21) s
  match r.2, r.1.job job with
  | none, some j => if j.empty then (r.1, none)
      else (postNotice (r.1.setJob job (some { j with empty := true })) job nkSpillEmpty 0 0, none)
  | some f, some j => (r.1.setJob job (some { j with empty := false }), some f)
  | x, none => (r.1, x)

/-- A frame goes back to its job's queue (R31, R33). -/
def returnFrame (s : State) (job fr : Nat) : State :=
  match freeFrameKey s job with
  | none => queueRefused s job (jobField s job 327 280)
  | some k =>
    let r := s.desc k
    if !rdOk r || rdKind r ≠ 2 then s
    else (devWrite s job none (rdBase r + rdWrite r % 2 ^ rdLog2 r * 8) (leBytes 8 fr)).setDesc k
      (setFld r 511 448 (rdWrite r + 1))

/-- Whether a job's queue holds an entry, well-formed or not. -/
def frameWaits (s : State) (job : Nat) : Bool := match freeFrameKey s job with
  | some k => let r := s.desc k; rdOk r && rdKind r == 2 && 0 < rdCount r
  | none => false

/-- Writes a frame. -/
def writeFrame (s : State) (job fr : Nat) (bs : List Byte) : State := devWrite s job none fr bs

end Sys2Proof.Machine
end

