-- ==== Sys2Proof/Machine/Tick.lean ====
section
/-! DEFINITION. What the start of a tick brings: results landing (R46, R48, R200, R369, R395), the checkpoint's capture
(R66, R171, R348) and the release of withheld entries (R198, R223, R268). -/
namespace Sys2Proof.Machine

/-! Landing. -/

/-- Entries due at the start of this tick, in the order of the queue: registers, latches, groups, then what lands at
t + 1 in no class (the sequencer's updates and the ECC of a buffer-form MDRAIN, R132, R188). -/
def dueTraps (a : Arch) : List (Bool × Option TrapInfo) :=
  (a.dueRegs.filter (·.left == 0)).map (fun d => (d.old, d.trap)) ++
  (a.dueLatches.filter (·.left == 0)).map (fun d => (d.old, d.trap)) ++
  (a.groups.filter (·.left == 0)).map (fun d => (d.old, d.trap)) ++
  (a.seqDue.filter (·.left == 0)).map (fun d => (d.old, d.trap))

/-- Offsets of the bundles that issued the entries of `dueTraps`. -/
def dueOffsets (a : Arch) : List Nat :=
  (a.dueRegs.filter (·.left == 0)).map (·.off) ++ (a.dueLatches.filter (·.left == 0)).map (·.off) ++
  (a.groups.filter (·.left == 0)).map (·.off) ++ (a.seqDue.filter (·.left == 0)).map (·.off)

/-- Something is due at the start of this tick. -/
def anyDue (a : Arch) : Bool :=
  a.dueRegs.any (·.left == 0) || a.seqDue.any (·.left == 0) || a.dueLatches.any (·.left == 0) || a.groups.any (·.left == 0)

/-- Every result due has been produced (R48, R395). -/
def produced (cycle : Nat) (a : Arch) : Bool :=
  a.dueRegs.all (fun d => d.left != 0 || d.ready ≤ cycle) && a.dueLatches.all (fun d => d.left != 0 || d.ready ≤ cycle) &&
  a.groups.all (fun d => d.left != 0 || d.ready ≤ cycle)

/-- Accumulator rows due now, in issue order. -/
def rowsDue (a : Arch) : List (Nat × Row) := ((a.groups.filter (·.left == 0)).map (·.rows)).flatten

/-- Landings due now need more rows of the undo log than are free (R199, R200). -/
def undoFull (c : Ctx) : Bool :=
  let new := ((rowsDue c.arch).map (·.1)).eraseDups.filter (fun r => !c.undo.any (·.1 == r))
  Config.undoRows < c.undo.length + new.length

/-- A withheld store no longer holds bytes of a row that lands over it (R181). A store issued with the MZERO of its own bundle is not cut:
it remains over the zeros (log entry 80). -/
def cutStores (k : Nat) (tick : Nat) (l : List WEntry) : List WEntry :=
  l.map (fun e => match e with
    | .store t bs => if t.toNat + 2 ≤ tick then .store t (bs.filter (fun b => b.1 < k || k + 128 ≤ b.1)) else e
    | .cmd _ _ => e)

/-- One row lands: logged first where asked and not logged already (R200). -/
def landRow (core x : Nat) (log : Bool) (s : State) (r : Nat × Row) : State :=
  let c := s.ctx core x
  let k := accKey core (128 * r.1)
  let u := if log && !c.undo.any (·.1 == r.1) then (r.1, BitVec.ofNat 1024 (leNat (s.bytes k 128))) :: c.undo else c.undo
  let s1 := s.setCtx core x { c with undo := u, withhold := cutStores k c.arch.tick.toNat c.withhold }
  s1.put k (leBytes 128 r.2.toNat)

/-- Registers and latches land: in the queue's order, so that the later issued remains, then the sequencer's (R111). -/
def landRegs (a : Arch) : Arch :=
  let a1 := (a.dueRegs.filter (·.left == 0)).foldl Arch.land a
  let a2 := (a.dueLatches.filter (·.left == 0)).foldl (fun a d => a.wrW d.w d.val) a1
  let a3 := (a.seqDue.filter (·.left == 0)).foldl Arch.land a2
  { a3 with
    dueRegs := a.dueRegs.filter (·.left != 0)
    seqDue := a.seqDue.filter (·.left != 0)
    dueLatches := a.dueLatches.filter (·.left != 0)
    groups := a.groups.filter (·.left != 0) }

/-- Everything due at the start of this tick lands. -/
def landAll (s : State) (core x : Nat) (log : Bool) : State :=
  let rows := rowsDue (s.ctx core x).arch
  let s1 := rows.foldl (landRow core x log) s
  let c := s1.ctx core x
  s1.setCtx core x { c with arch := landRegs c.arch }

/-- One tick passes for every entry of the due queue. -/
def stepDue (a : Arch) : Arch :=
  { a with
    dueRegs := a.dueRegs.map (fun d => { d with left := d.left - 1 })
    seqDue := a.seqDue.map (fun d => { d with left := d.left - 1 })
    dueLatches := a.dueLatches.map (fun d => { d with left := d.left - 1 })
    groups := a.groups.map (fun d => { d with left := d.left - 1 }) }

/-- A result of a bundle before the last checkpoint. -/
def markOld (a : Arch) : Arch :=
  { a with
    dueRegs := a.dueRegs.map (fun d => { d with old := true })
    dueLatches := a.dueLatches.map (fun d => { d with old := true })
    groups := a.groups.map (fun d => { d with old := true }) }

/-! Release (R198). -/

/-- Key of the code word at an address within an array (R209). -/
def keyOfArray (id addr : Nat) : Nat :=
  let core := id % 4096 / 256 * 68 + id % 128
  match id / 4096 with
  | 0 => actKey core (addr / 8 * 8)
  | 1 => accKey core (addr / 8 * 8)
  | 2 => wtKey core (addr / 64 * 64)
  | 7 => addr / 64 * 64
  | _ => arrKey id (addr / 8 * 8)

/-- ERRINJ_ARM (R223): at once, or armed for the next write of the location. -/
def armInjection (s : State) (id addr : Nat) (mask : Word) (kind : Nat) (now : Bool) : State :=
  let j : Inj := ⟨keyOfArray id addr, kind, mask⟩
  if !now then { s with inject := Tab.set none s.inject id (some j) }
  else if id / 4096 = 8 then parityApply s (id % 4096) j
  else applyInjection s j.key kind mask

/-- Runs of adjoining bytes. -/
def runsOf : List (Nat × Byte) → List (Nat × List Byte)
  | [] => []
  | b :: bs => match runsOf bs with
    | (k, l) :: r => if k = b.1 + 1 then (b.1, b.2 :: l) :: r else (b.1, [b.2]) :: (k, l) :: r
    | [] => [(b.1, [b.2])]

/-- A released store reaches its buffer (R227). -/
def applyStore (s : State) (bs : List (Nat × Byte)) : State := (runsOf bs).foldl (fun s r => s.put r.1 r.2) s

/-- An image read at its release: its errors are met as a read of the core's, and what an uncorrectable one leaves of its
bytes is open (R208, R227, log entry 23). -/
def releaseImage (s : State) (core x a n : Nat) : State × Nat :=
  let r := readChecked s (actKey core a) n (ctxConsumer s core x)
  if r.2.isSome then
    let l := (List.range (n / 64)).map (fun i => (Config.freeValue (r.1.freeCtr + i)).toNat % 2 ^ 512)
    ({ r.1 with freeCtr := r.1.freeCtr + n / 64 + 1 }, joinElems 512 l)
  else (r.1, leNat (r.1.bytes (actKey core a) n))

/-- The operands that a command reads at its release (R227). -/
def atRelease (s : State) (core x : Nat) (k : CmdKind) : State × CmdKind :=
  let with' := fun a n (f : Nat → CmdKind) =>
    let r := releaseImage s core x a n
    (r.1, f r.2)
  match k with
  | .cpy a sc tb q => with' a 64 (fun v => .cpy v sc tb q)
  | .gath a n sc tb q => with' a 64 (fun v => .gath v n sc tb q)
  | .qapp d a sc => with' a 64 (fun v => .qapp d v sc)
  | .kvref a sc tb => with' a 64 (fun v => .kvref v sc tb)
  | .kvapp a n sc t sp => with' a (16 * n) (fun v => .kvapp v n sc t sp)
  | k => (s, k)

/-- SREL's release (R268): a copy still attached ends, and what has arrived is discarded. -/
def releaseStream (s : State) (core : Nat) (c : Cmd) (q : Nat) (att : Option (Nat × BitVec 32)) : State :=
  let x := s.ctx core c.ctx
  let s1 := s.setCtx core c.ctx { x with arrived := Tab.set 0 x.arrived q 0 }
  match att with
  | none => s1
  | some (ch, id) =>
    match (s1.core core).cmds.find? (fun k => k.hasId && k.ctx == c.ctx && k.ch == ch && k.id == id && k.owner == c.owner) with
    | some k => abortCmd s1 core k 0x12
    | none => s1

/-- A released entry that is a store is performed. -/
def releaseStore (s : State) (e : WEntry) : State := match e with
  | .store _ bs => applyStore s bs
  | .cmd _ _ => s

/-- A released entry that is a command is handed to its channel, or has its effect. -/
def releaseCmd (core x : Nat) (s : State) (e : WEntry) : State := match e with
  | .store _ _ => s
  | .cmd _ c => match c.kind with
    | .errinj id addr mask kind now => armInjection s id addr mask kind now
    | .srel q att => releaseStream s core c q att
    | k =>
      let r := atRelease s core x k
      let co := r.1.core core
      r.1.setCore core { co with cmds := co.cmds ++ [{ c with seq := co.nextSeq, kind := r.2 }], nextSeq := co.nextSeq + 1 }

/-- Withheld entries are to be released at the end of the cycle (R198, R227). -/
def hold (s : State) (core x : Nat) : State :=
  let c := s.ctx core x
  s.setCtx core x { c with withhold := [], releasing := c.releasing ++ c.withhold }

/-- The commands among released entries are handed over in program order; those still to come stay open (R354). -/
def releaseCmds (core x : Nat) : List WEntry → State → State
  | [], s => s
  | e :: rest, s => releaseCmds core x rest (releaseCmd core x (s.setCtx core x { s.ctx core x with releasing := rest }) e)

/-- WITHHOLD_RELEASE: at the end of the cycle the stores that its checkpoints and suspensions release are performed, then the
commands are handed over, each in program order (R198, R227). -/
def release (s : State) (core : Nat) : State :=
  let a := (s.ctx core 0).releasing
  let b := (s.ctx core 1).releasing
  if a.isEmpty && b.isEmpty then s
  else dropFences (releaseCmds core 1 b (releaseCmds core 0 a ((a ++ b).foldl releaseStore s))) core

/-! Checkpoints (R66, R199). -/

/-- CHECKPOINT_CAPTURE: the state at the start of the tick; stream slots consumed by then are free (R171). -/
def capture (s : State) (core x : Nat) : State :=
  let c := s.ctx core x
  let a := markOld c.arch
  (arrayWritten s (ctxArrayKey 6 core x) ctxArrayBytes).setCtx core x { c with
    arch := a
    shadow := a
    ckpt := BitVec.ofNat 64 (2 ^ 63 + a.pc.toNat)
    outside := []
    undo := []
    bundleCkpt := false }

/-- A checkpoint at the start of this tick (R66, R198). -/
def checkpoint (s : State) (core x : Nat) : State := hold (capture s core x) core x

/-- A checker's trip (R363, R369): the core is charged, and the trip is taken against the result that failed. One that names no result
due is an address adder's, taken at the tick that is about to issue, before any access; but where a pinned unit is being stopped, an
engine's is one on the results that R388 has it write into the frame, and leads to an interval rollback. -/
def takeTrip (s : State) (core x : Nat) (t : Trip) : State :=
  let c := s.ctx core x
  let a := c.arch
  let old := match (dueTraps a)[t.entry]? with
    | some e => e.1
    | none => (c.preempt || c.leaseStop) && c.mode.getLsbD 4 && (t.code == 5 || t.code == 6)
  let s1 := trimError (chargeCore s (clusterOf core) core 64) (clusterOf core) core true
  takeTrap s1 core x ⟨.pipe, t.code, t.slot, (dueOffsets a).getD t.entry a.pc.toNat, BitVec.ofNat 64 t.tval, 0⟩ old

/-- What is due lands, or the first trap among it is taken. Where the undo log has no room the tick becomes a forced
checkpoint (R199, R200). -/
def landing (s : State) (core x : Nat) : State :=
  let c := s.ctx core x
  if !anyDue c.arch || !produced (s.core core).cycle c.arch then s
  else match (dueTraps c.arch).findSome? (·.2) with
    | some t => takeTrap s core x t false
    | none => if undoFull c then checkpoint (landAll s core x false) core x else landAll s core x true

end Sys2Proof.Machine
end

