-- ==== Sys2Proof/Machine/Stops.lean ====
section
/-! DEFINITION. How a unit leaves its context (R34): suspension (R275, R276), long waits (R49), pre-emption of a pinned
unit (R379, R388), the stop after repeated replay (R370), removal (R374) and the interval rollback (R373). -/
namespace Sys2Proof.Machine

/-! Records of stopping units. -/

/-- The record of a context's unit; one that cannot be read is composed from what the context holds. -/
def recordOf (s : State) (c : Ctx) : Nat :=
  (readRecord s c.job c.recAddr).getD
    (c.job % 2 ^ 16 * 2 ^ 85 + c.launch % 2 ^ 16 * 2 ^ 69 + c.index % 2 ^ 22 * 2 ^ 47 + c.basePrio % 8 * 2 ^ 44)

/-- A record written on behalf of a context (R372). -/
def writeRecordFor (s : State) (job : Nat) (who : Nat) (va r : Nat) : State :=
  devWrite (devMeet s job (some who) va 64) job (some who) va (leBytes 64 r)

/-- A unit that has stopped: READY units are queued, units held back are SUSPENDED (R36, R51). -/
def settleStop (s : State) (job va : Nat) : State :=
  match readRecord s job va with
  | none => s
  | some r =>
    if crState r = usReady then enqueueUnit s job va
    else if crState r = usWaiting && heldBack s job r then writeRecord s job va (crSet r usSuspended (crReason r))
    else s

/-- A soft cancel that was pending when the unit stopped ends it (R53). -/
def settleCancel (s : State) (job va : Nat) (cancel : Bool) : State :=
  if !cancel then s
  else match readRecord s job va with
    | some r => cancelUnit s job va r false
    | none => s

/-- A context is vacated: its loaded dictionaries lose their protection (R57). -/
def vacate (s : State) (core x : Nat) : State :=
  let co := s.core core
  let ds := co.dicts.map (fun (d : Dict) => if d.ctx = x then { d with issued := 64 } else d)
  (s.setCore core { co with dicts := ds }).freeCtx core x

/-- A context's counters are cleared (R374 step 3). -/
def clearCounters (s : State) (core x : Nat) : State :=
  let c := s.ctx core x
  s.setCtx core x { c with arch := { c.arch with f := [], tb := [], nextId := [] }, status := [] }

/-- The reservation of a pinned unit that stops (R48): the ranges of its current segment. -/
def reserve (s : State) (core : Nat) (c : Ctx) : State :=
  let co := s.core core
  let a := actBounds c.cart.toNat
  let b := accBounds c.cart.toNat
  s.setCore core { co with resv := co.resv.filter (fun v => !(v.job == c.job && v.recAddr == c.recAddr)) ++
    [⟨c.job, c.recAddr, a.1, a.2, b.1, b.2⟩] }

/-- A unit ends on its context: its record, its launch's counter, its context. -/
def endUnit (s : State) (core x : Nat) (state reason : Nat) : State :=
  let c := s.ctx core x
  let who := ctxIdOf s core x
  let s1 := writeRecordFor s c.job who c.recAddr (crSet (recordOf s c) state reason)
  sendBundle (unitEnded (vacate (clearCounters (unreserve s1 c.job c.recAddr) core x) core x) c.job c.launch (some who)
    (state == usCancelled)) c.job

/-! SUSPEND and YIELD (R275, R276). -/

/-- An open gather still has pushes to come (R272). -/
def gatherPending (a : Arch) : Bool := (List.range 8).any (fun ch => match a.rdG ch with
  | some g => g.remaining != 0
  | none => false)

/-- A suspension takes effect: kind and operand of the wait, live map, done, the offset after the bundle. It releases
the withheld entries and clears the undo log (R197, R198). -/
def suspendNow (s : State) (f : CS) (isYield : Bool) : State :=
  if gatherPending s.arch then raiseTrap s 0xFF0B
  else
    let next := (s.arch.pc + BitVec.ofNat 64 (bundleLen s)).toNat
    let k : Susp := ⟨f.waitKind.val, f.waitOperand.toNat, f.live.toNat, f.done, isYield, next⟩
    let s1 := s.setMe { s.me with run := .suspending k, undo := [] }
    hold s1 s.cur.core s.cur.ctx

/-- SUSPEND (R276). -/
def execSuspend (f : CS) (s : State) : Res := .next (suspendNow s f false)

/-- YIELD: a polled one acts only on a request pending at its issue (R67). -/
def execYield (f : CS) (s : State) : Res :=
  .next (if s.cur.susp && !(s.me.preempt || s.me.softCancel || s.me.leaseStop) then s else suspendNow s f true)

/-- Ticks of empty bundles until nothing is due; with `quiet` the landings' traps are suppressed (R276, R374). -/
def drain (core x : Nat) (quiet : Bool) : Nat → State → State
  | 0, s => s
  | n + 1, s =>
    let c := s.ctx core x
    let a := c.arch
    match (if quiet then none else (dueTraps a).findSome? (·.2)) with
    | some t => takeTrap s core x t false
    | none =>
      let s1 := landAll s core x (!quiet)
      let c1 := s1.ctx core x
      if c1.arch.dueRegs.isEmpty && c1.arch.seqDue.isEmpty && c1.arch.dueLatches.isEmpty && c1.arch.groups.isEmpty then s1
      else drain core x quiet n (s1.setCtx core x { c1 with arch := stepDue c1.arch })

/-- Commands of a context's unit that have not completed. -/
def unitCmds (s : State) (core x : Nat) : List Cmd :=
  let c := s.ctx core x
  (s.core core).cmds.filter (fun k => k.ctx == x && k.job == c.job && k.owner == c.recAddr)

/-- The record of a suspension (R276). -/
def suspendRecord (s : State) (c : Ctx) (f : Susp) (state reason : Nat) : Nat :=
  let r := recordOf s c
  let live := joinElems 64 ((List.range 5).map (fun i => (c.arch.rdS (fld f.live (6 * i + 5) (6 * i))).toNat))
  crSet (setFld (setFld (setFld (setFld (setFld (setFld (setFld r 511 192 live) 191 156 (fld c.spill.toNat 47 12)) 155 155 0)
    154 125 f.live) 124 101 f.next) 23 20 f.waitKind) 19 0 f.operand) state reason

/-- The suspension is written and the context freed. -/
def suspended (s : State) (core x : Nat) (f : Susp) : State :=
  let c := s.ctx core x
  let who := ctxIdOf s core x
  let pinned := crPinned (recordOf s c)
  if f.done then
    let s1 := writeRecordFor s c.job who c.recAddr (suspendRecord s c f usDone 1)
    sendBundle (unitEnded (vacate (unreserve s1 c.job c.recAddr) core x) c.job c.launch (some who) false) c.job
  else if c.softCancel then
    let s1 := writeRecordFor s c.job who c.recAddr (suspendRecord s c f usCancelled 5)
    sendBundle (unitEnded (vacate (unreserve s1 c.job c.recAddr) core x) c.job c.launch (some who) true) c.job
  else
    let reason := if !f.isYield then 1 else if c.preempt && !pinned then 4 else if c.leaseStop && !pinned then 7 else 2
    let s1 := writeRecordFor s c.job who c.recAddr (suspendRecord s c f usReady reason)
    let w := match readRecord s1 c.job c.recAddr with
      | some r => testWait s1 c.job r
      | none => (s1, true)
    let s2 := if w.2 then w.1 else writeRecordFor w.1 c.job who c.recAddr (suspendRecord s c f usWaiting reason)
    let s3 := if pinned then reserve s2 core c else s2
    sendBundle (settleStop (vacate s3 core x) c.job c.recAddr) c.job

/-- SUSPENSION_COMPLETE (R276): every result has landed and every command has completed. -/
def execSuspensionComplete (core x : Nat) (s : State) : Res :=
  let c := s.ctx core x
  .next (match c.run with
    | .suspending f =>
      if s.power ≠ .on || c.frozen || !(unitCmds s core x).isEmpty then s
      else
        let s1 := drain core x false 1024 s
        match (s1.ctx core x).run with
        | .suspending _ => suspended s1 core x f
        | _ => s1
    | _ => s)

/-! Stops with a frame. -/

/-- A unit's state is saved into a frame, and its record says so (R28, R35). -/
def saveToFrame (s : State) (core x fr : Nat) (a : Arch) (wait : List Byte) (state reason resume kind : Nat) : State :=
  let c := s.ctx core x
  let who := ctxIdOf s core x
  let s1 := writeFrame s c.job fr (frameBytes c a wait)
  let r := setFld (setFld (setFld (setFld (setFld (recordOf s c) 191 156 (fr / 4096)) 155 155 1) 124 101 resume) 23 20 kind) 19 0 0
  let s2 := writeRecordFor s1 c.job who c.recAddr (crSet r state reason)
  let s3 := if crPinned r then reserve s2 core c else s2
  sendBundle (settleCancel (settleStop (vacate s3 core x) c.job c.recAddr) c.job c.recAddr c.softCancel) c.job

/-- A job that a migration stops: every unit of it stops into a frame (R417). -/
def jobMigrating (s : State) (job : Nat) : Bool := match s.job job with
  | some j => j.migrating
  | none => false
/-- A job whose units a migration or a safe checkpoint stops: the stop is asked for until it is made (R417, R420). -/
def jobStopping (s : State) (job : Nat) : Bool := match s.job job with
  | some j => j.migrating || j.saving
  | none => false

/-! Removal and interval rollback. -/

/-- Removal steps 1 and 2 (R374): results land, entries are discarded, commands are flushed from the newest. -/
def flushUnit (s : State) (core x : Nat) : State :=
  let s1 := drain core x true 1024 s
  let s2 := s1.setCtx core x { s1.ctx core x with withhold := [] }
  let c := s2.ctx core x
  let s3 := ((unitCmds s2 core x).reverse).foldl (fun s k => flushCmd s core k 0x13) s2
  let co := s3.core core
  s3.setCore core { co with addrQ := (List.range 8).foldl (fun q ch => Tab.set [] q (addrQKey c.job c.recAddr ch) []) co.addrQ }

/-- Physical 64-byte sector of a record. -/
def recordSector (s : State) (job va : Nat) : Option Nat := (walk s (jobAsid s job) va 0 false).map (·.addr / 64)

/-- Contexts that run units of a job. -/
def contextsOf (s : State) (job : Nat) : List (Nat × Nat) :=
  (s.cores.map (fun k => (if k.2.ctx0.live && k.2.ctx0.job == job then [(k.1, 0)] else []) ++
    (if k.2.ctx1.live && k.2.ctx1.job == job then [(k.1, 1)] else []))).flatten

/-- A restored record is placed afresh as its state says; one that was RUNNING is READY with reason ROLLBACK. -/
def replace (s : State) (job va : Nat) : State :=
  match readRecord s job va with
  | none => s
  | some r =>
    if crState r = usRunning then
      enqueueUnit (writeRecord (dequeueUnit s job va) job va (crSet r usReady 6)) job va
    else if crState r = usReady then enqueueUnit (dequeueUnit s job va) job va
    else if crState r = usWaiting then dequeueUnit s job va
    else s

/-- INTERVAL_ROLLBACK (R373). -/
def intervalRollback (s : State) (core x : Nat) : State :=
  let c := s.ctx core x
  let who := ctxIdOf s core x
  let s1 := flushUnit s core x
  let ents : List LogEnt := match s1.job c.job with
    | some j => j.log.filter (fun e => e.ctx == who)
    | none => []
  let s2 := (ents.reverse).foldl (fun s e => s.put (64 * e.sector) e.old) s1
  let sectors := ents.map (·.sector)
  let hit := fun (va : Nat) => match recordSector s2 c.job va with
    | some k => sectors.contains k
    | none => false
  let others := (contextsOf s2 c.job).filter (fun p => p != (core, x) && hit (s2.ctx p.1 p.2).recAddr)
  let s3 := others.foldl (fun s p => flushUnit s p.1 p.2) s2
  let mark := match s3.job c.job with
    | some j => j.marks
    | none => 0
  let s4 := match s3.job c.job with
    | some j => s3.setJob c.job (some { j with log := j.log.filter (fun e => e.ctx != who) })
    | none => s3
  let s5 := others.foldl (fun s p => vacate (clearCounters s p.1 p.2) p.1 p.2) (vacate (clearCounters s4 core x) core x)
  let vas := ((jobRecords s5 c.job).filter hit ++ [c.recAddr]).eraseDups
  let s6 := vas.foldl (fun s va => replace s c.job va) s5
  sendBundle (emitEvent (settleCancel s6 c.job c.recAddr c.softCancel) 0x8002 (some c.job) [who, mark]) c.job

/-- The first pending trap of a result in flight. -/
def firstTrap (a : Arch) : Option TrapInfo :=
  (a.dueRegs.map (·.trap) ++ a.dueLatches.map (·.trap) ++ a.groups.map (·.trap) ++ a.seqDue.map (·.trap)).findSome? id
/-- A result in flight bears a trap, which a frame cannot hold (log entry 27). -/
def trapsDue (a : Arch) : Bool := (firstTrap a).isSome

/-- A save meets a result in flight that bears a trap: as R369 and R388 give for a trip on a result that a checkpoint or a
frame would hold, no record is written READY, and the context is rolled back by interval (log entry 27). -/
def saveTrapped (s : State) (core x : Nat) (a : Arch) : State :=
  let c := s.ctx core x
  intervalRollback (s.setCtx core x (match firstTrap a with
    | some t => c.recordTrap t
    | none => c)) core x

/-- What a trap leads to within its own step: an interval rollback (R373). -/
def afterTrap (s : State) (core x : Nat) : State :=
  if (s.ctx core x).run = .removing .interval then intervalRollback s core x else s

/-- LONG_WAIT_SUSPEND (R49). A frame that an interval rollback leaves without use goes back to its queue (log entry 76). -/
def execLongWaitSuspend (core x : Nat) (s : State) : Res :=
  let c := s.ctx core x
  .next (if s.power ≠ .on || c.run ≠ .running || c.halted || c.frozen || c.clock < Config.longWait || c.unmet.isEmpty then s
    else if trapsDue c.shadow then saveTrapped s core x c.shadow
    else match frameFor s c.job with
      | (s1, none) => s1.setCtx core x { s1.ctx core x with clock := 0 }
      | (s1, some fr) =>
        let r := readShadow s1 core x
        if r.2 then intervalRollback (returnFrame r.1 c.job fr) core x
        else
        let s2 := rollback r.1 core x
        let c2 := s2.ctx core x
        saveToFrame s2 core x fr c2.arch (waitBlock c.arch.pc.toNat c.unmet) usWaiting 3 (c2.ckpt.toNat % 2 ^ 24) 8)

/-- A stop that saves the unit's state is asked for: a pre-emption of a pinned unit or of one whose job migrates (R379, R417), the
stop of a pinned unit for a lease, and that of an unpinned unit that is halted on a leased core (R380, R384). -/
def saveAsked (s : State) (c : Ctx) : Bool :=
  let pinned := crPinned (recordOf s c)
  c.run == .running && !c.frozen && ((c.preempt && (pinned || jobMigrating s c.job)) ||
    (c.leaseStop && (if pinned || jobMigrating s c.job then !c.halted else c.halted)))

/-- The state of a context goes into a frame at a bundle boundary, after a checkpoint there that releases what is withheld (R379,
R388). A soft cancel supersedes a pre-emption (R51). -/
def saveAtBoundary (s : State) (core x : Nat) : State :=
  let c := s.ctx core x
  if c.softCancel && !c.leaseStop then s.setCtx core x { c with preempt := false }
  else if trapsDue c.arch then saveTrapped s core x c.arch
  else match frameFor s c.job with
    | (s1, none) => s1.setCtx core x { s1.ctx core x with preempt := jobStopping s c.job }
    | (s1, some fr) =>
      let s2 := release (checkpoint (landAll s1 core x false) core x) core
      let c2 := s2.ctx core x
      saveToFrame s2 core x fr c2.arch [] usReady (if c.preempt || crPinned (recordOf s c) then 4 else 7) (c2.arch.pc.toNat % 2 ^ 24) 0

/-- PINNED_PREEMPTION (R379, R388): also the stop of a unit for a survey lease (R380, R384). A trap that lands in this cycle is taken
first, and the stop then takes the state of the checkpoint (R385). -/
def execPinnedPreemption (core x : Nat) (s : State) : Res :=
  let c := s.ctx core x
  .next (if s.power ≠ .on || !saveAsked s c then s
    else
      let s1 := match (if produced (s.core core).cycle c.arch then (dueTraps c.arch).findSome? (·.2) else none) with
        | some t => afterTrap (takeTrap s core x t false) core x
        | none => s
      if saveAsked s1 (s1.ctx core x) then saveAtBoundary s1 core x else s1)

/-- ROLLBACK_TAKE_OFF_RETRY (R370): the rollback has been made. Without a frame the next try comes after a further 2^20
cycles of the clock (R31). -/
def execRollbackTakeOffRetry (core x : Nat) (s : State) : Res :=
  let c := s.ctx core x
  .next (if s.power ≠ .on || c.run ≠ .takeOff || c.frozen || c.clock < Config.longWait then s
    else if trapsDue c.arch then saveTrapped s core x c.arch
    else match frameFor s c.job with
      | (s1, none) => s1.setCtx core x { s1.ctx core x with clock := 0 }
      | (s1, some fr) =>
        let s2 := s1.setCore core { s1.core core with noPlace := true }
        keepOff (saveToFrame { s2 with surveyDue := withDueSurvey s2.surveyDue core } core x fr c.arch [] usReady 6 (c.ckpt.toNat % 2 ^ 24) 0)
          core)

/-- REMOVAL (R374): the record as the cause gives it (R36, R371). -/
def execRemoval (core x : Nat) (s : State) : Res :=
  let c := s.ctx core x
  .next (if s.power ≠ .on || c.frozen then s
    else match c.run with
      | .removing .interval => intervalRollback s core x
      | .removing .fatal =>
        let s1 := flushUnit s core x
        emitEvent (endUnit s1 core x usCancelled 9) 0x8001 (some c.job) [c.cause.toNat, c.tval.toNat, c.recAddr]
      | .removing _ => endUnit (flushUnit s core x) core x usCancelled 5
      | _ => s)

/-! Results landing. -/

/-- A context whose due results land. -/
def Ctx.ticking (c : Ctx) : Bool := match c.run with
  | .running => true
  | .suspending _ => true
  | _ => false

/-- RESULT_LANDING (R46, R369); where the landing forces a checkpoint, what it releases is performed with it (R200). -/
def execResultLanding (core x : Nat) (trip : Option Trip) (s : State) : Res :=
  .next (if s.power ≠ .on || !(s.ctx core x).ticking then s
    else afterTrap (match trip with
      | some t => takeTrip s core x t
      | none => if undoFull (s.ctx core x) then release (landing s core x) core else landing s core x) core x)

end Sys2Proof.Machine
end

