-- ==== Sys2Proof/Machine/Place.lean ====
section
/-! DEFINITION. The dispatchers (R50, R51): decisions, and the placement of a unit from its record or spill frame (R30,
R33, R35, R110). -/
namespace Sys2Proof.Machine

/-! Code as the mapped-code table gives it (R300). -/

/-! Decisions. -/

/-- AGE (R50). -/
def ageOf (s : State) (cl stamp : Nat) : Nat := ((s.cluster cl).decisions.toNat + 2 ^ 64 - stamp) % 2 ^ 64 / 2 ^ 20

/-- EFF of a queued unit (R50). -/
def effReady (s : State) (cl : Nat) (u : Ready) : Nat :=
  let base := match readRecord s u.job u.recAddr with
    | some r => crBase r
    | none => 0
  effPrio s u.job u.launch base (ageOf s cl u.stamp)

/-- Ranges that meet. -/
def overlaps (a b : Nat × Nat) : Bool := a.1 < a.2 && b.1 < b.2 && a.1 < b.2 && b.1 < a.2

/-- A reservation of another unit meets the ranges of a cartouche (R48). -/
def reservedBy (s : State) (core job va : Nat) (cart : BitVec 512) : Option Resv :=
  (s.core core).resv.find? (fun v => !(v.job == job && v.recAddr == va) &&
    (overlaps (actBounds cart.toNat) (v.actBase, v.actLimit) || overlaps (accBounds cart.toNat) (v.accBase, v.accLimit)))

/-- Units of the job may be placed: a confidential job's only while its TDI is in RUN (R412). -/
def placedNow (s : State) (job : Nat) : Bool := match s.job job with
  | some j => !confJob s job || j.tdi == .run
  | none => false

/-- ELIGIBLE (R51). The unit's entry segment is that of its launch's entry (R48, R304, log entry 36). -/
def eligible (s : State) (core : Nat) (u : Ready) : Bool :=
  let l := launchRec s u.job u.launch
  let r := (readRecord s u.job u.recAddr).getD 0
  placedNow s u.job && (lrPlacement l).testBit (clusterOf core) &&
  (!crPinned r || coreOfCode s (crCore r) == some core) &&
  (match segCart s (jobAsid s u.job) (lrCodeBase l) (lrEntry l) with
   | some k => (reservedBy s core u.job u.recAddr k).isNone
   | none => true)

/-- BEST's order: highest EFF, then lowest stamp, then lowest job, launch, unit index. -/
def better (s : State) (cl : Nat) (a b : Ready) : Bool :=
  let ea := effReady s cl a
  let eb := effReady s cl b
  ea > eb || (ea == eb && (a.stamp < b.stamp || (a.stamp == b.stamp &&
    (a.job < b.job || (a.job == b.job && (a.launch < b.launch || (a.launch == b.launch && a.index < b.index)))))))

/-- The best of a list. -/
def bestOf (s : State) (cl : Nat) (l : List Ready) : Option Ready :=
  l.foldl (fun b u => match b with
    | none => some u
    | some v => if better s cl u v then some u else b) none

/-- BEST(c, x). -/
def best (s : State) (cl core : Nat) : Option Ready := bestOf s cl ((s.cluster cl).ready.filter (eligible s core))

/-- STEAL(c, x): the unit and the cluster it is taken from. -/
def steal (s : State) (cl core : Nat) : Option (Ready × Nat) :=
  let named := fun c => ((s.cluster c).ready.filter (fun u => (lrPlacement (launchRec s u.job u.launch)).testBit cl)).length
  match argMax named ((List.range 16).filter (fun c => c != cl && 0 < named c)) with
  | none => none
  | some c => (bestOf s c ((s.cluster c).ready.filter (eligible s core))).map (fun u => (u, c))

/-- Free contexts of a cluster, by core then context. -/
def freeList (s : State) (cl : Nat) : List (Nat × Nat) :=
  ((coresOf s cl).filter (placeable s)).flatMap (fun c =>
    (if (s.ctx c 0).run = .free then [(c, 0)] else []) ++ (if (s.ctx c 1).run = .free then [(c, 1)] else []))

/-- PLACE: the unit leaves the queue of its cluster, and a context of `cl` begins its placement; a stamp from another cluster is
re-based (R51). -/
def place (s : State) (cl core x : Nat) (u : Ready) (from' : Nat) : State :=
  let s1 := dequeueUnit s u.job u.recAddr
  let base := match readRecord s1 u.job u.recAddr with
    | some r => crBase r
    | none => 0
  s1.setCtx core x { Ctx.reset with
    run := .placing
    job := u.job
    recAddr := u.recAddr
    launch := u.launch
    index := u.index
    basePrio := base
    age := ageOf s from' u.stamp
    stamp := ((s.cluster cl).decisions.toNat + 2 ^ 64 - ((s.cluster from').decisions.toNat + 2 ^ 64 - u.stamp) % 2 ^ 64) % 2 ^ 64
    placed := (s1.cluster cl).decisions.toNat }

/-- The first free context that some unit suits, with that unit and the cluster of its queue (log entry 12). -/
def choose (s : State) (cl : Nat) : Option (Nat × Nat × Ready × Nat) :=
  (freeList s cl).findSome? (fun x => match best s cl x.1 with
    | some u => some (x.1, x.2, u, cl)
    | none => match steal s cl x.1 with
      | some (u, c) => some (x.1, x.2, u, c)
      | none => none)

/-- VICTIM's order: lowest EFF, latest placement, highest core number, context 1. -/
def victimBefore (s : State) (a b : Nat × Nat) : Bool :=
  let ca := s.ctx a.1 a.2
  let cb := s.ctx b.1 b.2
  let ea := effCtx s ca
  let eb := effCtx s cb
  ea < eb || (ea == eb && (ca.placed > cb.placed || (ca.placed == cb.placed &&
    (a.1 > b.1 || (a.1 == b.1 && a.2 > b.2)))))

/-- The unit of a context is RUNNING, one whose suspension is not complete among them. -/
def Ctx.occupied (c : Ctx) : Bool := match c.run with
  | .running => true
  | .suspending _ => true
  | _ => false

/-- VICTIM(c, u). -/
def victim (s : State) (cl : Nat) (u : Ready) : Option (Nat × Nat) :=
  (((coresOf s cl).filter (placeable s)).flatMap (fun c => [(c, 0), (c, 1)])).foldl (fun b x =>
    let c := s.ctx x.1 x.2
    if c.occupied && !c.frozen && !c.preempt && eligible s x.1 u then
      match b with
      | none => some x
      | some y => if victimBefore s x y then some x else b
    else b) none

/-- DECIDE (R51). -/
def execDecide (cl : Nat) (s : State) : Res :=
  .next (if s.power ≠ .on || !inRun s cl || 16 ≤ cl then s
    else
      let c := s.cluster cl
      let s1 := s.setCluster cl { c with decisions := c.decisions + 1, decideDue := c.decideDue - 1 }
      match choose s1 cl with
      | some (core, x, u, from') => place s1 cl core x u from'
      | none =>
        if !(freeList s1 cl).isEmpty then s1
        else match bestOf s1 cl ((s1.cluster cl).ready.filter (fun u => (coresOf s1 cl).any (fun k => eligible s1 k u))) with
          | none => s1
          | some u => match victim s1 cl u with
            | none => s1
            | some v =>
              if effCtx s1 (s1.ctx v.1 v.2) < effReady s1 cl u then
                s1.setCtx v.1 v.2 { s1.ctx v.1 v.2 with preempt := true }
              else s1)

/-! Placement (R35). -/

/-- A malformed record (R30). -/
def recordBad (r : Nat) : Bool :=
  crState r == 7 || 9 < crReason r || fld r 35 34 != 0 || 9 ≤ crWaitKind r || (1 ≤ crWaitKind r && crWaitKind r ≤ 4) ||
  (crWaitKind r == 8 && !crFrame r)

/-- RECORD_MALFORMED (R30, R33): CANCELLED FATAL, the counter falls, a notice, a malformed frame goes back. -/
def malformed (s : State) (core x : Nat) (frame : Option Nat) : State :=
  let c := s.ctx core x
  let s1 := markRecord s c.job c.recAddr usCancelled 9
  let s2 := postNotice s1 c.job nkRecord c.recAddr (frame.getD 0)
  let s3 := match frame with
    | some f => returnFrame s2 c.job f
    | none => s2
  unitEnded (vacate (unreserve s3 c.job c.recAddr) core x) c.job c.launch none true

/-- ctx.mode at a placement (R114, R306). -/
def modeOf (s : State) (job launch r : Nat) : BitVec 5 :=
  let l := launchRec s job launch
  BitVec.ofNat 5 (b2n (l.testBit 1003) + 2 * b2n (l.testBit 1002) + 4 * jobField s job 492 492 + 8 * jobField s job 491 491 +
    16 * b2n (crPinned r))

/-- The live scalars of a record at their reset surroundings (R35). -/
def liveArch (r : Nat) : Arch :=
  (List.range 5).foldl (fun a i =>
    a.wrS (fld (crLiveMap r) (6 * i + 5) (6 * i)) (BitVec.ofNat 64 (fld r (255 + 64 * i) (192 + 64 * i))))
    (Arch.reset (BitVec.ofNat 64 (crResume r)))

/-- The context once its unit's state stands: the first checkpoint is taken, and issue may begin (R110). -/
def placeOn (s : State) (core x r : Nat) (a : Arch) (spill : Nat) (arrived : Tab Nat) (status : Tab (BitVec 32)) : State :=
  let c := s.ctx core x
  let l := launchRec s c.job c.launch
  let who := ctxIdOf s core x
  let r1 := if lrPin l = 1 && !crPinned r then setFld (setFld r 36 36 1) 33 24 ((codeOfCore s core).getD 0) else r
  let s1 := writeRecordFor (unreserve s c.job c.recAddr) c.job who c.recAddr (crSet r1 usRunning (crReason r1))
  let c1 := { c with
    run := if c.preempt then .removing .hardCancel else .running
    preempt := false
    arch := a
    shadow := a
    arrived := arrived
    status := status
    ckpt := BitVec.ofNat 64 (2 ^ 63 + a.pc.toNat)
    spill := BitVec.ofNat 64 (fld spill 47 12 * 4096)
    mode := modeOf s c.job c.launch r1
    codeBase := lrCodeBase l
    dict := lrDict l
    cart := (segCart s (jobAsid s c.job) (lrCodeBase l) a.pc.toNat).getD 0 }
  s1.setCtx core x c1

/-- A stream's copy that goes on only when the unit itself consumes or pushes. -/
def streamStuck (s : State) (core : Nat) (c : Cmd) : Bool :=
  let full := fun q n => match streamRing s core c q with
    | some (_, slots, _, freed) => decide (freed + slots ≤ n)
    | none => true
  match c.phase, c.kind with
  | .stream n _, .cpy _ _ _ (some q) => full q n
  | .stream n _, .gath _ cnt _ _ q => decide (n < cnt) && (full q n || (Tab.get [] (s.core core).addrQ (addrQKey c.job c.owner c.ch)).isEmpty)
  | _, _ => false

/-- Of a unit's commands, oldest first, those that go on only when the unit itself does: a stream's copy whose ring is full or
whose indices are wanting, and what waits for such a command. -/
def stuckCmds (s : State) (core : Nat) (l : List Cmd) : List Cmd :=
  l.foldl (fun b c =>
    let behind := match c.kind with
      | .fence _ _ => b.any (fenceOpen c)
      | _ => b.any (waitsOn s core c)
    if streamStuck s core c || behind then b ++ [c] else b) []

/-- Commands of a unit in flight that the placement waits for: every one that ends without the unit (R35, log entry 28). -/
def copiesHold (s : State) (job va : Nat) : Bool :=
  s.cores.any (fun k =>
    let l := k.2.cmds.filter (fun q => q.job == job && q.owner == va)
    l.any (fun q => !(stuckCmds s k.1 l).contains q))

/-- A command is handed over to another core's channels. -/
def rehand (core x : Nat) (s : State) (c : Cmd) : State :=
  let co := s.core core
  s.setCore core { co with cmds := co.cmds ++ [{ c with seq := co.nextSeq, ctx := x }], nextSeq := co.nextSeq + 1 }

/-- Commands still held for a unit's streams follow it, with its address queues, from the core that it was on (log entry 28). -/
def rehomeFrom (core x job va : Nat) (s : State) (old : Nat) : State :=
  let co := s.core old
  let mine := co.cmds.filter (fun c => c.job == job && c.owner == va)
  let queues := (List.range 8).map (fun ch => Tab.get [] co.addrQ (addrQKey job va ch))
  if old = core || (mine.isEmpty && queues.all (·.isEmpty)) then s
  else
    let keep : Core := { co with
      cmds := co.cmds.filter (fun c => !(c.job == job && c.owner == va))
      addrQ := (List.range 8).foldl (fun q ch => Tab.set [] q (addrQKey job va ch) []) co.addrQ }
    let s1 := mine.foldl (rehand core x) (s.setCore old keep)
    let cn := s1.core core
    s1.setCore core { cn with addrQ := (queues.zipIdx 0).foldl (fun q l => Tab.set [] q (addrQKey job va l.2) l.1) cn.addrQ }

/-- Commands still held for a unit's streams follow it to its new context. -/
def rehome (s : State) (core x job va : Nat) : State :=
  let s1 := (s.cores.map (·.1)).foldl (rehomeFrom core x job va) s
  let co := s1.core core
  s1.setCore core { co with cmds := co.cmds.map (fun c => if c.job == job && c.owner == va then { c with ctx := x } else c) }

/-- PLACEMENT (R35): after the unit's copies in flight have completed. -/
def execPlacement (core x : Nat) (s : State) : Res :=
  let c := s.ctx core x
  .next (if s.power ≠ .on || c.run ≠ .placing || !inRun s (clusterOf core) ||
      copiesHold s c.job c.recAddr then s
    else match readRecord s c.job c.recAddr with
      | none => malformed s core x none
      | some r =>
        if recordBad r then malformed s core x none
        else if crFrame r then
          let s := devMeet s c.job none (crSpill r) Config.frameBytes
          match devRead s c.job (crSpill r) Config.frameBytes with
          | none => malformed s core x (some (crSpill r))
          | some fr =>
            if !frameOkFor fr (crWaitKind r) then malformed s core x (some (crSpill r))
            else
              let arrived := (List.range 16).foldl (fun t q => Tab.set 0 t q (frStreamEnt fr q).2) []
              let status := (List.range 8).foldl (fun t ch =>
                Tab.set (0 : BitVec 32) t ch (BitVec.ofNat 32 (frNat fr (frCounter + 0x284 + 8 * ch) 4))) []
              returnFrame (placeOn (rehome s core x c.job c.recAddr) core x r (frArch fr (BitVec.ofNat 64 (crResume r))) (frScratch fr) arrived status)
                c.job (crSpill r)
        else placeOn s core x r (liveArch r) (crSpill r) [] [])

end Sys2Proof.Machine
end

