-- ==== Sys2Proof/Machine/Bundle.lean ====
section
/-! DEFINITION. Issue of bundles (R43 to R48, R54 to R58, R62, R64 to R68, R132, R199, R347 to R350): what each context
of a core offers in an arithmetic cycle, the merge of the two, and the issue of a bundle. -/
namespace Sys2Proof.Machine

/-- The meaning of a slot's instruction; the whole steps of the device stand in no slot. -/
def slotExec (i : Instr) (s : State) : Res :=
  match i with
  | .j f => execJ f s
  | .jr f => execJr f s
  | .call f => execCall f s
  | .ret f => execRet f s
  | .loop f => execLoop f s
  | .lbrk f => execLbrk f s
  | .bsel f => execBsel f s
  | .lendC f => execLendC f s
  | .suspend f => execSuspend f s
  | .yield f => execYield f s
  | .trap f => execTrap f s
  | .brk f => execBrk f s
  | .sysr f => execSysr f s
  | .sysw f => execSysw f s
  | .icinv f => execIcinv f s
  | .tick f => execTick f s
  | .idle f => execIdle f s
  | .add f => execAdd f s
  | .sub f => execSub f s
  | .mul f => execMul f s
  | .mulh f => execMulh f s
  | .mulhn f => execMulhn f s
  | .div f => execDiv f s
  | .rem f => execRem f s
  | .and f => execAnd f s
  | .or f => execOr f s
  | .xor f => execXor f s
  | .andn f => execAndn f s
  | .shl f => execShl f s
  | .shr f => execShr f s
  | .sar f => execSar f s
  | .min f => execMin f s
  | .max f => execMax f s
  | .minn f => execMinn f s
  | .maxn f => execMaxn f s
  | .clz f => execClz f s
  | .ctz f => execCtz f s
  | .popc f => execPopc f s
  | .sext f => execSext f s
  | .zext f => execZext f s
  | .sel f => execSel f s
  | .maddr f => execMaddr f s
  | .addi f => execAddi f s
  | .andi f => execAndi f s
  | .ori f => execOri f s
  | .xori f => execXori f s
  | .shli f => execShli f s
  | .shri f => execShri f s
  | .sari f => execSari f s
  | .li f => execLi f s
  | .lih f => execLih f s
  | .cmp f => execCmp f s
  | .cmpi f => execCmpi f s
  | .pand f => execPand f s
  | .por f => execPor f s
  | .pxor f => execPxor f s
  | .pset f => execPset f s
  | .lda f => execLda f s
  | .sta f => execSta f s
  | .ldc f => execLdc f s
  | .stc f => execStc f s
  | .ldw f => execLdw f s
  | .vadd f => execVadd f s
  | .vsub f => execVsub f s
  | .vmul f => execVmul f s
  | .vfma f => execVfma f s
  | .vfms f => execVfms f s
  | .vmin f => execVmin f s
  | .vmax f => execVmax f s
  | .vabs f => execVabs f s
  | .vneg f => execVneg f s
  | .vexp2 f => execVexp2 f s
  | .vlog2 f => execVlog2 f s
  | .vrcp f => execVrcp f s
  | .vrsq f => execVrsq f s
  | .vcvt f => execVcvt f s
  | .vpack f => execVpack f s
  | .vunpk f => execVunpk f s
  | .vbscl f => execVbscl f s
  | .viadd f => execViadd f s
  | .visub f => execVisub f s
  | .vimul f => execVimul f s
  | .vand f => execVand f s
  | .vor f => execVor f s
  | .vxor f => execVxor f s
  | .vshl f => execVshl f s
  | .vshr f => execVshr f s
  | .vsar f => execVsar f s
  | .vcmp f => execVcmp f s
  | .vicmp f => execVicmp f s
  | .vsel f => execVsel f s
  | .vbcst f => execVbcst f s
  | .vmovs f => execVmovs f s
  | .vperm f => execVperm f s
  | .vrot f => execVrot f s
  | .vrsum f => execVrsum f s
  | .vrmax f => execVrmax f s
  | .vrmin f => execVrmin f s
  | .vscan f => execVscan f s
  | .vkey f => execVkey f s
  | .vhist f => execVhist f s
  | .vlda f => execVlda f s
  | .vsta f => execVsta f s
  | .vldc f => execVldc f s
  | .vstc f => execVstc f s
  | .vglda f => execVglda f s
  | .vmovq f => execVmovq f s
  | .lendV f => execLendV f s
  | .kand f => execKand f s
  | .kor f => execKor f s
  | .knot f => execKnot f s
  | .kset f => execKset f s
  | .kpop f => execKpop f s
  | .mlat f => execMlat f s
  | .mlata f => execMlata f s
  | .mlatq f => execMlatq f s
  | .mma f => execMma f s
  | .mmav f => execMmav f s
  | .mconv f => execMconv f s
  | .mshape f => execMshape f s
  | .mpad f => execMpad f s
  | .mset f => execMset f s
  | .mzero f => execMzero f s
  | .mdrain f => execMdrain f s
  | .dot f => execDot f s
  | .dotacc f => execDotacc f s
  | .cpy f => execCpy f s
  | .sbind f => execSbind f s
  | .srel f => execSrel f s
  | .gath f => execGath f s
  | .gidx f => execGidx f s
  | .qapp f => execQapp f s
  | .atom f => execAtom f s
  | .fence f => execFence f s
  | .sfence f => execSfence f s
  | .semset f => execSemset f s
  | .semadd f => execSemadd f s
  | .semwt f => execSemwt f s
  | .tbarm f => execTbarm f s
  | .tbexp f => execTbexp f s
  | .tbwait f => execTbwait f s
  | .xidrd f => execXidrd f s
  | .xidwt f => execXidwt f s
  | .sigadd f => execSigadd f s
  | .sigwt f => execSigwt f s
  | .larm f => execLarm f s
  | .lpatch f => execLpatch f s
  | .cancel f => execCancel f s
  | .bmset f => execBmset f s
  | .bmwait f => execBmwait f s
  | .kvref f => execKvref f s
  | .kvapp f => execKvapp f s
  | .kvrej f => execKvrej f s
  | .kvcommit f => execKvcommit f s
  | .kvfree f => execKvfree f s
  | .gzclaim f => execGzclaim f s
  | .gzjoin f => execGzjoin f s
  | .gzfind f => execGzfind f s
  | .seal f => execSeal f s
  | .unseal f => execUnseal f s
  | .errinj f => execErrinj f s
  | _ => .next s

/-! Fetch (R54 to R58, R77). -/

/-- The verified copy of the segment that holds an offset of a context's kernel. -/
def cachedSeg (s : State) (core : Nat) (c : Ctx) (off : Nat) : Option Seg :=
  (s.core core).segs.find? (fun g => g.asid == jobAsid s c.job && g.codeBase == c.codeBase && g.num == off / 4096)

/-- An index word of a segment. -/
def Seg.word (g : Seg) (i : Nat) : Nat := (Tab.get (0 : BitVec 16) g.words i).toNat

/-- Whether word `i` begins a bundle: literal bodies are passed over from word 32 on (R55, R58). -/
def Seg.begins (g : Seg) (i : Nat) : Nat → Nat → Bool
  | 0, _ => false
  | n + 1, at' => if at' = i then true else if i < at' then false
    else g.begins i n (at' + (if g.word at' = 0xFFFF then 25 else 1))

/-- The 384 bits of a literal bundle. -/
def Seg.literal (g : Seg) (i : Nat) : Nat := joinElems 16 ((List.range 24).map (fun j => g.word (i + 1 + j)))

/-- What fetch gives: nothing yet (a segment or dictionary is still to be loaded), a trap's cause and code, an encoding
that the scanner refuses, or a bundle with its segment's cartouche. -/
inductive Fetched where
  | wait
  | trap (cause : Cause) (code : Nat)
  | refused (r : ScanReason)
  | ok (bits : Nat) (lit : Bool) (cart : BitVec 512)
deriving DecidableEq, Repr

/-- An interlocked segment fetched without its mode (R48). -/
def belowD940 (cart : BitVec 512) : Bool :=
  (Config.d940Latency.zipIdx 0).any (fun p => fld cart.toNat (359 + 8 * p.2) (352 + 8 * p.2) < p.1)

/-- The loaded dictionary of a context's kernel. -/
def loadedDict (s : State) (core : Nat) (c : Ctx) : Option Dict :=
  (s.core core).dicts.find? (fun d => d.asid == jobAsid s c.job && d.addr == c.dict)

/-- The bundle at a context's fetch offset (R58). An index above the count of the dictionary loaded, which R75 refuses and which
a segment that is stale under R80 can bring, has no bundle (log entry 60). -/
def fetch (s : State) (core x : Nat) : Fetched :=
  let c := s.ctx core x
  let o := c.arch.pc.toNat
  if 2 ^ 24 ≤ o || o % 4096 < 32 then .trap .noexec 1
  else match cachedSeg s core c o with
    | none => .wait
    | some g =>
      let i := o % 4096
      if !g.begins i 4096 32 then .trap .noexec 1
      else if belowD940 g.cart && !c.mode.getLsbD 1 then .trap .noexec 2
      else if g.word i = 0xFFFF then
        (if 4096 < i + 25 then .refused .literal else .ok (g.literal i) true g.cart)
      else if g.word i = 0 then .ok 0 false g.cart
      else if 0x1000 ≤ g.word i then .refused .index
      else match loadedDict s core c with
        | none => .wait
        | some d => if d.count < g.word i then .refused .index
          else .ok (Tab.get (0 : BundleBits) d.ents (g.word i)).toNat false g.cart

/-! What a bundle needs. -/

/-- A bundle as it is offered: its parts, its bits' origin, the instructions whose guard is true, slot by slot. -/
structure Offer where
  b : Bundle
  lit : Bool
  cart : BitVec 512
  live : List (Nat × Instr)
deriving DecidableEq, Repr

/-- The slots whose guard is true (R68). -/
def liveSlots (a : Arch) (b : Bundle) : List (Nat × Instr) :=
  ((b.slots.zip b.guards).zipIdx 0).filterMap (fun p => match p.1.1 with
    | some i => if a.rdP p.1.2 then some (p.2, i) else none
    | none => none)

/-- Shared units (R44): array, dot engine, weight port, divider, transcendental unit. -/
inductive Shared where
  | array | dot | port | divider | xc
deriving DecidableEq, Repr

/-- Units that an instruction needs. -/
def needs : Instr → List Shared
  | .mma _ => [.array]
  | .mmav _ => [.array]
  | .mconv _ => [.array]
  | .dot _ => [.dot, .port]
  | .dotacc _ => [.dot, .port]
  | .mlat _ => [.port]
  | .ldw _ => [.port]
  | .div _ => [.divider]
  | .rem _ => [.divider]
  | .vexp2 _ => [.xc]
  | .vlog2 _ => [.xc]
  | .vrcp _ => [.xc]
  | .vrsq _ => [.xc]
  | _ => []

/-- Cycle at which a unit is free again. -/
def busyUntil (c : Core) : Shared → Nat
  | .array => c.busyArray | .dot => c.busyDot | .port => c.busyPort | .divider => c.busyDiv | .xc => c.busyXc

/-- Latch that an instruction loads. -/
def loadsLatch : Instr → Option Nat
  | .mlat f => some f.w.val
  | .mlata f => some f.w.val
  | .mlatq f => some f.w.val
  | _ => none

/-- Channel whose entries an instruction needs (R261). -/
def takesChannel : Instr → Option Nat
  | .cpy f => some f.ch.val
  | .gath f => some f.ch.val
  | .qapp f => some f.ch.val
  | .atom f => some f.ch.val
  | .seal f => some f.ch.val
  | .unseal f => some f.ch.val
  | .sigadd f => some f.ch.val
  | .kvref f => some f.ch.val
  | .kvapp f => some f.ch.val
  | .kvrej f => some f.ch.val
  | .kvcommit f => some f.ch.val
  | .kvfree f => some f.ch.val
  | .gzclaim f => some f.ch.val
  | .gzjoin f => some f.ch.val
  | .gzfind f => some f.ch.val
  | _ => none

/-- Entries of a channel that are held: released and withheld commands of both contexts. -/
def channelHeld (c : Core) (ch : Nat) : Nat :=
  let w := fun (l : List WEntry) => (l.filter (fun e => match e with
    | .cmd _ k => k.hasId && k.ch == ch
    | .store _ _ => false)).length
  (c.cmds.filter (fun k => k.hasId && k.ch == ch)).length + w (c.ctx0.releasing ++ c.ctx0.withhold) + w (c.ctx1.releasing ++ c.ctx1.withhold)

/-- Entries of the store-withhold buffer that an instruction takes (R198). -/
def takesEntry : Instr → Bool
  | .sta _ => true
  | .stc _ => true
  | .vsta _ => true
  | .vstc _ => true
  | .mdrain f => !f.sel.getLsbD 7
  | .cpy _ => true
  | .srel _ => true
  | .gath _ => true
  | .qapp _ => true
  | .atom _ => true
  | .fence _ => true
  | .sfence _ => true
  | .sigadd _ => true
  | .larm _ => true
  | .lpatch _ => true
  | .cancel _ => true
  | .bmset _ => true
  | .kvref _ => true
  | .kvapp _ => true
  | .kvrej _ => true
  | .kvcommit _ => true
  | .kvfree _ => true
  | .gzclaim _ => true
  | .gzjoin _ => true
  | .gzfind _ => true
  | .seal _ => true
  | .unseal _ => true
  | .errinj _ => true
  | _ => false

/-- Vector registers that an instruction writes, as far as R144 asks. -/
def vectorDest : Instr → Option Nat
  | .vadd f => some f.vd.val
  | .vsub f => some f.vd.val
  | .vmul f => some f.vd.val
  | .vfma f => some f.vd.val
  | .vfms f => some f.vd.val
  | .vmin f => some f.vd.val
  | .vmax f => some f.vd.val
  | .vabs f => some f.vd.val
  | .vneg f => some f.vd.val
  | .vexp2 f => some f.vd.val
  | .vlog2 f => some f.vd.val
  | .vrcp f => some f.vd.val
  | .vrsq f => some f.vd.val
  | .vcvt f => some f.vd.val
  | .vpack f => some f.vd.val
  | .vunpk f => some f.vd.val
  | .vbscl f => some f.vd.val
  | .viadd f => some f.vd.val
  | .visub f => some f.vd.val
  | .vimul f => some f.vd.val
  | .vand f => some f.vd.val
  | .vor f => some f.vd.val
  | .vxor f => some f.vd.val
  | .vshl f => some f.vd.val
  | .vshr f => some f.vd.val
  | .vsar f => some f.vd.val
  | .vsel f => some f.vd.val
  | .vbcst f => some f.vd.val
  | .vmovs f => if f.imm.getLsbD 15 then none else some f.vd.val
  | .vperm f => some f.vd.val
  | .vrot f => some f.vd.val
  | .vrsum f => some f.vd.val
  | .vrmax f => some f.vd.val
  | .vrmin f => some f.vd.val
  | .vscan f => some f.vd.val
  | .vkey f => some f.vd.val
  | .vhist f => some f.vd.val
  | .vlda f => some f.vd.val
  | .vldc f => some f.vd.val
  | .vglda f => some f.vd.val
  | .vmovq f => some f.vd.val
  | .mdrain f => if f.sel.getLsbD 7 then some (fld f.sel.toNat 5 0) else none
  | .dot f => some f.vd.val
  | .dotacc f => some f.vd.val
  | _ => none

/-- A stream with the element size that its reader asks for, and no element to read (R164, R171, R178). -/
def streamUnmet (c : Ctx) (q units : Nat) : List WaitEnt := match c.arch.rdQ q with
  | some b => if b.units = units && !streamReady c q then [⟨2, 0, q, 0, 0, 0, 0⟩] else []
  | none => []

/-- Unmet conditions of an instruction, as wait-block entries (R32, R350). -/
def unmetOf (s : State) : Instr → List WaitEnt
  | .vmovq f => streamUnmet s.me f.q.val 4
  | .mlatq f => streamUnmet s.me f.q.val 34
  | .semwt f => if semwtMet f s then [] else [⟨9, condCode f.cond, f.f.toNat, 0, f.imm.toNat, 0, 0⟩]
  | .tbwait f => if tbwaitMet f s then [] else [⟨3, 0, f.tb.val, f.imm.toNat, 0, 0, 0⟩]
  | .xidwt f => if xidwtMet f s then [] else [⟨4, 0, f.ch.val, 0, (rdS s f.sa.val).toNat % 2 ^ 32, 0, 0⟩]
  | .sigwt f => if sigwtMet f s then [] else [⟨5, condCode f.cond, 0, 0, 0, rdS s f.sa.val, rdS s f.sb.val⟩]
  | .bmwait f => if bmwaitMet f s then [] else [⟨6, 0, 0, 0, 0, rdS s f.sa.val, rdS s f.sb.val⟩]
  | _ => []

/-- A GIDX whose address queue is full; with the gather's GATH still withheld it asks for a forced checkpoint (R270). -/
def gidxFull (s : State) : Instr → Bool
  | .gidx f => (match s.arch.rdG f.ch.val with
    | some g => g.remaining != 0 && 64 ≤ addrQHeld s.myCore f.ch.val
    | none => false)
  | _ => false
def gathWithheld (s : State) : Instr → Bool
  | .gidx f => s.me.withhold.any (fun e => match e with
    | .cmd _ k => (match k.kind with | .gath _ _ _ _ _ => k.ch == f.ch.val | _ => false)
    | .store _ _ => false)
  | _ => false

/-- Vector registers that a bundle's slots will write: a slot that does not own its destination traps and leaves none
(R143, R144). -/
def writtenVecs (a : Arch) (live : List (Nat × Instr)) : List Nat :=
  live.filterMap (fun p => (vectorDest p.2).filter (fun d => !bankC d || a.bankC == (p.1 == 3)))

/-- The state in which a context's slots are tested and run. -/
def asActing (s : State) (core x : Nat) (o : Offer) : State :=
  { s with cur := { core := core, ctx := x, lit := o.lit, susp := o.b.susp, slot := 0, next := none, trapped := false,
                    sems := (s.ctx core x).arch.f, vdests := writtenVecs (s.ctx core x).arch o.live } }

/-- Every unmet condition of a bundle. -/
def unmetWaits (s : State) (o : Offer) : List WaitEnt :=
  (if semTested s o.b.waitIndex < o.b.waitThreshold then [⟨1, 0, o.b.waitIndex, 0, o.b.waitThreshold, 0, 0⟩] else []) ++
  (o.live.map (fun p => unmetOf s p.2)).flatten

/-- A unit, latch, channel or queue that the bundle needs is occupied (R44, R178, R261, R270). -/
def busy (s : State) (o : Offer) : Bool :=
  let c := s.myCore
  o.live.any (fun p =>
    (needs p.2).any (fun u => c.cycle < busyUntil c u) ||
    (match loadsLatch p.2 with | some w => c.cycle < Tab.get 0 c.latchBusy (s.cur.ctx * 8 + w) | none => false) ||
    (match takesChannel p.2 with | some ch => Config.channelEntries ≤ channelHeld c ch | none => false) ||
    gidxFull s p.2)

/-- What a context offers in a cycle (R43, R47). -/
inductive Offered where
  | stopped
  | unmet (l : List WaitEnt) (o : Offer)
  | trap (cause : Cause) (code : Nat) (tval : Word) (cart : BitVec 512)
  | refused (r : ScanReason)
  | bundle (o : Offer)
deriving DecidableEq, Repr

/-- The reservation that a segment entered meets: the address of R48. -/
def reservedAt (s : State) (core : Nat) (c : Ctx) (cart : BitVec 512) : Option Nat :=
  if cart = c.cart then none
  else match reservedBy s core c.job c.recAddr cart with
    | none => none
    | some v =>
      let a := actBounds cart.toNat
      if overlaps a (v.actBase, v.actLimit) then some (max a.1 v.actBase)
      else some (max (accBounds cart.toNat).1 v.accBase)

/-- The empty bundles of an IDLE (R137). -/
def emptyBundle : Bundle := (scanBundle 0).1

/-- What a context offers, before its shared units are looked at. The empty ticks of an IDLE fetch its bundle too (log entry 78). -/
def offerOf (s : State) (core x : Nat) : Offered :=
  let c := s.ctx core x
  if c.run ≠ .running || c.halted || c.frozen || (c.mode.getLsbD 0 && c.steps = 0) || c.bubble ≠ 0 || anyDue c.arch then
    .stopped
  else match fetch s core x with
    | .wait => .stopped
    | .trap k n => .trap k n 0 c.cart
    | .refused r => .refused r
    | .ok bits lit cart =>
      match reservedAt s core c cart with
      | some a => .trap .bound 5 (BitVec.ofNat 64 a) cart
      | none =>
        if c.arch.idle ≠ 0 then .bundle ⟨emptyBundle, lit, cart, []⟩
        else match scanBundle bits with
          | (b, []) =>
            let o : Offer := ⟨b, lit, cart, liveSlots c.arch b⟩
            let t := asActing s core x o
            if (unmetWaits t o).isEmpty then .bundle o else .unmet (unmetWaits t o) o
          | (_, r :: _) => .refused r

/-! Issue. -/

/-- Bundles that need a checkpoint before they issue (R199, R270) or before they stall (R349). -/
def forced (s : State) (core x : Nat) (o : Offer) : Bool :=
  let c := s.ctx core x
  let t := asActing s core x o
  (!o.b.ckpt && Config.withholdEntries < c.withhold.length + (o.live.filter (fun p => takesEntry p.2)).length) ||
  o.live.any (fun p => gidxFull t p.2 && gathWithheld t p.2)

/-- An E-slot command is withheld. -/
def cmdWithheld (c : Ctx) : Bool := c.withhold.any (fun e => match e with
  | .cmd _ _ => true
  | .store _ _ => false)

/-- Index words after a bundle, in fetch order (R58). Past the end of a segment whose last flag is set stands no
bundle: the offset after its last word lies in no code, and fetch there raises NOEXEC (log entry 63). -/
def fetchNext (pc : Nat) (lit last : Bool) : Nat :=
  let n := pc + (if lit then 25 else 1)
  if n % 4096 = 0 && !last then n + 32 else n

/-- The last flag of a cartouche (R59). -/
def lastSegment (cart : BitVec 512) : Bool := cart.getLsbD 486

/-- The sequencer after a bundle that took no transfer (R132): from level `l` − 1 down; the next offset if a level
branches back, with the cycle that this costs. A level that ends holds zeros from then on (log entry 79). -/
def backEdge (a : Arch) (o : Nat) : Nat → Arch × Option (Nat × Nat)
  | 0 => (a, none)
  | l + 1 =>
    let v := a.rdLoop l
    if v.active && o = v.stop then
      if 1 < v.left.toNat then
        let lowest := ((List.range 6).find? (fun j => (a.rdLoop j).active)).getD l
        let start := (a.rdLoop lowest).start
        let cost := if start ≤ o && o < start + 256 then 0 else 1
        let a1 := a.wrLoop l { v with left := v.left - 1 }
        let a2 := seqPush a1 (.scalar v.target) (a.rdS v.target + v.stride).toNat
        (seqPush a2 (.pair v.pair) (2 * b2n (v.left - 1 == 1)), some (v.start, cost))
      else backEdge (a.wrLoop l Loop.idle) o l
    else backEdge a o l

/-- The tick passes: the next offset, the schedule counter, the due queue. -/
def passTick (c : Ctx) (lit : Bool) (next : Option Word) : Ctx :=
  let a := c.arch
  let o := a.pc.toNat
  let r : Arch × Nat × Nat := match next with
    | some t => ({ a with pc := t }, 0, 0)
    | none =>
      if a.idle ≠ 0 then (a, 0, 0)
      else match backEdge a o 6 with
        | (a1, some (t, cost)) => ({ a1 with pc := BitVec.ofNat 64 t }, cost, 0)
        | (a1, none) => ({ a1 with pc := BitVec.ofNat 64 (fetchNext o lit (lastSegment c.cart)) }, 0, 0)
  { c with arch := stepDue { r.1 with tick := r.1.tick + 1 }
           bubble := c.bubble + r.2.1
           steps := if c.mode.getLsbD 0 then c.steps - 1 else c.steps
           clock := 0
           unmet := [] }

/-- The sync header (R65, R347). -/
def applyHeader (a : Arch) (b : Bundle) : Arch :=
  let a1 := if b.waitThreshold = 0 then a else a.wrF b.waitIndex (a.rdF b.waitIndex - BitVec.ofNat 16 b.waitThreshold)
  if b.sigIncrement = 0 then a1 else a1.wrF b.sigIndex (a1.rdF b.sigIndex + BitVec.ofNat 16 b.sigIncrement)

/-- A slot's turn within its bundle. -/
def State.atSlot (s : State) (k : Nat) : State := { s with cur := { s.cur with slot := k } }
/-- No bundle is being issued any more. -/
def State.noBundle (s : State) : State := { s with cur := Cur.reset }

/-- The slots in the order C, S, V, M, E; after a trap the rest has no effect. -/
def runSlots : List (Nat × Instr) → State → Res
  | [], s => .next s
  | p :: ps, s =>
    if s.cur.trapped then .next s
    else match slotExec p.2 (s.atSlot p.1) with
      | .next t => runSlots ps t
      | .fault f => .fault f
      | .refused r => .refused r

/-- A dictionary's protection counts the bundles of its context (R57). -/
def countIssue (s : State) (core x : Nat) : State :=
  let co := s.core core
  let ds := co.dicts.map (fun (d : Dict) => if d.ctx = x && d.issued < 64 then { d with issued := d.issued + 1 } else d)
  s.setCore core { co with dicts := ds }

/-- An injection armed on the registers of a context applies at its next bundle, which writes some of them (R223, log
entry 16). -/
def writeArrays (s : State) (core x : Nat) : State :=
  if s.inject.isEmpty then s
  else
    let k := ctxArrayKey 5 core x
    fireInjections s (fun j => k ≤ j && j < k + ctxArrayBytes)

/-- The state in which a bundle's slots run: its header applied, its issue counted. -/
def issueState (s : State) (core x : Nat) (o : Offer) : State :=
  let c := s.ctx core x
  let a := if c.arch.idle ≠ 0 then { c.arch with idle := c.arch.idle - 1 } else c.arch
  countIssue ((asActing s core x o).setCtx core x { c with cart := o.cart, arch := applyHeader a o.b, replay := false }) core x

/-- What follows a bundle's slots: its tick passes, or the trap that one of them raised has been taken. -/
def bundleDone (u : State) (core x : Nat) (lit : Bool) : State :=
  let v := writeArrays u.noBundle core x
  if u.cur.trapped then afterTrap v core x else v.setCtx core x (passTick (v.ctx core x) lit u.cur.next)

/-- A checkpoint bundle issues: what is counted since the last one begins anew, unless a rollback issues it again (R368). -/
def countedFrom (s : State) (core x : Nat) : State :=
  let c := s.ctx core x
  s.setCtx core x (if c.replay then { c with bundleCkpt := true }
    else { c with bundleCkpt := true, pipes := 0, eccLocs := [], segtags := [] })

/-- A bundle issues whole (R43, R66, R62). -/
def issueBundle (s : State) (core x : Nat) (o : Offer) : Res :=
  let t := if o.b.ckpt then countedFrom (checkpoint s core x) core x
    else if forced s core x o then checkpoint s core x else s
  match runSlots o.live (issueState t core x o) with
  | .next u => .next (bundleDone u core x o.lit)
  | .fault f => .fault f
  | .refused r => .refused r

/-! The merge (R43, R44). -/

/-- Two offered bundles that may not issue together. -/
def collide (a b : Offer) : Bool :=
  (a.b.occupied.zip b.b.occupied).any (fun p => p.1 && p.2) ||
  (a.live.map (fun p => needs p.2)).flatten.any (fun u => (b.live.map (fun p => needs p.2)).flatten.contains u)

/-- A bundle whose every condition is met does not issue in a cycle (its unit is busy, or the merge is lost): where a
condition was unmet before, the set has changed and the long-wait clock is zero (R49). -/
def noteMet (s : State) (core x : Nat) : State :=
  let c := s.ctx core x
  if c.unmet.isEmpty then s else s.setCtx core x { c with clock := 0, unmet := [] }

/-- What a context that does not issue does in the cycle: a trap is taken, a clock runs, a bubble passes. The clock counts
every cycle in which a running cause holds and no stopped one, the first among them, and starts anew where the set of
unmet conditions has changed (R47, R49, log entry 64). Of the unmet conditions only a wait forces the checkpoint of R349:
the read of a stream is none. A unit that a deferred stop of R370 keeps stalled counts the cycles to its next try (R31). -/
def stall (s : State) (core x : Nat) (o : Offered) : State :=
  let c := s.ctx core x
  match o with
  | .trap k n tv cart =>
    let s1 := s.setCtx core x { c with cart := cart }
    afterTrap (takeTrap s1 core x ⟨k, n, 5, c.arch.pc.toNat, tv, 0⟩ false) core x
  | .unmet l o =>
    let clock := if l = c.unmet then c.clock else 0
    let s1 := s.setCtx core x { c with clock := clock, unmet := l }
    if cmdWithheld c && l.any (·.kind != 2) then checkpoint s1 core x
    else if busy (asActing s core x o) o then s1
    else s.setCtx core x { c with clock := clock + 1, unmet := l }
  | .bundle _ => noteMet s core x
  | .stopped | .refused _ =>
    if c.bubble ≠ 0 && c.run = .running then s.setCtx core x { c with bubble := c.bubble - 1 }
    else if c.run = .takeOff && c.clock < Config.longWait then s.setCtx core x { c with clock := c.clock + 1 }
    else s

/-- A bundle that its units leave free to issue, after the forced checkpoint that a full address queue asks for. -/
def ready (s : State) (core x : Nat) (o : Offered) : Option Offer := match o with
  | .bundle b => if busy (asActing s core x b) b then none else some b
  | _ => none

/-- The forced checkpoint of a bundle that stays stalled on a full address queue (R270). -/
def forceStalled (s : State) (core x : Nat) (o : Offered) : State := match o with
  | .bundle b => if busy (asActing s core x b) b && forced s core x b then checkpoint s core x else s
  | _ => s

/-- The loser of a collision: the winner is the context that lost the cycle before, else that of higher effective
priority, else context 0. -/
def loser (s : State) (core : Nat) : Nat :=
  match (s.core core).lost with
  | some l => 1 - l
  | none => if effCtx s (s.ctx core 0) < effCtx s (s.ctx core 1) then 0 else 1

/-- A context stands in an interlock stall: a result is due and not yet produced (R48). -/
def interlocked (s : State) (core x : Nat) : Bool := (s.ctx core x).run == .running && anyDue (s.ctx core x).arch

/-- The merge bit after a cycle without a lost merge: an interlock stall leaves it unchanged (R43, R384). -/
def noLoser (s : State) (core : Nat) : Option Nat :=
  if interlocked s core 0 || interlocked s core 1 then (s.core core).lost else none

/-- The cycle ends: what its checkpoints released is performed (R227). -/
def endCycle (s : State) (core : Nat) (lost : Option Nat) : State :=
  let t := release s core
  let c := t.core core
  t.setCore core { c with cycle := c.cycle + 1, lost := lost }

/-- Runs a step on what the one before gives. -/
def thenRes (r : Res) (f : State → Res) : Res := match r with
  | .next s => f s
  | .fault e => .fault e
  | .refused e => .refused e

/-- Places in the segment cache and the dictionary store that a context's fetch reads: the copies stand there in the order
in which the core holds them (log entry 16). -/
def fetchRanges (s : State) (core x : Nat) : List (Nat × Nat) :=
  let c := s.ctx core x
  let co := s.core core
  let o := c.arch.pc.toNat
  match findIdx (fun (g : Seg) => g.asid == jobAsid s c.job && g.codeBase == c.codeBase && g.num == o / 4096) co.segs 0 with
  | none => []
  | some (i, g) =>
    let w := g.word (o % 4096)
    let at' := arrKey (coreArray 4 core) (8192 * i + 2 * (o % 4096))
    if w = 0xFFFF then [(at', 50)]
    else (at', 2) :: (match findIdx (fun (d : Dict) => d.asid == jobAsid s c.job && d.addr == c.dict) co.dicts 0 with
      | some (j, _) => if w = 0 then [] else
          [(arrKey (coreArray 3 core) (48 * (((co.dicts.take j).map (·.count)).sum + w)), 48)]
      | none => [])

/-- A context about to offer a bundle reads its registers and what its fetch needs: an error that cannot be corrected
raises ECC in the place of fetch (R205, R208, log entry 16). -/
def readArrays (s : State) (core x : Nat) : State :=
  let c := s.ctx core x
  if s.errs.isEmpty || c.run ≠ .running || c.halted || c.frozen || c.bubble ≠ 0 then s
  else
    let who := ctxConsumer s core x
    let a := readArray s (ctxArrayKey 5 core x) ctxArrayBytes who
    let b := readLocs a.1 ((fetchRanges s core x).flatMap (fun r => locsOf r.1 r.2)) who
    match a.2.or b.2 with
    | some e => afterTrap (takeTrap b.1 core x ⟨.ecc, e.1, 5, c.arch.pc.toNat, 0, e.2⟩ false) core x
    | none => b.1

/-- A context does not issue in a cycle. -/
def notIssued (s : State) (core x : Nat) (o : Offered) : State := forceStalled (stall s core x o) core x o

/-- What the contexts offer issues, merged, one of them, or none (R43). -/
def issueOffers (s : State) (core : Nat) (a b : Offered) : Res :=
  match a, b with
  | .refused r, _ => .fault (.reservedEncoding r)
  | _, .refused r => .fault (.reservedEncoding r)
  | _, _ =>
    match ready s core 0 a, ready s core 1 b with
    | some p, some q =>
      if collide p q then
        let l := loser s core
        thenRes (if l = 0 then issueBundle s core 1 q else issueBundle s core 0 p) (fun s =>
          .next (endCycle (noteMet s core l) core (some l)))
      else thenRes (issueBundle s core 0 p) (fun u => thenRes (issueBundle u core 1 q) (fun u => .next (endCycle u core (noLoser s core))))
    | some p, none => thenRes (issueBundle s core 0 p) (fun u => .next (endCycle (notIssued u core 1 b) core (noLoser s core)))
    | none, some q => thenRes (issueBundle s core 1 q) (fun u => .next (endCycle (notIssued u core 0 a) core (noLoser s core)))
    | none, none => .next (endCycle (notIssued (notIssued s core 0 a) core 1 b) core (noLoser s core))

/-- The start of a cycle for one context: what is due lands, and what its fetch needs is read. -/
def beginCycle (s : State) (core x : Nat) : State := readArrays (afterTrap (landing s core x) core x) core x

/-- One arithmetic cycle of a core. -/
def cycle (s : State) (core : Nat) : Res :=
  let t := beginCycle (beginCycle s core 0) core 1
  issueOffers t core (offerOf t core 0) (offerOf t core 1)

/-- BUNDLE_ISSUE (R43). -/
def execBundleIssue (core : Nat) (s : State) : Res :=
  if s.power ≠ .on || !inRun s (clusterOf core) || s.lastSheetLost then .next s else cycle s core

end Sys2Proof.Machine
end

