-- ==== Sys2Proof/Machine/Cipher.lean ====
section
/-! DEFINITION. SEAL and OPEN as their channel performs them (R220 to R222, R415). -/
namespace Sys2Proof.Machine

def Key.bytes (k : Key) : List Byte := leBytes 32 k.key.toNat
/-- IV and additional data of a line (R221). -/
def Key.iv (k : Key) (c : Nat) : List Byte := leBytes 4 k.salt.toNat ++ leBytes 8 c
def Key.aad (k : Key) (c : Nat) : List Byte := leBytes 8 c ++ leBytes 4 k.keyId.toNat

/-- A seal record (R220). -/
def sealRecord (result keyId counter tag : Nat) : Nat :=
  result % 256 * 2 ^ 224 + keyId % 2 ^ 32 * 2 ^ 192 + counter % 2 ^ 64 * 2 ^ 128 + tag % 2 ^ 128

/-- One line of a SEAL (R221). -/
def sealLine (s : State) (core job line rec : Nat) (k : Key) : State :=
  let a := actKey core (256 * line)
  let r := actKey core rec
  if s.form core line then s.put (r + 28) [2]
  else
    let c := k.counter.toNat
    let ct := gcmCrypt k.bytes (k.iv c) (s.bytes a 256)
    let t := gcmAuth k.bytes (k.iv c) (k.aad c) ct
    let s1 := ((s.put a ct).setForm core line true).put r (leBytes 32 (sealRecord 0 k.keyId.toNat c (leNat t)))
    match s1.job job with
    | some j => s1.setJob job (some { j with key := some { k with counter := k.counter + 1 } })
    | none => s1

/-- One line of an OPEN (R221). -/
def openLine (s : State) (core line rec : Nat) (k : Key) : State :=
  let a := actKey core (256 * line)
  let r := actKey core rec
  let v := leNat (s.bytes r 32)
  if !s.form core line then s.put (r + 28) [2]
  else if fld v 223 192 ≠ k.keyId.toNat then s.put (r + 28) [3]
  else
    let c := fld v 191 128
    let ct := s.bytes a 256
    if leNat (gcmAuth k.bytes (k.iv c) (k.aad c) ct) ≠ fld v 127 0 then s.put (r + 28) [1]
    else ((s.put a (gcmCrypt k.bytes (k.iv c) ct)).setForm core line false).put (r + 28) [0]

/-- The lines of a command in increasing order; a line that cannot be read stops it, and so does a record that OPEN reads
(R208). -/
def cipherLines (s : State) (core : Nat) (c : Cmd) (line rec n : Nat) (records : Bool) (one : State → Nat → Nat → Key → State) : State :=
  let r := (List.range n).foldl (fun (p : State × Bool) i =>
    if p.2 then p
    else
      let w : Consumer := ⟨some (ctxIdOf p.1 core c.ctx), c.job⟩
      let (s0, _, poison) := copyReadErrs p.1 (actKey core (256 * (line + i))) 256 none w
      let (s1, _, poison') := if records then copyReadErrs s0 (actKey core (rec + 32 * i)) 32 none w else (s0, false, false)
      match (s1.job c.job).bind (·.key) with
      | some k => if poison || poison' then (s1, true) else (one s1 (line + i) (rec + 32 * i) k, false)
      | none => (s1, true)) (s, false)
  setDone r.1 core c (if r.2 then stPoison else stOk) 0 0 0

/-- SEAL_PERFORM (R221, R222). -/
def execSealPerform (core seq : Nat) (s : State) : Res :=
  .next (match findCmd s core seq with
    | none => s
    | some c => match c.kind with
      | .seal line rec n =>
        if !mayPerform s core c || c.performed then s
        else cipherLines s core c (line / 256) rec n false (fun s l r k => sealLine s core c.job l r k)
      | _ => s)

/-- OPEN_PERFORM (R221, R222). -/
def execUnsealPerform (core seq : Nat) (s : State) : Res :=
  .next (match findCmd s core seq with
    | none => s
    | some c => match c.kind with
      | .unseal line rec n =>
        if !mayPerform s core c || c.performed then s
        else cipherLines s core c (line / 256) rec n true (fun s l r k => openLine s core l r k)
      | _ => s)

end Sys2Proof.Machine
end

