-- ==== Sys2Proof/Machine/Code.lean ====
section
/-! DEFINITION. Code on its way to a core: the fetch unit (R57, R61, R300), manifests (R414, R428, R429) and the scanner
(R74 to R76, R130). -/
namespace Sys2Proof.Machine

/-! Images. -/

/-- Bytes of a dictionary image of `n` entries (R56). -/
def dictBytes (n : Nat) : Nat := 64 + 48 * n
/-- Pages of such an image. -/
def dictPages (n : Nat) : Nat := (dictBytes n + 65535) / 65536
/-- dict_count of a cartouche (R59). -/
def cartCount (k : Nat) : Nat := fld k 499 488
/-- Segment number that a dictionary image carries (R59). -/
def dictNumber : Nat := 0xFFFFFFFF

/-- The tag of a segment or image, as 16 bytes (R61). -/
def tagOf (key : List Byte) (num : Nat) (image : List Byte) : List Byte :=
  (hmac key (leBytes 4 num ++ image.drop 16)).take 16
/-- The tag stored in an image is the one its bytes give under a key. -/
def tagOk (key : List Byte) (num : Nat) (image : List Byte) : Bool := image.take 16 == tagOf key num image

/-- Frame of a dictionary page of the kernel whose image begins at `dict` (R300). -/
def dictFrame (s : State) (asid dict i : Nat) : Option (Nat × Nat) :=
  (s.mapped.find? (fun m => m.asid == asid && m.va == dict / 65536 + i && m.isDict &&
    (match s.manifests[m.manifest]? with
     | some k => k.dict == dict
     | none => false))).map (fun m => (m.frame * 65536, m.manifest))

/-- The bytes of an image whose pages stand in frames. -/
def framesBytes (s : State) (fs : List Nat) (n : Nat) : List Byte := ((fs.map (fun f => s.bytes f 65536)).flatten).take n

/-- Frames of a dictionary image as mapped: none when a page of it has no entry. -/
def dictFrames (s : State) (asid dict : Nat) : Option (List Nat × Nat) :=
  match dictFrame s asid dict 0 with
  | none => none
  | some (f, m) =>
    let n := cartCount (leNat (s.bytes f 64))
    let fs := (List.range (dictPages n)).map (dictFrame s asid dict)
    if fs.all Option.isSome then some (fs.filterMap (·.map (·.1)), m) else none

/-! The fetch unit. -/

/-- A trap of fetch (R115). -/
def fetchTrap (s : State) (core x : Nat) (cause : Cause) (code loc : Nat) : State :=
  afterTrap (takeTrap s core x ⟨cause, code, 5, (s.ctx core x).arch.pc.toNat, 0, loc⟩ false) core x

/-- A context that fetches. -/
def fetching (s : State) (core x : Nat) : Bool :=
  let c := s.ctx core x
  s.power == .on && inRun s (clusterOf core) && c.run == .running && !c.halted && !c.frozen && fetch s core x == .wait

/-- The words of a segment. -/
def segWords (bs : List Byte) : Tab (BitVec 16) :=
  let x := leNat bs
  (List.range 4096).filterMap (fun i => if elem x 16 i = 0 then none else some (i, BitVec.ofNat 16 (elem x 16 i)))

/-- A copy engine fetches `n` bytes of code: the errors it meets, and whether one is beyond correction, so that the bytes do not
verify (R208, log entry 16). -/
def fetchBytes (s : State) (core x : Nat) (k n : Nat) : State × Bool :=
  let r := copyReadErrs s k n none (ctxConsumer s core x)
  (r.1, r.2.2)

/-- SEGMENT_FETCH (R61, R300): the segment joins the cache, the oldest of 16 leaving it. -/
def execSegmentFetch (core x : Nat) (s : State) : Res :=
  let c := s.ctx core x
  let asid := jobAsid s c.job
  let num := c.arch.pc.toNat / 4096
  .next (if !fetching s core x || (cachedSeg s core c c.arch.pc.toNat).isSome then s
    else match segKey s asid c.codeBase num with
      | none => fetchTrap s core x .noexec 1 0
      | some k =>
        let (s, bad) := fetchBytes s core x k 8192
        let bs := s.bytes k 8192
        let key := ((segEntry s asid c.codeBase num).bind (fun m => s.manifests[m.manifest]?)).map (·.key)
        if bad || !tagOk (key.getD []) num bs then fetchTrap s core x .segtag 0 (c.codeBase + 8192 * num)
        else
          let co := s.core core
          let g : Seg := ⟨asid, c.codeBase, num, BitVec.ofNat 512 (leNat (bs.take 64)), segWords bs⟩
          let segs := (co.segs ++ [g]).drop (co.segs.length + 1 - Config.segCache)
          (arrayWritten s (arrKey (coreArray 4 core) (8192 * (segs.length - 1))) 8192).setCore core { co with segs := segs })

/-- Entries of an image. -/
def dictEnts (bs : List Byte) (n : Nat) : Tab BundleBits :=
  (List.range n).filterMap (fun i =>
    let v := leNat ((bs.drop (64 + 48 * i)).take 48)
    if v = 0 then none else some (i + 1, BitVec.ofNat 384 v))

/-- Room for `n` entries of the store: unprotected dictionaries leave it, the oldest first; none while a protected one
stands in the way (R57). -/
def dictRoom (n : Nat) : Nat → List Dict → Option (List Dict)
  | 0, _ => none
  | f + 1, l =>
    if (l.map (·.count)).sum + n ≤ 4095 then some l
    else if l.any (64 ≤ ·.issued) then dictRoom n f (eraseFirst (fun d => 64 ≤ d.issued) l)
    else none

/-- DICT_LOAD (R57). -/
def execDictLoad (core x : Nat) (s : State) : Res :=
  let c := s.ctx core x
  let asid := jobAsid s c.job
  .next (if !fetching s core x || (cachedSeg s core c c.arch.pc.toNat).isNone || (loadedDict s core c).isSome then s
    else match dictFrames s asid c.dict with
      | none => fetchTrap s core x .noexec 1 0
      | some (fs, m) =>
        let n := cartCount (leNat (s.bytes (fs.headD 0) 64))
        match dictRoom n ((s.core core).dicts.length + 1) (s.core core).dicts with
        | none => s
        | some keep =>
          let r := (fs.zipIdx 0).foldl (fun (a : State × Bool) f =>
            let q := fetchBytes a.1 core x f.1 (min 65536 (dictBytes n - 65536 * f.2))
            (q.1, a.2 || q.2)) (s, false)
          let s := r.1
          let bs := framesBytes s fs (dictBytes n)
          let key := (s.manifests[m]?).map (·.key)
          if r.2 || !tagOk (key.getD []) dictNumber bs then fetchTrap s core x .segtag 0 c.dict
          else
            let d : Dict := ⟨asid, c.dict, n, dictEnts bs n, x, 0⟩
            (arrayWritten s (arrKey (coreArray 3 core) (48 * (1 + (keep.map (·.count)).sum))) (48 * n)).setCore core
              { s.core core with dicts := keep ++ [d] })

/-! The scanner. -/

/-- Codes of R75. -/
def scanCode : ScanReason → Nat
  | .opcode => 1 | .field => 2 | .range => 3 | .type => 4 | .slots => 5 | .index => 6 | .literal => 7 | .sync => 8
  | .guard => 9 | .target => 10 | .loop => 11 | .cartouche => 12 | .latmode => 13 | .isa => 14 | .nodict => 15
  | .signature => 16

/-- A refusal: byte offset within its page, reason. -/
abbrev Refused := Nat × ScanReason

/-- Lowest offset, then lowest code. -/
def firstRefusal (l : List Refused) : Option Refused :=
  l.foldl (fun b r => match b with
    | none => some r
    | some q => if r.1 < q.1 || (r.1 == q.1 && scanCode r.2 < scanCode q.2) then some r else b) none

/-- Targets of J and CALL (R75). -/
def targetBad (segments : Nat) (i : Instr) : Bool :=
  match i with
  | .j f => f.target.toNat % 4096 < 32 || segments ≤ f.target.toNat / 4096
  | .call f => f.target.toNat % 4096 < 32 || segments ≤ f.target.toNat / 4096
  | _ => false

/-- Bundles that a LOOP's range covers. -/
def loopLen (i : Instr) : Option Nat :=
  match i with
  | .loop f => some (f.lenM1.toNat + 1)
  | _ => none

/-- The range of a LOOP that begins at word `at` (R130). -/
def rangeBad (word : Nat → Nat) (at' len : Nat) : Bool :=
  4096 < at' + len || (List.range len).any (fun j => word (at' + j) == 0xFFFF)

/-- The instructions of a bundle, whatever their guards. -/
def bundleInstrs (b : Nat) : List Instr := (scanBundle b).1.slots.filterMap id

/-- Refusals that depend only on a bundle's 384 bits, its isa bit and the kernel's extent. -/
def bundleRefusals (isa : Bool) (segments b : Nat) : List ScanReason :=
  (scanBundle b).2 ++ (if (bundleInstrs b).any (targetBad segments) then [.target] else []) ++
  (if !isa && (bundleInstrs b).any isIrx3 then [.isa] else [])

/-- Refusals that depend on where a bundle stands (R74). -/
def placeRefusals (isa : Bool) (word : Nat → Nat) (after b : Nat) : List ScanReason :=
  (if (bundleInstrs b).any (fun i => (loopLen i).any (rangeBad word after)) then [.loop] else []) ++
  (if !isa && (bundleInstrs b).any isIrx3 then [.isa] else [])

/-- What the scanner reads of a kernel: its extent, its dictionary's count and entries. -/
structure Kernel where
  segments : Nat
  count : Nat
  entry : Nat → Nat

/-- The words of a segment from `i` on: the first that is refused, with its reasons. -/
def scanWords (k : Kernel) (isa : Bool) (word : Nat → Nat) : Nat → Nat → List (Nat × ScanReason)
  | 0, _ => []
  | n + 1, i =>
    if 4096 ≤ i then []
    else
      let w := word i
      let r : List ScanReason × Nat :=
        if w = 0 then ([], 1)
        else if w = 0xFFFF then
          (if 4096 < i + 25 then ([.literal], 25)
           else
             let b := joinElems 16 ((List.range 24).map (fun j => word (i + 1 + j)))
             (bundleRefusals isa k.segments b ++ placeRefusals isa word (i + 25) b, 25))
        else if 0x1000 ≤ w || k.count < w then ([.index], 1)
        else (placeRefusals isa word (i + 1) (k.entry w), 1)
      if r.1.isEmpty then scanWords k isa word n (i + r.2) else r.1.map (fun c => (i, c))

/-- A reserved field, a bound pair or a latency of a cartouche outside R59, R60 and R63. -/
def cartBad (k : Nat) (isDict : Bool) : Bool :=
  fld k 511 500 != 0 || fld k 484 480 != 0 || fld k 223 128 != 0 || k.testBit 487 != isDict ||
  (if isDict then cartCount k == 0 || k.testBit 486 || fld k 351 256 != 0 || fld k 479 352 != 0
   else cartCount k != 0 || fld k 271 256 > fld k 287 272 || 16384 < fld k 287 272 ||
     fld k 303 288 > fld k 319 304 || 8192 < fld k 319 304 || fld k 335 320 > fld k 351 336 || 4096 < fld k 351 336 ||
     (List.range 10).any (fun i => fld k (359 + 8 * i) (352 + 8 * i) == 0) || fld k 479 432 != 0)

/-- The cartouche of a segment or image: CARTOUCHE, LATMODE, SIGNATURE (R75). The last flag of a code segment must be set in
its manifest's final segment and in no other (log entry 71). -/
def cartRefusals (isDict interlocked : Bool) (num segments : Nat) (key bs : List Byte) : List ScanReason :=
  let k := leNat (bs.take 64)
  (if cartBad k isDict || fld k 255 224 != num || (!isDict && k.testBit 486 != (num + 1 == segments)) then [.cartouche] else []) ++
  (if !isDict && !interlocked && belowD940 (BitVec.ofNat 512 k) then [.latmode] else []) ++
  (if tagOk key num bs then [] else [.signature])

/-- Refusals of a dictionary image, by the page that holds the position. -/
def scanDict (segments : Nat) (key bs : List Byte) : List (Nat × Refused) :=
  let k := leNat (bs.take 64)
  let isa := k.testBit 485
  (cartRefusals true true dictNumber segments key bs).map (fun r => (0, 0, r)) ++
  ((List.range (cartCount k)).flatMap (fun i =>
    let at' := 64 + 48 * i
    (bundleRefusals isa segments (leNat ((bs.drop at').take 48))).map (fun r => (at' / 65536, at' % 65536, r))))

/-- Refusals of one segment that stands at byte `off` of its page. -/
def scanSegment (k : Kernel) (interlocked : Bool) (num off : Nat) (key bs : List Byte) : List Refused :=
  let x := leNat bs
  let isa := x.testBit 485
  (cartRefusals false interlocked num k.segments key bs).map (fun r => (off, r)) ++
  (scanWords k isa (fun i => elem x 16 i) 4096 32).map (fun r => (off + 2 * r.1, r.2))

/-! MAPX (R301, R429). -/

/-- A page of the request: virtual page, kind, physical frame. -/
structure MapPage where
  va : Nat
  isDict : Bool
  frame : Nat
deriving DecidableEq, Repr

/-- The pages of a request; none when one's fields are wrong or it does not translate. -/
def mapPages (s : State) (asid : Nat) (pages : List Word) : Option (List MapPage) :=
  pages.foldl (fun acc p => match acc with
    | none => none
    | some l =>
      let v := p.toNat
      if fld v 63 48 ≠ 0 || fld v 15 1 ≠ 0 then none
      else match walk s asid (fld v 47 16 * 65536) 0 false with
        | none => none
        | some x => some (l ++ [⟨fld v 47 16, v.testBit 0, x.addr / 65536⟩])) (some [])

/-- Pages of a manifest's dictionary image, as its first page says where the request names it, else as it translates. -/
def imagePages (s : State) (k : Manifest) (l : List MapPage) : Nat :=
  let first := match l.find? (fun p => p.isDict && p.va == k.dict / 65536) with
    | some p => some p.frame
    | none => (walk s k.asid k.dict 0 false).map (·.addr / 65536)
  match first with
  | some f => dictPages (cartCount (leNat (s.bytes (f * 65536) 64)))
  | none => 1

/-- A page's kind matches the manifest's addresses: a dictionary page is one of the image's, a code page holds segments of the
kernel (R429). -/
def kindsOk (s : State) (k : Manifest) (l : List MapPage) : Bool :=
  l.all (fun p =>
    if p.isDict then k.dict / 65536 ≤ p.va && p.va < k.dict / 65536 + imagePages s k l
    else k.codeBase < (p.va + 1) * 65536 && p.va * 65536 < k.codeBase + 8192 * k.segments)

/-- The dictionary that the request's code pages are scanned with: mapped already, or named before them, all its pages together
and in increasing address; none where a request names it otherwise (R74, R429). One that another manifest has mapped at the same address
counts as mapped (log entry 77). -/
def requestDict (s : State) (asid : Nat) (k : Manifest) (l : List MapPage) : Option (List Nat) :=
  let ds := l.filter (·.isDict)
  if ds.isEmpty then (dictFrames s asid k.dict).map (·.1)
  else if l.takeWhile (·.isDict) == ds && ds.map (·.va) == (List.range (imagePages s k l)).map (· + k.dict / 65536) then
    some (ds.map (fun p => p.frame * 65536))
  else none

/-- Segments of a kernel that lie in a page. -/
def segsIn (k : Manifest) (va : Nat) : List Nat :=
  (List.range 8).filterMap (fun i =>
    let a := va * 65536 + 8192 * i
    if k.codeBase ≤ a && a < k.codeBase + 8192 * k.segments then some ((a - k.codeBase) / 8192) else none)

/-- What the scanner finds on a request: the page's index in the list, the refusal; NODICT stands at the first code page, at page
0 where the request names none (R76, log entry 68). -/
def scanRequest (s : State) (asid : Nat) (interlocked : Bool) (k : Manifest) (l : List MapPage) : Option (Nat × Refused) :=
  let d := requestDict s asid k l
  let fs := d.getD []
  let n := cartCount (leNat (s.bytes (fs.headD 0) 64))
  let image := if fs.isEmpty then [] else framesBytes s fs (dictBytes n)
  let kn : Kernel := ⟨k.segments, n, fun i => leNat ((image.drop (64 + 48 * (i - 1))).take 48)⟩
  let badDict : List (Nat × Refused) := if fs.any (beyondRepair s · 65536) then [(0, 0, .signature)] else []
  let inDict := if d.isSome && l.any (·.isDict) then badDict ++ scanDict k.segments k.key image else []
  let firstDict := (findIdx (fun (p : MapPage) => p.isDict) l 0).map (·.1)
  let firstCode := ((findIdx (fun (p : MapPage) => !p.isDict) l 0).map (·.1)).getD 0
  (l.zipIdx 0).findSome? (fun p =>
    let here : List Refused :=
      (if d.isNone && firstCode = p.2 then [(0, .nodict)] else []) ++
      if p.1.isDict then inDict.filterMap (fun r => if r.1 + firstDict.getD 0 = p.2 then some r.2 else none)
      else
        (segsIn k p.1.va).flatMap (fun j =>
          let a := k.codeBase + 8192 * j - p.1.va * 65536
          (if beyondRepair s (p.1.frame * 65536 + a) 8192 then [(a, .signature)] else []) ++
          scanSegment kn interlocked j a k.key (s.bytes (p.1.frame * 65536 + a) 8192))
    (firstRefusal here).map (fun r => (p.2, r)))

/-- Marking frames discards their entries from every interval log (R301, R372). -/
def dropLogged (s : State) (frames : List Nat) : State :=
  s.jobs.foldl (fun t c => match c.2 with
    | some j => if j.log.isEmpty then t
        else t.setJob c.1 (some { j with log := j.log.filter (fun e => !frames.contains (e.sector / 1024)) })
    | none => t) s

/-- The outcome of a MAPX. -/
inductive MapxResult where
  | field
  | room
  | scan (page : Nat) (r : Refused)
  | ok
deriving DecidableEq, Repr

/-- MAPX: the frames are marked, scanned, and one entry a page is written. -/
def mapRequest (s : State) (job manifest : Nat) (pages : List Word) : State × MapxResult :=
  let asid := jobAsid s job
  match s.manifests[manifest]?, mapPages s asid pages with
  | some k, some l =>
    if k.asid ≠ asid || l.isEmpty || 1024 < l.length || !kindsOk s k l then (s, .field)
    else
      let s1 := l.foldl (fun t p => meet t (p.frame * 65536) 65536 none ⟨none, job⟩) (dropLogged s (l.map (·.frame)))
      match scanRequest s1 asid (jobField s job 452 452 == 1) k l with
      | some (p, r) => (s1, .scan p r)
      | none =>
        let keep := s1.mapped.filter (fun m => !(m.asid == asid && m.manifest == manifest && l.any (fun p => p.va == m.va)))
        if Config.mappedEntries < keep.length + l.length then (s1, .room)
        else ({ s1 with mapped := l.map (fun p => ⟨asid, p.va, p.frame, p.isDict, manifest⟩) ++ keep }, .ok)
  | _, _ => (s, .field)

/-! MANIFEST_LOAD (R414, R428, R429). -/

/-- The outcome of a manifest. -/
inductive ManifestResult where
  | field
  | denied
  | room
  | ok (number : Nat)
deriving DecidableEq, Repr

/-- The manifest's own fields (R428). -/
def manifestFieldsOk (m : List Byte) : Bool :=
  let n := leNat ((m.drop 4).take 2)
  leNat (m.take 2) == 1 && leNat ((m.drop 2).take 1) ≤ 7 && leNat ((m.drop 3).take 1) == 0 && 1 ≤ n && n ≤ 4096 &&
  leNat ((m.drop 6).take 2) == 0 && m.length == 424 + 32 * n

/-- The signature verifies under the enrolled key that the manifest names. -/
def manifestSigned (s : State) (m : List Byte) : Bool :=
  let slot := leNat ((m.drop 2).take 1)
  let signed := m.take (m.length - 384)
  let key := if slot = 0 then some (Config.romModulus, Config.romExponent)
    else (s.enrolled.find? (·.1 == slot)).map (·.2)
  match key with
  | some (n, e) => pssVerify n e signed (m.drop (m.length - 384))
  | none => false

/-- ASCII "IRX3-SEG". -/
def segLabel : List Byte := [0x49, 0x52, 0x58, 0x33, 0x2D, 0x53, 0x45, 0x47]

/-- The segment key (R414). -/
def segmentKey (m : List Byte) : List Byte := hmac Config.codeRoot (segLabel ++ sha256 (m.take (m.length - 384)))

/-- MANIFEST_LOAD: verified, compared, and the tags written. -/
def loadManifest (s : State) (job dict code : Nat) (m : List Byte) : State × ManifestResult :=
  let n := leNat ((m.drop 4).take 2)
  if fld dict 63 48 ≠ 0 || fld code 63 48 ≠ 0 || dict % 65536 ≠ 0 || code % 8192 ≠ 0 || !manifestFieldsOk m then (s, .field)
  else if !manifestSigned s m then (s, .denied)
  else
    let s := devMeet (devMeet s job none dict 64) job none code (8192 * n)
    let image := match devRead s job dict 64 with
      | some h => devRead s job dict (dictBytes (cartCount (leNat h)))
      | none => none
    match image, devRead s job code (8192 * n) with
    | some d, some cs =>
      let s := devMeet s job none dict d.length
      if (firstUnwritable s job dict d.length).isSome || (firstUnwritable s job code cs.length).isSome then (s, .field)
      else
        let seg := fun j => (cs.drop (8192 * j)).take 8192
        if sha256 (d.drop 16) ≠ (m.drop 8).take 32 ||
          (List.range n).any (fun j => sha256 ((seg j).drop 16) != (m.drop (40 + 32 * j)).take 32) then (s, .denied)
        else if Config.manifests ≤ s.manifests.length then (s, .room)
        else
          let key := segmentKey m
          let s1 := (devStore s job none dict (tagOf key dictNumber d)).1
          let s2 := (List.range n).foldl (fun t j => (devStore t job none (code + 8192 * j) (tagOf key j (seg j))).1) s1
          ({ s2 with manifests := s2.manifests ++ [⟨jobAsid s job, dict, code, n, key⟩] }, .ok s.manifests.length)
    | _, _ => (s, .field)

end Sys2Proof.Machine
end

