-- ==== Sys2Proof/Machine/Session.lean ====
section
/-! DEFINITION. Sessions and their requests (R406 to R413): which request is performed, what a refusal answers, the
states of a TDI, and what several requests share. The payload layouts that the spec does not give are the model's
arguments (log entry 9). -/
namespace Sys2Proof.Machine

/-- Results of R407. -/
def rOk : Nat := 0
def rAccepted : Nat := 1
def rState : Nat := 2
def rField : Nat := 3
def rDenied : Nat := 4
def rRoom : Nat := 5
def rScan : Nat := 6

/-- One message of a reply: opcode REPLY, the request's tag and job (R407, R410). -/
def replyPart (m : Msg) (result : Nat) (s : State) (p : Bool × List Byte) : State :=
  sessionEntry (emit s (.reply m.session (BitVec.ofNat 256 (headerOf 0x8000 m.tag m.job result p.2.length p.1)) p.2)) m.session
/-- The request's header with the result, with which the payload of its reply begins (R410). -/
def echoOf (m : Msg) (result : Nat) : List Byte := leBytes 32 (headerOf m.opcode m.tag m.job result m.length false)
/-- One reply, after the request's effect, on the session's event ring (R408), as a chain of messages where it is long (R407). -/
def reply (s : State) (m : Msg) (result : Nat) (payload : List Byte) : State :=
  (chainOf (echoOf m result ++ payload)).foldl (replyPart m result) s
/-- A reply that carries nothing more. -/
def answer (s : State) (m : Msg) (result : Nat) : State := reply s m result []

/-- An event: session 0's ring, and the job's session where it has one (R410). -/
def postEvent (s : State) (opcode : Nat) (job : Option Nat) (payload : List Nat) : State := emitEvent s opcode job payload

/-- Kinds of request: marked A (R409), a configuration message, a debug message (R412), one that a frozen requester still
sends: THAW, and what names no job (R413). -/
structure ReqKind where
  admin : Bool
  config : Bool
  debug : Bool
  pass : Bool
deriving DecidableEq, Repr

def plainReq : ReqKind := ⟨false, false, false, false⟩
/-- Marked A and device-wide; marked A and naming a job. -/
def adminReq : ReqKind := ⟨true, false, false, true⟩
def jobAdminReq : ReqKind := ⟨true, false, false, false⟩
def configReq : ReqKind := ⟨false, true, false, false⟩
def debugReq : ReqKind := ⟨false, false, true, false⟩
def thawReq : ReqKind := ⟨false, false, false, true⟩

/-- TDI state of a confidential job. -/
def tdiOf (s : State) (job : Nat) : Option Tdi := match s.job job with
  | some j => if confJob s job then some j.tdi else none
  | none => none

/-- A configuration message while locked (R413): the session's requester is frozen for the job, the TDI enters ERROR. -/
def configViolation (s : State) (m : Msg) : State :=
  let v := s.session m.session
  let s1 := s.setSession m.session { v with frozen := if v.frozen.contains m.job then v.frozen else v.frozen ++ [m.job] }
  answer (tdiError (postNotice s1 m.job nkFrozen 0 0) m.job) m rDenied

/-- Why a request is not looked at further: its result. -/
def notPerformed (s : State) (m : Msg) (k : ReqKind) : Option Nat :=
  let v := s.session m.session
  if s.lastSheetLost then some rState
  else if m.resv ≠ 0 then some rField
  else if (match v.job with | some j => k.admin || j != m.job | none => false) then some rDenied
  else if v.frozen.contains m.job && !k.pass then some rDenied
  else if (k.config || k.debug) && tdiOf s m.job == some .error then some rState
  else none

/-- A request of a live session: refused as R408 gives, a violation where R413 says so, else performed. -/
def request (s : State) (m : Msg) (k : ReqKind) (f : State → State) : State :=
  if s.power ≠ .on || !(s.session m.session).up then s
  else match notPerformed s m k with
    | some r => answer s m r
    | none =>
      if k.config && (tdiOf s m.job == some .locked || tdiOf s m.job == some .run) then configViolation s m
      else f s

/-- A request about a job that exists; otherwise the state of what it names refuses it. -/
def withJob (s : State) (m : Msg) (f : Job → State) : State := match s.job m.job with
  | some j => f j
  | none => answer s m rState

/-! Units held and released (R36). -/

/-- SUSPENDED units of a job that nothing holds become READY, or WAITING if their wait is unmet. -/
def releaseUnits (s : State) (job : Nat) : State :=
  (jobRecords s job).foldl (fun t va => match readRecord t job va with
    | some r => if crState r = usSuspended && !heldBack t job r then
        let w := testWait t job r
        (if w.2 then enqueueUnit (writeRecord w.1 job va (crSet r usReady (crReason r))) job va
         else writeRecord w.1 job va (crSet r usWaiting (crReason r))) else t
    | none => t) s

/-- Every READY or WAITING unit of a job is held. -/
def holdJob (s : State) (job : Nat) : State := holdUnits s job (fun _ => true)

/-- Placement of a job is paused. -/
def pauseJob (s : State) (job : Nat) : State := match s.job job with
  | some j => holdJob (s.setJob job (some { j with paused := true })) job
  | none => s
/-- Placement of a job is resumed. -/
def resumeJob (s : State) (job : Nat) : State := match s.job job with
  | some j => releaseUnits (s.setJob job (some { j with paused := false })) job
  | none => s

/-- Removal of one context (R374): its unit ends CANCELLED. -/
def removeCtx (s : State) (core x : Nat) : State := endUnit (flushUnit s core x) core x usCancelled 5

/-- A job has no unit frozen off its context. -/
def clearFrozen (s : State) (job : Nat) : State := match s.job job with
  | some j => s.setJob job (some { j with frozenUnits := [] })
  | none => s

/-- Every unit of a job is removed (R39, R374): those not yet created, those on contexts by the removal sequence, the
others at once. -/
def removeUnits (s : State) (job : Nat) : State :=
  let armed : List Nat := match s.job job with
    | some j => j.pool.filterMap (fun c => if lrState c.2.toNat = 1 then some c.1 else none)
    | none => []
  let s0 := cancelLaunches s job armed true
  let s1 := (allContextsOf s0 job).foldl (fun t p => removeCtx t p.1 p.2) s0
  (jobRecords s1 job).foldl (fun t va => match readRecord t job va with
    | some r => if crState r ≤ 3 || crState r = usFrozen then
        unitEnded (writeRecord (unreserve (dequeueUnit t job va) job va) job va (crSet r usCancelled 5)) job (crLaunch r) none true
      else t
    | none => t) (clearFrozen s1 job)

/-! Packets ended from outside (R282, R374). -/

/-- Every packet taken up ends ABORTED, with the bytes that it has delivered. -/
def abortPackets (s : State) (r : RingRef) (detail : Nat) : State :=
  ((findRing s r).pkts.filter Pkt.open).foldl (fun t q =>
    finishPacket t r q.index.toNat q.bits.toNat stAborted detail 0 q.prog.bytes) s

/-! Sessions (R406, R411). -/

/-- The hub hears the host: its port is up, and the device runs, or it has lost its last sheet and still answers STATUS_READ (R382). -/
def hubHears (s : State) : Bool := s.hostPort && (s.power == .on || (s.power == .hold && s.lastSheetLost))

/-- Every session is in use (R406). -/
def sessionsFull (s : State) : Bool := (List.range 16).all (fun i => (s.session i).up)

/-- SPDM_SESSION_ESTABLISH: session 0 by the platform key, or one bound to a job; `job` is 2^16 for session 0. After a
power loss the host first learns of the valid shadows, which are then cleared (R378). With sixteen in use there is no room (R408). -/
def execSpdmSessionEstablish (n job : Nat) (reqRing evRing : Word) (s : State) : Res :=
  .next (if hubHears s && sessionsFull s then emit s (.noSession rRoom)
    else if !hubHears s || 16 ≤ n || (n ≠ 0 && (s.job job).isNone) || (s.session n).up then s
    else
      let s1 := s.setSession n { Session.none with up := true, job := if n = 0 then none else some job, req := reqRing, ev := evRing }
      if n ≠ 0 || !s1.powerLost then s1
      else
        let shadows := s1.cores.flatMap (fun k => [(k.1, 0, k.2.ctx0), (k.1, 1, k.2.ctx1)])
        let lost := shadows.filter (fun c => c.2.2.run == .free && c.2.2.ckpt.getLsbD 63)
        let s2 := lost.foldl (fun t c => t.freeCtx c.1 c.2.1) { s1 with powerLost := false }
        postEvent s2 0x8003 none (lost.flatMap (fun c => [ctxIdOf s c.1 c.2.1, c.2.2.ckpt.toNat, c.2.2.cause.toNat])))

/-- The descriptor of a session's request ring in host memory, and where a slot not yet read stands: write_index decides that there is
one (R246, R406). -/
def nextSlot (s : State) (ring : Word) : Option (Nat × Nat) :=
  let k := hostKey (fld ring.toNat 47 0)
  let d := s.desc k
  if rdOk d && rdKind d = 6 && 0 < rdCount d then
    some (k, hostKey ((fld (rdBase d) 47 0 + rdRead d % 2 ^ rdLog2 d * 4096) % 2 ^ 48))
  else none

/-- The device has read one slot: read_index passes it. -/
def passSlot (s : State) (k : Nat) : State := s.setDesc k (setFld (s.desc k) 447 384 (rdRead (s.desc k) + 1))

/-- Opcode (R409) and header of a request. -/
def requestHead : Instr → Option (Nat × Msg)
  | .jobCreate m _ => some (0x0001, m)
  | .jobRemove m => some (0x0002, m)
  | .poolBuild m _ _ => some (0x0003, m)
  | .ringCreate m _ _ => some (0x0004, m)
  | .ringReset m _ => some (0x0005, m)
  | .ringRemove m _ => some (0x0006, m)
  | .windowsSet m _ => some (0x0007, m)
  | .asidSet m _ _ => some (0x0008, m)
  | .invalidate m _ _ _ => some (0x0009, m)
  | .arm m _ => some (0x000A, m)
  | .levelArm m _ _ _ => some (0x000B, m)
  | .hostCancel m _ _ _ => some (0x000C, m)
  | .placementPause m => some (0x000D, m)
  | .placementResume m => some (0x000E, m)
  | .manifestLoad m _ _ _ => some (0x0010, m)
  | .mapx m _ _ => some (0x0011, m)
  | .unmap m _ => some (0x0012, m)
  | .tenantCreate m _ => some (0x0018, m)
  | .tenantGrant m _ => some (0x0019, m)
  | .tenantCancel m _ => some (0x001A, m)
  | .gzEvict m _ _ => some (0x001B, m)
  | .modelBegin m _ _ _ _ => some (0x0020, m)
  | .modelRows m _ => some (0x0021, m)
  | .modelCommit m => some (0x0022, m)
  | .intervalMark m _ _ => some (0x0028, m)
  | .step m _ _ _ => some (0x0030, m)
  | .halt m _ _ => some (0x0031, m)
  | .stateRead m _ _ => some (0x0032, m)
  | .thaw m _ => some (0x0038, m)
  | .remove m _ => some (0x0039, m)
  | .migrateOut m => some (0x0040, m)
  | .migrateIn m _ _ => some (0x0041, m)
  | .migrateConfirm m _ => some (0x0042, m)
  | .inject m _ _ _ _ _ => some (0x0048, m)
  | .floorsSet m _ _ _ => some (0x0049, m)
  | .replacementClear m => some (0x004A, m)
  | .sysjobSet m _ => some (0x004B, m)
  | .poisonEnable m _ => some (0x004C, m)
  | .statusRead m => some (0x0050, m)
  | .safeCheckpoint m => some (0x0051, m)
  | .safeRestore m => some (0x0052, m)
  | .linkRekey m _ => some (0x0058, m)
  | .refusalRing m _ => some (0x0059, m)
  | _ => none

/-- What a message's header holds where a request is to hold zeros, and a length beyond a message's room (R407). -/
def messageBad (h : Nat) : Bool := fld h 207 200 != 0 || fld h 198 192 != 0 || fld h 159 0 != 0 || msgRoom < fld h 191 160

/-- The header of a request, whose chain has held a bad one or not. -/
def msgOf (n h : Nat) (bad : Bool) : Msg :=
  { session := n, tag := fld h 239 224, job := fld h 223 208, resv := b2n (bad || messageBad h), opcode := fld h 255 240, length := fld h 191 160 }

/-- A whole request (R408): a reserved opcode, or a payload that is none of the opcode's, replies FIELD; any other is performed by the
step that follows. -/
def takeRequest (s : State) (h : BitVec 256) (m : Msg) (payload : List Byte) : State :=
  match (Config.requestOf m.session h payload).filter (fun i => requestHead i == some (m.opcode, m)) with
  | some i => { s with agenda := i :: s.agenda }
  | none => answer s m (if s.lastSheetLost then rState else rField)

/-- One message of a session (R407, R411): one that fails authentication ends the session; one of a chain is kept until its last has
come. -/
def takeMessage (s : State) (n : Nat) (bs : List Byte) : State := match Config.openMessage n bs with
  | none => s.setSession n Session.none
  | some (h, data) =>
    let v := s.session n
    let tag := fld h.toNat 239 224
    let old := ((v.chains.find? (·.1 == tag)).map (·.2)).getD (false, [])
    let body := old.2 ++ data.take (fld h.toNat 191 160)
    let rest := v.chains.filter (·.1 != tag)
    if h.getLsbD 199 then s.setSession n { v with chains := rest ++ [(tag, old.1 || messageBad h.toNat, body)] }
    else takeRequest (s.setSession n { v with chains := rest }) h (msgOf n h.toNat old.1) body

/-- A request of the session waits for a safe checkpoint to complete (R427), and those behind it wait with it (R408). -/
def stopPending (s : State) (n : Nat) : Bool := s.jobs.any (fun j => match j.2 with
  | some k => k.stopAsks.any (·.1 == n)
  | none => false)

/-- DOORBELL: its value is not trusted (R404); it has the device read the session's request ring, slot by slot, until no new one is left,
and perform the requests whole, one after another, in ring order (R406, R408, R411). -/
def execDoorbell (n _value : Nat) (s : State) : Res :=
  let v := s.session n
  .next (if !hubHears s || !v.up then s
    else match nextSlot s v.req with
      | none => s.setSession n { v with rung := false }
      | some (k, slot) =>
        let s1 := s.setSession n { v with rung := true }
        if stopPending s n then s1 else takeMessage (passSlot s1 k) n (s1.bytes slot 4096))

/-- A write to another offset of BAR0 is ignored (R404). -/
def execBarWriteIgnored (_off _value : Nat) (s : State) : Res := .next s

/-- REFUSAL_RING (R405, R409): the requester's refusal ring. -/
def execRefusalRing (m : Msg) (addr : Word) (s : State) : Res :=
  .next (request s m plainReq (fun s =>
    if pathOf addr.toNat ≠ 5 || fld addr.toNat 59 48 ≠ 0 || addr.toNat % 64 ≠ 0 then answer s m rField
    else
      let v := s.session m.session
      answer (s.setSession m.session { v with refusal := some addr, refSeq := 0, refOv := false }) m rOk))

/-! TDI (R412). -/

/-- The IDE stream of a confidential job fails. -/
def execIdeStreamFailure (job : Nat) (s : State) : Res := .next (if s.power ≠ .on then s else tdiError s job)

/-- LOCK_INTERFACE: from CONFIG_UNLOCKED. -/
def execLockInterface (m : Msg) (s : State) : Res :=
  .next (request s m plainReq (fun s => withJob s m (fun j =>
    if tdiOf s m.job = some .unlocked then answer (s.setJob m.job (some { j with tdi := .locked })) m rOk
    else answer s m rState)))

/-- The dispatchers of the clusters that hold READY units of a job decide again (log entry 12). -/
def queuesDue (s : State) (job : Nat) : State :=
  (List.range 16).foldl (fun t c => if (t.cluster c).ready.any (·.job == job) then t.decisionDue c else t) s

/-- START_INTERFACE: from CONFIG_LOCKED; the job's units may then be placed. -/
def execStartInterface (m : Msg) (s : State) : Res :=
  .next (request s m plainReq (fun s => withJob s m (fun j =>
    if tdiOf s m.job = some .locked then answer (queuesDue (s.setJob m.job (some { j with tdi := .run })) m.job) m rOk
    else answer s m rState)))

/-- Frames of device memory that the leaves of an address space name: those of the pages a job owns. -/
def ownedFrames (s : State) : Nat → Nat → List Nat
  | 0, _ => []
  | n + 1, node => (List.range 256).flatMap (fun i =>
    let e := leNat (s.bytes (node + 16 * i) 16)
    if !e.testBit 0 then []
    else if e.testBit 1 then
      (if fld e 7 6 = 0 then (List.range (2 ^ (8 * n))).map (fun j => (fld e 63 16 + j) * 65536) else [])
    else ownedFrames s n (fld e 63 12 * 4096))
/-- The same of a job; a frame in a tenant's region is none of the job's (R317). -/
def jobFrames (s : State) (job : Nat) : List Nat :=
  let a := asidEntry s (jobAsid s job)
  if a.testBit 0 then (ownedFrames s 4 (fld a 91 64 * 4096)).filter (fun k => k < Config.devMemEnd && !inRegion s k) else []

/-- Activation and accumulator ranges that a job's units hold on cores: (core, activation base, limit, accumulator base,
limit). -/
def jobRanges (s : State) (job : Nat) : List (Nat × Nat × Nat × Nat × Nat) :=
  let own := fun (core : Nat) (c : Ctx) =>
    let a := actBounds c.cart.toNat
    let b := accBounds c.cart.toNat
    if c.live && c.job == job then [(core, a.1, a.2, b.1, b.2)] else []
  s.cores.flatMap (fun k => own k.1 k.2.ctx0 ++ own k.1 k.2.ctx1 ++
    (k.2.resv.filter (·.job == job)).map (fun v => (k.1, v.actBase, v.actLimit, v.accBase, v.accLimit)))

/-- Zeros written over a range: its errors and poison marks are gone (R208), its allocation tags are the writer's 0. -/
def zeroRange (s : State) (k n : Nat) : State :=
  arrayWritten { s with mem := s.mem.zero k n
                        tags := if k / 2 ^ 60 = 0 then s.tags.filter (fun t => !(k ≤ 64 * t.1 && 64 * t.1 + 64 ≤ k + n)) else s.tags } k n

/-- Zeros written over a range of a core's buffers; a form bit is not the scrub's to change (R194). -/
def scrubCore (s : State) (r : Nat × Nat × Nat × Nat × Nat) : State :=
  zeroRange (zeroRange s (actKey r.1 r.2.1) (r.2.2.1 - r.2.1)) (accKey r.1 r.2.2.2.1) (r.2.2.2.2 - r.2.2.2.1)

/-- Zeros written over a job's device-memory pages (R412, R417), those that hold mapped code among them (log entry 75). -/
def scrubPages (s : State) (job : Nat) : State := (jobFrames s job).foldl (fun t k => zeroRange t k 65536) s

/-- Zeros written over a job's activation lines, accumulator rows and device-memory pages (R412). -/
def scrubJob (s : State) (job : Nat) (ranges : List (Nat × Nat × Nat × Nat × Nat)) : State :=
  scrubPages (ranges.foldl scrubCore s) job

/-- What STOP_INTERFACE does before it replies (R412): units removed, lines, rows and pages zero, the key erased. -/
def stopInterface (s : State) (job : Nat) : State :=
  let s1 := scrubJob (removeUnits s job) job (jobRanges s job)
  match s1.job job with
  | some j => s1.setJob job (some { j with tdi := .unlocked, frozen := false, key := none, frozenUnits := [], stopAsks := [] })
  | none => s1

/-- STOP_INTERFACE, from any state (R412). While a safe checkpoint of the job runs, the checkpoint completes first (R427). -/
def execStopInterface (m : Msg) (s : State) : Res :=
  .next (request s m plainReq (fun s => withJob s m (fun j =>
    if (tdiOf s m.job).isNone then answer s m rState
    else if j.saving then s.setJob m.job (some { j with stopAsks := j.stopAsks ++ [(m.session, m.tag)] })
    else answer (stopInterface s m.job) m rOk)))

/-- Requests to stop a job that have waited for its checkpoint are replied to. -/
def answerStops (s : State) (job result : Nat) (l : List (Nat × Nat)) : State :=
  l.foldl (fun t a => answer t ⟨a.1, a.2, job, 0, 0, 0⟩ result) s

/-- After a safe checkpoint or restore: the interface stops where that has been asked for meanwhile (R427). -/
def stopAfter (s : State) (job : Nat) : State := match s.job job with
  | some j => if j.stopAsks.isEmpty then s else answerStops (stopInterface s job) job rOk j.stopAsks
  | none => s

/-- A request about a context that runs a unit of the job named. -/
def withCtx (s : State) (m : Msg) (core x : Nat) (f : Ctx → State) : State :=
  let c := s.ctx core x
  if 1088 ≤ core || 1 < x then answer s m rField
  else if c.run = .free || c.run = .placing || c.job ≠ m.job then answer s m rState
  else f c

/-- STEP as it is performed: 1 to 65,535 ticks of a context in debug-step mode; refused while it is frozen (R375, R385). -/
def stepRequest (s : State) (m : Msg) (core x ticks : Nat) : State :=
  request s m debugReq (fun s => withCtx s m core x (fun c =>
    if ticks = 0 || 65535 < ticks then answer s m rField
    else if !c.mode.getLsbD 0 || c.frozen || c.run ≠ .running then answer s m rState
    else answer (s.setCtx core x { c with steps := ticks, halted := false }) m rOk))

end Sys2Proof.Machine
end

