-- ==== Sys2Proof/Machine/Jobs.lean ====
section
/-! DEFINITION. Requests about a job's own tables (R409): the job itself, its pool (R304), rings (R246, R282), windows
(R203), address spaces (R287, R291), arms and cancels (R306, R358, R360), placement (R36), intervals (R372), poison
(R424), system designation (R113), code (R301, R302, R429). -/
namespace Sys2Proof.Machine

/-! JOB_CREATE, JOB_REMOVE. -/

/-- A descriptor whose fields R303 allows, for the job that the request names. -/
def jobDescOk (d job : Nat) : Bool :=
  fld d 511 496 == job && fld d 451 448 == 0 && fld d 183 0 == 0 && fld d 447 400 % 4096 == 0

/-- A new key of a confidential job (R415): key and salt are free values. -/
def newKey (s : State) (job : Nat) : State × Key :=
  let r := fresh s
  let g := Tab.get (0 : BitVec 16) r.2.keyGen job + 1
  ({ r.2 with keyGen := Tab.set 0 r.2.keyGen job g },
   { key := r.1.setWidth 256
     salt := (r.1 >>> 256).setWidth 32
     keyId := BitVec.ofNat 32 (job * 65536 + g.toNat)
     counter := 0 })

/-- A job as JOB_CREATE leaves it. -/
def freshJob (desc : BitVec 512) (key : Option Key) : Job :=
  { desc := desc, pool := [], windows := [], paused := false, frozen := false, tdi := .unlocked, key := key, poison := false,
    tenants := [], noteSeq := 0, noteOv := false, empty := false, marks := 0, logBase := 0, logCap := 0, log := [],
    migrating := false, saving := false, levels := [], frozenUnits := [], stopAsks := [], migKey := none, bundleSent := false, moved := false }

/-- JOB_CREATE (R303, R409, R415). -/
def execJobCreate (m : Msg) (desc : BitVec 512) (s : State) : Res :=
  .next (request s m jobAdminReq (fun s =>
    if 65536 ≤ m.job || !jobDescOk desc.toNat m.job then answer s m rField
    else if (s.job m.job).isSome then answer s m rState
    else if desc.getLsbD 492 then
      let r := newKey s m.job
      answer (r.1.setJob m.job (some (freshJob desc (some r.2)))) m rOk
    else answer (s.setJob m.job (some (freshJob desc none))) m rOk))

/-- What the engines hold of a ring is dropped, and the handles of its packets are in flight no longer (R323); a freeze stays. -/
def clearRing (s : State) (r : RingRef) : State :=
  let v := findRing s r
  setRing (lowerAll s (v.pkts.flatMap (·.flight))) { v with pkts := [], fault := none, next := 0 }

/-- JOB_REMOVE: a hard cancel of the job, then its descriptor, key and TDI go; what its rings hold is dropped. -/
def execJobRemove (m : Msg) (s : State) : Res :=
  .next (request s m jobAdminReq (fun s => withJob s m (fun j =>
    let s1 := (s.rings.filter (fun r => r.r.job == m.job)).foldl (fun t r => clearRing t r.r) (removeUnits s m.job)
    let s2 := { s1.setJob m.job none with
      rings := s1.rings.filter (fun r => r.r.job != m.job)
      badModels := s1.badModels.map (fun b => (b.1, b.2.filter (· != m.job))) }
    answer (answerStops s2 m.job rState j.stopAsks) m rOk)))

/-! POOL_BUILD (R304). -/

/-- A record as the host builds it: state and arm_count are the device's. -/
def builtRec (r : Nat) : Nat := setFld (setFld r 1023 1020 0) 1019 1004 0

/-- A record that R304 allows in a job's pool. -/
def poolRecOk (s : State) (job r : Nat) : Bool :=
  let area := jobField s job 447 400
  let clusters := popCount (lrPlacement r) 16
  fld r 796 768 == 0 && fld r 431 256 == 0 && lrPin r ≤ 2 &&
  (lrEdges r).all (fun q => q ≤ jobField s job 474 459) &&
  area ≤ lrRecordBase r && lrRecordBase r + 64 * lrUnits r ≤ area + 4096 * jobField s job 399 376 &&
  lrRecordBase r % 64 == 0 && lrCodeBase r % 8192 == 0 && (lrBitmap r != 0 || lrBitmapBits r == 0) &&
  !(lrPin r == 2 && 64 * clusters < lrUnits r)

/-- Slots without an edge into the slots left, taken away `n` times: what remains lies on or behind a cycle. -/
def peelSlots (pool : Tab (BitVec 1024)) : Nat → List Nat → List Nat
  | 0, l => l
  | n + 1, l =>
    let left := l.filter (fun q => (lrEdges (Tab.get (0 : BitVec 1024) pool q).toNat).any (l.contains ·))
    if left.length = l.length then l else peelSlots pool n left
/-- The edges of a pool form no cycle. -/
def acyclic (pool : Tab (BitVec 1024)) : Bool := (peelSlots pool (pool.length + 1) (pool.map (·.1))).isEmpty

/-- POOL_BUILD: records from slot `first` on. -/
def execPoolBuild (m : Msg) (first : Nat) (recs : List (BitVec 1024)) (s : State) : Res :=
  .next (request s m configReq (fun s => withJob s m (fun j =>
    let new := (recs.zipIdx first).foldl (fun (t : Tab (BitVec 1024)) (r : BitVec 1024 × Nat) =>
      Tab.set 0 t r.2 (BitVec.ofNat 1024 (builtRec r.1.toNat))) j.pool
    if jobField s m.job 474 459 + 1 < first + recs.length || !recs.all (fun (r : BitVec 1024) => poolRecOk s m.job r.toNat) ||
      !acyclic new then answer s m rField
    else if (List.range recs.length).any (fun i => lrLive (poolRec j (first + i))) then answer s m rState
    else answer (s.setJob m.job (some { j with pool := new })) m rOk)))

/-! Rings. -/

/-- Where a ring's descriptor stands: on a path-0 page of the job, or in host memory for the kinds that may. -/
def ringPlace (s : State) (job kind a : Nat) : Option Nat :=
  if a % 64 ≠ 0 then none
  else if pathOf a = 0 then
    match walk s (jobAsid s job) (fld a 47 0) 0 true with
    | some x => if markedFrame s x.addr then none else some x.addr
    | none => none
  else if pathOf a = 5 && (kind = 4 || kind = 6 || kind = 7) then some (hostKey (fld a 47 0))
  else none

/-- The base of a ring: aligned to its size, translating. -/
def ringBaseOk (s : State) (job d : Nat) : Bool :=
  let n := 2 ^ rdLog2 d * rdEntry (rdKind d)
  let b := rdBase d
  b % n == 0 && (pathOf b == 0 || (pathOf b == 5 && [4, 6, 7].contains (rdKind d))) && fld b 59 48 == 0 &&
  (pathOf b == 5 || (walk s (jobAsid s job) (fld b 47 0) 0 true).isSome)

/-- A descriptor with its indices and halted state at reset. -/
def freshRing (d : Nat) : Nat := setFld (setFld (setFld (setFld d 511 448 0) 447 384 0) 310 310 0) 255 192 0

/-- An error-log ring in device memory serves an array (R209): which one its descriptor does not say (log entry 17). -/
def bindErrorLog (s : State) (d k : Nat) : State :=
  let a := Config.arrayOfRing k
  let l := Tab.get ErrLog.reset s.errLogs a
  if rdKind d = 4 && k / 2 ^ 60 = 0 then { s with errLogs := Tab.set ErrLog.reset s.errLogs a { l with desc := k } } else s
/-- A ring in device memory serves no array any more; the array's count of records stays. -/
def dropErrorLog (s : State) (k : Nat) : State :=
  { s with errLogs := s.errLogs.foldl (fun t l => if l.2.desc = k then Tab.set ErrLog.reset t l.1 { l.2 with desc := 0 } else t) s.errLogs }

/-- RING_CREATE (R246): the copy engines of the named cluster serve a packet ring from then on. -/
def execRingCreate (m : Msg) (addr : Word) (desc : BitVec 512) (s : State) : Res :=
  .next (request s m configReq (fun s => withJob s m (fun _ =>
    let d := desc.toNat
    if !rdOk d || rdJob d ≠ m.job || !ringBaseOk s m.job d then answer s m rField
    else match ringPlace s m.job (rdKind d) addr.toNat with
      | none => answer s m rField
      | some k =>
        let s1 := (s.setDesc k (freshRing d)).setTags k 64 0
        answer (if rdKind d = 1 then clearRing s1 ⟨m.job, addr⟩ else bindErrorLog s1 d k) m rOk)))

/-- A ring of the job that a request names. -/
def namedRing (s : State) (m : Msg) (addr : Word) : Option (Nat × Nat) :=
  match ringDesc s ⟨m.job, addr⟩ with
  | some (k, d) => if rdOk d && rdJob d = m.job then some (k, d) else none
  | none => none

/-- RING_RESET (R282): packets taken up end ABORTED, 0x14; the indices become equal. -/
def execRingReset (m : Msg) (addr : Word) (s : State) : Res :=
  .next (request s m configReq (fun s =>
    match namedRing s m addr with
    | none => answer s m rField
    | some (k, _) =>
      let s1 := clearRing (abortPackets s ⟨m.job, addr⟩ 0x14) ⟨m.job, addr⟩
      let v := findRing s1 ⟨m.job, addr⟩
      let s2 := setRing s1 { v with next := BitVec.ofNat 64 (rdWrite (s1.desc k)) }
      answer (putDesc s2 m.job addr.toNat k (setFld (s2.desc k) 447 384 (rdWrite (s2.desc k)))) m rOk))

/-- RING_REMOVE: the packets end as at a reset, and the descriptor is cleared. -/
def execRingRemove (m : Msg) (addr : Word) (s : State) : Res :=
  .next (request s m configReq (fun s =>
    match namedRing s m addr with
    | none => answer s m rField
    | some (k, _) =>
      let s1 := abortPackets s ⟨m.job, addr⟩ 0x14
      let s2 := { s1 with rings := s1.rings.filter (fun v => v.r != (⟨m.job, addr⟩ : RingRef)) }
      answer (dropErrorLog (putDesc s2 m.job addr.toNat k 0) k) m rOk))

/-! Windows and address spaces. -/

/-- A window entry of R203. -/
def windowOk (w : Nat) : Bool :=
  let p := fld w 255 252
  (p == 2 || p == 3 || p == 7) && fld w 251 250 == 0 && fld w 233 192 == 0 && fld w 63 0 == 0 && !(p == 2 && w.testBit 235)

/-- WINDOWS_SET (R203, R303, log entry 73). -/
def execWindowsSet (m : Msg) (entries : List (BitVec 256)) (s : State) : Res :=
  .next (request s m configReq (fun s => withJob s m (fun j =>
    if entries.isEmpty || 64 < entries.length || !entries.all (fun w => windowOk w.toNat) then answer s m rField
    else answer (s.setJob m.job (some { j with
      windows := entries
      desc := BitVec.ofNat 512 (setFld j.desc.toNat 458 453 (entries.length - 1)) })) m rOk)))

/-- ASID_SET (R287). -/
def execAsidSet (m : Msg) (asid : Nat) (entry : BitVec 128) (s : State) : Res :=
  .next (request s m jobAdminReq (fun s =>
    let e := entry.toNat
    if 65536 ≤ asid || fld e 127 92 ≠ 0 || fld e 47 32 ≠ 0 || fld e 15 1 ≠ 0 then answer s m rField
    else answer { s with asids := Tab.set 0 s.asids asid entry } m rOk))

/-- The engines read a ring again after an invalidation that covers what did not translate (R249). -/
def rereadRing (asid va len : Nat) (s : State) (v : RingRun) : State :=
  let inRange := fun (a : Nat) => va ≤ fld a 47 0 && fld a 47 0 < va + len
  let ok : Bool := match v.fault, ringDesc s v.r with
    | some i, some (_, d) =>
      (slotKey s v.r d i).isSome && (inRange v.r.desc.toNat || inRange (rdBase d + i % 2 ^ rdLog2 d * 64))
    | _, _ => false
  let s1 := if jobAsid s v.r.job = asid && ok then setRing s { v with fault := none } else s
  if jobAsid s v.r.job = asid && inRange v.r.desc.toNat then freePackets s1 v.r else s1

/-- INVALIDATE (R291, R294): the reply follows the drop of every cached leaf of the range. -/
def execInvalidate (m : Msg) (asid va len : Nat) (s : State) : Res :=
  .next (request s m configReq (fun s =>
    if 65536 ≤ asid || 2 ^ 48 < va + len then answer s m rField
    else if (s.session m.session).job.isSome && asid ≠ jobAsid s m.job then answer s m rDenied
    else
      let s1 := dropCached s asid va len
      let s2 := { s1 with faultPages := s1.faultPages.filter (fun p =>
        !(p.1 == asid && va < (p.2 + 1) * 65536 && p.2 * 65536 < va + len)) }
      answer (s2.rings.foldl (rereadRing asid va len) s2) m rOk))

/-! Arms, cancels, placement. -/

/-- ARM (R306). -/
def execArm (m : Msg) (slot : Nat) (s : State) : Res :=
  .next (request s m plainReq (fun s => withJob s m (fun _ =>
    if slotBad s m.job slot then answer s m rField
    else match armLaunch s m.job slot none with
      | (s1, .ok n) => reply s1 m rOk (wordBytes [n])
      | (s1, .error x) => answer s1 m (if x.2 = 1 then rField else rState))))

/-- LEVEL_ARM (R358): a graph, phase or job counter. -/
def execLevelArm (m : Msg) (addr count parent : Nat) (s : State) : Res :=
  .next (request s m plainReq (fun s => withJob s m (fun j =>
    if addr % 16 ≠ 0 || parent % 16 ≠ 0 || 2 ^ 23 ≤ count || 2 ^ 48 ≤ addr || 2 ^ 48 ≤ parent ||
      (firstUnwritable s m.job addr 16).isSome then answer s m rField
    else
      let s1 := s.setJob m.job (some { j with levels := if j.levels.contains addr then j.levels else j.levels ++ [addr] })
      answer (writeCounter s1 m.job addr (count + parent * 2 ^ 64)) m rOk)))

/-- CANCEL (R360), as the instruction; the reply carries remaining. -/
def execHostCancel (m : Msg) (level : Nat) (addr : Word) (hard : Bool) (s : State) : Res :=
  .next (request s m plainReq (fun s => withJob s m (fun _ =>
    if 4 < level then answer s m rField
    else
      let r := cancelLevel s m.job level addr.toNat hard
      if r.2.1 = stOk then reply r.1 m rOk (wordBytes [r.2.2.2]) else answer r.1 m rField)))

/-- PLACEMENT_PAUSE (R36). -/
def execPlacementPause (m : Msg) (s : State) : Res :=
  .next (request s m plainReq (fun s => withJob s m (fun _ => answer (pauseJob s m.job) m rOk)))
/-- PLACEMENT_RESUME (R36): also of a job whose migration failed before its key left (R418). -/
def execPlacementResume (m : Msg) (s : State) : Res :=
  .next (request s m plainReq (fun s => withJob s m (fun j =>
    if j.saving then answer s m rState
    else answer (resumeJob (s.setJob m.job (some { j with migrating := false, migKey := none, bundleSent := false })) m.job) m rOk)))

/-! Intervals, poison, system designation. -/

/-- INTERVAL_MARK (R372): a log area of `entries` entries of 80 bytes. -/
def execIntervalMark (m : Msg) (base entries : Nat) (s : State) : Res :=
  .next (request s m plainReq (fun s => withJob s m (fun j =>
    if 2 ^ 48 ≤ base || entries = 0 || (firstUnwritable s m.job base (80 * entries)).isSome then answer s m rField
    else answer (s.setJob m.job (some { j with marks := j.marks + 1, logBase := base, logCap := entries, log := [] })) m rOk)))

/-- POISON_ENABLE (R424). -/
def execPoisonEnable (m : Msg) (on : Bool) (s : State) : Res :=
  .next (request s m plainReq (fun s => withJob s m (fun j => answer (s.setJob m.job (some { j with poison := on })) m rOk)))

/-- SYSJOB_SET (R113): units take the change at their next placement. -/
def execSysjobSet (m : Msg) (on : Bool) (s : State) : Res :=
  .next (request s m jobAdminReq (fun s => withJob s m (fun j =>
    answer (s.setJob m.job (some { j with desc := BitVec.ofNat 512 (setFld j.desc.toNat 491 491 (b2n on)) })) m rOk)))

/-! Code. -/

/-- MANIFEST_LOAD (R414, R428, R429): the reply carries the manifest's number. -/
def execManifestLoad (m : Msg) (dict codeBase : Word) (manifest : List Byte) (s : State) : Res :=
  .next (request s m plainReq (fun s => withJob s m (fun _ =>
    match loadManifest s m.job dict.toNat codeBase.toNat manifest with
    | (s1, .field) => answer s1 m rField
    | (s1, .denied) => answer s1 m rDenied
    | (s1, .room) => answer s1 m rRoom
    | (s1, .ok n) => reply s1 m rOk (leBytes 2 n))))

/-- A SIGNATURE refusal is also a violation of the requester (R76, R413, R416). -/
def signatureViolation (s : State) (m : Msg) : State :=
  let v := s.session m.session
  tdiError (postNotice (s.setSession m.session { v with frozen := if v.frozen.contains m.job then v.frozen else v.frozen ++ [m.job] })
    m.job nkFrozen 0 0) m.job

/-- Payload of a SCAN reply: the reason code in byte 0, the page index in bytes 2 and 3, the byte offset in bytes 4 to 7 (R429). -/
def scanPayload (code page off : Nat) : List Byte := leBytes 8 (code + page % 2 ^ 16 * 2 ^ 16 + off % 2 ^ 32 * 2 ^ 32)

/-- MAPX (R301, R429): a refusal carries reason code, page index and byte offset. -/
def execMapx (m : Msg) (manifest : Nat) (pages : List Word) (s : State) : Res :=
  .next (request s m plainReq (fun s => withJob s m (fun _ =>
    match mapRequest s m.job manifest pages with
    | (s1, .field) => answer s1 m rField
    | (s1, .room) => answer s1 m rRoom
    | (s1, .ok) => answer s1 m rOk
    | (s1, .scan p r) =>
      let s2 := reply s1 m rScan (scanPayload (scanCode r.2) p r.1)
      if r.2 = .signature then signatureViolation s2 m else s2)))

/-- UNMAP (R302): the entries of the pages go, and with the last of them a frame's mark. -/
def execUnmap (m : Msg) (pages : List Word) (s : State) : Res :=
  .next (request s m plainReq (fun s => withJob s m (fun _ =>
    let asid := jobAsid s m.job
    if pages.any (fun p => fld p.toNat 63 48 != 0 || !s.mapped.any (fun x => x.asid == asid && x.va == fld p.toNat 47 16)) then
      answer s m rField
    else answer { s with mapped := s.mapped.filter (fun x => !(x.asid == asid && pages.any (fun p => fld p.toNat 47 16 == x.va))) }
      m rOk)))

end Sys2Proof.Machine
end

