-- ==== Sys2Proof/Machine/Models.lean ====
section
/-! DEFINITION. Model updates through the journal controller (R210 to R215): transactions, write-check-retry, undo and
recovery. -/
namespace Sys2Proof.Machine

/-! Journal records (R212). -/

/-- A record with its check. -/
def checked512 (r : Nat) : BitVec 512 :=
  let body := r / 2 ^ 128 * 2 ^ 128
  BitVec.ofNat 512 (body + leNat ((sha256 (((leBytes 64 body)).drop 16)).take 16))
/-- A record whose check matches; any other was never written. -/
def checkHolds (r : BitVec 512) : Bool := checked512 r.toNat == r

def jrTxn (r : Nat) : Nat := fld r 511 448
def jrType (r : Nat) : Nat := fld r 447 444
def jrPatch (r : Nat) : Bool := r.testBit 443
def jrCore (r : Nat) : Nat := fld r 442 439 * 68 + fld r 438 432
def jrGroup (r : Nat) : Nat := fld r 431 418
def jrSlot (r : Nat) : Nat := fld r 417 403
def jrModel (r : Nat) : Nat := fld r 383 256

/-- BEGIN, COMMIT and END. -/
def jrMake (txn : Nat) (type : Nat) (patch : Bool) (model : Nat) : Nat :=
  txn * 2 ^ 448 + type * 2 ^ 444 + b2n patch * 2 ^ 443 + model * 2 ^ 256
/-- UNDO(c, g, u). -/
def jrUndo (txn core group slot : Nat) : Nat :=
  txn * 2 ^ 448 + 2 * 2 ^ 444 + clusterOf core * 2 ^ 439 + physOf core * 2 ^ 432 + group * 2 ^ 418 + slot * 2 ^ 403

/-- A record is appended. -/
def writeJournal (s : State) (r : Nat) : State := { s with journal := s.journal ++ [checked512 r] }

/-- Records of a transaction that hold. -/
def txnRecords (s : State) (txn : Nat) : List Nat :=
  (s.journal.filter checkHolds).filterMap (fun r => if jrTxn r.toNat = txn then some r.toNat else none)

/-! Rows and wear (R213, R215). -/

/-- The wear counter of a row group rises by `n` attempts; its notice goes out when it reaches 2^31. -/
def addWear (s : State) (core group n : Nat) : State :=
  let k := core * 16384 + group
  let old := (Tab.get (0 : BitVec 32) s.wear k).toNat
  let new := min (2 ^ 32 - 1) (old + n)
  let s1 := { s with wear := Tab.set (0 : BitVec 32) s.wear k (BitVec.ofNat 32 new) }
  if old < 2 ^ 31 && 2 ^ 31 ≤ new then postEvent s1 0x8008 none [core, group] else s1

/-- Attempts of a row: 1 unless listed. -/
def attemptsOf (l : List Nat) (i : Nat) : Nat := max 1 (l.getD i 1)

/-- The rows of a group, in order, with write-check-retry: false when one fails after nine attempts. -/
def writeRows (s : State) (core group : Nat) (bs : List Byte) (attempts : List Nat) : State × Bool :=
  (List.range 64).foldl (fun (p : State × Bool) i =>
    if !p.2 then p
    else
      let n := attemptsOf attempts i
      let s1 := addWear p.1 core group (min n 9)
      if 9 < n then (chargeCore s1 (clusterOf core) (1088 + core) 1024, false)
      else (s1.put (wtKey core (4096 * group + 64 * i)) ((bs.drop (64 * i)).take 64), true)) (s, true)

/-- A row group as it stands. -/
def groupBytes (s : State) (core group : Nat) : List Byte := s.bytes (wtKey core (4096 * group)) 4096

/-- Free undo slot of a die (R210). -/
def freeUndo (t : Txn) (die : Nat) : Nat :=
  (t.undo.filter (fun u => clusterOf u.1 / 4 == die)).length

/-! Undo (R214). -/

/-- A row group is restored from an undo slot, row by row with write-check-retry; a row that fails charges its array and stays
(R213, log entry 41). -/
def restoreGroup (s : State) (core group slot : Nat) (attempts : List Nat) : State :=
  let bs := s.bytes (undoKey (clusterOf core / 4) slot) 4096
  (List.range 64).foldl (fun t i =>
    let n := attemptsOf attempts i
    let t1 := addWear t core group (min n 9)
    if 9 < n then chargeCore t1 (clusterOf core) (1088 + core) 1024
    else t1.put (wtKey core (4096 * group + 64 * i)) ((bs.drop (64 * i)).take 64)) s

/-- Row groups named by UNDO records are restored from their slots, newest first. -/
def restoreGroups (s : State) (rs attempts : List Nat) : State :=
  (((rs.filter (fun r => jrType r == 2)).reverse).zipIdx 0).foldl (fun t r =>
    restoreGroup t (jrCore r.1) (jrGroup r.1) (jrSlot r.1) (attempts.drop (3 + 64 * r.2))) s

/-- A model becomes invalid, with the jobs known to use it. -/
def spoilModel (s : State) (model : BitVec 128) (jobs : List Nat) : State :=
  let old := (s.badModels.filter (fun b => b.1 == model)).flatMap (·.2)
  { s with badModels := s.badModels.filter (fun b => b.1 != model) ++ [(model, (old ++ jobs).eraseDups)] }
/-- Jobs that a transaction names use its model, whether or not that is invalid (R214). -/
def usesModel (s : State) (model : BitVec 128) (jobs : List Nat) : State :=
  if s.badModels.any (fun b => b.1 == model) then spoilModel s model jobs else s
/-- A model written whole is valid again; its jobs that nothing else holds go on. -/
def mendModel (s : State) (model : BitVec 128) : State :=
  let old := (s.badModels.filter (fun b => b.1 == model)).flatMap (·.2)
  old.foldl releaseUnits { s with badModels := s.badModels.filter (fun b => b.1 != model) }

/-- The record of a kind, BEGIN 0, COMMIT 1 or END 2, that write-check-retry does not fail (R213). -/
def recordHolds (attempts : List Nat) (i : Nat) : Bool := attemptsOf attempts i ≤ 9
/-- END; without it the transaction is completed again at the next power-up (R214). -/
def writeEnd (s : State) (txn : Nat) (attempts : List Nat) : State :=
  if recordHolds attempts 2 then writeJournal s (jrMake txn 4 false 0) else s

/-- An uncommitted transaction is undone: PATCH restores, REPLACE leaves the model invalid; END is written. -/
def undoTxn (s : State) (txn : Nat) (patch : Bool) (model : BitVec 128) (jobs attempts : List Nat) : State :=
  let s1 := if patch then restoreGroups s (txnRecords s txn) attempts else spoilModel s model jobs
  writeEnd { s1 with txn := none } txn attempts

/-- A transaction ends because a write-check-retry failed: it is undone, and the host hears which row group failed (R211); the jobs
that nothing else holds go on. -/
def abortTxn (s : State) (t : Txn) (core group : Nat) : State :=
  let s1 := postEvent (undoTxn s t.num.toNat t.patch t.model t.jobs t.attempts) 0x8006 none [t.num.toNat, core, group]
  t.jobs.foldl releaseUnits s1

/-! The messages (R211). -/

/-- MODEL_BEGIN: record BEGIN, the pause, ACCEPTED at once; a record that fails ends the transaction, and names no row group (log
entry 41). -/
def execModelBegin (m : Msg) (kind : TxnKind) (model : BitVec 128) (cores jobs : List Nat) (s : State) : Res :=
  .next (request s m adminReq (fun s =>
    if cores.any (1088 ≤ ·) || jobs.any (fun j => (s.job j).isNone) then answer s m rField
    else if s.txn.isSome then answer s m rState
    else
      let n := s.txnCount
      let t : Txn := ⟨n, kind.patch, kind.attempts, model, cores, jobs, false, [], false, m.session, m.tag⟩
      let s1 : State := { s with txn := some t, txnCount := n + 1 }
      if recordHolds kind.attempts 0 then
        answer (jobs.foldl holdJob (usesModel (writeJournal s1 (jrMake n.toNat 1 kind.patch model.toNat)) model jobs)) m rAccepted
      else answer (abortTxn s1 t 0 0) m rAccepted))

/-- A unit of one of the jobs is on one of the cores. -/
def txnBusy (s : State) (t : Txn) : Bool :=
  t.jobs.any (fun j => (allContextsOf s j).any (fun p => t.cores.contains p.1))

/-- JOURNAL_TXN_START. -/
def execJournalTxnStart (s : State) : Res :=
  .next (match s.txn with
    | some t => if s.power ≠ .on || t.begun || txnBusy s t then s else { s with txn := some { t with begun := true } }
    | none => s)

/-- The bytes of a path-0 source of an address space; none when they do not translate or are bad. -/
def sourceBytes (s : State) (asid va n : Nat) : Option (List Byte) :=
  (pagesOf va n).foldl (fun acc p => match acc with
    | none => none
    | some bs => match walk s asid p.1 0 false with
      | some x => if (worstErr s x.addr p.2 (some 0)).any (fun e => 1 < e.1) then none else some (bs ++ s.bytes x.addr p.2)
      | none => none) (some [])

/-- The journal controller's read of a source meets errors (R208). -/
def meetSource (s : State) (asid va n : Nat) : State :=
  if s.errs.isEmpty && s.tags.isEmpty then s
  else (pagesOf va n).foldl (fun t p => match walk t asid p.1 0 false with
    | some x => meet t x.addr p.2 (some 0) ⟨none, 0⟩
    | none => t) s

/-- A row group that a request may name. -/
def rowOk (s : State) (t : Txn) (r : RowWrite) : Bool :=
  t.cores.contains r.core && r.group < 16384 && r.src.toNat < 2 ^ 48 && (sourceBytes s r.asid r.src.toNat 4096).isSome

/-- Rows of a copy into an undo slot, and its UNDO record, that write-check-retry does not fail (R213). -/
def undoWrites (attempts : List Nat) : Bool := (List.range 65).all (fun i => attemptsOf attempts (64 + i) ≤ 9)

/-- One row group: saved into an undo slot for PATCH, then written; the transaction aborts when a row or a record fails. The
controller writes, and reads what it saves, whatever the cluster's power, and wakes none (R20 does not say; log entry 74). -/
def writeGroup (s0 : State) (r : RowWrite) : State :=
  let s := meetSource s0 r.asid r.src.toNat 4096
  match s.txn with
  | none => s
  | some t =>
    let bs := (sourceBytes s r.asid r.src.toNat 4096).getD []
    let die := clusterOf r.core / 4
    let u := freeUndo t die
    if t.patch && !undoWrites r.attempts then abortTxn s t r.core r.group
    else
    let s1 := if t.patch then
        writeJournal { s with mem := s.mem.write (undoKey die u) (groupBytes s r.core r.group),
                              txn := some { t with undo := t.undo ++ [(r.core, r.group, u)] } }
          (jrUndo t.num.toNat r.core r.group u)
      else s
    match writeRows s1 r.core r.group bs r.attempts with
    | (s2, true) => s2
    | (s2, false) => abortTxn s2 { t with undo := [] } r.core r.group

/-- MODEL_ROWS: at most 32,768 row groups per die for PATCH. -/
def execModelRows (m : Msg) (rows : List RowWrite) (s : State) : Res :=
  .next (request s m adminReq (fun s => match s.txn with
    | none => answer s m rState
    | some t =>
      if !t.begun || txnBusy s t then answer s m rState
      else if !rows.all (rowOk s t) then answer s m rField
      else if t.patch && (List.range 4).any (fun d =>
          32768 < freeUndo t d + (rows.filter (fun r => clusterOf r.core / 4 == d)).length) then answer s m rRoom
      else answer (rows.foldl writeGroup s) m rOk))

/-- The steps after COMMIT: END, and the jobs' placement (R211). -/
def finishTxn (s : State) (t : Txn) : State :=
  let s1 := writeEnd { s with txn := none } t.num.toNat t.attempts
  t.jobs.foldl releaseUnits (if t.patch then s1 else mendModel s1 t.model)

/-- MODEL_COMMIT. -/
def execModelCommit (m : Msg) (s : State) : Res :=
  .next (request s m adminReq (fun s => match s.txn with
    | none => answer s m rState
    | some t =>
      if !t.begun then answer s m rState
      else if !recordHolds t.attempts 1 then answer (abortTxn s t 0 0) m rOk
      else
        let s1 := writeJournal s (jrMake t.num.toNat 3 false t.model.toNat)
        answer (postEvent (finishTxn s1 t) 0x8004 none [t.num.toNat]) m rOk))

/-! Recovery (R214). -/

/-- Transactions with a BEGIN and no END. -/
def openTxns (s : State) : List Nat :=
  let rs := s.journal.filterMap (fun r => if checkHolds r then some r.toNat else none)
  (rs.filterMap (fun r => if jrType r = 1 then some (jrTxn r) else none)).filter (fun n =>
    !rs.any (fun r => jrType r == 4 && jrTxn r == n))

/-- JOURNAL_RECOVERY: each is completed, with its event; the jobs of the one that the power loss cut short are those that its
message named (log entry 41). -/
def recoverJournal (s : State) : State :=
  (openTxns s).foldl (fun t n =>
    let rs := txnRecords t n
    let b := (rs.find? (fun r => jrType r == 1)).getD 0
    let cut := s.txn.filter (fun x => x.num.toNat == n)
    let att := (cut.map (·.attempts)).getD []
    if rs.any (fun r => jrType r == 3) then
      let t1 := writeEnd { t with txn := none } n att
      postEvent (if jrPatch b then t1 else mendModel t1 (BitVec.ofNat 128 (jrModel b))) 0x8004 none [n]
    else postEvent (undoTxn t n (jrPatch b) (BitVec.ofNat 128 (jrModel b)) ((cut.map (·.jobs)).getD []) att) 0x8005 none [n]) { s with txn := none }

end Sys2Proof.Machine
end

