-- ==== Sys2Proof/Machine/Survey.lean ====
section
/-! DEFINITION. The Surveyor: leases and their ends (R380), retirement and its table (R310 to R313, R381, R401), scores
(R362 to R364), sheets and their rehash (R382), the capacity of a cluster (R116). -/
namespace Sys2Proof.Machine

/-! Capacity (R116, R380 step 3). -/

/-- Units of any job pinned to a core of a cluster that `sel` picks, not ended. -/
def pinnedUnits (s : State) (sel : Nat → Bool) : List (Nat × Nat) :=
  s.jobs.flatMap (fun j => (jobRecords s j.1).filterMap (fun va => match readRecord s j.1 va with
    | some r => if crPinned r && sel (crCore r) && crState r ≠ usDone && crState r ≠ usCancelled then some (j.1, va) else none
    | none => none))

/-- f255 of a unit rises by 1: in its context if it runs, in its frame if it has one. -/
def raise255 (s : State) (u : Nat × Nat) : State :=
  match ctxOfUnit s u.1 u.2 with
  | some (c, x) => if (s.ctx c x).live then s.setCtx c x ((s.ctx c x).outsideChange (.sem 255 1)) else inFrame
  | none => inFrame
where
  inFrame : State := match frameOf s u.1 u.2 with
    | some fr => frameOutside s u.1 fr (.sem 255 1)
    | none => s

/-- One update of a cluster's capacity. -/
def capacityStep (s : State) (cl : Nat) (f : Cluster → Cluster) : State :=
  let k := f (s.cluster cl)
  s.setCluster cl { k with changeSeq := k.changeSeq + 1 }

/-- Step 3 of R380: the update, the semaphores, one notice for each job with a pinned unit in the cluster. -/
def capacityChange (s : State) (cl : Nat) (f : Cluster → Cluster) : State :=
  let s1 := capacityStep s cl f
  let us := pinnedUnits s1 (fun code => code / 64 % 16 == cl)
  let s2 := us.foldl raise255 s1
  ((us.map (·.1)).eraseDups).foldl (fun t j => postNotice t j nkCapacity 0 (capacityOf t cl)) s2

/-! Components. -/

/-- Index of a component's score (R362). -/
def scoreIndex : Comp → Nat
  | .core cl x => 68 * cl + x
  | .window c w => 2176 + 64 * c + w
  | .link l => 5248 + l
  | .segment sh d => 5256 + 5 * sh + d

/-- Kind and instance of a component in a retirement record (R209, R311). -/
def recordKind : Comp → Nat
  | .core _ _ => 0
  | .window _ _ => 2
  | .link _ => 3
  | .segment _ _ => 4
def recordInstance : Comp → Nat
  | .core cl x => 256 * cl + x
  | .window c w => 64 * c + w
  | .link l => l
  | .segment sh d => 8 * sh + d

/-- A component that the device has. -/
def compOk : Comp → Bool
  | .core cl x => cl < 16 && x < 68
  | .window c w => c < 48 && w < 64
  | .link l => l < 8
  | .segment sh d => sh < 4 && d < 5

/-! The retirement table (R310, R311). -/

/-- Contents of a record apart from seq, type and check. -/
structure RetBody where
  kind : Nat
  inst : Nat
  spare : Nat
  arch : Nat
  reason : Nat
  score : Nat
  cores : Nat
  spares : Nat
deriving DecidableEq, Repr

/-- A block or record goes to the copy on die 0, then to the one on die 2 (R312). -/
def bothDies (s : State) (f : RetTable → RetTable) : State := { s with die0 := f s.die0, die2 := f s.die2 }

/-- The header with its check (R310). -/
def headerBits (h : RetHdr) : BitVec 512 :=
  checked512 (h.seq.toNat * 2 ^ 480 + b2n h.replacement * 2 ^ 479 + h.floorCores % 128 * 2 ^ 472 + h.floorChannels % 64 * 2 ^ 466 +
    h.floorLinks % 16 * 2 ^ 462)
/-- What a header says. -/
def headerRead (b : BitVec 512) : RetHdr :=
  let d := b.toNat
  ⟨BitVec.ofNat 32 (fld d 511 480), d.testBit 479, fld d 478 472, fld d 471 466, fld d 465 462⟩

/-- A cluster map with its check: the first 128 bits of SHA-256 over its bytes 16 to 127 (R310). -/
def checked1024 (r : Nat) : BitVec 1024 :=
  let body := r / 2 ^ 128 * 2 ^ 128
  BitVec.ofNat 1024 (body + leNat ((sha256 ((leBytes 128 body).drop 16)).take 16))
/-- A cluster's map as the table holds it; 0x7F stands for no core. -/
def mapBits (k : Cluster) : BitVec 1024 :=
  checked1024 (joinElems 7 ((List.range 64).map (fun n => if n < k.cores then (k.map[n]?).getD 0x7F else 0x7F)) * 2 ^ 576 +
    k.retired.toNat * 2 ^ 508 + k.spares % 16 * 2 ^ 504 + k.cores % 128 * 2 ^ 497)
/-- A cluster with the map that a block of the table holds. -/
def mapRead (k : Cluster) (b : BitVec 1024) : Cluster :=
  let d := b.toNat
  { k with
    map := (List.range (fld d 503 497)).map (fun n => fld d (7 * n + 582) (7 * n + 576))
    retired := BitVec.ofNat 68 (fld d 575 508)
    spares := fld d 507 504
    cores := fld d 503 497 }

/-- The header as it now is, in both copies. -/
def saveHeader (s : State) : State := bothDies s (fun t => { t with header := some (headerBits s.ret) })
/-- A cluster's map as it now is, in both copies. -/
def saveMap (s : State) (cl : Nat) : State :=
  bothDies s (fun t => { t with maps := Tab.set none t.maps cl (some (mapBits (s.cluster cl))) })

/-- A record is written to the ring of 4,096, with its check; seq counts the records ever written. -/
def writeRetRec (s : State) (type : Nat) (b : RetBody) : State :=
  let r := s.ret.seq.toNat * 2 ^ 480 + type * 2 ^ 476 + b.kind % 16 * 2 ^ 472 + b.inst % 2 ^ 16 * 2 ^ 456 + b.spare % 128 * 2 ^ 449 +
    b.arch % 64 * 2 ^ 443 + b.reason % 8 * 2 ^ 440 + b.score % 2 ^ 16 * 2 ^ 424 + b.cores % 128 * 2 ^ 417 + b.spares % 8 * 2 ^ 414
  let s1 := bothDies s (fun t => { t with recs := Tab.set 0 t.recs (s.ret.seq.toNat % 4096) (checked512 r) })
  saveHeader { s1 with ret := { s.ret with seq := s.ret.seq + 1 } }

/-- A record about a component that is no core. -/
def bodyOf (s : State) (c : Comp) (reason : Nat) : RetBody :=
  { kind := recordKind c, inst := recordInstance c, spare := 127, arch := 0, reason := reason, score := s.score (scoreIndex c),
    cores := 0, spares := 0 }

/-- LPDDR-6 channels in service: a retired window is replaced by its channel's spare window, a second one is not. -/
def channelsIn (s : State) : Nat :=
  ((List.range 48).filter (fun c => (s.outWindows.filter (fun w => w.1 / 64 == c)).length ≤ 1)).length
/-- Ovdex links in service. -/
def linksIn (s : State) : Nat := ((List.range 8).filter (fun l => !Tab.get false s.outLinks l)).length

/-- The device is below a floor (R313). -/
def belowFloor (s : State) : Bool :=
  (List.range 16).any (fun c => (s.cluster c).cores < s.ret.floorCores) || channelsIn s < s.ret.floorChannels ||
  linksIn s < s.ret.floorLinks || 2 ≤ s.sheets.retired.length

/-- DEGRADED (R410). -/
def postDegraded (s : State) : State :=
  postEvent s 0x800C none [s.ret.floorCores, s.ret.floorChannels, s.ret.floorLinks, b2n s.ret.replacement]

/-- The replacement bit takes a new value; every cluster but the one whose update carries it counts a change (R116). -/
def setReplacement (s : State) (v : Bool) (carried : Option Nat) : State :=
  if s.ret.replacement = v then s
  else
    let s1 := saveHeader { s with ret := { s.ret with replacement := v } }
    (List.range 16).foldl (fun t c => if carried = some c then t else capacityStep t c id) s1

/-- After a retirement (R313): the bit, its record and its event, when it was not set. -/
def checkFloors (s : State) (b : RetBody) (carried : Option Nat) : State :=
  if s.ret.replacement || !belowFloor s then s
  else postDegraded (writeRetRec (setReplacement s true carried) 4 b)

/-! Clusters that may rest (R21, R22, R24). -/

/-- Contexts of a cluster. -/
def clusterCtxs (s : State) (cl : Nat) : List Ctx :=
  (List.range Config.physCores).flatMap (fun x => [s.ctx (68 * cl + x) 0, s.ctx (68 * cl + x) 1])

/-- A cluster that may leave RUN: no context runs a unit, none of its cores is leased; a frozen unit runs nothing. -/
def idleCluster (s : State) (cl : Nat) : Bool :=
  cl < 16 && inRun s cl && (clusterCtxs s cl).all (fun c => c.run == .free || c.frozen) &&
  (List.range Config.physCores).all (fun x => !(s.core (68 * cl + x)).leased)

/-- Pinned units of a cluster that leaves RUN are held (R36). -/
def holdPinned (s : State) (cl : Nat) : State :=
  s.jobs.foldl (fun t j => holdUnits t j.1 (fun r => crPinned r && crCore r / 64 % 16 == cl)) s

/-- A cluster begins to enter DOZE or OFF. -/
def beginEntry (s : State) (cl : Nat) (toOff : Bool) : State :=
  holdPinned (s.setCluster cl { s.cluster cl with power := .entering toOff, wakePending := false, surveyWoke := none }) cl

/-- A cluster that may go to OFF: no frozen unit on it, no live unit pinned to it (R21, R384). -/
def mayGoOff (s : State) (cl : Nat) : Bool :=
  !(clusterCtxs s cl).any (·.frozen) && (pinnedUnits s (fun code => code / 64 % 16 == cl)).isEmpty

/-- A pinned unit that waits for nothing but its cluster: its launch is ready (R22). -/
def readyPinned (s : State) (u : Nat × Nat) : Bool := match readRecord s u.1 u.2 with
  | some r => crState r == usSuspended && !jobPaused s u.1 && placedNow s u.1 && waitHolds s u.1 r
  | none => false

/-- A launch that is ready names the cluster, or such a unit is pinned to it (R22). -/
def wakeWanted (s : State) (cl : Nat) : Bool :=
  (List.range 16).any (fun c => (s.cluster c).ready.any (fun u => (lrPlacement (launchRec s u.job u.launch)).testBit cl)) ||
  (pinnedUnits s (fun code => code / 64 % 16 == cl)).any (readyPinned s)

/-- A cluster that was woken for a survey goes back, once no lease is left, to the state it was in, where the scheduler's
policy allows that (R21, R24, R384, log entry 47). -/
def returnCluster (s : State) (cl : Nat) : State := match (s.cluster cl).surveyWoke with
  | none => s
  | some off =>
    if (List.range Config.physCores).any (fun x => (s.core (68 * cl + x)).leased) then s
    else
      let s1 := s.setCluster cl { s.cluster cl with surveyWoke := none }
      if idleCluster s1 cl && !wakeWanted s1 cl then beginEntry s1 cl (off && mayGoOff s1 cl) else s1

/-! Core leases. -/

/-- A running context of a leased core is asked to stop. -/
def askLease (s : State) (core x : Nat) : State :=
  let c := s.ctx core x
  if c.live then s.setCtx core x { c with leaseStop := true } else s
/-- The same ends. -/
def endAsk (s : State) (core x : Nat) : State :=
  let c := s.ctx core x
  if c.leaseStop then s.setCtx core x { c with leaseStop := false } else s

/-- A context that counts as stopped: it holds no unit, or its unit is halted (R384), or frozen on a core under
quarantine (R385). -/
def stoppedFor (s : State) (core x : Nat) : Bool :=
  let c := s.ctx core x
  c.run == .free || c.halted || (c.frozen && 4096 ≤ max (s.score core) (s.score (1088 + core)))

/-- Steps 1 and 2 of R380; the survey is made at nominal voltage (R376). -/
def beginCoreLease (s : State) (core : Nat) : State :=
  let s1 := s.setCore core { s.core core with leased := true }
  let s2 := s1.setCluster (clusterOf core) { s1.cluster (clusterOf core) with trimMv := 0 }
  askLease (askLease (keepOff s2 core) core 0) core 1

/-- Components whose lease has been granted are no longer due one (R364). -/
def noted (s : State) (l : List Nat) : State := { s with surveyDue := s.surveyDue.filter (fun i => !l.contains i) }

/-- A cluster is woken for a survey; what it was in is remembered (R24). -/
def surveyWake (s : State) (cl : Nat) : State :=
  let k := s.cluster cl
  let off := match k.power with
    | .doze => some false
    | .off => some true
    | .entering b => some b
    | _ => k.surveyWoke
  requestWake (s.setCluster cl { k with surveyWoke := off }) cl

/-- A lease that has to wait stays due. -/
def leaseLater (s : State) (core : Nat) : State := { s with surveyDue := withDueSurvey s.surveyDue core }

/-- A core lease: its cluster is woken first (R24); once its units have stopped, capacity is updated (step 3); until then it is
due. The saved state of step 4 is the core's own until the lease ends. -/
def leaseCore (s : State) (cl x : Nat) : State :=
  let core := 68 * cl + x
  if (s.cluster cl).retired.getLsbD x then s
  else if !inRun s cl then leaseLater (surveyWake s cl) core
  else
    let s1 := if (s.core core).leased then s else beginCoreLease s core
    if stoppedFor s1 core 0 && stoppedFor s1 core 1 then
      let s2 := noted { s1 with leases := s1.leases ++ [.core cl x] } [core, 1088 + core]
      capacityChange s2 cl (fun k => { k with leased := k.leased + 1 })
    else leaseLater s1 core

/-- Units that nothing holds any more are released (R36). -/
def releaseAll (s : State) : State := s.jobs.foldl (fun t j => releaseUnits t j.1) s

/-- Provisional charges of a component are applied or discarded (R376). -/
def settleProvisional (s : State) (cl i : Nat) (apply : Bool) : State :=
  let k := s.cluster cl
  let n := Tab.get 0 k.provisional i
  let s1 := s.setCluster cl { k with provisional := Tab.set 0 k.provisional i 0 }
  if apply then chargeScore s1 i n else s1
/-- Those of a core and of the MRAM array above it. -/
def settleCore (s : State) (cl x : Nat) (apply : Bool) : State :=
  settleProvisional (settleProvisional s cl (68 * cl + x) apply) cl (1088 + 68 * cl + x) apply

/-- A lease leaves the list. -/
def dropLease (s : State) (c : Comp) : State := { s with leases := s.leases.filter (· != c) }

/-- Step 6 of R380. -/
def passCore (s : State) (cl x errors : Nat) : State :=
  let core := 68 * cl + x
  let s1 := settleCore (dropLease s (.core cl x)) cl x (0 < errors)
  let s2 := s1.setCore core { s1.core core with leased := false, noPlace := false }
  let s3 := capacityChange (endAsk (endAsk s2 core 0) core 1) cl (fun k => { k with leased := k.leased - 1 })
  returnCluster (releaseAll (s3.decisionDue cl)) cl

/-! Retirement of a core (R12, R312, R381, R401). -/

/-- The spare that a retirement takes. -/
def spareFor (k : Cluster) : Option Nat :=
  (List.range Config.physCores).find? (fun x => !k.retired.getLsbD x && !(k.map.take k.cores).contains x)

/-- Entries of a table with keys from `a` on, `n` of them, put at `b` instead. -/
def shiftTab {α : Type} [DecidableEq α] (d : α) (t : Tab α) (a n b : Nat) : Tab α :=
  (t.filter (fun c => a ≤ c.1 && c.1 < a + n)).foldl (fun (u : Tab α) (c : Nat × α) => Tab.set d u (b + (c.1 - a)) c.2)
    (t.filter (fun c => c.1 < b || b + n ≤ c.1))

/-- A range of memory copied to another, written whole: armed injections on it take effect, its errors go. -/
def copyRange (s : State) (a n b : Nat) : State :=
  let m := (s.mem.filter (fun c => a ≤ c.1 && c.1 < a + n)).foldl (fun (u : Memory) (c : Nat × Byte) =>
    u.write (b + (c.1 - a)) [c.2]) (s.mem.zero b n)
  arrayWritten { s with mem := m } b n

/-- Row groups of a weight buffer that hold a row beyond correction. -/
def lostGroups (s : State) (core : Nat) : List Nat :=
  ((s.errs.filter (fun e => wtKey core 0 ≤ e.1 && e.1 < wtKey core wtBytes && 1 < errClass e.1 e.2 false)).map
    (fun e => (e.1 - wtKey core 0) / 4096)).eraseDups

/-- Sixty-four poisoned rows, and the host hears of it (R12). -/
def loseGroup (core : Nat) (s : State) (g : Nat) : State :=
  let s1 := { s with mem := s.mem.zero (wtKey core (4096 * g)) 4096 }
  postEvent ((List.range 64).foldl (fun t i => t.poisonAt (wtKey core (4096 * g + 64 * i))) s1) 0x8007 none [core, g]

/-- The weight image of a spare (R12): each row group is written with write-check-retry; how many attempts its 64 rows
take is a free value of one to nine each (log entry 2); that none of them fails is the model's choice (log entry 72). -/
def spareImage (s : State) (old spare : Nat) : State :=
  let lost := lostGroups s old
  let s1 := (List.range 16384).foldl (fun t g =>
    let f := fresh t
    addWear f.2 spare g (64 + f.1.toNat % 513)) s
  lost.foldl (loseGroup spare) (copyRange s1 (wtKey old 0) wtBytes (wtKey spare 0))

/-- The saved state of a core goes into its spare, with the errors that its words hold (R381). -/
def spareState (s : State) (old spare : Nat) : State :=
  let errs := s.errs
  let s1 := copyRange (copyRange s (actKey old 0) actBytes (actKey spare 0)) (accKey old 0) accBytes (accKey spare 0)
  { s1 with
    forms := shiftTab false s1.forms (old * 8192) 8192 (spare * 8192)
    errs := (errs.filter (fun e => (actKey old 0 ≤ e.1 && e.1 < actKey old actBytes) ||
      (accKey old 0 ≤ e.1 && e.1 < accKey old accBytes))).foldl (fun (u : Tab Err) (e : Nat × Err) =>
        Tab.set Err.clear u (e.1 - actKey old 0 + actKey spare 0) e.2) s1.errs }

/-- What a core holds besides its buffers goes with its architectural number: contexts, commands, reservations. -/
def spareCore (s : State) (old spare : Nat) : State :=
  let o := s.core old
  let v := s.core spare
  (s.setCore spare { o with segs := v.segs, dicts := v.dicts, leased := false, noPlace := false, dropAtWake := v.dropAtWake }).setCore
    old Core.reset

/-- A cluster once a spare carries a retired core's number (R312 step 3). -/
def newMap (k : Cluster) (w : SpareWork) : Cluster :=
  { k with
    map := k.map.set w.arch w.spare
    retired := k.retired ||| BitVec.ofNat 68 (2 ^ w.old)
    spares := k.spares - 1
    work := none }

/-- Step 2 of R312, and step 3 on die 0: the spare's weight image, and the map in the first copy of the table. -/
def prepareSpare (s : State) (cl : Nat) (w : SpareWork) : State :=
  let s1 := spareImage s (68 * cl + w.old) (68 * cl + w.spare)
  { s1.setCluster cl { s1.cluster cl with work := some { w with half := true } } with
    die0 := { s1.die0 with maps := Tab.set none s1.die0.maps cl (some (mapBits (newMap (s1.cluster cl) w))) } }

/-- Step 4 of R312. -/
def spareServes (s : State) (cl : Nat) (w : SpareWork) : State :=
  let k := s.cluster cl
  let body : RetBody := ⟨w.kind, 256 * cl + w.old, w.spare, w.arch, w.reason, w.score, k.cores, k.spares⟩
  checkFloors (writeRetRec s 2 body) body (some cl)

/-- Step 3 of R312 on die 2, and step 4: the spare carries the architectural number. -/
def putInService (s : State) (cl : Nat) (w : SpareWork) : State :=
  spareServes (saveMap (s.setCluster cl (newMap (s.cluster cl) w)) cl) cl w

/-- A channel whose spare window has replaced a retired one. -/
def spareUsed (s : State) (c : Nat) : Bool := s.outWindows.any (fun w => w.1 / 64 == c && w.2)

/-- A component that is not leased and may be: a core or link in service, a window whose channel's spare is free, a segment
while four sheets are in service and none is surveyed. -/
def surveyable (s : State) (c : Comp) : Bool := compOk c && !s.leases.contains c && (match c with
  | .core cl x => !(s.cluster cl).retired.getLsbD x
  | .window ch _ => !spareUsed s ch
  | .link l => !Tab.get false s.outLinks l
  | .segment _ _ => !s.sheets.busy && s.sheets.live.length == 4)

/-- The component that a score belongs to (R362); an MRAM array's is surveyed under its core's lease (R380). -/
def compOf (i : Nat) : Comp :=
  if i < 2176 then .core (i % 1088 / 68) (i % 1088 % 68)
  else if i < 5248 then .window ((i - 2176) / 64) ((i - 2176) % 64)
  else if i < 5256 then .link (i - 5248)
  else .segment ((i - 5256) / 5) ((i - 5256) % 5)

/-- The full survey that a power-up has asked for is over: the host port brings its link up (R425). -/
def surveyEnded (s : State) : State :=
  if s.surveyFirst && s.leases.isEmpty && !s.sheets.busy && !s.surveyDue.any (fun i => surveyable s (compOf i)) then
    { s with surveyFirst := false, hostPort := true }
  else s

/-- SPARE_IN_SERVICE (R312, R381): image and first copy of the map; then the second copy, the record, and the end of the lease. -/
def execSpareInService (cl : Nat) (s : State) : Res :=
  .next (if s.power ≠ .on then s
    else match (s.cluster cl).work with
      | none => s
      | some w =>
        if !w.half then prepareSpare s cl w
        else
        let s1 := spareCore (spareState (putInService s cl w) (68 * cl + w.old) (68 * cl + w.spare)) (68 * cl + w.old) (68 * cl + w.spare)
        let s2 := dropLease (endAsk (endAsk s1 (68 * cl + w.spare) 0) (68 * cl + w.spare) 1) (.core cl w.old)
        surveyEnded (returnCluster (releaseAll ((capacityChange s2 cl (fun k => { k with leased := k.leased - 1 })).decisionDue cl)) cl))

/-- A unit pinned to a retired core starts afresh (R401): its frame goes back, its record is as START wrote it, READY and
unpinned with reason LEASE; a frozen one stays FROZEN and will be READY. -/
def unpinUnit (s : State) (u : Nat × Nat) : State :=
  match readRecord s u.1 u.2 with
  | none => s
  | some r =>
    let s1 := if crFrame r then returnFrame s u.1 (crSpill r) else s
    let s2 := match ctxOfUnit s1 u.1 u.2 with
      | some (c, x) => vacate s1 c x
      | none => s1
    let new := newRecord u.1 (crLaunch r) (launchRec s2 u.1 (crLaunch r)) (crUnit r) none
    let s3 := unreserve (dequeueUnit s2 u.1 u.2) u.1 u.2
    if crState r = usFrozen then
      let s4 := match s3.job u.1 with
        | some j =>
          let old := j.frozenUnits.find? (fun f => f.recAddr == u.2)
          s3.setJob u.1 (some { j with frozenUnits := (j.frozenUnits.filter (fun f => f.recAddr != u.2)) ++
            [⟨u.2, usReady, old.any (·.cancel), (ctxOfUnit s1 u.1 u.2).or (old.bind (·.place))⟩] })
        | none => s3
      writeRecord s4 u.1 u.2 (crSet new usFrozen 7)
    else enqueueUnit (writeRecord s3 u.1 u.2 (crSet new usReady 7)) u.1 u.2

/-- A unit pinned to one architectural number is pinned to another. -/
def repinUnit (code : Nat) (s : State) (u : Nat × Nat) : State :=
  match readRecord s u.1 u.2 with
  | some r => writeRecord s u.1 u.2 (setFld r 33 24 code)
  | none => s

/-- A retirement without a spare (R312, R381): the highest number's core takes the retired number. -/
def loseCore (s : State) (cl x arch reason kind score : Nat) : State :=
  let core := 68 * cl + x
  let k := s.cluster cl
  let top := k.cores - 1
  let body : RetBody := ⟨kind, 256 * cl + x, 127, arch, reason, score, top, k.spares⟩
  let s1 := writeRetRec s 3 body
  let gone := pinnedUnits s1 (· == 64 * cl + arch)
  let moved := if arch = top then [] else pinnedUnits s1 (· == 64 * cl + top)
  let s2 := saveMap (s1.setCluster cl { k with
    map := (k.map.set arch ((k.map[top]?).getD 0)).take top
    retired := k.retired ||| BitVec.ofNat 68 (2 ^ x)
    cores := top }) cl
  let s3 := moved.foldl (repinUnit (64 * cl + arch)) s2
  let s4 := gone.foldl unpinUnit s3
  let s5 := dropLease (s4.setCore core { s4.core core with leased := false, resv := [] }) (.core cl x)
  let s6 := checkFloors s5 body (some cl)
  returnCluster (releaseAll (capacityChange s6 cl (fun k => { k with leased := k.leased - 1 }))) cl

/-- The core of a lease is retired: a spare takes its number, once its image is written; or the cluster loses a core. A
spare that carries no number only leaves the spares. -/
def retireCore (s : State) (cl x reason : Nat) : State :=
  let core := 68 * cl + x
  let k := s.cluster cl
  let mram := s.score core < s.score (1088 + core)
  let kind := b2n mram
  let score := s.score (if mram then 1088 + core else core)
  match findIdx (· == x) (k.map.take k.cores) 0 with
  | none =>
    let s1 := saveMap (s.setCluster cl { k with retired := k.retired ||| BitVec.ofNat 68 (2 ^ x), spares := k.spares - 1 }) cl
    let s2 := dropLease (s1.setCore core { s1.core core with leased := false }) (.core cl x)
    let s3 := checkFloors s2 ⟨kind, 256 * cl + x, 127, 0, reason, score, k.cores, k.spares - 1⟩ (some cl)
    returnCluster (capacityChange s3 cl (fun k => { k with leased := k.leased - 1 })) cl
  | some (arch, _) => match (if k.spares = 0 then none else spareFor k) with
    | some y =>
      let s1 := writeRetRec s 1 ⟨kind, 256 * cl + x, y, arch, reason, score, k.cores, k.spares - 1⟩
      s1.setCluster cl { s1.cluster cl with work := some ⟨x, arch, y, reason, score, kind, false⟩ }
    | none => loseCore s cl x arch reason kind score

/-! Sheets (R382). -/

/-- A rehash begins: new accesses are held until the switch. -/
def beginRehash (s : State) (next : List Nat) : State := { s with sheets := { s.sheets with next := next, busy := true } }

/-- The sheets in service with one more, in increasing order. -/
def withSheet (l : List Nat) (sh : Nat) : List Nat := (List.range 4).filter (fun i => i == sh || l.contains i)

/-- A sheet leaves service for good, with its record. -/
def retireSheet (s : State) (c : Comp) (sh reason : Nat) : State :=
  let b := bodyOf s c reason
  let s1 := writeRetRec { s with sheets := { s.sheets with retired := s.sheets.retired ++ [sh] } } 3 b
  checkFloors s1 b none

/-- SHEET_FAILURE (R382): the drain begins; a failure during a rehash changes what the switch will leave. The last sheet's
failure stops the device but for STATUS_READ, and posts DEGRADED even where the bit was set before (R313). -/
def execSheetFailure (sheet : Nat) (s : State) : Res :=
  .next (if s.power ≠ .on || 4 ≤ sheet || s.sheets.retired.contains sheet then s
    else
      let now := (if s.sheets.busy then s.sheets.next else s.sheets.live).filter (· != sheet)
      let s1 := { s with leases := s.leases.filter (fun c => match c with | .segment sh _ => sh != sheet | _ => true) }
      let s2 := retireSheet (beginRehash s1 now) (.segment sheet 0) sheet 0
      if s2.sheets.retired.length < 4 then s2
      else
        let s3 := { s2 with lastSheetLost := true, power := .hold, sheets := { s2.sheets with live := [], next := [], busy := false } }
        if s.ret.replacement then postDegraded s3 else s3)

/-- SHEET_REHASH_SWITCH (R382): the map switches, and every job hears of it. -/
def execSheetRehashSwitch (s : State) : Res :=
  .next (if s.power ≠ .on || !s.sheets.busy then s
    else
      let s1 := { s with sheets := { s.sheets with live := s.sheets.next, busy := false } }
      surveyEnded (s1.jobs.foldl (fun t j => postNotice t j.1 nkRehash 0 t.sheets.live.length) s1))

/-! The steps of the Surveyor. -/

/-- A lease of a component that is no core. -/
def leaseOther (s : State) (c : Comp) : State := noted { s with leases := s.leases ++ [c] } [scoreIndex c]

/-- SURVEY_LEASE (R380). -/
def execSurveyLease (c : Comp) (s : State) : Res :=
  .next (if s.power ≠ .on || !surveyable s c then s
    else match c with
      | .core cl x => leaseCore s cl x
      | .segment sh _ => leaseOther (beginRehash s (s.sheets.live.filter (· != sh))) c
      | _ => leaseOther s c)

/-- SURVEY_PASS (R380): `errors` corrected errors were found. -/
def execSurveyPass (c : Comp) (errors : Nat) (s : State) : Res :=
  .next (if s.power ≠ .on || !s.leases.contains c then s
    else surveyEnded (match c with
      | .core cl x => if (s.cluster cl).work.any (·.old == x) then s else passCore s cl x errors
      | .segment sh _ => if s.sheets.busy then s else beginRehash (dropLease s c) (withSheet s.sheets.live sh)
      | _ => dropLease s c))

/-- A retirement may be made: after a mismatch, at a score of 16,384, or at the host's request (R311). -/
def mayRetire (s : State) (c : Comp) (reason : Nat) : Bool :=
  reason == 0 || (reason == 1 && (16384 ≤ s.score (scoreIndex c) ||
    (match c with | .core cl x => 16384 ≤ s.score (1088 + 68 * cl + x) | _ => false))) || reason == 2

/-- A retired link, window or sheet segment is withdrawn for good. -/
def retireOther (s : State) (c : Comp) (reason : Nat) : State :=
  let s1 := noted (dropLease s c) [scoreIndex c]
  match c with
  | .core _ _ => s
  | .window ch w =>
    let s2 := { s1 with outWindows := Tab.set false s1.outWindows (64 * ch + w) true }
    checkFloors (writeRetRec s2 3 (bodyOf s2 c reason)) (bodyOf s2 c reason) none
  | .link l =>
    let k := Tab.get Link.reset s1.links l
    let s2 := { s1 with outLinks := Tab.set false s1.outLinks l true, links := Tab.set Link.reset s1.links l { k with state := .down } }
    let s3 := if k.state = .down then s2 else postEvent s2 0x800B none [l, 0]
    checkFloors (writeRetRec s3 3 (bodyOf s3 c reason)) (bodyOf s3 c reason) none
  | .segment sh _ => retireSheet (beginRehash s1 (s1.sheets.live.filter (· != sh))) c sh reason

/-- A component that is no core, in service, that no lease can take and whose score says retire: a window whose channel's spare is used,
a sheet while fewer than four are in service, and one more than it (R364, R380, log entry 48). -/
def retirable (s : State) (c : Comp) : Bool := compOk c && !surveyable s c && !s.leases.contains c &&
  decide (16384 ≤ s.score (scoreIndex c)) && (match c with
  | .core _ _ => false
  | .window ch w => !Tab.get false s.outWindows (64 * ch + w)
  | .link l => !Tab.get false s.outLinks l
  | .segment sh _ => !s.sheets.busy && s.sheets.live.contains sh && 1 < s.sheets.live.length)

/-- What the Surveyor does of itself at a score's threshold (R364, R380): it leases what has reached one, and retires at 16,384 what it
has leased, or cannot lease. -/
def surveySteps (s : State) : List Instr :=
  (s.surveyDue.filter (fun i => surveyable s (compOf i))).map (fun i => .surveyLease (compOf i)) ++
  (s.surveyDue.filter (fun i => retirable s (compOf i))).map (fun i => .surveyMismatch (compOf i) 1) ++
  (s.leases.filter (fun c => mayRetire s c 1 && (match c with
    | .core cl _ => (s.cluster cl).work.isNone
    | .segment _ _ => !s.sheets.busy
    | _ => true))).map (fun c => .surveyMismatch c 1)

/-- SURVEY_MISMATCH (R380 step 7, R381): with reason 0 the mismatch is charged; reasons 1 and 2 retire a leased component
without one. -/
def execSurveyMismatch (c : Comp) (reason : Nat) (s : State) : Res :=
  .next (if s.power ≠ .on || !(s.leases.contains c || (reason == 1 && retirable s c)) || !mayRetire s c reason then s
    else surveyEnded (match c with
      | .core cl x =>
        if (s.cluster cl).work.isSome then s
        else
          let s1 := settleCore s cl x (reason == 0)
          retireCore (if reason = 0 then chargeScore s1 (68 * cl + x) 16384 else s1) cl x reason
      | .segment _ _ => if s.sheets.busy then s else retireOther (charged s c reason) c reason
      | _ => retireOther (charged s c reason) c reason))
where
  charged (s : State) (c : Comp) (reason : Nat) : State := if reason = 0 then chargeScore s (scoreIndex c) 16384 else s

/-- Clock whose cycles count for a score (R364): 0 the arithmetic clock, 1 the MRAM array clock, 2 the fabric clock. -/
def scoreDomain (i : Nat) : Nat := if i < 1088 then 0 else if i < 2176 then 1 else 2

/-- The clock of a score runs: a core's and its MRAM array's only while their cluster is in RUN (R20, R364). -/
def clockRuns (s : State) (i : Nat) : Bool := 2176 ≤ i || inRun s (i % 1088 / 68)

/-- SCORE_HALVING (R364). -/
def execScoreHalving (domain : Nat) (s : State) : Res :=
  .next (if s.power ≠ .on then s
    else ((s.scores.map (·.1)).eraseDups).foldl (fun t i =>
      if scoreDomain i = domain && clockRuns s i then t.setScore i (t.score i / 2) else t) s)

/-- FLOORS_SET (R313). -/
def execFloorsSet (m : Msg) (cores channels links : Nat) (s : State) : Res :=
  .next (request s m adminReq (fun s =>
    if 128 ≤ cores || 64 ≤ channels || 16 ≤ links then answer s m rField
    else answer (saveHeader { s with ret := { s.ret with floorCores := cores, floorChannels := channels, floorLinks := links } }) m rOk))

/-- REPLACEMENT_CLEAR (R313). -/
def execReplacementClear (m : Msg) (s : State) : Res :=
  .next (request s m adminReq (fun s => answer (setReplacement s false none) m rOk))

end Sys2Proof.Machine
end

