-- ==== Sys2Proof/Machine/Power.lean ====
section
/-! DEFINITION. Power: clusters (R20 to R24), droop and trim (R376), HOLD (R377), power loss and bring-up (R378, R425,
R426). -/
namespace Sys2Proof.Machine

/-! Clusters. -/

/-- CLUSTER_ENTER_DOZE (R21). -/
def execClusterEnterDoze (cl : Nat) (s : State) : Res :=
  .next (if s.power ≠ .on || !idleCluster s cl then s else beginEntry s cl false)

/-- CLUSTER_ENTER_OFF (R21, R384): not while a live unit is pinned to one of its cores, nor while it holds a frozen unit. -/
def execClusterEnterOff (cl : Nat) (s : State) : Res :=
  .next (if s.power ≠ .on || !idleCluster s cl || !mayGoOff s cl then s else beginEntry s cl true)

/-- CLUSTER_ENTRY_COMPLETE (R21, R22): a wake that waited for it begins; OFF keeps no cached translation (log entry 19). -/
def execClusterEntryComplete (cl : Nat) (s : State) : Res :=
  let k := s.cluster cl
  .next (if s.power ≠ .on then s
    else match k.power with
      | .entering toOff =>
        s.setCluster cl { k with
          power := if k.wakePending then .waking toOff else if toOff then .off else .doze
          tlb := if toOff then [] else k.tlb
          wakePending := false }
      | _ => s)

/-- CLUSTER_WAKE (R22). -/
def execClusterWake (cl : Nat) (s : State) : Res :=
  .next (if s.power ≠ .on || 16 ≤ cl || !wakeWanted s cl then s else requestWake s cl)

/-- A core as a wake from OFF leaves it (R20, R193): buffers zero, plaintext and without error, no code. -/
def clearCore (s : State) (core : Nat) : State :=
  let lost := fun (k : Nat) => (actKey core 0 ≤ k && k < actKey core actBytes) || (accKey core 0 ≤ k && k < accKey core accBytes) ||
    (arrKey (coreArray 3 core) 0 ≤ k && k < arrKey (coreArray 3 core + 1) 0) ||
    (arrKey (coreArray 4 core) 0 ≤ k && k < arrKey (coreArray 4 core + 1) 0)
  let s1 := { s with
    mem := (s.mem.zero (actKey core 0) actBytes).zero (accKey core 0) accBytes
    forms := s.forms.filter (fun f => f.1 < core * 8192 || core * 8192 + 8192 ≤ f.1)
    errs := s.errs.filter (fun e => !lost e.1) }
  s1.setCore core { s1.core core with segs := [], dicts := [], dropAtWake := false }

/-- A core as a wake from DOZE leaves it: what ICINV asked to drop meanwhile is dropped (R136). -/
def wakeCore (s : State) (core : Nat) : State :=
  let c := s.core core
  if c.dropAtWake then s.setCore core { c with segs := [], dicts := [], dropAtWake := false } else s

/-- CLUSTER_WAKE_DONE (R22): the cluster's contexts may issue, and its pinned units are released (R36). -/
def execClusterWakeDone (cl : Nat) (s : State) : Res :=
  let k := s.cluster cl
  .next (if s.power ≠ .on then s
    else match k.power with
      | .waking fromOff =>
        let s1 := (List.range Config.physCores).foldl (fun t x =>
          if fromOff then clearCore t (68 * cl + x) else wakeCore t (68 * cl + x)) s
        releaseAll (s1.setCluster cl { s1.cluster cl with power := .run })
      | _ => s)

/-! Droop and trim. -/

/-- DROOP (R376): clocks stretch, with no architectural effect. -/
def execDroop (s : State) : Res := .next s

/-- TRIM_STEP_DOWN (R376): inside the trim window 5 mV lower, to at most 60 mV below nominal. -/
def execTrimStepDown (cl : Nat) (s : State) : Res :=
  let k := s.cluster cl
  .next (if s.power ≠ .on || 16 ≤ cl || !inRun s cl || !inTrimWindow s cl then s
    else s.setCluster cl { k with trimMv := min 60 (k.trimMv + 5) })

/-! HOLD. -/

/-- HOLD_ENTRY (R377): a sag stops everything where it stands. -/
def execHoldEntry (s : State) : Res :=
  .next (if s.power ≠ .on then s else { s with power := .hold })

/-- A link that was retraining starts again (R427). -/
def restartLink (l : Link) : Link := match l.state with
  | .keying => { l with state := .training }
  | .halted => { l with state := .training }
  | _ => l

/-- HOLD_EXIT (R377): the steps are reversed, and STEP messages held meanwhile are performed in their order (R384). A device whose
last sheet is lost stays stopped (R382). -/
def execHoldExit (s : State) : Res :=
  .next (if s.power ≠ .hold || s.lastSheetLost then s
    else
      let s1 := { s with power := .on, heldSteps := [], links := (List.range 8).foldl (fun t i =>
        Tab.set Link.reset t i (restartLink (Tab.get Link.reset t i))) s.links }
      s.heldSteps.foldl (fun t q => stepRequest t q.1 q.2.1 q.2.2.1 q.2.2.2) s1)

/-- RESERVE_FLOOR (R378): the package is switched off. -/
def execReserveFloor (s : State) : Res :=
  .next (if s.power ≠ .hold then s else { s with power := .off })

/-- TRANSPORT_SHOCK (R426). -/
def execTransportShock (s : State) : Res :=
  .next (if s.power ≠ .off then s else { s with shock := true })

/-! Bring-up. -/

/-- What a context's checkpoint shadow keeps over a power loss (R20, R378). -/
def shadowOnly (c : Ctx) : Ctx :=
  if c.ckpt.getLsbD 63 then { Ctx.reset with shadow := c.shadow, ckpt := c.ckpt, cause := c.cause } else Ctx.reset
/-- A core after a power loss. -/
def lostCore (c : Core) : Core := { Core.reset with ctx0 := shadowOnly c.ctx0, ctx1 := shadowOnly c.ctx1 }
/-- The device as power leaves it: what MRAM, the hub's non-volatile store, the drives and the outside keep (R210, R310,
R364, R378, R414, R415, R420). -/
def afterLoss (s : State) : State :=
  let live := (List.range 4).filter (fun i => !s.sheets.retired.contains i)
  { State.reset with
    mem := s.mem.filter (fun c => c.1 / 2 ^ 60 == 2 || 5 ≤ c.1 / 2 ^ 60)
    errs := s.errs.filter (fun e => e.1 / 2 ^ 60 == 2 || (e.1 / 2 ^ 60 == 10 && arrKind e.1 == 6))
    cores := (List.range 1088).foldl (fun (t : Tab Core) (i : Nat) => Tab.set Core.reset t i (lostCore (s.core i))) []
    enrolled := s.enrolled
    keyGen := s.keyGen
    die0 := s.die0
    die2 := s.die2
    scores := s.die0.scores
    surveyDue := (s.die0.scores.filter (fun c => 256 ≤ c.2.toNat)).map (·.1)
    wear := s.wear
    journal := s.journal
    txnCount := s.txnCount
    badModels := s.badModels
    txn := s.txn
    sheets := ⟨live, live, false, s.sheets.retired⟩
    links := (List.range 8).foldl (fun (t : Tab Link) (i : Nat) =>
      if Tab.get false s.outLinks i then Tab.set Link.reset t i { Link.reset with state := .down } else t) []
    outWindows := s.outWindows
    outLinks := s.outLinks
    safe := s.safe
    lastSheetLost := live.isEmpty
    power := if live.isEmpty then .hold else .on
    powerLost := true
    sent := s.sent
    agenda := s.agenda
    turn := s.turn
    freeCtr := s.freeCtr }

/-- The copy of a block that is used: die 0's where its check holds, else die 2's (R312). -/
def chosen {α : Type} (ok : α → Bool) (a b : α) : α := if ok a then a else b

/-- A block that no retirement has written yet, or whose check holds. -/
def headerOk (b : Option (BitVec 512)) : Bool := b.all checkHolds
def mapOk (b : Option (BitVec 1024)) : Bool := b.all (fun x => checked1024 x.toNat == x)

/-- The table of which both copies are made (R312): block by block and record by record; the score area, which has no check, is die
0's. -/
def chosenTable (a b : RetTable) : RetTable :=
  { header := chosen headerOk a.header b.header
    maps := (List.range 16).foldl (fun (t : Tab (Option (BitVec 1024))) i =>
      Tab.set none t i (chosen mapOk (Tab.get none a.maps i) (Tab.get none b.maps i))) []
    scores := a.scores
    recs := (List.range 4096).foldl (fun (t : Tab (BitVec 512)) i =>
      Tab.set 0 t i (chosen checkHolds (Tab.get 0 a.recs i) (Tab.get 0 b.recs i))) [] }

/-- Header and maps of the table in their places. -/
def tableRead (s : State) : State :=
  let t := chosenTable s.die0 s.die2
  let s1 := { s with die0 := t, die2 := t, ret := (t.header.map headerRead).getD State.reset.ret }
  (List.range 16).foldl (fun u c => match Tab.get none t.maps c with
    | some b => u.setCluster c (mapRead (u.cluster c) b)
    | none => u) s1

/-- Spares whose BEGIN record no IN_SERVICE record of the same core follows, with their clusters (R311, R312). -/
def openSpares (t : RetTable) : List (Nat × SpareWork) :=
  let rs := ((t.recs.map (·.2)).filter checkHolds).map (·.toNat)
  let type := fun (r : Nat) => fld r 479 476
  let core := fun (r : Nat) => fld r 471 456
  ((rs.filter (fun r => type r == 1)).filter (fun r =>
      !rs.any (fun q => type q == 2 && core q == core r && fld r 511 480 < fld q 511 480))).map
    (fun r => (core r / 256 % 16, ⟨core r % 256, fld r 448 443, fld r 455 449, fld r 442 440, fld r 439 424, fld r 475 472, false⟩))

/-- Recovery of the retirement table (R312): a BEGIN without IN_SERVICE is carried out; where its map is written already, the record
alone is. -/
def recoverRetirement (s : State) : State :=
  (openSpares (tableRead s).die0).foldl (fun t p =>
    if ((t.cluster p.1).map[p.2.arch]?).getD 0x7F = p.2.spare then spareServes t p.1 p.2
    else putInService (prepareSpare t p.1 p.2) p.1 p.2) (tableRead s)

/-- Components of a full survey (R425): every core with its MRAM array, memory window, link and sheet segment. -/
def everyComponent : List Nat := List.range 1088 ++ (List.range 3100).map (2176 + ·)

/-- POWER_UP (R425): nothing runs unless the firmware's signature holds. A transport shock asks for a full survey, and the host port stays
closed until that is done. -/
def execPowerUp (firmwareOk : Bool) (s : State) : Res :=
  .next (if s.power ≠ .off || !firmwareOk then s
    else
      let s1 := recoverRetirement (recoverJournal (afterLoss s))
      if s.shock then { s1 with surveyDue := everyComponent, surveyFirst := true, hostPort := false } else s1)

end Sys2Proof.Machine
end

