-- ==== Sys2Proof/Machine/Outside.lean ====
section
/-! DEFINITION. The outside: inbound requests of the host and of peers (R294, R404, R405), page moves (R297 to R299),
Ovdex links (R421 to R423), drives (R241, R281, R419), migration (R417, R418), the safe tier (R420). -/
namespace Sys2Proof.Machine

/-! Inbound requests. -/

/-- Reasons of a refusal (R405). -/
def rfMiss : Nat := 0
def rfBusy : Nat := 1
def rfFault : Nat := 2
def rfMoving : Nat := 3
def rfPeerHomed : Nat := 4
def rfHalted : Nat := 5
def rfFrozen : Nat := 6
def rfExec : Nat := 7

/-- Job that owns an address space (R287). -/
def asidOwner (s : State) (asid : Nat) : Nat := fld (asidEntry s asid) 31 16

/-- A page's notice of a fault, once until an invalidation covers it (R294); a peer's request is on path 6 (R431). -/
def inboundFault (s : State) (asid va : Nat) (peer : Option Nat) (detail : Nat) : State :=
  if s.faultPages.contains (asid, va / 65536) then s
  else faultNotice { s with faultPages := s.faultPages ++ [(asid, va / 65536)] } (asidOwner s asid)
    (va / 65536 * 65536 + (if peer.isSome then 6 * 2 ^ 60 else 0)) detail

/-- The die that translates an inbound request of a page; which one is open (log entry 19). -/
def inboundDie (va : Nat) : Nat := va / 65536 % 4

/-- No walker of the die is free (R290): the walks of local copies come and go within their own steps, so that whether one is free when
a request misses is open (log entry 19). -/
def walkerBusy (s : State) : State × Bool :=
  let f := fresh s
  (f.2, f.1.getLsbD 0)

/-- Whether a page waits for its move or is in one (R299). -/
def moving (s : State) (asid va : Nat) : Bool := s.moveReqs.any (fun q => q.asid == asid && q.va / 65536 == va / 65536)

/-- Paths by which an inbound request may be served: a host's by a private or a shared leaf, a peer's by a shared one. -/
def inboundPaths (peer : Option Nat) : List Nat := match peer with
  | some _ => [6]
  | none => [0, 6]

/-- Translation of an inbound request (R294): the place, or the refusal's reason and hint. -/
def inbound (s : State) (asid va : Nat) (wr : Bool) (peer : Option Nat) (detail : Nat) : State × Except (Nat × Nat) Xl :=
  if moving s asid va then (s, .error (rfMoving, 1))
  else
    let hit := match cachedLeaf (s.dieCache (inboundDie va)) asid va with
      | some t => (inboundPaths peer).findSome? (fun p => outsideRegions s (useLeaf t.leaf.toNat t.leafAt ((t.log2 - 16) / 8) va p wr))
      | none => none
    match hit with
    | none =>
      let b := walkerBusy s
      if b.2 then (b.1, .error (rfBusy, 1))
      else
        let s1 := meetWalk b.1 (asidOwner s asid) asid va
        match (inboundPaths peer).findSome? (fun p => walk s1 asid va p wr) with
        | none => (inboundFault s1 asid va peer detail, .error (rfFault, 64))
        | some x => (fillDie s1 (inboundDie va) asid va x, .error (rfMiss, 1))
    | some x =>
      if fld x.leaf 7 6 = 1 then
        match linkRefusal s with
        | some (1, _) => (s, .error (rfHalted, 200))
        | _ => (s, .error (rfPeerHomed, 1))
      else if wr && markedFrame s x.addr then (s, .error (rfExec, 255))
      else (s, .ok x)

/-- Bytes that an access touches, and whether it writes. -/
def accBytesOf : Access → Nat
  | .read n => n
  | .write bs => bs.length
  | .atomic _ w64 _ _ _ => if w64 then 8 else 4
def accWrites : Access → Bool
  | .read _ => false
  | _ => true

/-- An inbound access at its place: what it answers, and whether the data is poisoned; none where a sector stops it. A read takes a
poisoned sector where its receiver may have poison (R424). -/
def performAccess (s : State) (k : Nat) (who : Consumer) (a : Access) (mayPoison : Bool) : State × Option (Bool × List Byte) :=
  let n := accBytesOf a
  match a with
  | .read _ => match copyReadErrs s k n (some 0) who with
    | (s1, false, p) => (s1, if p && !mayPoison then none else some (p, s1.bytes k n))
    | (s1, true, _) => (s1, none)
  | .write bs => match mergeErrs s k n (some 0) who with
    | (s1, none) => ((s1.put k bs).setTags k n 0, some (false, []))
    | (s1, some _) => (s1, none)
  | .atomic op _ sgn opnd cmp => match copyReadErrs s k n (some 0) who with
    | (s1, false, false) =>
      let old := s1.bytes k n
      (s1.put k (leBytes n (atomNew op (8 * n) sgn opnd.toNat cmp.toNat (leNat old))), some (false, old))
    | (s1, _, _) => (s1, none)

/-- A refusal record in the ring that the requester's session names (R405). -/
def refusalRecord (s : State) (r : HostReq) (asid reason hint : Nat) : State :=
  let v := s.session r.session
  match v.refusal with
  | none => s
  | some a =>
    let e := setFld (setFld (setFld (setFld (setFld (setFld 0 255 192 r.off) 191 176 r.requester) 175 160 asid) 159 152 hint)
      151 144 reason) 127 96 v.refSeq.toNat + b2n v.refOv
    let (s1, ok) := ringProduce s (hostKey (fld a.toNat 47 0)) 0 (leBytes 32 e)
    let v1 := s1.session r.session
    s1.setSession r.session (if ok then { v1 with refSeq := v1.refSeq + 1, refOv := false } else { v1 with refOv := true })

/-- Completion of a request that is not posted: 0 success, 1 unsupported request, 2 completer abort; with EP set or not. -/
def complete (s : State) (r : HostReq) (status : Nat) (data : Bool × List Byte) : State := match r.acc with
  | .write _ => s
  | _ => emit s (.completion r.requester status data.1 data.2)

/-- A read of BAR0 (R404): every offset but the doorbell's reads zero; what that one reads is open. An atomic operation there is not
supported; a write is DOORBELL or BAR_WRITE_IGNORED. -/
def readBar0 (s : State) (r : HostReq) : State := match r.acc with
  | .read n =>
    if 65536 < r.off + n then complete s r 1 (false, [])
    else
      let f := fresh s
      complete f.2 r 0 (false, (List.range n).map (fun i => if r.off + i < 4 then f.1.extractLsb' (8 * (r.off + i)) 8 else 0))
  | _ => complete s r 1 (false, [])

/-- An AtomicOp that the port completes (R404), aligned to its width. -/
def atomicServed (a : Access) (va : Nat) : Bool := match a with
  | .atomic op w64 _ _ _ => (op == 0 || op == 6 || op == 7) && va % (if w64 then 8 else 4) == 0
  | _ => true

/-- A requester, or its TDI, that is refused with reason 6 (R412, R416). -/
def requesterFrozen (s : State) (r : HostReq) (job : Nat) : Bool :=
  (s.session r.session).frozen.contains job ||
  (match tdiOf s job with
   | some .run => !r.ide
   | some _ => true
   | none => false)

/-- HOST_INBOUND_REQUEST (R405). A request that leaves its page is taken as unsupported. -/
def execHostInboundRequest (r : HostReq) (s : State) : Res :=
  .next (if s.power ≠ .on || !s.hostPort then s
    else if r.bar0 then readBar0 s r
    else match r.pasid with
      | none => complete s r 1 (false, [])
      | some asid =>
        let va := r.off % 2 ^ 48
        let n := accBytesOf r.acc
        if 65536 ≤ asid || 65536 < va % 65536 + n || n = 0 || !atomicServed r.acc va then complete s r 1 (false, [])
        else
          let job := asidOwner s asid
          let refuse := fun (s : State) (reason hint : Nat) => refusalRecord (complete s r 2 (false, [])) r asid reason hint
          if requesterFrozen s r job then refuse s rfFrozen 255
          else match inbound s asid va (accWrites r.acc) none (3 * 2 ^ 60 + r.requester % 2 ^ 16) with
            | (s1, .error x) => refuse s1 x.1 x.2
            | (s1, .ok x) => match performAccess s1 x.addr ⟨none, job⟩ r.acc (hostPoison s1 job) with
              | (s2, some d) => complete s2 r 0 d
              | (s2, none) => complete s2 r 2 (false, []))

/-! Ovdex links. -/

/-- Codes of the link states in LINK_STATE, in the order of R423. -/
def linkCode : LinkState → Nat
  | .down => 0 | .training => 1 | .keying => 2 | .up => 3 | .halted => 4

/-- A link changes its state, and the host hears of it (R410, R423). -/
def linkTo (s : State) (l : Nat) (st : LinkState) : State :=
  postEvent (s.setLink l { s.link l with state := st }) 0x800B none [l, linkCode st]

/-- An answer to a peer travels in a flit. -/
def answerPeer (s : State) (l : Nat) (m : Sent) (plain : List Byte) : State := sendFlit (emit s m) l plain
/-- The first link that delivers; which one leads to a peer is not the spec's (log entry 9). -/
def upLink (s : State) : Option Nat := (List.range 8).find? (fun l => (s.link l).state == .up)
/-- A message to a peer, where a link delivers. -/
def tellPeer (s : State) (m : Sent) (plain : List Byte) : State := match upLink s with
  | some l => answerPeer s l m plain
  | none => s

/-- A peer's request, translated and performed at its home, or refused with a hint (R294, R297, R298). -/
def peerRequest (s : State) (r : PeerReq) : State :=
  let va := r.va % 2 ^ 48
  let job := asidOwner s r.asid
  let n := accBytesOf r.acc
  let refuse := fun (s : State) (x : Nat × Nat) => answerPeer s r.link (.hint r.peer x.2 x.1) (leBytes 8 x.2)
  if 65536 < va % 65536 + n || n = 0 then s
  else if (match tdiOf s job with | some .run => false | some _ => true | none => false) then refuse s (rfFrozen, 255)
  else match inbound s r.asid va (accWrites r.acc) (some r.peer) (4 * 2 ^ 60 + r.peer % 256) with
    | (s1, .error x) => refuse s1 x
    | (s1, .ok x) =>
      let s2 := countAccess s1 r.asid va x.leafAt (some r.peer)
      match performAccess s2 x.addr ⟨none, job⟩ r.acc true with
      | (s3, some d) => answerPeer s3 r.link (.peerDone r.peer d.2 (if d.1 then poisonedIn s3 x.addr n else [])) d.2
      | (s3, none) => answerPeer s3 r.link (.peerDone r.peer [] []) []

/-- PEER_INBOUND_REQUEST (R294). -/
def execPeerInboundRequest (r : PeerReq) (s : State) : Res :=
  .next (if s.power ≠ .on || (s.link r.link).state ≠ .up then s else peerRequest s r)

/-! Page moves (R298, R299). -/

/-- A page as its home sends it: each sector keeps its tag, and one that a read cannot correct travels poisoned. -/
def pageOut (s : State) (peer asid va key leaf : Nat) : MovedPage :=
  let at' := fun (i : Nat) => key + 64 * i
  { peer := peer, asid := asid, va := va, acc := fld leaf 127 104, moves := fld leaf 103 101, pinned := leaf.testBit 100,
    bytes := s.bytes key 65536
    tags := (List.range 1024).map (fun i => (s.tagAt (at' i)).toNat)
    poison := poisonedIn s key 65536 }

/-- A page's bytes, tags and poison marks at a frame. -/
def pageIn (s : State) (key : Nat) (p : MovedPage) : State :=
  let s1 := (p.tags.zipIdx 0).foldl (fun t g => t.setTags (key + 64 * g.2) 64 g.1) (s.put key (p.bytes.take 65536))
  p.poison.foldl (fun t i => t.poisonAt (key + 64 * i)) s1

/-- Migration reserve of a job: its ring's key and descriptor, where it is one (R303). -/
def reserveOf (s : State) (job : Nat) (wr : Bool) : Option (Nat × Nat) :=
  match devKey s job (jobField s job 279 232) wr with
  | some k => if rdOk (s.desc k) && rdKind (s.desc k) = 5 then some (k, s.desc k) else none
  | none => none

/-- A frame goes back to a job's reserve (R299 step 7). -/
def giveFrame (s : State) (job addr : Nat) : State := match reserveOf s job true with
  | none => queueRefused s job (jobField s job 279 232)
  | some (k, d) =>
    if 2 ^ rdLog2 d ≤ rdCount d then s
    else (devWrite s job none (rdBase d + rdWrite d % 2 ^ rdLog2 d * 8) (leBytes 8 addr)).setDesc k (setFld d 511 448 (rdWrite d + 1))

/-- The next frame of a job's reserve (R299 step 2): none where the ring is empty or its entry names no frame that a page may
take (log entry 55). -/
def reserveFrame (s : State) (job : Nat) : Option (State × Nat) := match reserveOf s job false with
  | none => none
  | some (k, d) =>
    if rdCount d = 0 then none
    else match devRead s job (rdBase d + rdRead d % 2 ^ rdLog2 d * 8) 8 with
      | none => none
      | some bs =>
        let f := leNat bs
        if f % 65536 = 0 && f + 65536 ≤ Config.devMemEnd && !inRegion s f && !markedFrame s f then
          some (s.setDesc k (setFld d 447 384 (rdRead d + 1)), f)
        else none

/-- A leaf once its page has moved: its target, frame and peer, and the fields that travel with it (R299 steps 4 and 5). -/
def movedLeaf (e target frame peer acc moves : Nat) (pinned : Bool) : Nat :=
  setFld (setFld (setFld (setFld (setFld (setFld e 7 6 target) 63 16 frame) 99 92 peer) 127 104 acc) 103 101 (moves + 1)) 100 100
    (b2n pinned)

/-- A move of the list is at another phase, or no longer there. -/
def moveTo (s : State) (q : Move) (p : Option MovePhase) : State :=
  { s with moveReqs := s.moveReqs.filterMap (fun r => if r = q then p.map (fun x => { q with phase := x }) else some r) }

/-- Steps 1 and 2 of R299: the page is held, and its new home is asked for a frame. -/
def askFrame (s : State) (q : Move) (x : Xl) : State :=
  if fld x.leaf 7 6 ≠ 0 || (upLink s).isNone then moveTo s q none
  else tellPeer (moveTo s q (some .asked)) (.askFrame q.peer q.asid q.va) (leBytes 8 q.va)
/-- Step 3: the page goes over Ovdex. -/
def sendPage (s : State) (q : Move) (x : Xl) : State :=
  let p := pageOut s q.peer q.asid q.va x.addr (leNat (s.bytes x.leafAt 16))
  tellPeer (pageIn (moveTo s q (some .sent)) (peerKey q.peer (q.va % 2 ^ 48)) p) (.page q.peer p) p.bytes
/-- Steps 5 to 8: the leaf names the new home, its cached copies are dropped, the frame goes to the job's reserve. -/
def leavePage (s : State) (q : Move) (x : Xl) : State :=
  let e := leNat (s.bytes x.leafAt 16)
  let l := movedLeaf e 1 0 q.peer (fld e 127 104) (fld e 103 101) (e.testBit 100)
  let s1 := moveTo { s with mem := s.mem.write x.leafAt (leBytes 16 l) } q none
  giveFrame (dropCached s1 q.asid q.va 65536) (asidOwner s q.asid) x.addr

/-- PAGE_MOVE at the old home (R299): its next steps, once a move is due, its frame is taken, the page has arrived; a page that no longer
translates as a shared one is not moved. -/
def execPageMove (asid va peer : Nat) (s : State) : Res :=
  .next (if s.power ≠ .on then s
    else match s.moveReqs.find? (fun q => q.asid == asid && q.va == va && q.peer == peer) with
      | none => s
      | some q => match walk s asid va 6 false with
        | none => moveTo s q none
        | some x => match q.phase with
          | .due => askFrame s q x
          | .granted => sendPage s q x
          | .arrived => leavePage s q x
          | .asked => s
          | .sent => s)

/-- The old home hears how a move has gone on: those of its page in phase `p` go to `next`. -/
def moveHeard (s : State) (asid va peer : Nat) (p : MovePhase) (next : Option MovePhase) : State :=
  match s.moveReqs.find? (fun q => q.asid == asid && q.va == va && q.peer == peer && q.phase == p) with
  | some q => moveTo s q next
  | none => s

/-- The new home is asked for a frame (R299 step 2): its leaf names the asker as home and the job's reserve has a frame; else there is
none. -/
def frameAsked (s : State) (l asid va peer : Nat) : State :=
  let page := va % 2 ^ 48 / 65536 * 65536
  let no := answerPeer s l (.noFrame peer asid page) (leBytes 8 page)
  match walk s asid page 6 false with
  | none => no
  | some x =>
    if fld x.leaf 7 6 ≠ 1 || fld x.leaf 99 92 ≠ peer then no
    else match reserveFrame s (asidOwner s asid) with
      | none => no
      | some (s1, f) =>
        answerPeer { s1 with framesFor := s1.framesFor ++ [(asid, page, peer, f)] } l (.frame peer asid page) (leBytes 8 page)

/-- A page arrives at its new home (R299 steps 4 and 6) in the frame taken for it, and the old home hears so; one for which no frame is
taken is dropped. -/
def receivePage (s : State) (l : Nat) (p : MovedPage) : State :=
  let va := p.va % 2 ^ 48 / 65536 * 65536
  match s.framesFor.find? (fun q => q.1 == p.asid && q.2.1 == va && q.2.2.1 == p.peer), walk s p.asid va 6 false with
  | some q, some x =>
    let f := q.2.2.2
    let e := leNat (s.bytes x.leafAt 16)
    let s1 := pageIn { s with framesFor := s.framesFor.erase q } f p
    let s2 := { s1 with mem := s1.mem.write x.leafAt (leBytes 16 (movedLeaf e 0 (f / 65536) 0 p.acc p.moves p.pinned)) }
    answerPeer (dropCached s2 p.asid va 65536) l (.arrived p.peer p.asid va) (leBytes 8 va)
  | _, _ => s

/-- The links have failed before a page was in its new home (R299): its move is abandoned, and a frame taken for it goes back. Whether a
page under way has arrived is open (log entry 55). -/
def abandonMoves (s : State) : State :=
  if linkRefusal s ≠ some (stLink, 0x20) then s
  else
    let s1 := (s.moveReqs.filter (fun q => q.phase == .asked || q.phase == .granted)).foldl (fun t q => moveTo t q none) s
    let s2 := (s1.moveReqs.filter (·.phase == .sent)).foldl (fun t q =>
      let f := fresh t
      moveTo f.2 q (if f.1.getLsbD 0 then some .arrived else none)) s1
    s2.framesFor.foldl (fun t q => giveFrame t (asidOwner t q.1) q.2.2.2) { s2 with framesFor := [] }

/-- A home's pin notice: the page's leaf here is pinned too, and its job hears of it (R298). -/
def receivePin (s : State) (asid va : Nat) : State :=
  let page := va % 2 ^ 48 / 65536 * 65536
  match walk s asid page 6 false with
  | none => s
  | some x =>
    let e := leNat (s.bytes x.leafAt 16)
    pinNotice { s with mem := s.mem.write x.leafAt (leBytes 16 (setFld e 100 100 1)) } asid page

/-- What a flit of a peer carries takes effect (R294, R298, R299, R421). -/
def peerMsg (s : State) (l : Nat) : PeerMsg → State
  | .request r => if r.link = l then peerRequest s r else s
  | .askFrame asid va peer => frameAsked s l asid va peer
  | .frame asid va peer => moveHeard s asid va peer .asked (some .granted)
  | .noFrame asid va peer => moveHeard s asid va peer .asked none
  | .page p => receivePage s l p
  | .arrived asid va peer => moveHeard s asid va peer .sent (some .arrived)
  | .pinned asid va => receivePin s asid va
  | .rehomed asid va => dropCached s asid (va % 2 ^ 48 / 65536 * 65536) 65536
  | .replay seq => chargeScore (resend s l seq) (5248 + l) 1

/-- A MAC failure halts the link (R423). -/
def haltLink (s : State) (l : Nat) : State := if (s.link l).state = .up then linkTo s l .halted else s

/-- A flit whose MAC holds under the key of the epoch it names (R422). -/
def macHolds (l : Nat) (f : Flit) : Bool := flitMac l false f.epoch f.seq f.text == f.mac

/-- FLIT_RECEIVE (R421): a CRC error asks for a replay, a MAC failure halts; duplicates and flits out of order or of
another epoch are discarded. -/
def execFlitReceive (l : Nat) (f : Flit) (s : State) : Res :=
  let k := s.link l
  .next (if s.power ≠ .on || k.state ≠ .up then s
    else if !f.crcOk then chargeScore (emit s (.replay l k.recvSeq)) (5248 + l) 1
    else if !macHolds l f then haltLink s l
    else if f.epoch ≠ k.epoch || f.seq ≠ k.recvSeq then s
    else
      let s1 := s.setLink l { k with recvSeq := k.recvSeq + 1, unacked := k.unacked.filter (fun u => f.ack ≤ u.1) }
      match f.body with
      | some b => peerMsg s1 l b
      | none => s1)

/-- LINK_MAC_FAILURE (R423 step 1). -/
def execLinkMacFailure (l : Nat) (s : State) : Res := .next (if s.power ≠ .on then s else haltLink s l)

/-- A new epoch: both sequences restart, and what is not acknowledged is sent again in order under the new key. -/
def newEpoch (s : State) (l : Nat) : State :=
  let k := s.link l
  let s1 := s.setLink l { k with epoch := k.epoch + 1, nextSeq := 0, recvSeq := 0, unacked := [] }
  (k.unacked.map (·.2)).foldl (fun t w => sendFlit t l w) s1

/-- LINK_RETRAIN_COMPLETE (R423 steps 2 to 4): a migration that has waited for the link goes on (R427). -/
def execLinkRetrainComplete (l : Nat) (s : State) : Res :=
  let st := (s.link l).state
  .next (if s.power ≠ .on || st = .up || st = .down || 8 ≤ l then s
    else sendBundles (linkTo (newEpoch (s.setLink l { s.link l with fails := 0 }) l) l .up))

/-- LINK_DOWN (R423): sixteen failed trainings, or a link that stops delivering; the last one's failure abandons page moves. -/
def execLinkDown (l : Nat) (s : State) : Res :=
  let k := s.link l
  .next (if s.power ≠ .on || k.state = .down || 8 ≤ l then s
    else abandonMoves (linkTo (s.setLink l { k with fails := if k.state = .up then k.fails else 16 }) l .down))

/-- LINK_REKEY (R422): a new key epoch. -/
def execLinkRekey (m : Msg) (l : Nat) (s : State) : Res :=
  .next (request s m adminReq (fun s =>
    if 8 ≤ l then answer s m rField
    else if (s.link l).state ≠ .up then answer s m rState
    else answer (newEpoch s l) m rOk))

/-! The host port and the drives. -/

/-- A transfer with one end in host memory; a page operation names a handle and one address. -/
def namesHost (p : Nat) : Bool :=
  if pkType p = 9 then pathOf (kvAddr p) == 5 else pathOf (fld p 255 192) == 5 || pathOf (fld p 191 128) == 5

/-- A phase in which bytes are moving. -/
def Phase.underWay : Phase → Bool
  | .retry _ => true
  | .moving _ => true
  | .stream _ _ => true
  | .nvme _ => true
  | _ => false

/-- A command whose transfer the host port no longer carries is done with LINK, 0x20, and what it has delivered (R253). -/
def endHostCmd (s : State) (core : Nat) (c : Cmd) : State :=
  let x := payTo (applyPart s c.prog.part) core c (delivered s core c)
  match c.phase with
  | .stream n g => if g.ended.isSome then s else endStream x.1 core x.2 n g stLink 0x20 0 (delivered s core c)
  | _ => setDone x.1 core x.2 stLink 0x20 0 (delivered s core c)

/-- Transfers under way on path 5 end: commands, then packets. -/
def endHostTransfers (s : State) : State :=
  let s1 := s.cores.foldl (fun t k =>
    ((t.core k.1).cmds.filter (fun c => c.phase.underWay && namesHost c.image)).foldl (fun u c => endHostCmd u k.1 c) t) s
  s1.rings.foldl (fun t v => (v.pkts.filter (fun q => q.phase.underWay && namesHost q.bits.toNat)).foldl (fun u q =>
    finishPacket (applyPart u q.prog.part) v.r q.index.toNat q.bits.toNat stLink 0x20 0 q.prog.bytes) t) s1

/-- HOST_PORT_NOT_DELIVERING (R253): transfers under way on path 5 complete with LINK, 0x20, and later ones find the port
closed. -/
def execHostPortNotDelivering (s : State) : Res :=
  .next (if s.power ≠ .on || !s.hostPort then s else endHostTransfers { s with hostPort := false })

/-- Whether a transfer that a drive's queue names still waits for it. -/
def waits (s : State) (w : Waiter) : Bool := match w with
  | .cmd core seq => match findCmd s core seq with
    | some c => match c.phase with
      | .nvme _ => true
      | .stream _ g => g.drive
      | _ => false
    | none => false
  | .pkt r index => match findPkt s r index with
    | some q => match q.phase with
      | .nvme _ => true
      | _ => false
    | none => false

/-- A transfer that reads weight rows under a journal transaction: its drive's command is held (R225, R243). -/
def waiterHeld (s : State) (w : Waiter) : Bool := match w with
  | .cmd core seq => match findCmd s core seq with
    | some c => match c.kind, c.phase with
      | .cpy p _ _ _, .nvme _ => weightHeld s (engOf s core c) p
      | _, _ => false
    | none => false
  | .pkt r index => match findPkt s r index with
    | some q => pkType q.bits.toNat != 9 &&
        weightHeld s (ringEngine s r (match ringDesc s r with | some (_, d) => d | none => 0)) q.bits.toNat
    | none => false

/-- A SPILL or PRELOAD that waits for accesses begun on its pages, those begun while its drive held it among them (R328, R343). -/
def tierWaits (s : State) (p : Nat) : Bool := 1 < kvOp p && pagesBegun s p

/-- The drives' answer to a command (R241, R253, R281): success performs its accesses, an error with `code` of a drive in
`bad` ends it with LINK where it needs that drive. -/
def nvmeCmd (s : State) (core : Nat) (c : Cmd) (bad : List Nat) (code : Nat) : State :=
  match c.kind, c.phase with
  | .kvref p _ _, .nvme g =>
    if tierWaits s p then setCmd s core { c with phase := .claimed 2 0 }
    else kvrefSettle core c (kvRun s (engOf s core c) p g (kvTotal p) (bad ++ deadDrives s)) code
  | .kvapp ents n sc k spec, .nvme _ => kvappGo s core c ents n sc k spec (some bad)
  | .kvrej h keep sc, .nvme _ => kvrejRun s core c h.toNat keep.toNat sc (bad ++ deadDrives s) code
  | .cpy p _ _ none, .nvme g =>
    if bad.isEmpty then settleCmd core c (transferMem s (engOf s core c) p (srcCmd c) g) else setDone s core c stLink 0x21 code g.bytes
  | _, .stream n g =>
    if bad.isEmpty then nextElement s core c true else endStream s core c n g stLink 0x21 code (delivered s core c)
  | _, _ => s

/-- The same for a packet. -/
def nvmePkt (s : State) (r : RingRef) (q : Pkt) (bad : List Nat) (code : Nat) : State :=
  let p := q.bits.toNat
  let i := q.index.toNat
  let e := ringEngine s r (match ringDesc s r with | some (_, d) => d | none => 0)
  if pkType p = 9 then
    if tierWaits s p then setPkt s r i (.claimed 2 0) else kvSettle s r i p (kvRun s e p q.prog (kvTotal p) (bad ++ deadDrives s)) code
  else if bad.isEmpty then settlePacket s r i p (transferMem s e p (i % 2 ^ 60) q.prog)
  else finishPacket s r i p stLink 0x21 code q.prog.bytes

/-- The transfer that a drive's queue names goes on. -/
def nvmeAnswer (s : State) (w : Waiter) (bad : List Nat) (code : Nat) : State := match w with
  | .cmd core seq => match findCmd s core seq with
    | some c => nvmeCmd s core c bad code
    | none => s
  | .pkt r index => match findPkt s r index with
    | some q => nvmePkt s r q bad code
    | none => s

/-- Commands leave the drives' queue pairs. -/
def dropCmds (s : State) (gone : NvmeCmd → Bool) : State :=
  { s with nvmeQ := (s.nvmeQ.map (fun q => (q.1, q.2.filter (fun k => !gone k)))).filter (fun q => !q.2.isEmpty) }
/-- A transfer leaves every drive's queue. -/
def withdraw (s : State) (w : Waiter) : State := dropCmds s (fun k => k.who == w)

/-- The first command of a drive that is not held, with its queue pair. -/
def firstCmd (s : State) (drive : Nat) : Option (Nat × NvmeCmd) :=
  ((List.range 64).map (fun i => queuePair drive (i + 1))).findSome? (fun q =>
    ((s.pair q).find? (fun k => !waiterHeld s k.who)).map (fun k => (q, k)))

/-- NVME_COMPLETION (R241, R281): the oldest command of the drive that is not held is complete. Its transfer, where it still
waits for the drive, goes on once no drive holds a command of it, or at its first error. -/
def execNvmeCompletion (drive sct sc : Nat) (s : State) : Res :=
  let code := sct % 8 * 256 + sc % 256
  .next (if s.power ≠ .on || Tab.get false s.drives drive then s
    else match firstCmd s drive with
      | none => s
      | some (q, k) =>
        let s1 := { s with nvmeQ := Tab.set [] s.nvmeQ q ((s.pair q).erase k) }
        if !waits s k.who then s1
        else if code ≠ 0 then nvmeAnswer (withdraw s1 k.who) k.who [drive] code
        else if s1.nvmeQ.any (fun p => p.2.any (fun v => v.who == k.who)) then s1
        else nvmeAnswer s1 k.who [] 0)

/-- DRIVE_UNRESPONSIVE (R419): its transfers end with SCT 7 and SC 0xFF; the event names it after the links. -/
def execDriveUnresponsive (drive : Nat) (s : State) : Res :=
  .next (if s.power ≠ .on || 4 ≤ drive || Tab.get false s.drives drive then s
    else
      let l := (((s.driveCmds drive).map (·.who)).eraseDups).filter (waits s)
      let s1 := { s with drives := Tab.set false s.drives drive true }
      let s2 := l.foldl (fun t w => nvmeAnswer (withdraw t w) w [drive] 0x7FF) s1
      postEvent s2 0x800B none [8 + drive, 0])

/-! Stopping a whole job, and what is kept of it. -/

/-- Every unit of a job is asked to stop, and none is placed (R417, R420). -/
def stopJob (s : State) (job : Nat) : State :=
  let s1 := pauseJob s job
  (allContextsOf s1 job).foldl (fun t p =>
    let c := t.ctx p.1 p.2
    if c.run = .placing then unplace t p.1 p.2 else t.setCtx p.1 p.2 { c with preempt := true }) s1

/-- A saved page goes back where the job's tables map it now, whether the job may write there or not; a frame that holds mapped code
stays as it is (R301, log entry 56). None where the page does not translate. -/
def writePage (s : State) (job : Nat) (p : SavedPage) : Option State :=
  let va := p.page * 65536
  match (walk s (jobAsid s job) va 0 false).or (walk s (jobAsid s job) va 0 true) with
  | none => none
  | some x =>
    if markedFrame s x.addr then some s
    else
      let s1 := (p.tags.zipIdx 0).foldl (fun t g => t.setTags (x.addr + 64 * g.2) 64 g.1) (s.put x.addr (p.bytes.take 65536))
      some (p.poison.foldl (fun t i => t.poisonAt (x.addr + 64 * i)) s1)
/-- The pages of a bundle or an image. -/
def writePages (s : State) (job : Nat) (pages : List SavedPage) : Option State :=
  pages.foldl (fun acc p => acc.bind (fun t => writePage t job p)) (some s)

/-! Keys under the code root (R415, R417). -/

/-- A key wrapped with the device's own key; the IV is a free value. -/
def wrapKey (s : State) (key : BitVec 256) : State × Wrapped :=
  let f := fresh s
  let iv := leBytes 12 f.1.toNat
  let text := gcmCrypt (leBytes 32 Config.wrapKey.toNat) iv (leBytes 32 key.toNat)
  (f.2, ⟨iv, text, gcmAuth (leBytes 32 Config.wrapKey.toNat) iv [] text⟩)
/-- The key that a wrapping holds, where this device has made it. -/
def unwrapKey (w : Wrapped) : Option (BitVec 256) :=
  if gcmAuth (leBytes 32 Config.wrapKey.toNat) w.iv [] w.text = w.tag then
    some (BitVec.ofNat 256 (leNat (gcmCrypt (leBytes 32 Config.wrapKey.toNat) w.iv w.text)))
  else none
/-- A key that the security processor makes. -/
def makeKey (s : State) : State × BitVec 256 :=
  let f := fresh s
  (f.2, f.1.setWidth 256)

/-- READY units of a job enter their queues (R51). -/
def requeueJob (s : State) (job : Nat) : State :=
  (jobRecords s job).foldl (fun t va => match readRecord t job va with
    | some r => if crState r = usReady then enqueueUnit (dequeueUnit t job va) job va else t
    | none => t) s

/-! Migration. -/

/-- MIGRATE_OUT (R417 step 1): a migration key is agreed, every unit is asked to stop; refused for a job in ERROR, and for one that is not
confidential. -/
def execMigrateOut (m : Msg) (s : State) : Res :=
  .next (request s m plainReq (fun s => withJob s m (fun j =>
    if tdiOf s m.job = none || tdiOf s m.job = some .error || j.migrating || j.saving then answer s m rState
    else
      let k := makeKey s
      let s1 := k.1.setJob m.job (some { j with migrating := true, migKey := some k.2, bundleSent := false })
      sendBundle (answer (stopJob s1 m.job) m rAccepted) m.job)))

/-- The reservations of a job's units end (R48). -/
def dropReservations (s : State) (job : Nat) : State :=
  s.cores.foldl (fun t k => if k.2.resv.any (·.job == job) then
    t.setCore k.1 { t.core k.1 with resv := (t.core k.1).resv.filter (·.job != job) } else t) s

/-- MIGRATION_ACK: the destination has the bundle, and the source erases key and data (R417 step 3); or it has not, and
the source keeps them (R418). -/
def execMigrationAck (job : Nat) (accepted : Bool) (s : State) : Res :=
  .next (match s.job job with
    | none => s
    | some j =>
      if s.power ≠ .on || !j.migrating || !j.bundleSent then s
      else if !accepted then postEvent (s.setJob job (some { j with bundleSent := false, migKey := none })) 0x8009 (some job) [job, 1]
      else
        let s1 := dropReservations (scrubPages s job) job
        s1.setJob job (some { freshJob j.desc none with windows := j.windows, paused := true, moved := true }))

/-- MIGRATE_IN (R417): a bundle that does not verify is rejected; one that does is stored, its key wrapped under this device's code
root. -/
def execMigrateIn (m : Msg) (bundle : SealedBundle) (intact : Bool) (s : State) : Res :=
  .next (request s m plainReq (fun s =>
    if (s.job m.job).isSome then answer s m rState
    else if !intact || !jobDescOk bundle.inner.desc.toNat m.job then answer s m rDenied
    else
      let w := wrapKey s bundle.key
      answer { w.1 with migIn := Tab.set none w.1.migIn m.job (some ⟨w.2, bundle⟩) } m rOk))

/-- A bundle opened under its own wrapping. -/
def openBundle (b : HeldBundle) : Option MigBundle := if unwrapKey b.wrapped = some b.sealed.key then some b.sealed.inner else none

/-- The job of a bundle runs again (R417 step 4); none where its pages find no place. -/
def restartJob (s : State) (job : Nat) (b : MigBundle) : Option State :=
  let j : Job := { freshJob b.desc (some ⟨b.key, b.salt, b.keyId, b.counter⟩) with pool := b.pool, tdi := .run }
  (writePages (s.setJob job (some j)) job b.pages).map (fun t =>
    requeueJob (releaseUnits { t with migIn := Tab.set none t.migIn job none } job) job)

/-- MIGRATE_CONFIRM at the destination (R417 step 4, R418): the job runs again with its key and key_id; a restart that fails keeps the
bundle; one whose bundle is lost leaves an orphan. -/
def confirmIn (m : Msg) (restart : Bool) (s : State) : State := match Tab.get none s.migIn m.job with
  | none => answer (postEvent s 0x800A (some m.job) [m.job]) m rState
  | some b => match (if restart then (openBundle b).bind (restartJob s m.job) else none) with
    | none => answer s m rState
    | some t => answer t m rOk

/-- MIGRATE_CONFIRM (R417 step 4, R418): at the source, where the host relays the destination's answer, MIGRATION_DONE is posted once the
job runs there. -/
def execMigrateConfirm (m : Msg) (restart : Bool) (s : State) : Res :=
  .next (request s m plainReq (fun s => match s.job m.job with
    | some j =>
      if !j.moved || !restart then answer s m rState
      else answer (postEvent (s.setJob m.job (some { j with moved := false })) 0x8009 (some m.job) [m.job, 0]) m rOk
    | none => confirmIn m restart s))

/-! The safe tier (R420). -/

/-- Reserved scratchpad ranges of a job's pinned units: core code, offset, length. -/
def reservedRanges (s : State) (job : Nat) : List (Nat × Nat × Nat) :=
  s.cores.flatMap (fun k => match codeOfCore s k.1 with
    | none => []
    | some code => (k.2.resv.filter (·.job == job)).flatMap (fun v =>
        [(code, v.actBase, v.actLimit - v.actBase), (code, 2 ^ 24 + v.accBase, v.accLimit - v.accBase)]))

/-- Poisoned words of a job's reserved ranges, as (core code, key offset). -/
def rangePoison (s : State) (r : Nat × Nat × Nat) : List (Nat × Nat) := match coreOfCode s r.1 with
  | some c => (locsOf (actKey c r.2.1) r.2.2).filterMap (fun l =>
      if (worstErr s l 1 none).any (fun e => 1 < e.1) then some (r.1, l - actKey c 0) else none)
  | none => []

/-- What an image holds of a job that has stopped (R420 step 2). -/
def imageOf (s : State) (job : Nat) (j : Job) : ImageBody :=
  { bundle := bundleOf s job j
    scratch := (reservedRanges s job).filterMap (fun r =>
      (coreOfCode s r.1).map (fun c => (r.1, r.2.1, s.bytes (actKey c r.2.1) r.2.2)))
    poison := (reservedRanges s job).flatMap (rangePoison s)
    cipher := (reservedRanges s job).flatMap (fun r => match coreOfCode s r.1 with
      | some c => if 2 ^ 24 ≤ r.2.1 then [] else
          (List.range (r.2.2 / 256)).filterMap (fun i => if s.form c (r.2.1 / 256 + i) then some (r.1, r.2.1 / 256 + i) else none)
      | none => [])
    resv := s.cores.flatMap (fun k => match codeOfCore s k.1 with
      | some code => (k.2.resv.filter (·.job == job)).map (fun v => (code, v))
      | none => [])
    levels := j.levels }

/-- Where an image goes on the drives that answer: first block and length are the device's own choice, free values here. -/
def imageExtents (s : State) : State × List (Nat × Nat × Nat) :=
  ((List.range 4).filter (fun d => !Tab.get false s.drives d)).foldl (fun p d =>
    let f := fresh p.1
    (f.2, p.2 ++ [(d, f.1.toNat % 2 ^ 36, f.1.toNat / 2 ^ 36 % 2 ^ 36)])) (s, [])

/-- A job's image on the storage tier; a confidential job's is sealed under a checkpoint key that is kept wrapped (R415). -/
def saveImage (s : State) (job : Nat) (j : Job) : State × SafeImage :=
  let e := imageExtents s
  if confJob s job then
    let k := makeKey e.1
    let w := wrapKey k.1 k.2
    (w.1, ⟨e.2, some (w.2, k.2), imageOf s job j⟩)
  else (e.1, ⟨e.2, none, imageOf s job j⟩)

/-- An image read back: a sealed one only where its key unwraps here. -/
def openImage (i : SafeImage) : Option ImageBody := match i.lock with
  | none => some i.body
  | some l => if unwrapKey l.1 = some l.2 then some i.body else none

/-- Extents in the payload of an event. -/
def extentWords (l : List (Nat × Nat × Nat)) : List Nat := l.flatMap (fun e => [e.1, e.2.1, e.2.2])

/-- SAFE_CHECKPOINT (R420 step 1). -/
def execSafeCheckpoint (m : Msg) (s : State) : Res :=
  .next (request s m plainReq (fun s => withJob s m (fun j =>
    if j.saving || j.migrating || j.frozen then answer s m rState
    else answer (stopJob (s.setJob m.job (some { j with saving := true })) m.job) m rAccepted)))

/-- The job's placement goes on after a checkpoint or a restore. -/
def endSaving (s : State) (job : Nat) : State := match s.job job with
  | some j => resumeJob (s.setJob job (some { j with saving := false })) job
  | none => s

/-- CHECKPOINT_DONE (R420): the image is complete once its header is written; a drive lost leaves the previous one (R427). -/
def execCheckpointDone (job : Nat) (ok : Bool) (s : State) : Res :=
  .next (match s.job job with
    | none => s
    | some j =>
      if s.power ≠ .on || !j.saving || !jobStopped s job then s
      else if ok then
        let i := saveImage s job j
        let s1 := { i.1 with safe := Tab.set none i.1.safe job (some i.2) }
        stopAfter (postEvent (endSaving s1 job) 0x800D (some job) ([job] ++ extentWords i.2.extents ++ [stOk])) job
      else stopAfter (postEvent (endSaving s job) 0x800D (some job) [job, stLink]) job)

/-- SAFE_RESTORE (R420): of a job that has no unit on a context and has an image. -/
def execSafeRestore (m : Msg) (s : State) : Res :=
  .next (request s m plainReq (fun s => withJob s m (fun j =>
    if j.saving || j.migrating || j.frozen || !jobStopped s m.job || (Tab.get none s.safe m.job).isNone then answer s m rState
    else answer (pauseJob (s.setJob m.job (some { j with saving := true })) m.job) m rAccepted)))

/-- A scratchpad range of an image goes back to its core. -/
def restoreRange (s : State) (r : Nat × Nat × List Byte) : State := match coreOfCode s r.1 with
  | some c => s.put (actKey c r.2.1) r.2.2
  | none => s
/-- The lines of a range take the form that the image gives them (R420, log entry 56). -/
def restoreForms (cipher : List (Nat × Nat)) (s : State) (r : Nat × Nat × List Byte) : State := match coreOfCode s r.1 with
  | some c => if 2 ^ 24 ≤ r.2.1 then s else
      (List.range (r.2.2.length / 256)).foldl (fun t i =>
        t.setForm c (r.2.1 / 256 + i) (cipher.contains (r.1, r.2.1 / 256 + i))) s
  | none => s
/-- A reservation of an image holds again (R48). -/
def restoreResv (s : State) (r : Nat × Resv) : State := match coreOfCode s r.1 with
  | some c =>
    let co := s.core c
    s.setCore c { co with resv := co.resv.filter (fun v => !(v.job == r.2.job && v.recAddr == r.2.recAddr)) ++ [r.2] }
  | none => s

/-- A poisoned word of an image is poisoned again. -/
def restorePoison (s : State) (p : Nat × Nat) : State := match coreOfCode s p.1 with
  | some c => s.poisonAt (actKey c p.2)
  | none => s

/-- An image is written back: pool, key and levels, pages, scratchpads. -/
def restoreImage (s : State) (job : Nat) (j : Job) (i : ImageBody) : Option State :=
  let b := i.bundle
  let key : Option Key := if confJob s job then some ⟨b.key, b.salt, b.keyId, b.counter⟩ else none
  (writePages (s.setJob job (some { j with pool := b.pool, key := key, levels := i.levels })) job b.pages).map (fun t =>
    i.resv.foldl restoreResv (i.poison.foldl restorePoison (i.scratch.foldl (restoreForms i.cipher) (i.scratch.foldl restoreRange t))))

/-- RESTORE_DONE (R420): the units are placed from their records. -/
def execRestoreDone (job : Nat) (s : State) : Res :=
  .next (match s.job job, Tab.get none s.safe job with
    | some j, some i =>
      if s.power ≠ .on || !j.saving || !jobStopped s job then s
      else
        let done := fun (t : State) (st : Nat) => postEvent t 0x800E (some job) ([job] ++ extentWords i.extents ++ [st])
        match (openImage i).bind (restoreImage s job j) with
        | some t => stopAfter (done (requeueJob (endSaving t job) job) stOk) job
        | none => stopAfter (done (endSaving s job) stBound) job
    | _, _ => s)

end Sys2Proof.Machine
end

