-- ==== Sys2Proof/Machine/Tenants.lean ====
section
/-! DEFINITION. The host's tenant messages (R316, R326, R330). -/
namespace Sys2Proof.Machine

/-- Kind of TENANT_CREATE and TENANT_GRANT: marked A, and configuration messages (R409, R412). -/
def tenantAdmin : ReqKind := ⟨true, true, false, false⟩

/-- A tenant descriptor within the limits of R316, its tables and lists inside its region (R317). -/
def tenantDescOk (d : Nat) : Bool :=
  let base := tdRegion d
  let last := base + 65536 * tdRegionPages d
  let slots := 2 ^ tdTableLog2 d
  let inside := fun (a n : Nat) => base ≤ a && a + n ≤ last
  6 ≤ tdSlotLog2 d && tdSlotLog2 d ≤ 16 && 1 ≤ tdDepth d && tdDepth d ≤ 256 && 4 ≤ tdTableLog2 d && tdTableLog2 d ≤ 24 &&
  4 ≤ tdGzLog2 d && tdGzLog2 d ≤ 22 && fld d 460 448 == 0 && fld d 79 0 == 0 && base % 65536 == 0 &&
  last ≤ Config.devMemEnd && inside (tdFreePages d) 64 && inside (tdFreeSlots d) 64 && inside (tdSpill d) 64 &&
  inside (tdEntryAt d 0) (64 * slots) && inside (tdBucketAt d 0) (32 * 2 ^ tdGzLog2 d) &&
  inside (tdDirAt d 0 0) (8 * tdMaxPages d * slots) && inside (tdJournalAt d 0 0) (tdDepth d * (16 + tdSlotBytes d) * slots)

/-- A list as TENANT_CREATE gives it: a ring of kind 5 inside the region, with room for its entries (R246, R317). -/
def listOk (d : Nat) (l : BitVec 512 × List Word) : Bool :=
  let r := l.1.toNat
  let n := 8 * 2 ^ rdLog2 r
  rdOk r && rdKind r == 5 && rdBase r % n == 0 && tdRegion d ≤ rdBase r && rdBase r + n ≤ tdRegion d + 65536 * tdRegionPages d &&
  l.2.length ≤ 2 ^ rdLog2 r

/-- A list filled: its entries from slot 0 on, its descriptor with that many claimed and none freed. -/
def fillList (s : State) (a : Nat) (l : BitVec 512 × List Word) : State :=
  (s.put (rdBase l.1.toNat) (l.2.flatMap (fun w => leBytes 8 w.toNat))).setDesc a (setFld (freshRing l.1.toNat) 511 448 l.2.length)

/-- A region at the reset values of R318: every slot FREE, generation 0; no page, no undo record; every bucket EMPTY. -/
def freshRegion (s : State) (d : Nat) : State :=
  let slots := 2 ^ tdTableLog2 d
  let dirs := tdMaxPages d * slots
  let s1 := zeroRange (zeroRange (zeroRange (zeroRange s (tdEntryAt d 0) (64 * slots)) (tdBucketAt d 0) (32 * 2 ^ tdGzLog2 d))
    (tdJournalAt d 0 0) (tdDepth d * (16 + tdSlotBytes d) * slots)) (tdDirAt d 0 0) (8 * dirs)
  (List.range dirs).foldl (fun t i => physPut t (tdDirAt d 0 0 + 8 * i) 8 pdNone) s1

/-- A region as TENANT_CREATE leaves it: its tables reset, the lists of the message filled. -/
def freshPool (s : State) (pool : TenantPool) : State :=
  let d := pool.desc.toNat
  ([tdFreePages d, tdFreeSlots d, tdSpill d].zip pool.lists).foldl (fun u p => fillList u p.1 p.2) (freshRegion s d)

/-- TENANT_CREATE (R316, R318, R319): the region's tables are set to their reset values and its lists are filled; a list that the
message does not carry stands as the host has written it before (log entry 69). -/
def execTenantCreate (m : Msg) (pool : TenantPool) (s : State) : Res :=
  .next (request s m tenantAdmin (fun s =>
    let d := pool.desc.toNat
    let t := fld d 511 500
    if !tenantDescOk d || 3 < pool.lists.length || !pool.lists.all (listOk d) then answer s m rField
    else if (Tab.get none s.tenants t).isSome then answer s m rState
    else
      let s1 := freshPool s pool
      answer { s1 with tenants := Tab.set none s1.tenants t (some pool.desc) } m rOk))

/-- TENANT_GRANT: at most 16 tenants to a job. -/
def execTenantGrant (m : Msg) (tenant : Nat) (s : State) : Res :=
  .next (request s m tenantAdmin (fun s => withJob s m (fun j =>
    if 4096 ≤ tenant then answer s m rField
    else if (Tab.get none s.tenants tenant).isNone then answer s m rState
    else if j.tenants.contains tenant then answer s m rOk
    else if 16 ≤ j.tenants.length then answer s m rRoom
    else answer (s.setJob m.job (some { j with tenants := j.tenants ++ [tenant] })) m rOk)))

/-- A tenant that a request may act on: its session 0, or a job to which it is granted. -/
def withTenant (s : State) (m : Msg) (tenant : Nat) (f : Nat → State) : State :=
  if (s.session m.session).job.isSome && !granted s m.job tenant then answer s m rDenied
  else match Tab.get none s.tenants tenant with
    | some d => f d.toNat
    | none => answer s m rField

/-- Step 1 of R326 for one slot: the state after, and whether its operations are in flight. -/
def revokeSlot (s : State) (d slot : Nat) : State :=
  let e := readEntry s d slot
  if heState e = 1 || heState e = 2 then writeEntry s d slot (setFld e 487 485 3) else s

/-- Page operations of a tenant in progress deliver up to the end of their 4 KiB block and stop with REVOKED (R326 step 2); a
KVAPP that waits goes on, its sequences finding their handles revoked (step 3). -/
def revokeMoves (s : State) (tenant : Nat) : State :=
  let cut := fun (t : State) (e : Eng) (p : Nat) (g : Prog) => kvRun t e p g (kvCut p g.bytes) (deadDrives t)
  let s1 := s.cores.foldl (fun t k => ((t.core k.1).cmds).foldl (fun u c => match c.kind with
    | .kvref p _ _ =>
      if c.phase.begun && hdTenant (kvHandle p) = tenant then
        let m := cut u (engOf u k.1 c) p c.prog
        kvrefDone m.st k.1 c (stRevoked, 0) 0 m.bytes
      else u
    | .kvapp ents n sc l spec =>
      if c.phase.begun && (kvappEntries ents n).any (fun x => hdTenant x.1 == tenant) then kvappGo u k.1 c ents n sc l spec none else u
    | _ => u) t) s
  s1.rings.foldl (fun t v => v.pkts.foldl (fun u q =>
    let p := q.bits.toNat
    if pkType p = 9 && q.phase.begun && hdTenant (kvHandle p) = tenant then
      let m := cut u (ringEngine u v.r (match ringDesc u v.r with | some (_, d) => d | none => 0)) p q.prog
      finishPacket m.st v.r q.index.toNat p stRevoked 0 0 m.bytes
    else u) t) s1

/-- TENANT_CANCEL (R326): its last two steps come once nothing of the tenant is in flight. -/
def execTenantCancel (m : Msg) (tenant : Nat) (s : State) : Res :=
  .next (request s m configReq (fun s => withTenant s m tenant (fun d =>
    let slots := List.range (2 ^ tdTableLog2 d)
    let held := slots.filter (fun i => (heState (readEntry s d i) == 1 || heState (readEntry s d i) == 2) && heFlight (readEntry s d i) != 0)
    let notes := held.map (fun i => mkHandle tenant (heGen (readEntry s d i)) i (heClass (readEntry s d i)))
    let s1 := slots.foldl (fun t i => revokeSlot t d i) s
    let s2 := slots.foldl (fun t i => endWaiters t tenant i stRevoked) (revokeMoves s1 tenant)
    answer (endRevoked { s2 with revoking := s2.revoking ++ [(tenant, m.job, notes)] } tenant d) m rOk)))

/-- GZ_EVICT (R330): a bucket that holds a claim becomes TOMB. -/
def execGzEvict (m : Msg) (tenant bucket : Nat) (s : State) : Res :=
  .next (request s m plainReq (fun s => withTenant s m tenant (fun d =>
    if 2 ^ tdGzLog2 d ≤ bucket then answer s m rField
    else if bkState (readBucket s d bucket) = 1 || bkState (readBucket s d bucket) = 2 then
      answer (endWaiters (tombBucket s d bucket) tenant (hdSlot (bkHandle (readBucket s d bucket))) stStale) m rOk
    else answer s m rState)))

end Sys2Proof.Machine
end

