-- ==== Sys2Proof/Machine/Agenda.lean ====
section
/-! DEFINITION. Which happening comes next (log entry 1): what arrives from outside stands in the agenda, oldest first; where it
is empty the device's own happenings take turns. -/
namespace Sys2Proof.Machine

/-- A row that stands in a bundle's slot: it happens within its bundle's issue, never as a step of its own. -/
def inSlot (i : Instr) : Bool := (encode i).isSome

/-- The step that goes on with a command in its channel. -/
def cmdStep (core : Nat) (c : Cmd) : List Instr :=
  match c.phase with
  | .done _ _ _ _ => [.transferComplete core c.seq]
  | .stream _ _ => [.streamElementArrival core c.seq]
  | .nvme _ => []
  | .moving g => match c.kind with
    | .kvapp _ _ _ _ _ => [.kvappPerform core c.seq]
    | .kvrej _ _ _ => [.kvrejPerform core c.seq]
    | _ => if g.tries = 0 then [.cpyPerform core c.seq] else [.copyRetry core c.seq]
  | .retry _ => match c.kind with
    | .atom _ _ _ _ _ _ _ => [.atomPerform core c.seq]
    | .sigadd _ _ => [.sigaddPerform core c.seq]
    | .qapp _ _ _ => [.qappPerform core c.seq]
    | .bmset _ _ => [.bmsetPerform core c.seq]
    | _ => []
  | _ => match c.kind with
    | .cpy _ _ _ _ => [.cpyPerform core c.seq]
    | .gath _ _ _ _ _ => [.gathPerform core c.seq]
    | .qapp _ _ _ => [.qappPerform core c.seq]
    | .atom _ _ _ _ _ _ _ => [.atomPerform core c.seq]
    | .seal _ _ _ => [.sealPerform core c.seq]
    | .unseal _ _ _ => [.unsealPerform core c.seq]
    | .sigadd _ _ => [.sigaddPerform core c.seq]
    | .kvref _ _ _ => [.cpyPerform core c.seq]
    | .kvapp _ _ _ _ _ => [.kvappPerform core c.seq]
    | .kvrej _ _ _ => [.kvrejPerform core c.seq]
    | .kvcommit _ _ => [.kvcommitPerform core c.seq]
    | .kvfree _ _ => [.kvfreePerform core c.seq]
    | .gzclaim _ _ _ _ => [.gzclaimPerform core c.seq]
    | .gzjoin _ _ _ => [.gzjoinPerform core c.seq]
    | .gzfind _ _ _ => [.gzfindPerform core c.seq]
    | .larm _ _ _ => [.larmPerform core c.seq]
    | .lpatch _ _ _ _ _ => [.lpatchPerform core c.seq]
    | .cancel _ _ _ _ _ => [.cancelPerform core c.seq]
    | .bmset _ _ => [.bmsetPerform core c.seq]
    | .fence _ _ => []
    | .sfence => [.sfenceComplete core c.seq]
    | .srel _ _ => []
    | .errinj _ _ _ _ _ => []

/-- The steps of one context. -/
def ctxSteps (s : State) (core x : Nat) : List Instr :=
  let c := s.ctx core x
  match c.run with
  | .free => []
  | .placing => [.placement core x]
  | .running =>
    [.bundleIssue core] ++
    (match fetch s core x with
     | .wait => [.segmentFetch core x, .dictLoad core x]
     | _ => []) ++
    (if Config.longWait ≤ c.clock then [.longWaitSuspend core x] else []) ++
    (if c.preempt || c.leaseStop then [.pinnedPreemption core x] else [])
  | .suspending _ => [.bundleIssue core, .suspensionComplete core x]
  | .removing _ => [.removal core x]
  | .takeOff => .bundleIssue core :: (if Config.longWait ≤ c.clock then [.rollbackTakeOffRetry core x] else [])

/-- Steps of a ring's packets, those taken up and the next one. -/
def packetSteps (s : State) (v : RingRun) : List Instr :=
  let go := fun (p : Nat) (i : Word) =>
    if packetBad p then [Instr.malformedPacket v.r i]
    else match pkType p with
      | 1 => [.nop v.r i]
      | 2 => [.copy v.r i]
      | 3 => [.gather v.r i]
      | 4 => [.scatter v.r i]
      | 5 => [.launch v.r i]
      | 6 => [.barrier v.r i]
      | 7 => [.signal v.r i]
      | 8 => [.atomic v.r i]
      | _ => match kvOp p with
        | 0 => [.fetch v.r i]
        | 1 => [.store v.r i]
        | 2 => [.spill v.r i]
        | _ => [.preload v.r i]
  (v.pkts.filter Pkt.open).flatMap (fun q => match q.phase with
    | .waiting => [.packetWaitRetest v.r q.index]
    | .nvme _ => []
    | .claimed _ _ => if pkType q.bits.toNat = 6 then [.barrierRound v.r q.index] else go q.bits.toNat q.index
    | _ => go q.bits.toNat q.index) ++
  (match ringNext s v.r with
   | some (d, u) => match slotKey s v.r d u with
     | some k => if slotBroken s k then [.malformedPacket v.r (BitVec.ofNat 64 u)]
         else go (leNat (s.bytes k 64)) (BitVec.ofNat 64 u)
     | none => [.malformedPacket v.r (BitVec.ofNat 64 u)]
   | none => if (ringDesc s v.r).isNone && v.fault.isNone then [.malformedPacket v.r 0] else [])

/-- Steps of a cluster. -/
def clusterSteps (s : State) (cl : Nat) : List Instr :=
  let k := s.cluster cl
  (match k.power with
   | .entering _ => [.clusterEntryComplete cl]
   | .waking _ => [.clusterWakeDone cl]
   | .run => if 0 < k.decideDue then [.decide cl] else []
   | _ => if wakeWanted s cl then [.clusterWake cl] else []) ++
  (if k.work.isSome then [.spareInService cl] else [])

/-- Happenings of the device's own that may come next. -/
def candidates (s : State) : List Instr :=
  s.cores.flatMap (fun c => ctxSteps s c.1 0 ++ ctxSteps s c.1 1 ++ c.2.cmds.flatMap (cmdStep c.1)) ++
  (List.range 16).flatMap (clusterSteps s) ++ surveySteps s ++ s.rings.flatMap (packetSteps s) ++
  (s.jobs.flatMap (fun j => (jobRecords s j.1).filterMap (fun va => match readRecord s j.1 va with
    | some r => if crState r = usWaiting then some (Instr.waitSatisfied j.1 va) else none
    | none => none))) ++
  (if s.sheets.busy then [.sheetRehashSwitch] else []) ++ (s.moveReqs.filter (fun q => q.phase == .due || q.phase == .granted || q.phase == .arrived)).map (fun q => .pageMove q.asid q.va q.peer) ++
  s.tenants.flatMap (fun t => match t.2 with
    | some d => (List.range (2 ^ tdTableLog2 d.toNat)).filterMap (fun i =>
        let e := readEntry s d.toNat i
        if (heState e == 2 || heState e == 3) && heFlight e == 0 then some (Instr.handleEnd t.1 i) else none)
    | none => []) ++
  (match s.txn with
   | some t => if t.begun then [] else [.journalTxnStart]
   | none => []) ++
  s.sessions.flatMap (fun v => if v.2.up && v.2.rung then [.doorbell v.1 0] else [])

/-- The next of them in turn; an idle device stretches its clocks. -/
def nextOwn (s : State) : Instr :=
  let l := candidates s
  (l[s.turn % l.length]?).getD .droop

/-- The unit that a loader leaves on context 0 of core 0: it runs from offset 32 of segment 0 (log entry 7). -/
def loadedCtx (cart : BitVec 512) : Ctx :=
  { Ctx.reset with
    run := .running
    arch := Arch.reset 32
    shadow := Arch.reset 32
    ckpt := BitVec.ofNat 64 (2 ^ 63 + 32)
    cart := cart }

/-- Cartouche of that segment: the D940's latencies, every buffer whole (R59, R63). -/
def loadedCart : BitVec 512 :=
  BitVec.ofNat 512 (2 ^ 486 + 2 ^ 485 + joinElems 8 Config.d940Latency * 2 ^ 352 + 4096 * 2 ^ 336 + 8192 * 2 ^ 304 + 16384 * 2 ^ 272)

/-- Index words of a literal bundle from word 32 on (R55). -/
def literalWords (bits : Nat) : Tab (BitVec 16) :=
  (32, 0xFFFF) :: (List.range 24).filterMap (fun j =>
    let w := BitVec.ofNat 16 (elem bits 16 j)
    if w = 0 then none else some (33 + j, w))

/-- A device whose core 0 holds the bundle where context 0 fetches next, and whose next happening is that core's issue. -/
def loadBundle (s : State) (bits : Nat) : State :=
  let c := s.core 0
  let seg : Seg := { asid := jobAsid s 0, codeBase := 0, num := 0, cart := loadedCart, words := literalWords bits }
  { s.setCore 0 { c with ctx0 := loadedCtx loadedCart, segs := [seg] } with agenda := [.bundleIssue 0] }

end Sys2Proof.Machine
end

