-- ==== Sys2Proof/Machine/Debug.lean ====
section
/-! DEFINITION. Debug stepping and state reads (R375), freeze and thaw (R383, R416), injections (R223), status (R26). -/
namespace Sys2Proof.Machine

/-- STEP (R375), held while the device is in HOLD (R384). -/
def execStep (m : Msg) (core x ticks : Nat) (s : State) : Res :=
  .next (if s.power = .hold && !s.lastSheetLost && (s.session m.session).up then
      { s with heldSteps := s.heldSteps ++ [(m, core, x, ticks)] }
    else stepRequest s m core x ticks)

/-- HALT. -/
def execHalt (m : Msg) (core x : Nat) (s : State) : Res :=
  .next (request s m debugReq (fun s => withCtx s m core x (fun c =>
    if !c.mode.getLsbD 0 || c.frozen || c.run ≠ .running then answer s m rState
    else answer (s.setCtx core x { c with steps := 0, halted := true }) m rOk)))

/-- What a state read of a confidential context shows: four words, at places that the spec does not give (log entry 2),
in a frame of zeros. -/
def coveredFrame (c : Ctx) : List Byte :=
  ([c.cause, c.tval, c.ckpt, c.arch.tick].zipIdx 0).foldl (fun (l : List Byte) (w : Word × Nat) =>
    let at' := 8 * (Config.stateReadPlace w.2 % 18432)
    l.take at' ++ leBytes 8 w.1.toNat ++ l.drop (at' + 8)) (List.replicate Config.frameBytes 0)

/-- STATE_READ: a frame of the job's pool takes the state, with what is due at the next tick landed, and the reply its address
(R375). -/
def execStateRead (m : Msg) (core x : Nat) (s : State) : Res :=
  .next (request s m debugReq (fun s => withCtx s m core x (fun c =>
    match frameFor s m.job with
    | (s1, none) => answer s1 m rRoom
    | (s1, some fr) =>
      let seen := (landAll s1 core x false).ctx core x
      reply (writeFrame s1 m.job fr (if confJob s m.job then coveredFrame c else frameBytes c seen.arch [])) m rOk (wordBytes [fr]))))

/-- INJECT (R223): the host arms an array's register as ERRINJ does. -/
def execInject (m : Msg) (array addr : Nat) (mask : Word) (kind : Nat) (now : Bool) (s : State) : Res :=
  .next (request s m ⟨true, true, false, false⟩ (fun s =>
    if !injectOk array addr kind then answer s m rField
    else answer (armInjection s array addr mask kind now) m rOk))

/-! THAW and REMOVE. -/

/-- The unit of a job that is frozen off the context named. -/
def awayUnit (s : State) (job core x : Nat) : Option FrozenUnit := match s.job job with
  | some j => j.frozenUnits.find? (fun f => f.place == some (core, x))
  | none => none

/-- A context names its own unit while that is frozen, else the unit of the message's job frozen off it (R383). -/
def masterAway (s : State) (m : Msg) (core x : Nat) : Option FrozenUnit :=
  if (s.ctx core x).frozen then none else awayUnit s m.job core x

/-- The job that a master acts for. -/
def masterJob (s : State) (m : Msg) : Master → Nat
  | .context c x => if (masterAway s m c x).isSome then m.job else (s.ctx c x).job
  | .channel _ _ => m.job
  | .ring r => r.job
  | .requester _ => m.job

/-- A master that is frozen. -/
def masterFrozen (s : State) (m : Msg) : Master → Bool
  | .context c x => (s.ctx c x).frozen || (masterAway s m c x).isSome
  | .channel c ch => Tab.get false (s.core c).chFrozen ch
  | .ring r => (findRing s r).frozen
  | .requester n => (s.session n).frozen.contains m.job

/-- A channel takes up commands again. -/
def thawChannel (s : State) (core ch : Nat) : State :=
  let co := s.core core
  s.setCore core { co with chFrozen := Tab.set false co.chFrozen ch false }
/-- A ring takes up packets again. -/
def thawRing (s : State) (r : RingRef) : State :=
  let v := findRing s r
  setRing s { v with frozen := false }

/-- A unit frozen off its context no longer counts as frozen. -/
def dropFrozen (s : State) (job va : Nat) : State := match s.job job with
  | some j => s.setJob job (some { j with frozenUnits := j.frozenUnits.filter (fun f => f.recAddr != va) })
  | none => s

/-- A unit frozen off its context ends CANCELLED (R36): its commands are flushed, its launch's counter falls (R374). -/
def removeAway (s : State) (job : Nat) (f : FrozenUnit) : State :=
  let s1 := s.cores.foldl (fun t k =>
    (k.2.cmds.filter (fun c => c.job == job && c.owner == f.recAddr)).reverse.foldl (fun u c => flushCmd u k.1 c 0x13) t)
    (dropFrozen s job f.recAddr)
  match readRecord s1 job f.recAddr with
  | some r => unitEnded (writeRecord (unreserve s1 job f.recAddr) job f.recAddr (crSet r usCancelled 5)) job (crLaunch r) none true
  | none => s1

/-- A unit frozen off its context goes on from the state it had before the freeze, or ends CANCELLED where a cancel has arrived
meanwhile (R36). -/
def thawAway (s : State) (job : Nat) (f : FrozenUnit) : State :=
  if f.cancel then removeAway s job f
  else
    let s1 := dropFrozen s job f.recAddr
    match readRecord s1 job f.recAddr with
    | some r => releaseUnits (settleStop (writeRecord s1 job f.recAddr (crSet r f.before (crReason r))) job f.recAddr) job
    | none => s1

/-- A context goes on where it stopped; one that a cancel has reached is removed by its own step (R36). A cluster in DOZE is not woken
for it: it issues once the cluster is in RUN again (log entry 74). -/
def thawCtx (s : State) (core x : Nat) : State :=
  let c := s.ctx core x
  let s1 := s.setCtx core x { c with frozen := false }
  match readRecord s1 c.job c.recAddr with
  | some r => writeRecord s1 c.job c.recAddr (crSet r usRunning (crReason r))
  | none => s1

/-- The unit of a context, or the one frozen off it, goes on (R36). -/
def thawUnit (s : State) (m : Msg) (core x : Nat) : State := match masterAway s m core x with
  | some f => thawAway s m.job f
  | none => thawCtx s core x

/-- A context that stays frozen while its job's TDI is in ERROR (R412). -/
def heldInError (s : State) (m : Msg) : Master → Bool
  | .context _ _ => tdiOf s m.job == some .error
  | .channel _ _ => false
  | .ring _ => false
  | .requester _ => false

/-- THAW (R383): refused for a master that is not frozen, and for a context while the job's TDI is in ERROR (R412). -/
def execThaw (m : Msg) (who : Master) (s : State) : Res :=
  .next (request s m thawReq (fun s =>
    if masterJob s m who ≠ m.job then answer s m rField
    else if !masterFrozen s m who || heldInError s m who then answer s m rState
    else
      let s1 := match who with
        | .context c x => thawUnit s m c x
        | .channel c ch => thawChannel s c ch
        | .ring r => thawRing s r
        | .requester n =>
          let v := s.session n
          s.setSession n { v with frozen := v.frozen.filter (· != m.job) }
      answer s1 m rOk))

/-- Commands of a channel are flushed from the newest (R374). -/
def flushChannel (s : State) (core ch : Nat) : State :=
  (((s.core core).cmds.filter (fun c => c.hasId && c.ch == ch)).reverse).foldl (fun t c => flushCmd t core c 0x13) s

/-- REMOVE (R374, R383, R416): of a context that is frozen or stepped, of a frozen channel or ring; a frozen host requester is removed by
the end of its session (log entry 40). -/
def execRemove (m : Msg) (who : Master) (s : State) : Res :=
  .next (request s m plainReq (fun s =>
    if masterJob s m who ≠ m.job then answer s m rField
    else match who with
      | .requester n =>
        if !masterFrozen s m who then answer s m rState else (answer s m rOk).setSession n Session.none
      | .context c x =>
        let k := s.ctx c x
        match masterAway s m c x with
        | some f => answer (removeAway s m.job f) m rOk
        | none => if !k.live || !(k.frozen || k.mode.getLsbD 0) then answer s m rState
        else answer (removeCtx (s.setCtx c x { k with frozen := false, run := .removing .removed }) c x) m rOk
      | .channel c ch =>
        if !masterFrozen s m who then answer s m rState else answer (thawChannel (flushChannel s c ch) c ch) m rOk
      | .ring r =>
        if !masterFrozen s m who then answer s m rState else answer (thawRing (abortPackets s r 0x13) r) m rOk))

/-! STATUS_READ. -/

/-- Code of a cluster's power state in a status message. -/
def powerCode : ClusterPower → Nat
  | .run => 0 | .doze => 1 | .off => 2 | .entering false => 3 | .entering true => 4 | .waking false => 5 | .waking true => 6

/-- STATUS_READ (R26, R409): power state, degraded state, capacity, scores, wear; performed even when the last sheet is
lost (R382). -/
def execStatusRead (m : Msg) (s : State) : Res :=
  let t := if s.lastSheetLost && s.power == .hold then { s with lastSheetLost := false, power := .on } else s
  .next (request t m plainReq (fun t => reply t m rOk (wordBytes
    ((List.range 16).map (fun c => powerCode (s.cluster c).power) ++
     [b2n s.ret.replacement, s.sheets.live.length] ++ (List.range 16).map (capacityOf s) ++
     (s.scores.flatMap (fun c => [c.1, c.2.toNat])) ++ (s.wear.flatMap (fun c => [c.1, c.2.toNat])))))
    |> fun (u : State) => { u with lastSheetLost := s.lastSheetLost, power := s.power })

end Sys2Proof.Machine
end

