-- ==== Sys2Proof/Machine/Dispatch.lean ====
section
/-! DEFINITION. One arm for each row of opcode_table.json: its meaning. -/
namespace Sys2Proof.Machine

def exec (i : Instr) (s : State) : Host.Outcome State Fault Refusal :=
  match i with
  | .bundleIssue core => Sys2Proof.Machine.execBundleIssue core s
  | .resultLanding core ctx trip => Sys2Proof.Machine.execResultLanding core ctx trip s
  | .removal core ctx => Sys2Proof.Machine.execRemoval core ctx s
  | .longWaitSuspend core ctx => Sys2Proof.Machine.execLongWaitSuspend core ctx s
  | .waitSatisfied job rec => Sys2Proof.Machine.execWaitSatisfied job rec s
  | .decide cluster => Sys2Proof.Machine.execDecide cluster s
  | .placement core ctx => Sys2Proof.Machine.execPlacement core ctx s
  | .pinnedPreemption core ctx => Sys2Proof.Machine.execPinnedPreemption core ctx s
  | .suspensionComplete core ctx => Sys2Proof.Machine.execSuspensionComplete core ctx s
  | .dictLoad core ctx => Sys2Proof.Machine.execDictLoad core ctx s
  | .segmentFetch core ctx => Sys2Proof.Machine.execSegmentFetch core ctx s
  | .transferComplete core seq => Sys2Proof.Machine.execTransferComplete core seq s
  | .streamElementArrival core seq => Sys2Proof.Machine.execStreamElementArrival core seq s
  | .copyRetry core seq => Sys2Proof.Machine.execCopyRetry core seq s
  | .nop r index => Sys2Proof.Machine.execNop r index s
  | .copy r index => Sys2Proof.Machine.execCopy r index s
  | .gather r index => Sys2Proof.Machine.execGather r index s
  | .scatter r index => Sys2Proof.Machine.execScatter r index s
  | .launch r index => Sys2Proof.Machine.execLaunch r index s
  | .barrier r index => Sys2Proof.Machine.execBarrier r index s
  | .barrierRound r index => Sys2Proof.Machine.execBarrierRound r index s
  | .signal r index => Sys2Proof.Machine.execSignal r index s
  | .atomic r index => Sys2Proof.Machine.execAtomic r index s
  | .fetch r index => Sys2Proof.Machine.execFetch r index s
  | .store r index => Sys2Proof.Machine.execStore r index s
  | .spill r index => Sys2Proof.Machine.execSpill r index s
  | .preload r index => Sys2Proof.Machine.execPreload r index s
  | .packetWaitRetest r index => Sys2Proof.Machine.execPacketWaitRetest r index s
  | .hostInboundRequest r => Sys2Proof.Machine.execHostInboundRequest r s
  | .peerInboundRequest r => Sys2Proof.Machine.execPeerInboundRequest r s
  | .pageMove asid va peer => Sys2Proof.Machine.execPageMove asid va peer s
  | .flitReceive link f => Sys2Proof.Machine.execFlitReceive link f s
  | .linkMacFailure link => Sys2Proof.Machine.execLinkMacFailure link s
  | .linkRetrainComplete link => Sys2Proof.Machine.execLinkRetrainComplete link s
  | .nvmeCompletion drive sct sc => Sys2Proof.Machine.execNvmeCompletion drive sct sc s
  | .driveUnresponsive drive => Sys2Proof.Machine.execDriveUnresponsive drive s
  | .doorbell session value => Sys2Proof.Machine.execDoorbell session value s
  | .barWriteIgnored off value => Sys2Proof.Machine.execBarWriteIgnored off value s
  | .jobCreate m desc => Sys2Proof.Machine.execJobCreate m desc s
  | .jobRemove m => Sys2Proof.Machine.execJobRemove m s
  | .poolBuild m first recs => Sys2Proof.Machine.execPoolBuild m first recs s
  | .ringCreate m addr desc => Sys2Proof.Machine.execRingCreate m addr desc s
  | .ringReset m addr => Sys2Proof.Machine.execRingReset m addr s
  | .ringRemove m addr => Sys2Proof.Machine.execRingRemove m addr s
  | .windowsSet m entries => Sys2Proof.Machine.execWindowsSet m entries s
  | .asidSet m asid entry => Sys2Proof.Machine.execAsidSet m asid entry s
  | .invalidate m asid va len => Sys2Proof.Machine.execInvalidate m asid va len s
  | .arm m slot => Sys2Proof.Machine.execArm m slot s
  | .levelArm m addr count parent => Sys2Proof.Machine.execLevelArm m addr count parent s
  | .hostCancel m level addr hard => Sys2Proof.Machine.execHostCancel m level addr hard s
  | .placementPause m => Sys2Proof.Machine.execPlacementPause m s
  | .placementResume m => Sys2Proof.Machine.execPlacementResume m s
  | .manifestLoad m dict codeBase manifest => Sys2Proof.Machine.execManifestLoad m dict codeBase manifest s
  | .mapx m manifest pages => Sys2Proof.Machine.execMapx m manifest pages s
  | .unmap m pages => Sys2Proof.Machine.execUnmap m pages s
  | .tenantCreate m pool => Sys2Proof.Machine.execTenantCreate m pool s
  | .tenantGrant m tenant => Sys2Proof.Machine.execTenantGrant m tenant s
  | .tenantCancel m tenant => Sys2Proof.Machine.execTenantCancel m tenant s
  | .handleEnd tenant slot => Sys2Proof.Machine.execHandleEnd tenant slot s
  | .gzEvict m tenant bucket => Sys2Proof.Machine.execGzEvict m tenant bucket s
  | .modelBegin m kind model cores jobs => Sys2Proof.Machine.execModelBegin m kind model cores jobs s
  | .journalTxnStart => Sys2Proof.Machine.execJournalTxnStart s
  | .modelRows m rows => Sys2Proof.Machine.execModelRows m rows s
  | .modelCommit m => Sys2Proof.Machine.execModelCommit m s
  | .intervalMark m base entries => Sys2Proof.Machine.execIntervalMark m base entries s
  | .step m core ctx ticks => Sys2Proof.Machine.execStep m core ctx ticks s
  | .halt m core ctx => Sys2Proof.Machine.execHalt m core ctx s
  | .stateRead m core ctx => Sys2Proof.Machine.execStateRead m core ctx s
  | .thaw m who => Sys2Proof.Machine.execThaw m who s
  | .remove m who => Sys2Proof.Machine.execRemove m who s
  | .migrateOut m => Sys2Proof.Machine.execMigrateOut m s
  | .migrateIn m bundle intact => Sys2Proof.Machine.execMigrateIn m bundle intact s
  | .migrationAck job accepted => Sys2Proof.Machine.execMigrationAck job accepted s
  | .migrateConfirm m restart => Sys2Proof.Machine.execMigrateConfirm m restart s
  | .inject m array addr mask kind now => Sys2Proof.Machine.execInject m array addr mask kind now s
  | .floorsSet m cores channels links => Sys2Proof.Machine.execFloorsSet m cores channels links s
  | .replacementClear m => Sys2Proof.Machine.execReplacementClear m s
  | .sysjobSet m on => Sys2Proof.Machine.execSysjobSet m on s
  | .poisonEnable m on => Sys2Proof.Machine.execPoisonEnable m on s
  | .statusRead m => Sys2Proof.Machine.execStatusRead m s
  | .safeCheckpoint m => Sys2Proof.Machine.execSafeCheckpoint m s
  | .checkpointDone job ok => Sys2Proof.Machine.execCheckpointDone job ok s
  | .safeRestore m => Sys2Proof.Machine.execSafeRestore m s
  | .restoreDone job => Sys2Proof.Machine.execRestoreDone job s
  | .linkRekey m link => Sys2Proof.Machine.execLinkRekey m link s
  | .refusalRing m addr => Sys2Proof.Machine.execRefusalRing m addr s
  | .lockInterface m => Sys2Proof.Machine.execLockInterface m s
  | .startInterface m => Sys2Proof.Machine.execStartInterface m s
  | .stopInterface m => Sys2Proof.Machine.execStopInterface m s
  | .droop => Sys2Proof.Machine.execDroop s
  | .trimStepDown cluster => Sys2Proof.Machine.execTrimStepDown cluster s
  | .holdEntry => Sys2Proof.Machine.execHoldEntry s
  | .holdExit => Sys2Proof.Machine.execHoldExit s
  | .reserveFloor => Sys2Proof.Machine.execReserveFloor s
  | .powerUp firmwareOk => Sys2Proof.Machine.execPowerUp firmwareOk s
  | .transportShock => Sys2Proof.Machine.execTransportShock s
  | .clusterEnterDoze cluster => Sys2Proof.Machine.execClusterEnterDoze cluster s
  | .clusterEnterOff cluster => Sys2Proof.Machine.execClusterEnterOff cluster s
  | .clusterWake cluster => Sys2Proof.Machine.execClusterWake cluster s
  | .clusterWakeDone cluster => Sys2Proof.Machine.execClusterWakeDone cluster s
  | .surveyLease c => Sys2Proof.Machine.execSurveyLease c s
  | .surveyPass c errors => Sys2Proof.Machine.execSurveyPass c errors s
  | .surveyMismatch c reason => Sys2Proof.Machine.execSurveyMismatch c reason s
  | .scoreHalving domain => Sys2Proof.Machine.execScoreHalving domain s
  | .sheetFailure sheet => Sys2Proof.Machine.execSheetFailure sheet s
  | .sheetRehashSwitch => Sys2Proof.Machine.execSheetRehashSwitch s
  | .j f => Sys2Proof.Machine.execJ f s
  | .jr f => Sys2Proof.Machine.execJr f s
  | .call f => Sys2Proof.Machine.execCall f s
  | .ret f => Sys2Proof.Machine.execRet f s
  | .loop f => Sys2Proof.Machine.execLoop f s
  | .lbrk f => Sys2Proof.Machine.execLbrk f s
  | .bsel f => Sys2Proof.Machine.execBsel f s
  | .lendC f => Sys2Proof.Machine.execLendC f s
  | .lendV f => Sys2Proof.Machine.execLendV f s
  | .suspend f => Sys2Proof.Machine.execSuspend f s
  | .yield f => Sys2Proof.Machine.execYield f s
  | .trap f => Sys2Proof.Machine.execTrap f s
  | .brk f => Sys2Proof.Machine.execBrk f s
  | .sysr f => Sys2Proof.Machine.execSysr f s
  | .sysw f => Sys2Proof.Machine.execSysw f s
  | .icinv f => Sys2Proof.Machine.execIcinv f s
  | .tick f => Sys2Proof.Machine.execTick f s
  | .idle f => Sys2Proof.Machine.execIdle f s
  | .add f => Sys2Proof.Machine.execAdd f s
  | .sub f => Sys2Proof.Machine.execSub f s
  | .mul f => Sys2Proof.Machine.execMul f s
  | .mulh f => Sys2Proof.Machine.execMulh f s
  | .mulhn f => Sys2Proof.Machine.execMulhn f s
  | .div f => Sys2Proof.Machine.execDiv f s
  | .rem f => Sys2Proof.Machine.execRem f s
  | .and f => Sys2Proof.Machine.execAnd f s
  | .or f => Sys2Proof.Machine.execOr f s
  | .xor f => Sys2Proof.Machine.execXor f s
  | .andn f => Sys2Proof.Machine.execAndn f s
  | .shl f => Sys2Proof.Machine.execShl f s
  | .shr f => Sys2Proof.Machine.execShr f s
  | .sar f => Sys2Proof.Machine.execSar f s
  | .min f => Sys2Proof.Machine.execMin f s
  | .max f => Sys2Proof.Machine.execMax f s
  | .minn f => Sys2Proof.Machine.execMinn f s
  | .maxn f => Sys2Proof.Machine.execMaxn f s
  | .clz f => Sys2Proof.Machine.execClz f s
  | .ctz f => Sys2Proof.Machine.execCtz f s
  | .popc f => Sys2Proof.Machine.execPopc f s
  | .sext f => Sys2Proof.Machine.execSext f s
  | .zext f => Sys2Proof.Machine.execZext f s
  | .sel f => Sys2Proof.Machine.execSel f s
  | .maddr f => Sys2Proof.Machine.execMaddr f s
  | .addi f => Sys2Proof.Machine.execAddi f s
  | .andi f => Sys2Proof.Machine.execAndi f s
  | .ori f => Sys2Proof.Machine.execOri f s
  | .xori f => Sys2Proof.Machine.execXori f s
  | .shli f => Sys2Proof.Machine.execShli f s
  | .shri f => Sys2Proof.Machine.execShri f s
  | .sari f => Sys2Proof.Machine.execSari f s
  | .li f => Sys2Proof.Machine.execLi f s
  | .lih f => Sys2Proof.Machine.execLih f s
  | .cmp f => Sys2Proof.Machine.execCmp f s
  | .cmpi f => Sys2Proof.Machine.execCmpi f s
  | .pand f => Sys2Proof.Machine.execPand f s
  | .por f => Sys2Proof.Machine.execPor f s
  | .pxor f => Sys2Proof.Machine.execPxor f s
  | .pset f => Sys2Proof.Machine.execPset f s
  | .lda f => Sys2Proof.Machine.execLda f s
  | .sta f => Sys2Proof.Machine.execSta f s
  | .ldc f => Sys2Proof.Machine.execLdc f s
  | .stc f => Sys2Proof.Machine.execStc f s
  | .ldw f => Sys2Proof.Machine.execLdw f s
  | .vadd f => Sys2Proof.Machine.execVadd f s
  | .vsub f => Sys2Proof.Machine.execVsub f s
  | .vmul f => Sys2Proof.Machine.execVmul f s
  | .vfma f => Sys2Proof.Machine.execVfma f s
  | .vfms f => Sys2Proof.Machine.execVfms f s
  | .vmin f => Sys2Proof.Machine.execVmin f s
  | .vmax f => Sys2Proof.Machine.execVmax f s
  | .vabs f => Sys2Proof.Machine.execVabs f s
  | .vneg f => Sys2Proof.Machine.execVneg f s
  | .vexp2 f => Sys2Proof.Machine.execVexp2 f s
  | .vlog2 f => Sys2Proof.Machine.execVlog2 f s
  | .vrcp f => Sys2Proof.Machine.execVrcp f s
  | .vrsq f => Sys2Proof.Machine.execVrsq f s
  | .vcvt f => Sys2Proof.Machine.execVcvt f s
  | .vpack f => Sys2Proof.Machine.execVpack f s
  | .vunpk f => Sys2Proof.Machine.execVunpk f s
  | .vbscl f => Sys2Proof.Machine.execVbscl f s
  | .viadd f => Sys2Proof.Machine.execViadd f s
  | .visub f => Sys2Proof.Machine.execVisub f s
  | .vimul f => Sys2Proof.Machine.execVimul f s
  | .vand f => Sys2Proof.Machine.execVand f s
  | .vor f => Sys2Proof.Machine.execVor f s
  | .vxor f => Sys2Proof.Machine.execVxor f s
  | .vshl f => Sys2Proof.Machine.execVshl f s
  | .vshr f => Sys2Proof.Machine.execVshr f s
  | .vsar f => Sys2Proof.Machine.execVsar f s
  | .vcmp f => Sys2Proof.Machine.execVcmp f s
  | .vicmp f => Sys2Proof.Machine.execVicmp f s
  | .vsel f => Sys2Proof.Machine.execVsel f s
  | .vbcst f => Sys2Proof.Machine.execVbcst f s
  | .vmovs f => Sys2Proof.Machine.execVmovs f s
  | .vperm f => Sys2Proof.Machine.execVperm f s
  | .vrot f => Sys2Proof.Machine.execVrot f s
  | .vrsum f => Sys2Proof.Machine.execVrsum f s
  | .vrmax f => Sys2Proof.Machine.execVrmax f s
  | .vrmin f => Sys2Proof.Machine.execVrmin f s
  | .vscan f => Sys2Proof.Machine.execVscan f s
  | .vkey f => Sys2Proof.Machine.execVkey f s
  | .vhist f => Sys2Proof.Machine.execVhist f s
  | .vlda f => Sys2Proof.Machine.execVlda f s
  | .vsta f => Sys2Proof.Machine.execVsta f s
  | .vldc f => Sys2Proof.Machine.execVldc f s
  | .vstc f => Sys2Proof.Machine.execVstc f s
  | .vglda f => Sys2Proof.Machine.execVglda f s
  | .vmovq f => Sys2Proof.Machine.execVmovq f s
  | .kand f => Sys2Proof.Machine.execKand f s
  | .kor f => Sys2Proof.Machine.execKor f s
  | .knot f => Sys2Proof.Machine.execKnot f s
  | .kset f => Sys2Proof.Machine.execKset f s
  | .kpop f => Sys2Proof.Machine.execKpop f s
  | .mlat f => Sys2Proof.Machine.execMlat f s
  | .mlata f => Sys2Proof.Machine.execMlata f s
  | .mlatq f => Sys2Proof.Machine.execMlatq f s
  | .mma f => Sys2Proof.Machine.execMma f s
  | .mmav f => Sys2Proof.Machine.execMmav f s
  | .mconv f => Sys2Proof.Machine.execMconv f s
  | .mshape f => Sys2Proof.Machine.execMshape f s
  | .mpad f => Sys2Proof.Machine.execMpad f s
  | .mset f => Sys2Proof.Machine.execMset f s
  | .mzero f => Sys2Proof.Machine.execMzero f s
  | .mdrain f => Sys2Proof.Machine.execMdrain f s
  | .dot f => Sys2Proof.Machine.execDot f s
  | .dotacc f => Sys2Proof.Machine.execDotacc f s
  | .cpy f => Sys2Proof.Machine.execCpy f s
  | .cpyPerform core seq => Sys2Proof.Machine.execCpyPerform core seq s
  | .sbind f => Sys2Proof.Machine.execSbind f s
  | .srel f => Sys2Proof.Machine.execSrel f s
  | .gath f => Sys2Proof.Machine.execGath f s
  | .gathPerform core seq => Sys2Proof.Machine.execGathPerform core seq s
  | .gidx f => Sys2Proof.Machine.execGidx f s
  | .qapp f => Sys2Proof.Machine.execQapp f s
  | .qappPerform core seq => Sys2Proof.Machine.execQappPerform core seq s
  | .atom f => Sys2Proof.Machine.execAtom f s
  | .atomPerform core seq => Sys2Proof.Machine.execAtomPerform core seq s
  | .fence f => Sys2Proof.Machine.execFence f s
  | .sfence f => Sys2Proof.Machine.execSfence f s
  | .sfenceComplete core seq => Sys2Proof.Machine.execSfenceComplete core seq s
  | .semset f => Sys2Proof.Machine.execSemset f s
  | .semadd f => Sys2Proof.Machine.execSemadd f s
  | .semwt f => Sys2Proof.Machine.execSemwt f s
  | .tbarm f => Sys2Proof.Machine.execTbarm f s
  | .tbexp f => Sys2Proof.Machine.execTbexp f s
  | .tbwait f => Sys2Proof.Machine.execTbwait f s
  | .xidrd f => Sys2Proof.Machine.execXidrd f s
  | .xidwt f => Sys2Proof.Machine.execXidwt f s
  | .sigadd f => Sys2Proof.Machine.execSigadd f s
  | .sigaddPerform core seq => Sys2Proof.Machine.execSigaddPerform core seq s
  | .sigwt f => Sys2Proof.Machine.execSigwt f s
  | .larm f => Sys2Proof.Machine.execLarm f s
  | .larmPerform core seq => Sys2Proof.Machine.execLarmPerform core seq s
  | .lpatch f => Sys2Proof.Machine.execLpatch f s
  | .lpatchPerform core seq => Sys2Proof.Machine.execLpatchPerform core seq s
  | .cancel f => Sys2Proof.Machine.execCancel f s
  | .cancelPerform core seq => Sys2Proof.Machine.execCancelPerform core seq s
  | .bmset f => Sys2Proof.Machine.execBmset f s
  | .bmsetPerform core seq => Sys2Proof.Machine.execBmsetPerform core seq s
  | .bmwait f => Sys2Proof.Machine.execBmwait f s
  | .kvref f => Sys2Proof.Machine.execKvref f s
  | .kvapp f => Sys2Proof.Machine.execKvapp f s
  | .kvappPerform core seq => Sys2Proof.Machine.execKvappPerform core seq s
  | .kvrej f => Sys2Proof.Machine.execKvrej f s
  | .kvrejPerform core seq => Sys2Proof.Machine.execKvrejPerform core seq s
  | .kvcommit f => Sys2Proof.Machine.execKvcommit f s
  | .kvcommitPerform core seq => Sys2Proof.Machine.execKvcommitPerform core seq s
  | .kvfree f => Sys2Proof.Machine.execKvfree f s
  | .kvfreePerform core seq => Sys2Proof.Machine.execKvfreePerform core seq s
  | .gzclaim f => Sys2Proof.Machine.execGzclaim f s
  | .gzclaimPerform core seq => Sys2Proof.Machine.execGzclaimPerform core seq s
  | .gzjoin f => Sys2Proof.Machine.execGzjoin f s
  | .gzjoinPerform core seq => Sys2Proof.Machine.execGzjoinPerform core seq s
  | .gzfind f => Sys2Proof.Machine.execGzfind f s
  | .gzfindPerform core seq => Sys2Proof.Machine.execGzfindPerform core seq s
  | .seal f => Sys2Proof.Machine.execSeal f s
  | .sealPerform core seq => Sys2Proof.Machine.execSealPerform core seq s
  | .unseal f => Sys2Proof.Machine.execUnseal f s
  | .unsealPerform core seq => Sys2Proof.Machine.execUnsealPerform core seq s
  | .errinj f => Sys2Proof.Machine.execErrinj f s
  | .clusterEntryComplete cluster => Sys2Proof.Machine.execClusterEntryComplete cluster s
  | .malformedPacket r index => Sys2Proof.Machine.execMalformedPacket r index s
  | .linkDown link => Sys2Proof.Machine.execLinkDown link s
  | .hostPortNotDelivering => Sys2Proof.Machine.execHostPortNotDelivering s
  | .ideStreamFailure job => Sys2Proof.Machine.execIdeStreamFailure job s
  | .spdmSessionEstablish session job reqRing evRing => Sys2Proof.Machine.execSpdmSessionEstablish session job reqRing evRing s
  | .spareInService cluster => Sys2Proof.Machine.execSpareInService cluster s
  | .rollbackTakeOffRetry core ctx => Sys2Proof.Machine.execRollbackTakeOffRetry core ctx s

end Sys2Proof.Machine
end

