-- ==== Sys2Proof/Machine/Step.lean ====
section
/-! DEFINITION. One step: the happening that stands first in the agenda, else the device's own in turn. A slot's row is no
happening of its own, and an agenda entry that names one is passed over. -/
namespace Sys2Proof.Machine

/-- One step of the device. -/
def step (s : State) : Host.Outcome State Fault Refusal :=
  match s.agenda with
  | i :: rest =>
    if inSlot i then .next { s with agenda := rest } else exec i { s with agenda := rest }
  | [] => exec (nextOwn s) { s with turn := s.turn + 1 }

/-- The state with the instruction of a bundle placed where the next step issues it (log entry 7). -/
def State.withFetchWord (s : State) (_nbits w : Nat) : State := loadBundle s (w % 2 ^ 384)

end Sys2Proof.Machine
end

