-- ==== Sys2Proof/Safety.lean ====
section
/-! DEFINITION. The terms the statements use: when a device is in order, when a request is heard, what a result or a withheld command of the acting
context adds to the state, and the values of scalar arithmetic said in bit vectors. -/
namespace Sys2Proof
open Machine

/-! A device in order. -/

/-- Memory keeps its one canonical form. -/
def Ordered (s : State) : Prop := s.mem.wf = true

/-- Every byte of memory reads as before. -/
def SameMemory (s t : State) : Prop := ∀ a, t.mem.byte a = s.mem.byte a

/-- Every register of the acting context reads as before: a result waits for its due tick (R46). -/
def SameRegisters (s t : State) : Prop :=
  (∀ n, t.arch.rdS n = s.arch.rdS n) ∧ (∀ n, t.arch.rdP n = s.arch.rdP n) ∧ (∀ n, t.arch.rdK n = s.arch.rdK n) ∧
  (∀ n, t.arch.rdV n = s.arch.rdV n) ∧ (∀ n, t.arch.rdW n = s.arch.rdW n) ∧ (∀ n, t.arch.rdH n = s.arch.rdH n)

/-! What the acting context's issue adds. -/

/-- The due queue has room for `n` more register results (R47). -/
def Room (s : State) (n : Nat) : Prop := s.arch.dueRegs.length + n ≤ 64

/-- The register entry of a result of class `cls` issued now (R46, R63, R279, R395). -/
def entryOf (s : State) (d : Dest) (v cls : Nat) : DueReg :=
  ⟨d, BitVec.ofNat 2048 v, latency s cls, s.myCore.cycle + ownLatency cls, false, none, s.arch.pc.toNat⟩

/-- The state with register entries added to the due queue; nothing else changes. -/
def withDue (s : State) (l : List DueReg) : State := s.setArch { s.arch with dueRegs := s.arch.dueRegs ++ l }

/-- One result of a latency class. -/
def withResult (s : State) (d : Dest) (v cls : Nat) : State := withDue s [entryOf s d v cls]

/-- A vector result due after twice the latency of class vfma (R146). -/
def withTwice (s : State) (n v : Nat) : State :=
  withDue s [⟨.vec n, BitVec.ofNat 2048 v, 2 * latency s 5, s.myCore.cycle + 2 * ownLatency 5, false, none, s.arch.pc.toNat⟩]

/-- One entry added to the store-withhold buffer (R198). -/
def withEntry (s : State) (e : WEntry) : State := s.setMe { s.me with withhold := s.me.withhold ++ [e] }

/-- A command as the acting context withholds it. -/
def commandOf (s : State) (ch : Nat) (id : BitVec 32) (scope : Nat) (k : CmdKind) : Cmd :=
  ⟨0, s.cur.ctx, ch, id, s.me.job, s.me.recAddr, scope, k, .queued, s.me.cart, 0, []⟩

/-- A transfer issued on channel `ch`: sd will hold its ID, the next ID moves on by one, the command is withheld (R198,
R354). -/
def withTransfer (s : State) (ch sd scope : Nat) (k : CmdKind) : State :=
  let id := s.arch.rdId ch
  let s1 := s.setArch (s.arch.wrId ch (id + 1))
  let s2 := withResult s1 (.scalar sd) id.toNat 0
  withEntry s2 (.cmd s2.arch.tick (commandOf s2 ch id scope k))

/-- A command without transfer ID, withheld on channel number `ch`. -/
def withCommand (s : State) (ch scope : Nat) (k : CmdKind) : State :=
  withEntry s (.cmd s.arch.tick (commandOf s ch 0 scope k))

/-- A store withheld now (R198): bytes `bs` from address `a` of a space on. -/
def withStore (s : State) (sp : Space) (a : Nat) (bs : List Byte) : State :=
  withEntry s (.store s.arch.tick (addressed (spaceBase s sp + a) bs))

/-- A latch load due after the latency of its class (R177, R178). -/
def withLatch (s : State) (w v : Nat) : State :=
  s.setArch { s.arch with dueLatches := s.arch.dueLatches ++
    [⟨w, BitVec.ofNat 17408 v, latency s 7, s.myCore.cycle + ownLatency 7, false, none, s.arch.pc.toNat⟩] }

/-- Accumulator rows staged for one due tick (R180, R187, R279). -/
def withRows (s : State) (rows : List (Nat × Row)) (lat own : Nat) : State :=
  s.setArch { s.arch with groups := s.arch.groups ++ [⟨rows, lat, s.myCore.cycle + own, false, none, s.arch.pc.toNat⟩] }

/-- A taken transfer of control, with the cycles it costs on the D940 (R129, R132, R134). -/
def goTo (s : State) (pc : Word) (cost : Nat) : State :=
  let t := { s with cur := { s.cur with next := some pc } }
  t.setMe { t.me with bubble := t.me.bubble + cost }

/-! When an access or a register operand is fit for its instruction. -/

/-- A range within the bounds in force for a space, none of its activation lines ciphertext (R126, R128). -/
def Inside (s : State) (sp : Space) (a n : Nat) : Prop :=
  (spaceBounds s sp).1 ≤ a ∧ a + n ≤ (spaceBounds s sp).2 ∧
  (sp = .act → ∀ l, a / 256 ≤ l → 256 * l < a + n → s.form s.cur.core l = false)

/-- The same, aligned. -/
def Clear (s : State) (sp : Space) (a n align : Nat) : Prop := a % align = 0 ∧ Inside s sp a n

/-- A status record or result block that s[sc] names fits; s0 names none (R265, R308, R331). -/
def RecordFits (s : State) (sc : Fin 64) (n : Nat) : Prop := sc.val = 0 ∨ Clear s .act (rdS s sc.val).toNat n 16

/-- The vector registers named belong to the V slot, or to the M slot (R143). -/
def OwnV (s : State) (l : List Nat) : Prop := s.arch.bankC = true → ∀ n ∈ l, n < 32 ∨ 47 < n
def OwnM (s : State) (l : List Nat) : Prop := s.arch.bankC = false → ∀ n ∈ l, n < 32 ∨ 47 < n

/-- What a start of the array needs of its live rows: none staged later than its own due tick, reads and targets inside
their bounds. -/
def ArrayFits (s : State) (rows : List (Nat × ARow × Nat)) (scales : Option Nat) (nb m : Nat) : Prop :=
  (∀ r ∈ rows, stagedLate s.arch r.2.2 (m + latency s 8) = false) ∧
  (∀ q ∈ arrayReads s.arch.mSh rows nb scales, Inside s .act q.1 q.2) ∧
  (∀ r ∈ rows, Inside s .acc (128 * r.2.2) 128) ∧
  s.arch.groups.length < 16 ∧ stagedRows s.arch + rows.length ≤ 512

/-- A well-formed packet that a ring has next, not taken up yet, with no wait of its own, while the ring runs (R249). -/
def PacketReady (s : State) (r : RingRef) (index d p : Nat) : Prop :=
  serving s = true ∧ findPkt s r index = none ∧ peekPacket s r index = some (d, p, false) ∧ packetBad p = false ∧
  ringHalted s r = false ∧ pkWaitEn p = false ∧ packetHeld s (ringEngine s r d) (findRing s r).pkts p = false

/-- A request of a live session that nothing turns away before it is looked at (R408, R411 to R413). -/
def Heard (s : State) (m : Msg) (k : ReqKind) : Prop :=
  s.power = .on ∧ (s.session m.session).up = true ∧ s.lastSheetLost = false ∧ m.resv = 0 ∧
  ((s.session m.session).job = none ∨ (k.admin = false ∧ (s.session m.session).job = some m.job)) ∧
  (k.pass = true ∨ (s.session m.session).frozen.contains m.job = false) ∧
  (k.config = true ∨ k.debug = true → tdiOf s m.job ≠ some .error) ∧
  (k.config = true → tdiOf s m.job ≠ some .locked ∧ tdiOf s m.job ≠ some .run)

/-- A request that was performed: its effect, then its reply OK (R408). -/
def performed (t : State) (m : Msg) : Res := .next (answer t m rOk)

/-- A result vector of elements of width `w`: element by element the value stated (R140). -/
def Elements (v w : Nat) (g : Nat → Nat) : Prop := ∀ i, i < 2048 / w → elem v w i = g i % 2 ^ w

/-- The same under lane predicate `k` over the destination `old` (R140, R145). -/
def Merged (v w : Nat) (k : Word) (old : Vec) (g : Nat → Nat) : Prop :=
  Elements v w (fun i => if k.getLsbD (i * w / 32) then g i else elem old.toNat w i)

/-- The value that a running reduction has at position `j` (R105). -/
def running {α : Type} (op : α → α → α) (d : α) (l : List α) (j : Nat) : α := (l.take (j + 1)).tail.foldl op (l.headD d)

/-! Real numbers of floating-point values. -/

/-- The real number of a finite value. -/
def IsReal (v : FV) (x : ℝ) : Prop := ∃ neg m e, v = .fin neg m e ∧ x = (if neg then -1 else 1) * m * 2 ^ e

/-- The real number of an encoding of a format that stands for a finite one (R85). -/
def HasValue (f : Fmt) (y : Nat) (v : ℝ) : Prop := IsReal (fpDecode f y) v

/-- An encoding is the one to which a number other than zero rounds in a mode: of all the finite numbers of the format the
nearest, of two equally near the even one, or the next in the mode's direction (R92). -/
def RoundsTo (f : Fmt) (r : Rnd) (x : ℝ) (y : Nat) : Prop :=
  (y.testBit (f.expo + f.frac) = true ↔ x < 0) ∧ y < 2 ^ f.width ∧
  ∃ v, HasValue f y v ∧ ∀ z w, HasValue f z w → match r with
    | .rne => |x - v| ≤ |x - w| ∧ (|x - v| = |x - w| → w = v ∨ y % 2 = 0)
    | .rtz => |v| ≤ |x| ∧ (|w| ≤ |x| → |w| ≤ |v|)
    | .rdn => v ≤ x ∧ (w ≤ x → w ≤ v)
    | .rup => x ≤ v ∧ (x ≤ w → v ≤ w)

/-- The infinity of a format that has one: exponent field all ones, fraction zero (R85). -/
def infOf (f : Fmt) (neg : Bool) : Nat := (if neg then 2 ^ (f.expo + f.frac) else 0) + (2 ^ f.expo - 1) * 2 ^ f.frac

/-- The result of an overflow (R93): the largest finite number where the mode rounds toward it, where results saturate and in
E2M1, else infinity, in E4M3 a NaN. -/
def beyond (f : Fmt) (r : Rnd) (sat neg : Bool) : Nat :=
  if f = fmtE2M1 ∨ sat = true ∨ r = .rtz ∨ (r = .rdn ∧ neg = false) ∨ (r = .rup ∧ neg = true) then f.maxEnc neg
  else if f = fmtE4M3 then 0x7F else infOf f neg

/-! Scalar values as bit vectors (R117). -/

/-- The low W bits of a register. -/
def low (t : Ty) (a : Word) : BitVec (tyWidth t) := a.setWidth (tyWidth t)

/-- A W-bit value as a register takes it: sign-extended where the type is signed, else zero-extended. -/
def wide (sgn : Bool) {w : Nat} (x : BitVec w) : Word := if sgn then x.signExtend 64 else x.setWidth 64

/-- Signedness of a type; code 0 is signed here. -/
def sgnOf (t : Ty) : Bool := t == .none || tySigned t

/-- Less-than of a signedness. -/
def less (sgn : Bool) {w : Nat} (x y : BitVec w) : Bool := if sgn then x.slt y else x.ult y

/-- Quotient of R121. -/
def quotient (t : Ty) (x y : BitVec (tyWidth t)) : BitVec (tyWidth t) :=
  if y = 0 then BitVec.allOnes _ else if sgnOf t then x.sdiv y else x.udiv y
/-- Remainder of R121. -/
def remainder (t : Ty) (x y : BitVec (tyWidth t)) : BitVec (tyWidth t) :=
  if y = 0 then x else if sgnOf t then x.srem y else x.umod y

/-- A condition of R69 on W-bit values. -/
def holds (c : Cond) (sgn : Bool) {w : Nat} (x y : BitVec w) : Bool := match c with
  | .eq => x == y
  | .ne => x != y
  | .lt => less sgn x y
  | .le => !less sgn y x
  | .gt => less sgn y x
  | .ge => !less sgn x y

end Sys2Proof
end

