-- ==== Sys2Proof/Certificates/Slice0/Obligations.lean ====
section
/-! DEFINITION. The statements for the provers. A statement that ends in `= .next t` says both that the instruction completes
and, since `t` is the state named, everything that it leaves unchanged. -/
section
open Sys2Proof Sys2Proof.Machine

/-! Scalar results. -/

/-- R120, R121, R118, R119: ADD, SUB, MUL, MULH, MULHN and ADDI as arithmetic modulo 2^W, and DIV and REM of every pair of
operands, a zero divisor and the most negative dividend among them. The result lands in s[sd] after its class's latency; a
division occupies the divider for 18 cycles; and nothing else changes. Rests on the model's choices of log entry 1. -/
def Obligations.ScalarArithmetic : Prop :=
  ∀ (s : State), Room s 1 →
    (∀ f : SR, exec (.add f) s =
      .next (withResult s (.scalar f.sd.val) (wide (tySigned f.ty) (low f.ty (rdS s f.sa.val) + low f.ty (rdS s f.sb.val))).toNat 0)) ∧
    (∀ f : SR, exec (.sub f) s =
      .next (withResult s (.scalar f.sd.val) (wide (tySigned f.ty) (low f.ty (rdS s f.sa.val) - low f.ty (rdS s f.sb.val))).toNat 0)) ∧
    (∀ f : SR, exec (.mul f) s =
      .next (withResult s (.scalar f.sd.val) (wide (tySigned f.ty) (low f.ty (rdS s f.sa.val) * low f.ty (rdS s f.sb.val))).toNat 1)) ∧
    (∀ f : SI, exec (.addi f) s =
      .next (withResult s (.scalar f.sd.val) (wide (tySigned f.ty) (low f.ty (rdS s f.sa.val) + low f.ty (f.imm.signExtend 64))).toNat 0)) ∧
    (∀ f : SR, (Instr.mulh f).WellFormed → exec (.mulh f) s =
      .next (withResult s (.scalar f.sd.val) (wide true
        ((((low f.ty (rdS s f.sa.val)).signExtend (2 * tyWidth f.ty) *
          (low f.ty (rdS s f.sb.val)).signExtend (2 * tyWidth f.ty)).extractLsb' (tyWidth f.ty) (tyWidth f.ty)))).toNat 1)) ∧
    (∀ f : SR, (Instr.mulhn f).WellFormed → exec (.mulhn f) s =
      .next (withResult s (.scalar f.sd.val) (wide false
        ((((low f.ty (rdS s f.sa.val)).setWidth (2 * tyWidth f.ty) *
          (low f.ty (rdS s f.sb.val)).setWidth (2 * tyWidth f.ty)).extractLsb' (tyWidth f.ty) (tyWidth f.ty)))).toNat 1)) ∧
    (∀ f : SR,
      let t := s.setMyCore { s.myCore with busyDiv := s.myCore.cycle + 18 }
      exec (.div f) s = .next (withResult t (.scalar f.sd.val)
        (wide (sgnOf f.ty) (quotient f.ty (low f.ty (rdS s f.sa.val)) (low f.ty (rdS s f.sb.val)))).toNat 2) ∧
      exec (.rem f) s = .next (withResult t (.scalar f.sd.val)
        (wide (sgnOf f.ty) (remainder f.ty (low f.ty (rdS s f.sa.val)) (low f.ty (rdS s f.sb.val)))).toNat 2))

/-- R120: the bitwise instructions on the low W bits, and the shifts; a register count is taken modulo W, and an immediate
count as it stands. -/
def Obligations.ScalarBitwiseAndShifts : Prop :=
  ∀ (s : State), Room s 1 →
    (∀ f : SR, exec (.and f) s =
      .next (withResult s (.scalar f.sd.val) (wide (tySigned f.ty) (low f.ty (rdS s f.sa.val) &&& low f.ty (rdS s f.sb.val))).toNat 0)) ∧
    (∀ f : SR, exec (.or f) s =
      .next (withResult s (.scalar f.sd.val) (wide (tySigned f.ty) (low f.ty (rdS s f.sa.val) ||| low f.ty (rdS s f.sb.val))).toNat 0)) ∧
    (∀ f : SR, exec (.xor f) s =
      .next (withResult s (.scalar f.sd.val) (wide (tySigned f.ty) (low f.ty (rdS s f.sa.val) ^^^ low f.ty (rdS s f.sb.val))).toNat 0)) ∧
    (∀ f : SR, exec (.andn f) s =
      .next (withResult s (.scalar f.sd.val) (wide (tySigned f.ty) (low f.ty (rdS s f.sa.val) &&& ~~~ low f.ty (rdS s f.sb.val))).toNat 0)) ∧
    (∀ f : SI, exec (.andi f) s =
      .next (withResult s (.scalar f.sd.val) (wide (tySigned f.ty) (low f.ty (rdS s f.sa.val) &&& low f.ty (f.imm.signExtend 64))).toNat 0)) ∧
    (∀ f : SI, exec (.ori f) s =
      .next (withResult s (.scalar f.sd.val) (wide (tySigned f.ty) (low f.ty (rdS s f.sa.val) ||| low f.ty (f.imm.signExtend 64))).toNat 0)) ∧
    (∀ f : SI, exec (.xori f) s =
      .next (withResult s (.scalar f.sd.val) (wide (tySigned f.ty) (low f.ty (rdS s f.sa.val) ^^^ low f.ty (f.imm.signExtend 64))).toNat 0)) ∧
    (∀ f : SR, exec (.shl f) s =
      .next (withResult s (.scalar f.sd.val)
        (wide (tySigned f.ty) (low f.ty (rdS s f.sa.val) <<< ((rdS s f.sb.val).toNat % tyWidth f.ty))).toNat 0)) ∧
    (∀ f : SR, exec (.shr f) s =
      .next (withResult s (.scalar f.sd.val)
        (wide (tySigned f.ty) (low f.ty (rdS s f.sa.val) >>> ((rdS s f.sb.val).toNat % tyWidth f.ty))).toNat 0)) ∧
    (∀ f : SR, exec (.sar f) s =
      .next (withResult s (.scalar f.sd.val)
        (wide (tySigned f.ty) ((low f.ty (rdS s f.sa.val)).sshiftRight ((rdS s f.sb.val).toNat % tyWidth f.ty))).toNat 0)) ∧
    (∀ f : SI, exec (.shli f) s =
      .next (withResult s (.scalar f.sd.val) (wide (tySigned f.ty) (low f.ty (rdS s f.sa.val) <<< f.imm.toNat)).toNat 0)) ∧
    (∀ f : SI, exec (.shri f) s =
      .next (withResult s (.scalar f.sd.val) (wide (tySigned f.ty) (low f.ty (rdS s f.sa.val) >>> f.imm.toNat)).toNat 0)) ∧
    (∀ f : SI, exec (.sari f) s =
      .next (withResult s (.scalar f.sd.val)
        (wide (tySigned f.ty) ((low f.ty (rdS s f.sa.val)).sshiftRight f.imm.toNat)).toNat 0))

/-- R120, R122, R123: MIN to MAXN, CLZ, CTZ and POPC, SEXT, ZEXT, SEL, MADDR, LI and LIH; the count is the one that the
operand's low W bits have, W where they are all zero. -/
def Obligations.ScalarMoves : Prop :=
  ∀ (s : State), Room s 1 →
    (∀ f : SR, (Instr.min f).WellFormed → exec (.min f) s = .next (withResult s (.scalar f.sd.val)
      (wide true (if (low f.ty (rdS s f.sb.val)).slt (low f.ty (rdS s f.sa.val)) then low f.ty (rdS s f.sb.val)
        else low f.ty (rdS s f.sa.val))).toNat 0)) ∧
    (∀ f : SR, (Instr.max f).WellFormed → exec (.max f) s = .next (withResult s (.scalar f.sd.val)
      (wide true (if (low f.ty (rdS s f.sa.val)).slt (low f.ty (rdS s f.sb.val)) then low f.ty (rdS s f.sb.val)
        else low f.ty (rdS s f.sa.val))).toNat 0)) ∧
    (∀ f : SR, (Instr.minn f).WellFormed → exec (.minn f) s = .next (withResult s (.scalar f.sd.val)
      (wide false (if (low f.ty (rdS s f.sb.val)).ult (low f.ty (rdS s f.sa.val)) then low f.ty (rdS s f.sb.val)
        else low f.ty (rdS s f.sa.val))).toNat 0)) ∧
    (∀ f : SR, (Instr.maxn f).WellFormed → exec (.maxn f) s = .next (withResult s (.scalar f.sd.val)
      (wide false (if (low f.ty (rdS s f.sa.val)).ult (low f.ty (rdS s f.sb.val)) then low f.ty (rdS s f.sb.val)
        else low f.ty (rdS s f.sa.val))).toNat 0)) ∧
    (∀ f : SR, exec (.sext f) s =
      .next (withResult s (.scalar f.sd.val) (wide true (low f.ty (rdS s f.sa.val))).toNat 0)) ∧
    (∀ f : SR, exec (.zext f) s =
      .next (withResult s (.scalar f.sd.val) (wide false (low f.ty (rdS s f.sa.val))).toNat 0)) ∧
    (∀ f : SR, exec (.sel f) s =
      .next (withResult s (.scalar f.sd.val) (if s.arch.rdP f.pa.val then rdS s f.sa.val else rdS s f.sb.val).toNat 0)) ∧
    (∀ f : SX, exec (.maddr f) s =
      .next (withResult s (.scalar f.sd.val)
        (rdS s f.sa.val + rdS s f.sb.val <<< f.sh.val + f.imm.signExtend 64).toNat 0)) ∧
    (∀ f : SL, exec (.li f) s = .next (withResult s (.scalar f.sd.val) (f.imm.signExtend 64).toNat 0)) ∧
    (∀ f : SL, exec (.lih f) s =
      .next (withResult s (.scalar f.sd.val) (f.imm ++ (rdS s f.sd.val).setWidth 16).toNat 0)) ∧
    (∀ f : SR,
      let a := low f.ty (rdS s f.sa.val)
      let w := tyWidth f.ty
      (∃ n, exec (.clz f) s = .next (withResult s (.scalar f.sd.val) n 0) ∧ n ≤ w ∧
        (∀ i, w - n ≤ i → a.getLsbD i = false) ∧ (n < w → a.getLsbD (w - 1 - n) = true)) ∧
      (∃ n, exec (.ctz f) s = .next (withResult s (.scalar f.sd.val) n 0) ∧ n ≤ w ∧
        (∀ i, i < n → a.getLsbD i = false) ∧ (n < w → a.getLsbD n = true)) ∧
      exec (.popc f) s =
        .next (withResult s (.scalar f.sd.val) ((List.range w).filter (fun i => a.getLsbD i)).length 0))

/-- R124, R125: compares and predicate operations write a pair, p(2n) the outcome and p(2n+1) its complement; the fields that
they do not use are zero, and the pair of p0 and p1 is no destination. -/
def Obligations.PredicatePairs : Prop :=
  (∀ f : SC, ((Instr.cmp f).WellFormed → f.imm = 0 ∧ f.pair.val ≠ 0) ∧ ((Instr.cmpi f).WellFormed → f.sb.val = 0 ∧ f.pair.val ≠ 0)) ∧
  (∀ (f : SP) (i : Instr), i = .pand f ∨ i = .por f ∨ i = .pxor f → i.WellFormed → f.val = false ∧ f.pair.val ≠ 0) ∧
  (∀ f : SP, (Instr.pset f).WellFormed → f.pa.val = 0 ∧ f.pb.val = 0 ∧ f.na = false ∧ f.nb = false ∧ f.pair.val ≠ 0) ∧
  ∀ (s : State), Room s 1 →
    let pair := fun (n : Fin 16) (c : Bool) => Host.Outcome.next (withResult s (.pair n.val) (if c then 1 else 2) 0)
    (∀ f : SC, exec (.cmp f) s =
      pair f.pair (holds f.cond (sgnOf f.ty) (low f.ty (rdS s f.sa.val)) (low f.ty (rdS s f.sb.val)))) ∧
    (∀ f : SC, exec (.cmpi f) s =
      pair f.pair (holds f.cond (sgnOf f.ty) (low f.ty (rdS s f.sa.val)) (low f.ty (f.imm.signExtend 64)))) ∧
    (∀ f : SP, exec (.pand f) s = pair f.pair ((s.arch.rdP f.pa.val ^^ f.na) && (s.arch.rdP f.pb.val ^^ f.nb))) ∧
    (∀ f : SP, exec (.por f) s = pair f.pair ((s.arch.rdP f.pa.val ^^ f.na) || (s.arch.rdP f.pb.val ^^ f.nb))) ∧
    (∀ f : SP, exec (.pxor f) s = pair f.pair ((s.arch.rdP f.pa.val ^^ f.na) ^^ (s.arch.rdP f.pb.val ^^ f.nb))) ∧
    (∀ f : SP, exec (.pset f) s = pair f.pair f.val)


/-! Buffer accesses and traps. -/

/-- R126, R127: LDA, LDC and LDW of data without errors: the bytes that the context sees at its tick, extended as the type
says; LDW takes the weight port for one cycle. Rests on the model's choices of log entry 5. -/
def Obligations.BufferLoads : Prop :=
  ∀ (f : SI) (s : State), Room s 1 → s.errs = [] →
    let n := tyWidth f.ty / 8
    let a := (rdS s f.sa.val + f.imm.signExtend 64).toNat
    let v := fun sp => (wide (tySigned f.ty) (low f.ty (BitVec.ofNat 64 (leNat (seen s sp a n))))).toNat
    ((Instr.lda f).WellFormed → Clear s .act a n n → exec (.lda f) s = .next (withResult s (.scalar f.sd.val) (v .act) 3)) ∧
    ((Instr.ldc f).WellFormed → Clear s .acc a n n → exec (.ldc f) s = .next (withResult s (.scalar f.sd.val) (v .acc) 4)) ∧
    ((Instr.ldw f).WellFormed → Clear s .wt a n n → exec (.ldw f) s =
      .next (withResult (s.setMyCore { s.myCore with busyPort := s.myCore.cycle + 1 }) (.scalar f.sd.val) (v .wt) 7))

/-- R126, R198: STA and STC withhold the low bytes of s[sd]; no byte of memory changes. -/
def Obligations.BufferStores : Prop :=
  ∀ (f : SI) (s : State),
    let n := tyWidth f.ty / 8
    let a := (rdS s f.sa.val + f.imm.signExtend 64).toNat
    ((Instr.sta f).WellFormed → Clear s .act a n n →
      exec (.sta f) s = .next (withStore s .act a (leBytes n (rdS s f.sd.val).toNat))) ∧
    ((Instr.stc f).WellFormed → Clear s .acc a n n →
      exec (.stc f) s = .next (withStore s .acc a (leBytes n (rdS s f.sd.val).toNat)))

/-- R127, R198, R227: a load of the same tick does not see a store, a load of the next tick does, and bytes outside it read as
before for both; memory itself is untouched until the context's entries are released, which writes just those bytes at the
end of the cycle. Rests on the model's choices of log entry 5. -/
def Obligations.StoreBecomesVisible : Prop :=
  ∀ (s : State) (sp : Space) (a : Nat) (bs : List Byte),
    let t := withStore s sp a bs
    let u := t.setArch { t.arch with tick := t.arch.tick + 1 }
    let u0 := s.setArch { s.arch with tick := s.arch.tick + 1 }
    SameMemory s t ∧ (∀ b n, seen t sp b n = seen s sp b n) ∧ seen u sp a bs.length = bs ∧
    (∀ b n, (b + n ≤ a ∨ a + bs.length ≤ b) → seen u sp b n = seen u0 sp b n) ∧
    (s.me.withhold = [] → (∀ x, (s.ctx s.cur.core x).releasing = []) → s.errs = [] → s.inject = [] → ∀ k,
      (release (hold t s.cur.core s.cur.ctx) s.cur.core).mem.byte k =
        if spaceBase s sp + a ≤ k ∧ k < spaceBase s sp + a + bs.length then bs.getD (k - (spaceBase s sp + a)) 0 else s.mem.byte k)

/-- R128, R430: a scalar access that is misaligned, else outside its bounds, else on a ciphertext line, raises BOUND with code
2, BOUND with code 1 or FORM with code 1, ctx.tval the lowest failing byte; LDW, which has no form to meet, has taken its
weight port by then. -/
def Obligations.AccessTraps : Prop :=
  ∀ (f : SI) (s : State),
    let n := tyWidth f.ty / 8
    let a := (rdS s f.sa.val + f.imm.signExtend 64).toNat
    (∀ (i : Instr) (sp : Space) (u : State),
      (u = s ∧ ((i = .lda f ∧ sp = .act) ∨ (i = .sta f ∧ sp = .act) ∨ (i = .ldc f ∧ sp = .acc) ∨ (i = .stc f ∧ sp = .acc))) ∨
        (u = s.setMyCore { s.myCore with busyPort := s.myCore.cycle + 1 } ∧ i = .ldw f ∧ sp = .wt) → i.WellFormed →
      (a % n ≠ 0 → exec i s = .next (raise u .bound 2 (BitVec.ofNat 64 a))) ∧
      (a % n = 0 → a < (spaceBounds s sp).1 → exec i s = .next (raise u .bound 1 (BitVec.ofNat 64 a))) ∧
      (a % n = 0 → (spaceBounds s sp).1 ≤ a → (spaceBounds s sp).2 < a + n →
        exec i s = .next (raise u .bound 1 (BitVec.ofNat 64 (max a (spaceBounds s sp).2)))) ∧
      (a % n = 0 → (spaceBounds s sp).1 ≤ a → a + n ≤ (spaceBounds s sp).2 → sp = .act →
        s.form s.cur.core (a / 256) = true → exec i s = .next (raise s .form 1 (BitVec.ofNat 64 a))))

/-- R115, R135, R367, R368: TRAP and BREAK raise their trap; a trap writes ctx.cause and ctx.tval, restores the captured
registers with the changes from outside applied again, discards withheld entries, ends the bundle, and stops the unit (in
debug-step mode the context halts); with no accumulator row to restore, memory reads as before. The second part is over data
without errors, since an error in the shadow makes the stop another one (R385). -/
def Obligations.TrapEntry : Prop :=
  (∀ (f : CY) (s : State), exec (.trap f) s = .next (raise s .trap f.imm.toNat 0) ∧
    exec (.brk f) s = .next (raise s .brk f.imm.toNat 0)) ∧
  ∀ (s : State) (c : Cause) (code : Nat) (tval : Word),
    s.errs = [] → c = .bound ∨ c = .form ∨ c = .shape ∨ c = .noexec ∨ c = .brk ∨ c = .trap →
    let t := raise s c code tval
    t.me.tval = tval ∧
    t.me.cause = BitVec.ofNat 64 (code % 2 ^ 16 * 2 ^ 48 + s.arch.pc.toNat % 2 ^ 24 * 2 ^ 24 + s.cur.slot % 8 * 2 ^ 21 +
      min 255 (s.me.traps + 1) * 2 ^ 8 + causeCode c) ∧
    t.me.arch = s.me.outside.foldl Arch.outside s.me.shadow ∧ t.me.withhold = [] ∧ t.me.undo = [] ∧ t.cur.trapped = true ∧
    (s.me.mode.getLsbD 0 = false → t.me.run = .removing .fatal) ∧
    (s.me.mode.getLsbD 0 = true → t.me.halted = true) ∧
    (s.me.undo = [] → SameMemory s t)

/-! Control transfer. -/

/-- R129 to R132: J, JR, CALL and RET; a transfer costs one cycle, and the next bundle is the one at the target; LOOP with
a count enters its range with every level from its own up inactive but its own, LOOP with count 0 skips it, LBRK leaves an
active level's range and does nothing otherwise. Rests on the model's choices of log entries 10, 20, 59, 79. -/
def Obligations.JumpsAndLoops : Prop :=
  (∀ (f : CJ) (s : State),
    exec (.j f) s = .next (goTo s (f.target.setWidth 64) 1) ∧
    exec (.jr f) s = .next (goTo s (rdS s f.sa.val + f.target.setWidth 64) 1) ∧
    exec (.ret f) s = .next (goTo s (rdS s f.sa.val) 1) ∧
    (Room s 1 → s.cur.trapped = false → exec (.call f) s =
      .next (goTo (withResult s (.scalar f.sd.val) (s.arch.pc + (if s.cur.lit then 25 else 1)).toNat 0) (f.target.setWidth 64) 1))) ∧
  (∀ (c : Ctx) (lit : Bool) (pc : Word),
    (passTick c lit (some pc)).arch.pc = pc ∧ (passTick c lit (some pc)).arch.tick = c.arch.tick + 1) ∧
  ∀ (f : CL) (s : State),
    let start := s.arch.pc.toNat + (if s.cur.lit then 25 else 1)
    let stop := start + f.lenM1.toNat
    let n := if f.sa.val = 0 then f.trip.setWidth 64 else rdS s f.sa.val
    (n = 0 → exec (.loop f) s = .next (goTo s (BitVec.ofNat 64 (stop + 1)) 1)) ∧
    (n ≠ 0 → f.level.val < 6 → ∃ a, exec (.loop f) s = .next (s.setArch a) ∧
      (∀ l, a.rdLoop l = if l = f.level.val then ⟨true, start, stop, n, f.sd.val, rdS s f.sb.val, f.pair.val⟩
        else if f.level.val ≤ l ∧ l < 6 then Loop.idle else s.arch.rdLoop l) ∧
      a = { s.arch with loops := a.loops, seqDue := s.arch.seqDue ++
        [⟨.pair f.pair.val, BitVec.ofNat 2048 (if n = 1 then 3 else 1), 1, 0, false, none, s.arch.pc.toNat⟩] }) ∧
    ((s.arch.rdLoop f.level.val).active = true → ∃ a,
      exec (.lbrk f) s = .next (goTo (s.setArch a) (BitVec.ofNat 64 ((s.arch.rdLoop f.level.val).stop + 1)) 1) ∧
      (∀ l, a.rdLoop l = if f.level.val ≤ l ∧ l < 6 then Loop.idle else s.arch.rdLoop l) ∧ a = { s.arch with loops := a.loops }) ∧
    ((s.arch.rdLoop f.level.val).active = false → exec (.lbrk f) s = .next s)

/-- R131, R132: after a bundle that took no transfer, at offset o of nested ranges: the levels that end at o with no iteration
left become inactive, from the innermost on, up to the first with more than one left; that one branches back to the start of
its range with its count one lower, and at the next tick its register holds the stride more and its pair tells whether this is
the last iteration, whatever else lands there. Where no level branches back, fetch goes on. Every other level stays as it was.
Rests on the model's choices of log entries 20, 63. -/
def Obligations.LoopBackEdge : Prop :=
  ∀ (c : Ctx) (lit : Bool), c.arch.idle = 0 → c.arch.seqDue = [] →
    let o := c.arch.pc.toNat
    let ending := fun (m : Nat) => (c.arch.rdLoop m).active = true ∧ (c.arch.rdLoop m).stop = o
    let spent := fun (m : Nat) => ending m ∧ (c.arch.rdLoop m).left.toNat ≤ 1
    let t := passTick c lit none
    let next := landRegs t.arch
    (∀ l, l < 6 → ending l → 1 < (c.arch.rdLoop l).left.toNat → (∀ m, l < m → m < 6 → ending m → spent m) →
      let v := c.arch.rdLoop l
      t.arch.pc = BitVec.ofNat 64 v.start ∧ t.arch.rdLoop l = { v with left := v.left - 1 } ∧
      (∀ m, l < m → m < 6 → spent m → (t.arch.rdLoop m).active = false) ∧
      (∀ m, m ≠ l → ¬ (l < m ∧ m < 6 ∧ spent m) → t.arch.rdLoop m = c.arch.rdLoop m) ∧
      (v.target ≠ 0 → next.rdS v.target = c.arch.rdS v.target + v.stride) ∧
      (v.pair ≠ 0 → next.rdP (2 * v.pair) = false ∧ next.rdP (2 * v.pair + 1) = decide (v.left.toNat = 2))) ∧
    ((∀ m, m < 6 → ending m → spent m) →
      t.arch.pc = BitVec.ofNat 64 (fetchNext o lit (lastSegment c.cart)) ∧ t.arch.seqDue = [] ∧
      (∀ m, m < 6 → spent m → (t.arch.rdLoop m).active = false) ∧
      ∀ m, ¬ (m < 6 ∧ spent m) → t.arch.rdLoop m = c.arch.rdLoop m)

/-- R133, R134: BSEL of a well-formed table in the clear: the bucket's size, the lanes below the dimension, the padding count
and the transfer to the bucket's target, or to over_target where no bucket is large enough. Rests on the model's choices of
log entries 2, 59, 70. -/
def Obligations.BucketSelect : Prop :=
  ∀ (f : CB) (s : State), Room s 3 → s.errs = [] → s.cur.trapped = false →
    let a := (rdS s f.sa.val).toNat
    let d := (rdS s f.sb.val).toNat
    let n := leNat (seen s .act a 1)
    let tab := leNat (seen s .act a (16 * (n + 1)))
    let size := fun i => fld tab (128 * (i + 1) + 31) (128 * (i + 1))
    let target := fun i => fld tab (128 * (i + 1) + 55) (128 * (i + 1) + 32)
    let out := fun (b pad pc : Nat) => Host.Outcome.next
      (goTo (withResult (withResult (withResult s (.scalar f.sd.val) b 0) (.kreg 15) (lanesBelow d) 0) (.eng 0)
        (setFld (pendingRows s.arch) 31 16 pad) 0) (BitVec.ofNat 64 pc) 6)
    Clear s .act a (16 * (n + 1)) 16 → 1 ≤ n → n ≤ 64 → fld tab 127 32 = 0 →
    (∀ i, i < n → fld tab (128 * (i + 1) + 127) (128 * (i + 1) + 56) = 0) →
    (∀ i, i < n → d ≤ size i → size i - d < 2 ^ 16 → (∀ j, j < i → size j < d) →
      exec (.bsel f) s = out (size i) (size i - d) (target i)) ∧
    ((∀ i, i < n → size i < d) → exec (.bsel f) s = out d 0 (fld tab 31 8))

/-! System registers. -/

/-- R113, R114, R135, R137: SYSR reads every system register, P registers only with ctx.mode bit 3; SYSW clears ctx.cause and
traps on any other register; TICK reads the tick; IDLE n leaves n − 1 empty bundles to issue. -/
def Obligations.SystemRegisters : Prop :=
  ∀ (s : State), 
    let k := s.me.cart.toNat
    let reads := fun (n : BitVec 12) (v : Nat) =>
      ∀ f : CY, f.sys = n → exec (.sysr f) s = .next (withResult s (.scalar f.sd.val) v 0)
    (Room s 1 → reads 0 s.arch.tick.toNat ∧ reads 1 s.me.cause.toNat ∧ reads 2 s.me.tval.toNat ∧ reads 3 s.me.ckpt.toNat ∧
      reads 4 s.me.spill.toNat ∧ reads 5 (s.me.job * 2 ^ 38 + s.me.launch * 2 ^ 22 + s.me.index) ∧
      reads 6 (ctxIdOf s s.cur.core s.cur.ctx + physOf s.cur.core * 2 ^ 16) ∧ reads 7 s.me.mode.toNat ∧
      reads 8 (effCtx s s.me) ∧ reads 9 (fld k 255 224) ∧ reads 10 s.arch.idle.toNat ∧
      (∀ l : Fin 6, reads (BitVec.ofNat 12 (16 + l.val))
        (if (s.arch.rdLoop l.val).active then (s.arch.rdLoop l.val).left.toNat else 0)) ∧
      reads 0x20 (fld k 287 256) ∧ reads 0x21 (fld k 319 288) ∧ reads 0x22 (fld k 351 320) ∧
      reads 0x30 (capacityOf s (clusterOf s.cur.core)) ∧ reads 0x31 (physOf s.cur.core) ∧ reads 0x32 0x00B0 ∧
      reads 0x33 0x0300 ∧ (s.me.mode.getLsbD 3 = true → reads 0x40 (s.score s.cur.core)) ∧
      (∀ f : CY, exec (.tick f) s = .next (withResult s (.scalar f.sd.val) s.arch.tick.toNat 0))) ∧
    (s.me.mode.getLsbD 3 = false → ∀ f : CY, f.sys = 0x40 → exec (.sysr f) s = .next (raise s .trap 0xFF02 0)) ∧
    (∀ f : CY, f.sys = 1 → exec (.sysw f) s = .next (s.setMe { s.me with cause := 0 })) ∧
    (∀ f : CY, f.sys ≠ 1 → exec (.sysw f) s = .next (raise s .trap 0xFF01 0)) ∧
    (∀ f : CY, exec (.idle f) s = .next (s.setArch { s.arch with idle := f.imm - 1 }))

/-- R136, R144, R276: LEND changes the owner of bank C, or has no effect when it has that owner, or traps while a write of
the bank is due or issues in the same bundle; ICINV drops the copies of every core in scope; SUSPEND and a YIELD with a request pending hand
over the context's withheld entries for release at the end of the cycle and begin its suspension; a YIELD without one has no effect. Rests on the model's
choices of log entries 13, 38. -/
def Obligations.OwnershipAndStops : Prop :=
  (∀ (f : LF) (s : State),
    (s.arch.bankC = f.dir → exec (.lendC f) s = .next s ∧ exec (.lendV f) s = .next s) ∧
    (s.arch.bankC ≠ f.dir → Room s 1 → (∀ d ∈ s.cur.vdests, d < 32 ∨ 47 < d) →
      (∀ e ∈ s.arch.dueRegs, ∀ n, e.dest = .vec n → n < 32 ∨ 47 < n) →
      let t := withDue s [⟨.owner, BitVec.ofNat 2048 (if f.dir then 1 else 0), 1, s.myCore.cycle + 1, false, none, s.arch.pc.toNat⟩]
      exec (.lendC f) s = .next t ∧ exec (.lendV f) s = .next t) ∧
    (s.arch.bankC ≠ f.dir → (∃ d ∈ s.cur.vdests, 32 ≤ d ∧ d ≤ 47) ∨
        (∃ e ∈ s.arch.dueRegs, ∃ n, e.dest = .vec n ∧ 32 ≤ n ∧ n ≤ 47) →
      exec (.lendC f) s = .next (raise s .trap 0xFF04 0) ∧ exec (.lendV f) s = .next (raise s .trap 0xFF04 0))) ∧
  (∀ (f : CY) (s : State), ∃ l, exec (.icinv f) s = .next { s with cores := l } ∧
    ∀ c, ({ s with cores := l } : State).core c =
      if c ∈ s.cores.map (·.1) ∧ inScope f.scope s.cur.core c = true then
        (if (s.cluster (clusterOf c)).power = .run then { s.core c with segs := [], dicts := [] }
         else { s.core c with dropAtWake := true })
      else s.core c) ∧
  (∀ (f : CS) (s : State),
    let stops := fun (y : Bool) => hold (s.setMe { s.me with
      undo := []
      run := .suspending ⟨f.waitKind.val, f.waitOperand.toNat, f.live.toNat, f.done, y,
        (s.arch.pc + (if s.cur.lit then 25 else 1)).toNat⟩ }) s.cur.core s.cur.ctx
    let asked := s.cur.susp = false ∨ s.me.preempt = true ∨ s.me.softCancel = true ∨ s.me.leaseStop = true
    (gatherPending s.arch = false → exec (.suspend f) s = .next (stops false)) ∧
    (gatherPending s.arch = false → asked → exec (.yield f) s = .next (stops true)) ∧
    (¬ asked → exec (.yield f) s = .next s) ∧
    (gatherPending s.arch = true → exec (.suspend f) s = .next (raise s .trap 0xFF0B 0)) ∧
    (gatherPending s.arch = true → asked → exec (.yield f) s = .next (raise s .trap 0xFF0B 0)))

/-! Vector results. -/

/-- R140, R145, R148: the floating-point element operations, element by element under the lane predicate. -/
def Obligations.VectorFloat : Prop :=
  ∀ (f : VR) (s : State), Room s 1 → OwnV s [f.vd.val, f.va.val, f.vb.val, f.vc.val] →
    let w := tyWidth f.ty
    let x := fun (n : Fin 64) j => elem (rdV s n.val).toNat w j
    let a := fun j => valueOf f.ty (x f.va j)
    let b := fun j => valueOf f.ty (x f.vb j)
    let c := fun j => valueOf f.ty (x f.vc j)
    let gives := fun (i : Instr) (g : Nat → Nat) => ∃ v, exec i s = .next (withResult s (.vec f.vd.val) v 5) ∧
      Merged v w (rdK s f.km.val) (rdV s f.vd.val) g
    let rounded := fun (i : Instr) (g : Nat → FV) => gives i (fun j => fpRound (fmtOf f.ty) f.rnd f.sat (g j))
    rounded (.vadd f) (fun j => fvAdd f.rnd (a j) (b j)) ∧ rounded (.vsub f) (fun j => fvAdd f.rnd (a j) (fvNeg (b j))) ∧
    rounded (.vmul f) (fun j => fvMul (a j) (b j)) ∧ rounded (.vfma f) (fun j => fvAdd f.rnd (fvMul (a j) (b j)) (c j)) ∧
    rounded (.vfms f) (fun j => fvAdd f.rnd (fvMul (a j) (b j)) (fvNeg (c j))) ∧
    rounded (.vmin f) (fun j => fvMin (a j) (b j)) ∧ rounded (.vmax f) (fun j => fvMax (a j) (b j)) ∧
    gives (.vabs f) (fun j => if a j = .nan then (fmtOf f.ty).nan else x f.va j % 2 ^ (w - 1)) ∧
    gives (.vneg f) (fun j => if a j = .nan then (fmtOf f.ty).nan else x f.va j + 2 ^ (w - 1))

/-- R107, R108, R146: the transcendentals, each once rounded; the unit is occupied for two cycles. -/
def Obligations.Transcendentals : Prop :=
  ∀ (f : VR) (s : State), Room s 1 → OwnV s [f.vd.val, f.va.val, f.vb.val, f.vc.val] →
    let w := tyWidth f.ty
    let t := s.setMyCore { s.myCore with busyXc := s.myCore.cycle + 2 }
    let gives := fun (i : Instr) (g : Fmt → Rnd → Bool → FV → Nat) => ∃ v,
      exec i s = .next (withResult t (.vec f.vd.val) v 6) ∧
      Merged v w (rdK s f.km.val) (rdV s f.vd.val)
        (fun j => g (fmtOf f.ty) f.rnd f.sat (valueOf f.ty (elem (rdV s f.va.val).toNat w j)))
    gives (.vexp2 f) fpExp2 ∧ gives (.vlog2 f) fpLog2 ∧ gives (.vrcp f) fpRcp ∧ gives (.vrsq f) fpRsq

/-- R85, R92, R93: ROUND, in real numbers. An encoding that stands for a finite number stands for the one of the table of
formats. A number no larger than the largest finite one of the format rounds to the finite number of the format that the
mode asks for: the nearest one, of two equally near the even one; the next one toward zero, downward or upward; its sign is
kept. A zero keeps its sign. Beyond the largest finite number, a number that the mode still rounds to that number gives it,
every other one the result of the table of R93, as do the infinities; a NaN gives the canonical one. -/
def Obligations.RoundingIsNearest : Prop :=
  ∀ f ∈ [fmtF32, fmtF16, fmtBF16, fmtE5M2, fmtE4M3, fmtE2M1],
    (∀ y v, HasValue f y v →
      v = (if y.testBit (f.expo + f.frac) then -1 else 1) *
        (if fld y (f.expo + f.frac - 1) f.frac = 0 then (2 : ℝ) ^ (1 - (f.bias : ℤ)) * ((y % 2 ^ f.frac : ℕ) / 2 ^ f.frac)
          else 2 ^ ((fld y (f.expo + f.frac - 1) f.frac : ℤ) - f.bias) * (1 + (y % 2 ^ f.frac : ℕ) / 2 ^ f.frac))) ∧
    ∃ top : ℝ, (∀ neg, HasValue f (f.maxEnc neg) (if neg then -top else top)) ∧ (∀ y v, HasValue f y v → |v| ≤ top) ∧
      ∀ (r : Rnd) (sat neg : Bool) (m : Nat) (e : ℤ),
        let y := fpRound f r sat (.fin neg m e)
        let x : ℝ := (if neg then -1 else 1) * m * 2 ^ e
        let half : ℝ := 2 ^ ((f.topExp : ℤ) - f.bias - f.frac) / 2
        (x ≠ 0 → |x| ≤ top → RoundsTo f r x y) ∧
        (x = 0 → y = if neg then 2 ^ (f.expo + f.frac) else 0) ∧
        (top < |x| → (r = .rne ∧ (|x| < top + half ∨ |x| = top + half ∧ f = fmtE4M3) → y = f.maxEnc neg) ∧
          (r ≠ .rne ∨ top + half < |x| ∨ |x| = top + half ∧ f ≠ fmtE4M3 → y = beyond f r sat neg)) ∧
        fpRound f r sat (.inf neg) = (if f = fmtE2M1 ∨ sat = true then f.maxEnc neg else if f = fmtE4M3 then 0x7F else infOf f neg) ∧
        fpRound f r sat .nan = if f = fmtE2M1 then 0 else if f = fmtE4M3 then 0x7F else infOf f false + 2 ^ (f.frac - 1)

/-- R94, R95, R99, R100, R102, R107, R108: what is rounded is exact, in real numbers. A sum and a product are the sum and the
product, with the sign that R94 gives a zero; a comparison is that of the numbers; a group sum is the sum of its products, of
16-bit operands the sum of the products cut toward zero at 91 places below the largest one's leading place; an accumulation
rounds the group sum, then the sum. The reciprocal and the reciprocal square root of an encoding's number are rounded once,
directly to its format, and a power of two, or the logarithm of one, that the format holds is delivered exactly. Of the other
powers and logarithms no number is stated here. -/
def Obligations.OperationsAreExact : Prop :=
  (∀ (r : Rnd) (a b : FV) (x y : ℝ), IsReal a x → IsReal b y →
    IsReal (fvAdd r a b) (x + y) ∧
    (x + y = 0 → fvSign (fvAdd r a b) = if fvSign a = fvSign b then fvSign a else r == .rdn) ∧
    IsReal (fvMul a b) (x * y) ∧ fvSign (fvMul a b) = (fvSign a != fvSign b) ∧
    (fvCmp a b = some .lt ↔ x < y) ∧ (fvCmp a b = some .eq ↔ x = y) ∧ (fvCmp a b = some .gt ↔ y < x)) ∧
  (∀ (float : Bool) (ts : List Term) (p : Term → ℝ),
    (∀ t ∈ ts, t.sa ≠ 255 ∧ t.sb ≠ 255 ∧ ∃ x y, IsReal t.a x ∧ IsReal t.b y ∧
      p t = x * y * 2 ^ ((t.sa : ℤ) - 127) * 2 ^ ((t.sb : ℤ) - 127)) →
    IsReal (groupSum false float ts) (ts.map p).sum ∧
    ((∀ t ∈ ts, p t = 0) → IsReal (groupSum true float ts) 0) ∧
    ∀ E : ℤ, (∀ t ∈ ts, |p t| < 2 ^ (E + 1)) → (∃ t ∈ ts, 2 ^ E ≤ |p t|) →
      IsReal (groupSum true float ts) (ts.map (fun t => SignType.sign (p t) * (⌊|p t| / 2 ^ (E - 91)⌋ : ℝ) * 2 ^ (E - 91))).sum) ∧
  (∀ (c : Nat) (g : FV), accumulate c g =
    fpRound fmtF32 .rne false (fvAdd .rne (fpDecode fmtF32 c) (fpDecode fmtF32 (fpRound fmtF32 .rne false g)))) ∧
  (∀ f ∈ [fmtF32, fmtF16, fmtBF16], ∀ (r : Rnd) (sat : Bool) (a : Nat) (x top : ℝ), HasValue f a x → HasValue f (f.maxEnc false) top →
    (x ≠ 0 → |1 / x| ≤ top → RoundsTo f r (1 / x) (fpRcp f r sat (fpDecode f a))) ∧
    (0 < x → 1 / √x ≤ top → RoundsTo f r (1 / √x) (fpRsq f r sat (fpDecode f a))) ∧
    (∀ k : ℤ, x = k → (2 : ℝ) ^ k ≤ top → RoundsTo f r (2 ^ k) (fpExp2 f r sat (fpDecode f a))) ∧
    (∀ k : ℤ, x = 2 ^ k → k ≠ 0 → RoundsTo f r k (fpLog2 f r sat (fpDecode f a))) ∧
    (x = 1 → fpLog2 f r sat (fpDecode f a) = 0))

/-- R140, R145, R149, R158: the integer element operations and VKEY, element by element under the lane predicate. -/
def Obligations.VectorInteger : Prop :=
  ∀ (f : VR) (s : State), Room s 1 → OwnV s [f.vd.val, f.va.val, f.vb.val, f.vc.val] →
    let w := tyWidth f.ty
    let a := fun j => elem (rdV s f.va.val).toNat w j
    let b := fun j => elem (rdV s f.vb.val).toNat w j
    let gives := fun (i : Instr) (cls : Nat) (g : Nat → Nat) => ∃ v, exec i s = .next (withResult s (.vec f.vd.val) v cls) ∧
      Merged v w (rdK s f.km.val) (rdV s f.vd.val) g
    gives (.viadd f) 0 (fun j => fitInt f.ty f.sat (intOf f.ty (a j) + intOf f.ty (b j))) ∧
    gives (.visub f) 0 (fun j => fitInt f.ty f.sat (intOf f.ty (a j) - intOf f.ty (b j))) ∧
    gives (.vimul f) 1 (fun j => fitInt f.ty f.sat (intOf f.ty (a j) * intOf f.ty (b j))) ∧
    gives (.vand f) 0 (fun j => a j &&& b j) ∧ gives (.vor f) 0 (fun j => a j ||| b j) ∧ gives (.vxor f) 0 (fun j => a j ^^^ b j) ∧
    gives (.vshl f) 0 (fun j => a j <<< (b j % w)) ∧ gives (.vshr f) 0 (fun j => a j >>> (b j % w)) ∧
    gives (.vsar f) 0 (fun j => ((BitVec.ofNat w (a j)).sshiftRight (b j % w)).toNat) ∧
    gives (.vkey f) 0 (fun j => if f.ctl.getLsbD 0 then 2 ^ w - 1 - orderKey f.ty (a j) else orderKey f.ty (a j))

/-- R150, R151, R152: compares into lane predicates, select, broadcast, insert and extract, and rotation (the VROT of R152). -/
def Obligations.CompareAndSelect : Prop :=
  (∀ (f : VR) (s : State), Room s 1 → OwnV s [f.va.val, f.vb.val] →
    let w := tyWidth f.ty
    let gives := fun (i : Instr) (cls : Nat) (test : Nat → Nat → Bool) => ∃ v,
      exec i s = .next (withResult s (.kreg f.vd.val) v cls) ∧ ∀ j, j < 64 →
        let i := if w = 32 then j else 2 * j + fld f.ctl.toNat 3 3
        v.testBit j = ((rdK s f.km.val).getLsbD (i * w / 32) &&
          test (elem (rdV s f.va.val).toNat w i) (elem (rdV s f.vb.val).toNat w i))
    gives (.vcmp f) 5 (fun a b => fvCond (condVR f) (valueOf f.ty a) (valueOf f.ty b)) ∧
    gives (.vicmp f) 0 (fun a b => condHolds (condVR f) (intOf f.ty a) (intOf f.ty b))) ∧
  (∀ (f : VR) (s : State), Room s 1 → OwnV s [f.vd.val, f.va.val, f.vb.val, f.vc.val] →
    ∃ v, exec (.vsel f) s = .next (withResult s (.vec f.vd.val) v 0) ∧
      Merged v (tyWidth f.ty) (rdK s f.km.val) (rdV s f.vb.val) (fun j => elem (rdV s f.va.val).toNat (tyWidth f.ty) j)) ∧
  (∀ (f : VI) (s : State), Room s 1 → OwnV s [f.vd.val, f.va.val] →
    let w := tyWidth f.ty
    let e := fld f.imm.toNat 8 0
    (∃ v, exec (.vbcst f) s = .next (withResult s (.vec f.vd.val) v 0) ∧
      Merged v w (rdK s f.km.val) (rdV s f.vd.val) (fun _ => (rdS s f.sa.val + f.imm.signExtend 64).toNat)) ∧
    ((Instr.vmovs f).WellFormed → f.imm.getLsbD 15 = true → exec (.vmovs f) s =
      .next (withResult s (.scalar f.sa.val) (widen f.ty (elem (rdV s f.va.val).toNat w e)) 0)) ∧
    ((Instr.vmovs f).WellFormed → f.imm.getLsbD 15 = false →
      ∃ v, exec (.vmovs f) s = .next (withResult s (.vec f.vd.val) v 0) ∧
        Elements v w (fun j => if j = e then (rdS s f.sa.val).toNat else elem (rdV s f.vd.val).toNat w j)) ∧
    (∃ v, exec (.vrot f) s = .next (withResult s (.vec f.vd.val) v 0) ∧
      Merged v w (rdK s f.km.val) (rdV s f.vd.val) (fun j =>
        elem (rdV s f.va.val).toNat w ((j + ((rdS s f.sa.val).toNat + f.imm.toNat)) % (2048 / w)))))

/-- R152 to R155: VPERM, VCVT, VPACK, VUNPK and VBSCL, element by element. -/
def Obligations.PermuteAndConvert : Prop :=
  ∀ (f : VR) (s : State), Room s 1 → OwnV s [f.vd.val, f.va.val, f.vb.val, f.vc.val] →
    let w := tyWidth f.ty
    let w2 := tyWidth f.ty2
    let k := rdK s f.km.val
    let old := rdV s f.vd.val
    let a := (rdV s f.va.val).toNat
    let b := (rdV s f.vb.val).toNat
    let c := (rdV s f.vc.val).toNat
    let n := 2048 / w
    let half := 64 * fld f.ctl.toNat 0 0
    let h := fld f.ctl.toNat 2 0
    let grouped := fun (v : Nat) (g : Nat → Nat) => Elements v w (fun j =>
      if 64 * h ≤ j ∧ j < 64 * h + 64 ∧ k.getLsbD (j - 64 * h) = true then g (j - 64 * h) else elem old.toNat w j)
    (∃ v, exec (.vperm f) s = .next (withResult s (.vec f.vd.val) v 5) ∧ Merged v w k old (fun j =>
      if f.ctl.getLsbD 0 = false then elem a w (elem b w j % n)
      else if elem b w j % (2 * n) < n then elem a w (elem b w j % (2 * n)) else elem c w (elem b w j % (2 * n) - n))) ∧
    (∃ v, exec (.vcvt f) s = .next (withResult s (.vec f.vd.val) v 5) ∧ Merged v w k old (fun j =>
      if w = w2 then convert f.ty f.ty2 f.rnd f.sat (elem a w2 j)
      else if w2 < w then convert f.ty f.ty2 f.rnd f.sat (elem a w2 (half + j))
      else if half ≤ j ∧ j < half + 64 then convert f.ty f.ty2 f.rnd f.sat (elem a w2 (j - half))
      else elem old.toNat w j)) ∧
    (∃ v, exec (.vpack f) s = .next (withResult s (.vec f.vd.val) v 5) ∧
      grouped v (fun j => convert f.ty f.ty2 f.rnd f.sat (elem a 32 j))) ∧
    (∃ v, exec (.vunpk f) s = .next (withResult s (.vec f.vd.val) v 5) ∧ Merged v w k old (fun j =>
      let x := elem a w2 (64 * h + j)
      let sc := elem b 8 ((64 * h + j) / 32)
      if f.ctl.getLsbD 3 = false then convert f.ty f.ty2 .rne false x
      else if sc = 255 then 0x7FC00000
      else fpRound fmtF32 f.rnd f.sat (fvScale (valueOf f.ty2 x) ((sc : Int) - 127)))) ∧
    (f.ctl.getLsbD 4 = true → ∃ v, exec (.vbscl f) s = .next (withResult s (.vec f.vd.val) v 5) ∧ grouped v (fun j =>
      let sc := elem b 8 (2 * h + j / 32)
      if sc = 255 then convert f.ty .f32 f.rnd false (elem a 32 j)
      else fpRound (fmtOf f.ty) f.rnd true (fvScale (valueOf .f32 (elem a 32 j)) (127 - (sc : Int))))) ∧
    (f.ctl.getLsbD 4 = false → ∃ v, exec (.vbscl f) s = .next (withResult s (.vec f.vd.val) v 5) ∧ Elements v 8 (fun j =>
      if j = 2 * h ∨ j = 2 * h + 1 then blockScale f.ty ((List.range 32).map (fun i =>
        if k.getLsbD (32 * (j - 2 * h) + i) then valueOf .f32 (elem a 32 (32 * (j - 2 * h) + i)) else .fin false 0 0))
      else elem old.toNat 8 j))

/-- R105, R106, R156, R157, R159: sums, maxima, minima, scans and histograms of the enabled elements, due after twice the
latency of class vfma; an integer reduction replaces lane 0 alone. Rests on the model's choices of log entry 70. -/
def Obligations.Reductions : Prop :=
  ∀ (f : VR) (s : State), Room s 1 → OwnV s [f.vd.val, f.va.val, f.vb.val, f.vc.val] →
    let w := tyWidth f.ty
    let k := rdK s f.km.val
    let old := (rdV s f.vd.val).toNat
    let picked := fun (identity : Nat) => (List.range (2048 / w)).map (fun i =>
      if k.getLsbD (i * w / 32) then elem (rdV s f.va.val).toNat w i else identity)
    let lane0 := fun (i : Instr) (r : Nat) => ∃ v, exec i s = .next (withTwice s f.vd.val v) ∧
      Elements v 32 (fun j => if j = 0 then r else elem old 32 j)
    let floats := fun (identity : Nat) => (picked identity).map (toF32 f.ty)
    let ints := fun (identity : Nat) => (picked identity).map (intOf f.ty)
    (tyFloat f.ty = true →
      lane0 (.vrsum f) ((treeReduce (addF32 f.rnd f.sat) 7 (floats (2 ^ (w - 1)))).headD 0) ∧
      lane0 (.vrmax f) ((treeReduce (pickF32 fvMax) 7 (floats ((fmtOf f.ty).infEnc true))).headD 0) ∧
      lane0 (.vrmin f) ((treeReduce (pickF32 fvMin) 7 (floats ((fmtOf f.ty).infEnc false))).headD 0)) ∧
    (tyFloat f.ty = false →
      lane0 (.vrsum f) (fitInt (wideTy f.ty) f.sat (ints 0).sum) ∧
      lane0 (.vrmax f) (wrapInt 32 ((ints (wrapInt w (intLo f.ty))).foldl max (intLo f.ty))) ∧
      lane0 (.vrmin f) (wrapInt 32 ((ints (wrapInt w (intHi f.ty))).foldl min (intHi f.ty)))) ∧
    (let op := fld f.ctl.toNat 1 0
     let scans := fun (g : Nat → Nat) => ∃ v, exec (.vscan f) s = .next (withTwice s f.vd.val v) ∧
       Merged v w k (rdV s f.vd.val) g
     (tyFloat f.ty = false → scans (fun j => fitInt f.ty f.sat (running
        (fun x y : Int => if op = 0 then x + y else if op = 1 then max x y else min x y) 0
        (ints (if op = 0 then 0 else wrapInt 32 (if op = 1 then intLo f.ty else intHi f.ty))) j))) ∧
     (tyFloat f.ty = true → scans (running
        (fun x y => if op = 0 then addF32 f.rnd f.sat x y else if op = 1 then pickF32 fvMax x y else pickF32 fvMin x y) 0
        (floats (if op = 0 then 2 ^ (w - 1) else (fmtOf f.ty).infEnc (op == 1)))))) ∧
    (∃ v, exec (.vhist f) s = .next (withTwice s f.vd.val v) ∧
      let n := 2 ^ fld f.ctl.toNat 7 5
      let hits := fun d => ((List.range (2048 / w)).filter (fun i => k.getLsbD (i * w / 32) &&
        elem (rdV s f.va.val).toNat w i / 2 ^ fld f.ctl.toNat 4 0 % n == d)).length
      Elements v 32 (fun d => if d < n then
          fitInt .n32 f.sat (((if f.ctl.getLsbD 8 then elem old 32 d else 0) + hits d : Nat) : Int)
        else elem old 32 d))

/-- R160 to R162, R164: vector loads and stores of the enabled lanes, the gather, their faults, an enabled element misaligned,
out of bounds or on a ciphertext line, ctx.tval the lowest failing byte, and the next element of a stream, which traps where
none of 256 bytes is bound. -/
def Obligations.VectorMemory : Prop :=
  (∀ (f : VM) (s : State), s.errs = [] → OwnV s [f.vd.val, f.va.val] →
    let k := rdK s f.km.val
    let a := (rdS s f.sa.val + f.off.signExtend 64).toNat
    let fits := fun sp => (k ≠ 0 → a % 64 = 0) ∧ ∀ j, j < 64 → k.getLsbD j = true → Inside s sp (a + 4 * j) 4
    let loads := fun (i : Instr) (sp : Space) (cls : Nat) => Room s 1 → fits sp →
      ∃ v, exec i s = .next (withResult s (.vec f.vd.val) v cls) ∧
        Merged v 32 k (rdV s f.vd.val) (fun j => elem (leNat (seen s sp a 256)) 32 j)
    let stores := fun (i : Instr) (sp : Space) => fits sp →
      exec i s = .next (withEntry s (.store s.arch.tick
        ((addressed (spaceBase s sp + a) (leBytes 256 (rdV s f.va.val).toNat)).filter
          (fun b => k.getLsbD ((b.1 - (spaceBase s sp + a)) / 4)))))
    loads (.vlda f) .act 3 ∧ loads (.vldc f) .acc 4 ∧ stores (.vsta f) .act ∧ stores (.vstc f) .acc ∧
    (let at' := fun j => (a + elem (rdV s f.va.val).toNat 32 j) % 2 ^ 64
     Room s 1 → (∀ j, j < 64 → k.getLsbD j = true → Clear s .act (at' j) 4 4) →
      ∃ v, exec (.vglda f) s = .next (withResult s (.vec f.vd.val) v 3) ∧
        Merged v 32 k (rdV s f.vd.val) (fun j => leNat (seen s .act (at' j) 4)))) ∧
  (∀ (f : VM) (s : State), OwnV s [f.vd.val, f.va.val] →
    let k := rdK s f.km.val
    let a := (rdS s f.sa.val + f.off.signExtend 64).toNat
    let on := fun j => j < 64 ∧ k.getLsbD j = true
    let traps := fun (i : Instr) (c : Cause) (code x : Nat) => exec i s = .next (raise s c code (BitVec.ofNat 64 x))
    let out := fun sp x => x < (spaceBounds s sp).1 ∨ (spaceBounds s sp).2 < x + 4
    let low := fun sp x => if x < (spaceBounds s sp).1 then x else max x (spaceBounds s sp).2
    let lanes := fun (i : Instr) (sp : Space) (at' : Nat → Nat) =>
      (∀ j, on j → out sp (at' j) → (∀ m, on m → out sp (at' m) → low sp (at' j) ≤ low sp (at' m)) →
        traps i .bound 1 (low sp (at' j))) ∧
      (sp = .act → (∀ m, on m → ¬ out sp (at' m)) → ∀ j, on j → s.form s.cur.core (at' j / 256) = true →
        (∀ m, on m → s.form s.cur.core (at' m / 256) = true → at' j ≤ at' m) → traps i .form 1 (at' j))
    (∀ (i : Instr) (sp : Space),
      (i = .vlda f ∧ sp = .act) ∨ (i = .vsta f ∧ sp = .act) ∨ (i = .vldc f ∧ sp = .acc) ∨ (i = .vstc f ∧ sp = .acc) →
      (k ≠ 0 → a % 64 ≠ 0 → traps i .bound 2 a) ∧ (a % 64 = 0 → lanes i sp (fun j => a + 4 * j))) ∧
    (let at' := fun j => (a + elem (rdV s f.va.val).toNat 32 j) % 2 ^ 64
     (∀ j, on j → at' j % 4 ≠ 0 → (∀ m, on m → at' m % 4 ≠ 0 → at' j ≤ at' m) → traps (.vglda f) .bound 2 (at' j)) ∧
     ((∀ m, on m → at' m % 4 = 0) → lanes (.vglda f) .act at'))) ∧
  (∀ (f : VQ) (s : State), OwnV s [f.vd.val] → (∀ b, s.arch.rdQ f.q.val = some b → b.units ≠ 4) →
    exec (.vmovq f) s = .next (raise s .trap 0xFF05 0)) ∧
  (∀ (f : VQ) (s : State) (b : Binding), s.errs = [] → Room s 1 → OwnV s [f.vd.val] → s.arch.rdQ f.q.val = some b → b.units = 4 →
    (streamReady s.me f.q.val = false → exec (.vmovq f) s = .next s) ∧
    (streamReady s.me f.q.val = true → ∃ v, exec (.vmovq f) s =
        .next (withResult (s.setArch (s.arch.wrQ f.q.val (some { b with consumed := b.consumed + 1 }))) (.vec f.vd.val) v 0) ∧
      Merged v 32 (rdK s f.km.val) (rdV s f.vd.val)
        (fun j => elem (leNat (seen s .act (b.base + b.consumed % (b.slotsM1 + 1) * 256) 256)) 32 j)))

/-- R165: the lane-predicate instructions; the fields that they do not use are zero, and a result for k0 is discarded when it
lands. -/
def Obligations.LanePredicates : Prop :=
  (∀ (f : VK) (i : Instr), i = .kand f ∨ i = .kor f → i.WellFormed → f.sd.val = 0) ∧
  (∀ f : VK, ((Instr.knot f).WellFormed → f.kb.val = 0 ∧ f.sd.val = 0) ∧ ((Instr.kset f).WellFormed → f.ka.val = 0 ∧ f.kb.val = 0) ∧
    ((Instr.kpop f).WellFormed → f.kd.val = 0)) ∧
  (∀ (a : Arch) (d : DueReg), d.dest = .kreg 0 → ∀ n, (a.land d).rdK n = a.rdK n) ∧
  ∀ (f : VK) (s : State), Room s 1 →
    let gives := fun (i : Instr) (v : Word) => exec i s = .next (withResult s (.kreg f.kd.val) v.toNat 0)
    gives (.kand f) (rdK s f.ka.val &&& rdK s f.kb.val) ∧ gives (.kor f) (rdK s f.ka.val ||| rdK s f.kb.val) ∧
    gives (.knot f) (~~~ rdK s f.ka.val) ∧ gives (.kset f) (rdS s f.sd.val) ∧
    exec (.kpop f) s = .next (withResult s (.scalar f.sd.val)
      ((List.range 64).filter (fun i => (rdK s f.ka.val &&& rdK s f.kb.val).getLsbD i)).length 0)

/-! The M slot. -/

/-- R173, R174, R178, R183 to R185: MLAT, MLATA and MLATQ load a whole latch; MLAT takes the weight port for its cycles, and a
stream without an element leaves the state as it stands; a misaligned or out-of-bounds image and a stream of elements of
another size trap. MSET writes a shadow word within its limits and traps on any other value; MSHAPE loads a valid record with
its derived fields; MPAD replaces the padding or the base of one and derives again, and traps on a value out of range and on
a record that is not valid before or after. -/
def Obligations.LatchesAndEngineWords : Prop :=
  (∀ (f : ML) (s : State), s.errs = [] → s.arch.dueLatches.length < 8 →
    let a := (rdS s f.sa.val + f.imm.signExtend 64).toNat
    (Clear s .wt a 2176 64 → exec (.mlat f) s =
      .next (withLatch (s.setMyCore { s.myCore with busyPort := s.myCore.cycle + Config.mlatPort }) f.w.val
        (leNat (seen s .wt a 2176)))) ∧
    (Clear s .act a 2176 64 → exec (.mlata f) s = .next (withLatch s f.w.val (leNat (seen s .act a 2176)))) ∧
    (∀ (i : Instr) (sp : Space) (u : State), (i = .mlata f ∧ sp = .act ∧ u = s) ∨
        (i = .mlat f ∧ sp = .wt ∧ u = s.setMyCore { s.myCore with busyPort := s.myCore.cycle + Config.mlatPort }) →
      (a % 64 ≠ 0 → exec i s = .next (raise u .bound 2 (BitVec.ofNat 64 a))) ∧
      (a % 64 = 0 → a < (spaceBounds s sp).1 → exec i s = .next (raise u .bound 1 (BitVec.ofNat 64 a))) ∧
      (a % 64 = 0 → (spaceBounds s sp).1 ≤ a → (spaceBounds s sp).2 < a + 2176 →
        exec i s = .next (raise u .bound 1 (BitVec.ofNat 64 (max a (spaceBounds s sp).2))))) ∧
    ((∀ b, s.arch.rdQ f.q.val = some b → b.units ≠ 34) → exec (.mlatq f) s = .next (raise s .trap 0xFF06 0)) ∧
    (∀ b, s.arch.rdQ f.q.val = some b → b.units = 34 →
      (streamReady s.me f.q.val = false → exec (.mlatq f) s = .next s) ∧
      (streamReady s.me f.q.val = true → exec (.mlatq f) s =
        .next (withLatch (s.setArch (s.arch.wrQ f.q.val (some { b with consumed := b.consumed + 1 }))) f.w.val
          (leNat (seen s .act (b.base + b.consumed % (b.slotsM1 + 1) * 2176) 2176)))))) ∧
  ∀ (f : MS) (s : State), Room s 1 →
    let v := (rdS s f.sa.val).toNat
    let h := (s.arch.rdH f.h.val).toNat
    (engWordOk f.sel.toNat v = true → exec (.mset f) s = .next (withResult s (.eng f.sel.toNat) v 0)) ∧
    (engWordOk f.sel.toNat v = false → exec (.mset f) s = .next (raise s .shape 3 0)) ∧
    (s.errs = [] → Clear s .act v 32 32 →
      let r := leNat (seen s .act v 32)
      (shapeOk r = true → fld r 63 32 = 0 → exec (.mshape f) s = .next (withResult s (.shape f.h.val) (shapeDerive r) 3)) ∧
      (shapeOk r = false ∨ fld r 63 32 ≠ 0 → exec (.mshape f) s = .next (raise s .shape 1 0))) ∧
    (let n := if f.sel = 0 then
        setFld (setFld (setFld (setFld h 215 208 (fld v 31 24)) 207 200 (fld v 23 16)) 199 192 (fld v 15 8)) 191 184 (fld v 7 0)
      else setFld h 84 64 v
     let inRange := v < if f.sel = 0 then 2 ^ 32 else 2 ^ 21
     (shapeOk h = true → inRange → shapeOk n = true → exec (.mpad f) s = .next (withResult s (.shape f.h.val) (shapeDerive n) 0)) ∧
     (shapeOk h = false ∨ ¬ inRange ∨ shapeOk n = false → exec (.mpad f) s = .next (raise s .shape 1 0)))

/-- R175, R179 to R182, R186: MMA, MMAV and MCONV swap in the shadow words and stage one row of 32 columns for every live
row, due M + L(array) ticks on; array and latch are occupied for M cycles, and nothing else changes. -/
def Obligations.ArrayStarts : Prop :=
  ∀ (f : MX) (s : State), s.errs = [] →
    let p := s.arch.mSh
    let u := s.setArch { s.arch with mAct := s.arch.mSh }
    let kt := tileDepth f.tya f.tyb
    let live := kt - fld p.kpad.toNat 7 0
    let nb := liveBytes f.tya live
    let m := fld p.rows.toNat 8 0
    let x := (rdS s f.sa.val).toNat
    let h := (s.arch.rdH f.h.val).toNat
    let scales := if isScaled f.tya (p.mode.getLsbD 0) then some (liveScales live) else none
    let out := fun (rows : List (Nat × ARow × Nat)) =>
      let t := u.setMyCore { u.myCore with
        busyArray := s.myCore.cycle + m
        latchBusy := Tab.set 0 s.myCore.latchBusy (s.cur.ctx * 8 + f.w.val) (s.myCore.cycle + m) }
      if rows = [] then t
      else withRows t (rows.map (fun r => (r.2.2, arrayRow u p f (s.arch.rdW f.w.val).toNat (rdV s f.va.val).toNat r)))
        (m + latency s 8) (m + ownLatency 8)
    fld p.kpad.toNat 7 0 < kt →
    (let rows := liveRows p (fun i => .mem ((x + i * fld p.astride.toNat 23 0) % 2 ^ 64))
     ArrayFits s rows scales nb m → x % 64 = 0 → exec (.mma f) s = .next (out rows)) ∧
    (let rows := liveRows p (fun i => .vec (64 * i))
     ArrayFits s rows scales nb m → OwnM s [f.va.val] → m ≤ 4 → exec (.mmav f) s = .next (out rows)) ∧
    (let rows := liveRows p (convRow h x)
     ArrayFits s rows scales nb m → convBad h x = false → scales = none → exec (.mconv f) s = .next (out rows))

/-- R187, R188: MZERO stages zero rows; MDRAIN swaps in the shadow words and converts rows into a vector register or, with
the bytes withheld, into the activation buffer. -/
def Obligations.AccumulatorRows : Prop :=
  (∀ (f : MS) (s : State),
    let rows := (List.range (f.sel.toNat + 1)).map ((rdS s f.sb.val).toNat + ·)
    (∀ r ∈ rows, stagedLate s.arch r (latency s 0) = false) → (∀ r ∈ rows, Inside s .acc (128 * r) 128) →
    s.arch.groups.length < 16 → stagedRows s.arch + rows.length ≤ 512 →
    exec (.mzero f) s = .next (withRows s (rows.map (fun r => (r, 0))) (latency s 0) (ownLatency 0))) ∧
  (∀ (f : MS) (s : State), s.errs = [] →
    let u := s.setArch { s.arch with mAct := s.arch.mSh }
    let w := tyWidth f.ty
    let r0 := (rdS s f.sb.val).toNat
    let a := (rdS s f.sa.val).toNat
    let row := fun r => drainRow f.ty s.arch.mSh.mode.toNat (leNat (seen u .acc (128 * r) 128))
    (let n := 2048 / (32 * w)
     let d := fld f.sel.toNat 5 0
     f.sel.getLsbD 7 = true → Room s 1 → OwnM s [d] → (∀ i, i < n → Inside s .acc (128 * (r0 + i)) 128) →
      exec (.mdrain f) s = .next (withResult u (.vec d) (joinElems (32 * w) ((List.range n).map (fun i => row (r0 + i)))) 4)) ∧
    (let n := fld f.sel.toNat 6 0 + 1
     f.sel.getLsbD 7 = false → Clear s .act a (4 * w * n) (4 * w) → (∀ i, i < n → Inside s .acc (128 * (r0 + i)) 128) →
      exec (.mdrain f) s =
        .next (withStore u .act a (leBytes (4 * w * n) (joinElems (32 * w) ((List.range n).map (fun i => row (r0 + i))))))))

/-- R177, R189: DOT and DOTACC swap in the shadow words and replace the 16 lanes that the mode word selects, lane by lane
the groups accumulated in order; dot engine and weight port are occupied for one cycle or two. -/
def Obligations.DotProducts : Prop :=
  ∀ (f : MD) (s : State), s.errs = [] → Room s 1 → OwnM s [f.vd.val, f.va.val] →
    let p := s.arch.dSh
    let u := s.setArch { s.arch with dAct := p }
    let n := if tyWidth f.tyb = 4 then 1 else 2
    let t := u.setMyCore { u.myCore with busyDot := s.myCore.cycle + n, busyPort := s.myCore.cycle + n }
    let k := dotDepth f.tya
    let g := groupSize f.tya f.tyb
    let live := k - fld p.mode.toNat 15 8
    let nb := liveBytes f.tyb live
    let a := (rdS s f.sa.val).toNat
    let row := fun l => (a + l * fld p.wstride.toNat 23 0) % 2 ^ 64
    let scale := fun l => wrapInt 64 ((a : Int) + sx 32 p.wscale.toNat + (2 * l : Nat))
    let scaled := isScaled f.tyb (p.mode.getLsbD 1)
    let va := (rdV s f.va.val).toNat
    let old := (rdV s f.vd.val).toNat
    let red := fun l => Reduction.mk f.tya f.tyb va (leNat (seen s .wt (row l) nb))
      (if isScaled f.tya (p.mode.getLsbD 0) then some (va >>> 1024) else none)
      (if scaled then some (leNat (seen s .wt (scale l) (liveScales live))) else none) live g
    let o := 16 * fld p.mode.toNat 5 4
    fld p.mode.toNat 15 8 < k → a % 32 = 0 → fld p.wstride.toNat 23 0 % 32 = 0 →
    (∀ l, l < 16 → Inside s .wt (row l) nb) → (scaled = true → ∀ l, l < 16 → Inside s .wt (scale l) (liveScales live)) →
    ∀ (i : Instr) (start : Nat → Nat),
      (i = .dot f ∧ start = fun _ => 0x80000000) ∨ (i = .dotacc f ∧ start = fun j => elem old 32 j) →
      ∃ v, exec i s = .next (withResult t (.vec f.vd.val) v 9) ∧
        Elements v 32 (fun j => if o ≤ j ∧ j < o + 16 then redRun (red (j - o)) (k / g) (start j) else elem old 32 j)

/-! The E slot. -/

/-- R351 to R355: semaphores, transfer barriers and transfer IDs; a wait whose condition is unmet leaves the state as it
stands. -/
def Obligations.Counters : Prop :=
  ∀ (f : EC) (s : State),
    let v : Word := if f.sa.val = 0 then f.imm.setWidth 64 else rdS s f.sa.val
    let n := f.f.toNat
    let sem : BitVec 16 := Tab.get 0 s.cur.sems n
    let b := s.arch.rdTb f.tb.val
    let x := (rdS s f.sa.val).setWidth 32
    exec (.semset f) s = .next (s.setArch (s.arch.wrF n (v.setWidth 16))) ∧
    exec (.semadd f) s = .next (s.setArch (s.arch.wrF n (s.arch.rdF n + v.setWidth 16))) ∧
    (Room s 1 → holds f.cond false sem f.imm = true → exec (.semwt f) s = .next (withResult s (.scalar f.sd.val) sem.toNat 0)) ∧
    (holds f.cond false sem f.imm = false → exec (.semwt f) s = .next s) ∧
    (∀ (i : Instr) (e : Bool), (i = .tbarm f ∧ tbArmed b = false ∧ e = false) ∨ (i = .tbexp f ∧ tbArmed b = true ∧ e = tbErr b) →
      v.toNat < 2 ^ 23 →
      let c := tbCount b + v.toNat
      exec i s = .next (s.setArch (s.arch.wrTb f.tb.val
        (if 2 ^ 23 ≤ c then tbMake true false (!tbPhase b) 0
         else if c = 0 then tbMake e false (!tbPhase b) 0 else tbMake e true (tbPhase b) c)))) ∧
    (tbArmed b = true ∨ 2 ^ 23 ≤ v.toNat → exec (.tbarm f) s = .next (raise s .trap 0xFF0E 0)) ∧
    (tbArmed b = false ∨ 2 ^ 23 ≤ v.toNat → exec (.tbexp f) s = .next (raise s .trap 0xFF0E 0)) ∧
    (Room s 1 → f.imm.toNat = b2n (tbPhase b) → exec (.tbwait f) s = .next (withResult s (.scalar f.sd.val) b.toNat 0)) ∧
    (f.imm.toNat ≠ b2n (tbPhase b) → exec (.tbwait f) s = .next s) ∧
    (Room s 1 → exec (.xidrd f) s = .next (withResult s (.scalar f.sd.val)
      (if f.imm = 0 then Tab.get 0 s.me.status f.ch.val else s.arch.rdId f.ch.val).toNat 0)) ∧
    (2 ^ 31 ≤ (x - s.arch.rdId f.ch.val).toNat → exec (.xidwt f) s = .next s) ∧
    ((x - s.arch.rdId f.ch.val).toNat < 2 ^ 31 → exec (.xidwt f) s = .next (raise s .trap 0xFF0F 0))

/-- R198, R265, R269, R273, R354: CPY, GATH and QAPP of a fit image and record take the channel's next transfer ID and are
withheld with their operands; a CPY or GATH with a stream attaches it. Rests on the model's choices of log entry 24. -/
def Obligations.CopyCommands : Prop :=
  ∀ (f : ER) (s : State), Room s 1 → s.cur.trapped = false → RecordFits s f.sc 16 →
    let a := (rdS s f.sa.val).toNat
    let b := (rdS s f.sb.val).toNat
    let n := (rdS s f.sb.val).toNat
    let rec' := if f.sc.val = 0 then 0 else (rdS s f.sc.val).toNat + 1
    let tb := if erFl f 19 19 = 1 then some f.tb.val else none
    let attached := fun (v : Binding) =>
      s.arch.wrQ f.q.val (some { v with att := some (f.ch.val, s.arch.rdId f.ch.val) })
    let out := fun (t : State) (k : CmdKind) =>
      Host.Outcome.next (withTransfer t f.ch.val f.sd.val (erFl f 13 11) k)
    (Clear s .act a 64 64 → erFl f 18 18 = 0 → exec (.cpy f) s = out s (.cpy a rec' tb none)) ∧
    (Clear s .act a 64 64 → erFl f 18 18 = 1 → ∀ v, s.arch.rdQ f.q.val = some v → v.att = none →
      exec (.cpy f) s = out (s.setArch (attached v)) (.cpy a rec' tb (some f.q.val))) ∧
    (Clear s .act a 64 64 → 1 ≤ n → n < 2 ^ 24 → s.arch.rdG f.ch.val = none → ∀ v, s.arch.rdQ f.q.val = some v → v.att = none →
      exec (.gath f) s = out (s.setArch ((attached v).wrG f.ch.val (some ⟨f.q.val, n, 0⟩))) (.gath a n rec' tb f.q.val)) ∧
    (Clear s .act b 64 64 → exec (.qapp f) s = out s (.qapp (rdS s f.sa.val) b rec'))

/-- R217, R219, R356: ATOM, SEAL, OPEN and SIGADD take a transfer ID and are withheld; SEAL and OPEN need a confidential
context, else they trap with 0xFF07. -/
def Obligations.AtomicAndSealCommands : Prop :=
  (∀ (f : ER) (s : State), Room s 1 → s.cur.trapped = false →
    let a := (rdS s f.sa.val).toNat
    let b := (rdS s f.sb.val).toNat
    let r := (rdS s f.sc.val).toNat
    let n := f.imm.toNat + 1
    let out := fun (k : CmdKind) => Host.Outcome.next (withTransfer s f.ch.val f.sd.val (erFl f 13 11) k)
    (Clear s .act r 16 16 → exec (.atom f) s = out (.atom (rdS s f.sa.val) (rdS s f.sb.val)
      (if erFl f 19 16 = 7 then BitVec.ofNat 64 (leNat (seen s .act r 8)) else 0) r (erFl f 19 16) (erFl f 15 15 = 1)
      (erFl f 14 14 = 1))) ∧
    (s.me.mode.getLsbD 2 = false → exec (.seal f) s = .next (raise s .trap 0xFF07 0) ∧
      exec (.unseal f) s = .next (raise s .trap 0xFF07 0)) ∧
    (s.me.mode.getLsbD 2 = true → a % 256 = 0 → (spaceBounds s .act).1 ≤ a → a + 256 * n ≤ (spaceBounds s .act).2 →
      Clear s .act b (32 * n) 32 → (b + 32 * n ≤ a ∨ a + 256 * n ≤ b) →
      exec (.seal f) s = out (.seal a b n) ∧ exec (.unseal f) s = out (.unseal a b n))) ∧
  (∀ (f : EC) (s : State), Room s 1 → s.cur.trapped = false → signalFlaw (rdS s f.sa.val).toNat = none →
    exec (.sigadd f) s = .next (withTransfer s f.ch.val f.sd.val 5 (.sigadd (rdS s f.sa.val) (rdS s f.sb.val))))

/-- R331, R332: the key-value commands of fit images and result blocks take a transfer ID and are withheld; KVAPP takes 1 to
4,096 entries. -/
def Obligations.KeyValueCommands : Prop :=
  ∀ (f : ER) (s : State), Room s 1 → s.cur.trapped = false →
    let x := rdS s f.sa.val
    let y := rdS s f.sb.val
    let n := y.toNat
    let rec' := if f.sc.val = 0 then 0 else (rdS s f.sc.val).toNat + 1
    let gives := fun (i : Instr) (block : Nat) (k : CmdKind) => RecordFits s f.sc block →
      exec i s = .next (withTransfer s f.ch.val f.sd.val (erFl f 13 11) k)
    (Clear s .act x.toNat 64 64 → gives (.kvref f) 16 (.kvref x.toNat rec' (if erFl f 19 19 = 1 then some f.tb.val else none))) ∧
    (1 ≤ n → n ≤ 4096 → Clear s .act x.toNat (16 * n) 16 →
      gives (.kvapp f) (16 + n) (.kvapp x.toNat n rec' (f.imm.toNat + 1) (erFl f 8 8 = 1))) ∧
    (n = 0 ∨ 4096 < n → exec (.kvapp f) s = .next (raise s .trap 0xFF0D 0)) ∧
    gives (.kvrej f) 16 (.kvrej x y rec') ∧ gives (.kvcommit f) 16 (.kvcommit x rec') ∧ gives (.kvfree f) 16 (.kvfree x rec') ∧
    gives (.gzclaim f) 48 (.gzclaim x y rec' (erFl f 8 8 = 1)) ∧ gives (.gzjoin f) 16 (.gzjoin x y rec') ∧
    gives (.gzfind f) 48 (.gzfind x y rec')

/-- R223, R268, R274, R307, R308, R361: the commands without transfer ID are withheld with their operands; SREL unbinds its
stream at once; ERRINJ needs a system job and an allowed injection. Rests on the model's choices of log entries 16, 45. -/
def Obligations.CommandsWithoutId : Prop :=
  (∀ (f : ER) (s : State),
    let x := rdS s f.sa.val
    let y := rdS s f.sb.val
    let rec' := if f.sc.val = 0 then 0 else (rdS s f.sc.val).toNat + 1
    let sem := if erFl f 19 19 = 1 then some f.imm.toNat else none
    exec (.fence f) s = .next (withCommand s 9 (erFl f 13 11) (.fence (erFl f 19 19 = 1) (erFl f 18 18 = 1))) ∧
    exec (.sfence f) s = .next (withCommand s 9 (erFl f 13 11) .sfence) ∧
    (RecordFits s f.sc 16 →
      exec (.larm f) s = .next (withCommand s 8 4 (.larm x rec' sem)) ∧
      exec (.lpatch f) s = .next (withCommand s 8 4 (.lpatch x y rec' (erFl f 17 16) sem)) ∧
      exec (.cancel f) s = .next (withCommand s 8 4 (.cancel (erFl f 17 15) x rec' (erFl f 18 18 = 1) sem))) ∧
    (s.arch.rdQ f.q.val = none → exec (.srel f) s = .next (withCommand s 9 0 (.srel 16 none))) ∧
    (∀ b, s.arch.rdQ f.q.val = some b →
      exec (.srel f) s = .next (withCommand (s.setArch (s.arch.wrQ f.q.val none)) 9 0 (.srel f.q.val b.att))) ∧
    (s.me.mode.getLsbD 3 = false → exec (.errinj f) s = .next (raise s .trap 0xFF08 0)) ∧
    (s.me.mode.getLsbD 3 = true → injectOk x.toNat y.toNat (erFl f 19 16) = true → exec (.errinj f) s =
      .next (withCommand s 9 0 (.errinj x.toNat y.toNat (rdS s f.sc.val) (erFl f 19 16) (erFl f 15 15 = 1)))) ∧
    (s.me.mode.getLsbD 3 = true → injectOk x.toNat y.toNat (erFl f 19 16) = false →
      exec (.errinj f) s = .next (raise s .trap 0xFF09 0))) ∧
  (∀ (f : EC) (s : State) (j : Job), s.job s.me.job = some j →
    let r := poolRec j s.me.launch
    let i := (rdS s f.sa.val).toNat
    (lrBitmap r ≠ 0 → i < lrBitmapBits r → exec (.bmset f) s = .next (withCommand s 8 4 (.bmset (lrBitmap r) i))) ∧
    (lrBitmap r = 0 ∨ lrBitmapBits r ≤ i → exec (.bmset f) s = .next (raise s .trap 0xFF10 0)))

/-- R266, R270, R357, R361: SBIND binds a stream, whose arrived count starts at zero unless the release of the old binding is
still to come, and traps on a bound stream and on a misaligned or out-of-bounds area; GIDX pushes an index, waits while the
address queue is full, and traps with no gather open or none of its indices remaining; SIGWT and BMWAIT give their outcome once it is
there and leave the state as it stands before. Rests on the model's choices of log entries 2, 21, 24, 25, 45. -/
def Obligations.StreamsAndWaits : Prop :=
  (∀ (f : ER) (s : State),
    let a := (rdS s f.sa.val).toNat
    let bound := s.setArch (s.arch.wrQ f.q.val (some ⟨a, f.imm.toNat, erFl f 13 8, none, 0⟩))
    a % 64 = 0 → (spaceBounds s .act).1 ≤ a → a + (f.imm.toNat + 1) * 64 * erFl f 13 8 ≤ (spaceBounds s .act).2 →
      (s.arch.rdQ f.q.val = none → srelHeld s.me f.q.val = false →
        exec (.sbind f) s = .next (bound.setMe { bound.me with arrived := Tab.set 0 bound.me.arrived f.q.val 0 })) ∧
      (s.arch.rdQ f.q.val = none → srelHeld s.me f.q.val = true → exec (.sbind f) s = .next bound) ∧
      (s.arch.rdQ f.q.val ≠ none → exec (.sbind f) s = .next (raise s .trap 0xFF0A 0))) ∧
  (∀ (f : ER) (s : State),
    let a := (rdS s f.sa.val).toNat
    let n := (f.imm.toNat + 1) * 64 * erFl f 13 8
    let traps := fun (code x : Nat) => exec (.sbind f) s = .next (raise s .bound code (BitVec.ofNat 64 x))
    (Instr.sbind f).WellFormed →
    (a % 64 ≠ 0 → traps 2 a) ∧ (a % 64 = 0 → a < (spaceBounds s .act).1 → traps 1 a) ∧
    (a % 64 = 0 → (spaceBounds s .act).1 ≤ a → (spaceBounds s .act).2 < a + n → traps 1 (max a (spaceBounds s .act).2))) ∧
  (∀ (f : ER) (s : State),
    let k := addrQKey s.me.job s.me.recAddr f.ch.val
    (∀ g, s.arch.rdG f.ch.val = some g → g.remaining ≠ 0 →
      (64 ≤ addrQHeld s.myCore f.ch.val → exec (.gidx f) s = .next s) ∧
      (addrQHeld s.myCore f.ch.val < 64 →
        let pushed := s.setArch (s.arch.wrG f.ch.val (some { g with remaining := g.remaining - 1, pushed := g.pushed + 1 }))
        exec (.gidx f) s = .next (pushed.setMyCore { pushed.myCore with
          addrQ := Tab.set [] s.myCore.addrQ k (Tab.get [] s.myCore.addrQ k ++ [rdS s f.sa.val]) }))) ∧
    ((∀ g, s.arch.rdG f.ch.val = some g → g.remaining = 0) → exec (.gidx f) s = .next (raise s .trap 0xFF0B 0))) ∧
  (∀ (f : EC) (s : State), signalFlaw (rdS s f.sa.val).toNat = none →
    let r := sigwtRead f s
    Room r.1 1 →
    (∀ v, r.2 = .ok v →
      (sx 64 v < 0 ∨ condHolds f.cond (sx 64 v) (rdS s f.sb.val).toInt = true →
        exec (.sigwt f) s = .next (withResult r.1 (.scalar f.sd.val) v 0)) ∧
      (0 ≤ sx 64 v → condHolds f.cond (sx 64 v) (rdS s f.sb.val).toInt = false → exec (.sigwt f) s = .next s)) ∧
    (r.2 = .error (stPoison, 0) → exec (.sigwt f) s = .next (withResult r.1 (.scalar f.sd.val) (2 ^ 63) 0)) ∧
    (r.2 = .error (stBound, 1) →
      let t := postNotice r.1 s.me.job nkFault (rdS s f.sa.val).toNat (2 * 2 ^ 60 + f.ch.val * 2 ^ 32)
      Room t 1 → exec (.sigwt f) s = .next (withResult t (.scalar f.sd.val) (2 ^ 63) 0)) ∧
    (∀ x, r.2 = .error x → sigwtEnds x = false → exec (.sigwt f) s = .next s)) ∧
  (∀ (f : EC) (s : State), Room s 1 →
    let o := bitmapOutcome s s.me.job (rdS s f.sa.val).toNat (rdS s f.sb.val).toNat
    (∀ v, o = some (some v) → exec (.bmwait f) s = .next (withResult s (.scalar f.sd.val) v 0)) ∧
    (o = some none →
      exec (.bmwait f) s = .next (withResult (fresh s).2 (.scalar f.sd.val) ((fresh s).1.toNat % 2 ^ 64) 0)) ∧
    (o = none → exec (.bmwait f) s = .next s))

/-! Commands in their channels. -/

/-- R217, R263 to R274, R354, R357, R361: what each command does when its channel performs it: the copy, gather and append
paths that nothing refuses, the atomic word, the signal, the bitmap's bit, the fence, and the completion of a transfer. Rests
on the model's choices of log entries 22, 31, 54, 65. -/
def Obligations.ChannelPerforms : Prop :=
  ∀ (core seq : Nat) (s : State) (c : Cmd), findCmd s core seq = some c →
    (∀ p sc tb, c.kind = .cpy p sc tb none → c.phase = .queued → mayPerform s core c = true →
      (cpyBad p false = true → exec (.cpyPerform core seq) s = .next (setDone s core c stBound 2 0 0)) ∧
      (cpyBad p false = false → pkWaitEn p = false → weightHeld s (engOf s core c) p = false → drivesOf p false = [] →
        exec (.cpyPerform core seq) s = .next (settleCmd core c (transferMem s (engOf s core c) p (srcCmd c) Prog.start)))) ∧
    (∀ g p sc tb q, c.phase = .moving g → c.kind = .cpy p sc tb q → mayPerform s core c = true →
      weightHeld s (engOf s core c) p = false →
      exec (.copyRetry core seq) s = .next (settleCmd core c (transferMem s (engOf s core c) p (srcCmd c) g))) ∧
    (∀ n g p cnt sc tb q x l, c.phase = .stream n g → c.kind = .gath p cnt sc tb q → mayPerform s core c = true →
      n < cnt → Tab.get [] (s.core core).addrQ (addrQKey c.job c.owner c.ch) = x :: l → pathOf (gaTable p) ≠ 7 →
      let a := rowAt p x.toNat
      let skip := a % pathUnit (gaTable p) ≠ 0
      let el : Element := ⟨[if skip then none else some a], n, gaRowBytes p, none, if skip then [n] else [], false⟩
      skip ∨ weightHeldAt s a (gaRowBytes p) = false →
      let out := streamElement s core c q n { g with drive := false } el (fun s => popIndex s core c)
      exec (.gathPerform core seq) s = .next out ∧ exec (.streamElementArrival core seq) s = .next out) ∧
    (∀ desc p sc w n s1 s2 b, c.kind = .qapp desc p sc → c.phase = .claimed w n → mayPerform s core c = true →
      readBlk s (engOf s core c) desc.toNat 64 false = (s1, .ok b) →
      let d := leNat b.bytes
      let slot := pathOf desc.toNat * 2 ^ 60 + (rdBase d % 2 ^ 60 + w % 2 ^ rdLog2 d * 64) % 2 ^ 60
      (w + 2 ^ 64 - rdRead d) % 2 ^ 64 < 2 ^ rdLog2 d → allPerformed s core c = true →
      writeBlk s1 (engOf s core c) slot (leBytes 64 (setFld p 511 480 w)) false false = (s2, .ok ()) →
      exec (.qappPerform core seq) s = .next (setDone s2 core c stOk 0 0 w)) ∧
    (∀ target opnd cmp r op w64 sgn s1 old, c.kind = .atom target opnd cmp r op w64 sgn → mayPerform s core c = true →
      c.performed = false → atomicOp s (engOf s core c) target.toNat op w64 sgn opnd.toNat cmp.toNat = (s1, .ok old) →
      exec (.atomPerform core seq) s =
        .next (setDone (writeAct s1 core (r + 1) (leBytes 16 (statusRecord c.id.toNat 0 0 stOk old))) core c stOk 0 0 old)) ∧
    (∀ a v s1 old, c.kind = .sigadd a v → mayPerform s core c = true → c.performed = false →
      rmwWord s (engOf s core c) a.toNat 8 false (· + v.toNat) = (s1, .ok old) →
      exec (.sigaddPerform core seq) s = .next (finishCmd s1 core c stOk 0 0 0)) ∧
    (∀ base i s1 old, c.kind = .bmset base i → mayPerform s core c = true →
      rmwWord s (engOf s core c) (base + i / 8) 1 false (fun v => v ||| 2 ^ (i % 8)) = (s1, .ok old) →
      exec (.bmsetPerform core seq) s = .next (dropCmd s1 core c)) ∧
    (c.kind = .sfence → mayPerform s core c = true → exec (.sfenceComplete core seq) s = .next (dropCmd s core c)) ∧
    (∀ st d k b, c.phase = .done st d k b → s.power = .on → c.hasId = true →
      exec (.transferComplete core seq) s = .next (finishCmd s core c st d k b.toNat))

/-- R217: the new word of an atomic operation, said on bit vectors: sum, AND, OR, exclusive OR, minimum, maximum, swap,
compare and swap. -/
def Obligations.AtomicWords : Prop :=
  ∀ (w : Nat) (sgn : Bool) (o c x : BitVec w), 0 < w →
    let new := fun op => BitVec.ofNat w (atomNew op w sgn o.toNat c.toNat x.toNat)
    new 0 = x + o ∧ new 1 = x &&& o ∧ new 2 = x ||| o ∧ new 3 = x ^^^ o ∧
    new 4 = (if less sgn x o then x else o) ∧ new 5 = (if less sgn x o then o else x) ∧ new 6 = o ∧
    new 7 = (if x = c then o else x)

/-- R325, R333 to R339: the key-value commands on handles that pass their check, one entry of an append among them, and the
end of a retired handle. Rests on the model's choices of log entries 29, 34. -/
def Obligations.KeyValuePerforms : Prop :=
  (∀ (core seq : Nat) (s : State) (c : Cmd), findCmd s core seq = some c → mayPerform s core c = true → c.performed = false →
    let ok := fun (h : Nat) (write : Bool) => granted s c.job (hdTenant h) = true ∧ check s h write = some stOk
    let desc := fun (h : Nat) => tenantDesc s (hdTenant h)
    (∀ h keep sc, c.kind = .kvrej h keep sc → c.atDrive = false → c.flight = [] → ok h.toNat true →
      let x := raiseCmd s core c [h.toNat]
      rejectAsks x.1 h.toNat keep.toNat = [] → handleRevoked x.1 h.toNat = false → exec (.kvrejPerform core seq) s =
        .next (kvBlock (rejectAbove x.1 (desc h.toNat) (hdSlot h.toNat) keep.toNat) core x.2 sc stOk 0 0 [])) ∧
    (∀ h sc, c.kind = .kvcommit h sc → ok h.toNat true →
      let x := raiseCmd s core c [h.toNat]
      exec (.kvcommitPerform core seq) s = .next (kvBlock (commitHandle x.1 (desc h.toNat) (hdSlot h.toNat)) core x.2 sc stOk 0 0 [])) ∧
    (∀ h sc, c.kind = .kvfree h sc → ok h.toNat true →
      let x := raiseCmd s core c [h.toNat]
      let r := freeHandle x.1 (hdTenant h.toNat) (desc h.toNat) (hdSlot h.toNat)
      exec (.kvfreePerform core seq) s = .next (kvBlock r.1 core x.2 sc r.2.1 r.2.2 0 [])) ∧
    (∀ ents sc k spec, c.kind = .kvapp ents 1 sc k spec → c.atDrive = false → c.prog = Prog.start →
      let h := fld ents 63 0
      let y := raiseCmd s core c [h]
      ok h true → appendAsks y.1 h k = [] →
      let a := appendOne y.1 (engOf y.1 core y.2) h (fld ents 127 64) k spec (deadDrives y.1)
      let g := if a.2 = rGranted then 1 else 0
      exec (.kvappPerform core seq) s =
        .next (setDone (writeAct a.1 core sc (leBytes 16 (statusRecord c.id.toNat 0 0 stOk g) ++ [BitVec.ofNat 8 a.2]))
          core y.2 stOk 0 0 g)) ∧
    (∀ a sc own s1, c.kind = .gzclaim a 0 sc true →
      let t := fld a.toNat 27 16
      let cls := fld a.toNat 15 0
      fld a.toNat 63 28 = 0 → granted s c.job t = true → cls.testBit 14 = true → fld cls 13 0 < tdMaxPages (tenantDesc s t) →
      newHandle s t cls = (s1, some own) → exec (.gzclaimPerform core seq) s =
        .next (kvBlock s1 core c sc stOk 0 0 (gzArea s1 (tenantDesc s t) own 0 none))) ∧
    (∀ h dg sc, c.kind = .gzclaim h dg sc false → dg ≠ 0 → ok h.toNat true →
      let y := raiseCmd s core c [h.toNat]
      let r := claimDigest y.1 (desc h.toNat) h.toNat dg.toNat
      exec (.gzclaimPerform core seq) s = .next (kvBlock r.1 core y.2 sc stOk 0 0 (gzArea r.1 (desc h.toNat) h.toNat r.2.1 r.2.2))) ∧
    (∀ a dg sc, c.kind = .gzfind a dg sc → a.toNat < 4096 → granted s c.job a.toNat = true →
      let d := tenantDesc s a.toNat
      let b := (probe s d dg.toNat).1
      exec (.gzfindPerform core seq) s = .next (kvBlock s core c sc stOk 0 0 (gzArea s d 0 (if b.isSome then 2 else 0) b))) ∧
    (∀ a b sc k, c.kind = .gzjoin a b sc → c.flight = [] → ok a.toNat true → ok b.toNat false →
      heGz (readEntry s (desc b.toNat) (hdSlot b.toNat)) = true → bucketOfSlot s (desc b.toNat) (hdSlot b.toNat) = some k →
      let x := raiseCmd s core c [a.toNat, b.toNat]
      (bkState (readBucket s (desc b.toNat) k) = 1 → exec (.gzjoinPerform core seq) s =
        .next (setCmd x.1 core { x.2 with phase := .claimed 0 0 })) ∧
      (bkState (readBucket s (desc b.toNat) k) ≠ 1 → hdTenant a.toNat = hdTenant b.toNat →
        let r := joinPrefix x.1 (desc b.toNat) (hdSlot a.toNat) (hdSlot b.toNat) (bkReady (readBucket s (desc b.toNat) k))
        exec (.gzjoinPerform core seq) s = .next (kvBlock r.1 core x.2 sc r.2 0 0 [])))) ∧
  (∀ (tenant slot : Nat) (s : State) (d : BitVec 512), Tab.get none s.tenants tenant = some d → s.power = .on →
    slot < 2 ^ tdTableLog2 d.toNat →
    let e := readEntry s d.toNat slot
    (heState e = 2 → heFlight e = 0 → exec (.handleEnd tenant slot) s = .next (endHandle s d.toNat slot)) ∧
    (heState e = 3 → exec (.handleEnd tenant slot) s = .next (endRevoked s tenant d.toNat)))

/-- R221, R222, R309, R360: SEAL and OPEN of lines without errors go line by line; LARM, LPATCH and CANCEL end with their
status record and semaphore. Rests on the model's choices of log entries 6, 33. -/
def Obligations.CipherAndScheduler : Prop :=
  ∀ (core seq : Nat) (s : State) (c : Cmd), findCmd s core seq = some c → mayPerform s core c = true →
    let each := fun (n line rec : Nat) (one : State → Nat → Nat → Key → State) =>
      (List.range n).foldl (fun t i => match (t.job c.job).bind (·.key) with
        | some k => one t (line / 256 + i) (rec + 32 * i) k
        | none => t) s
    (s.errs = [] → s.inject = [] → c.performed = false → ∀ j k, s.job c.job = some j → j.key = some k →
      (∀ line rec n, c.kind = .seal line rec n → exec (.sealPerform core seq) s =
        .next (setDone (each n line rec (fun t l r k => sealLine t core c.job l r k)) core c stOk 0 0 0)) ∧
      (∀ line rec n, c.kind = .unseal line rec n → exec (.unsealPerform core seq) s =
        .next (setDone (each n line rec (fun t l r k => openLine t core l r k)) core c stOk 0 0 0))) ∧
    (∀ slot sc f s1 k, c.kind = .larm slot sc f → slotBad s c.job slot.toNat = false →
      armLaunch s c.job slot.toNat (some (ctxIdOf s core c.ctx)) = (s1, .ok k) →
      exec (.larmPerform core seq) s = .next (schedFinish s1 core c sc f (statusRecord slot.toNat 0 0 stOk k))) ∧
    (∀ slot v sc j f, c.kind = .lpatch slot v sc j f → mayPerform s core c = true → slotBad s c.job slot.toNat = false →
      lrLive (launchRec s c.job slot.toNat) = false → exec (.lpatchPerform core seq) s =
        .next (schedFinish (patchArg s c.job slot.toNat j v.toNat) core c sc f (statusRecord slot.toNat 0 0 stOk 0))) ∧
    (∀ level addr sc hard f, c.kind = .cancel level addr sc hard f →
      let r := cancelLevel s c.job level addr.toNat hard
      exec (.cancelPerform core seq) s = .next (schedFinish r.1 core c sc f (statusRecord 0 0 r.2.2.1 r.2.1 r.2.2.2)))

/-- R194, R220, R221: a plaintext line that is sealed and opened again with the same key has its bytes and form back, its
record's result is OK, and no byte outside line and record changes. Rests on the model's choices of log entry 6. -/
def Obligations.OpenUndoesSeal : Prop :=
  ∀ (s : State) (core job line rec : Nat) (j : Job) (k : Key), s.errs = [] → s.inject = [] →
    s.job job = some j → j.key = some k → s.form core line = false → line < 8192 → rec + 32 ≤ 2 ^ 21 →
    (rec + 32 ≤ 256 * line ∨ 256 * line + 256 ≤ rec) →
    let t := sealLine s core job line rec k
    let u := openLine t core line rec k
    t.form core line = true ∧ u.form core line = false ∧ u.mem.byte (actKey core (rec + 28)) = 0 ∧
    (∀ a, a < actKey core rec ∨ actKey core (rec + 32) ≤ a → u.mem.byte a = s.mem.byte a)

/-! Packets of a ring. -/

/-- R256 to R260, R309: a well-formed packet taken up on a ring that is not halted, with no wait of its own, has its type's
effect and completes. Rests on the model's choices of log entries 22, 26, 31, 32. -/
def Obligations.RingPackets : Prop :=
  ∀ (r : RingRef) (index : Word) (s : State) (d p : Nat), PacketReady s r index.toNat d p →
    let i := index.toNat
    let u := takePacket s r i p .queued
    let e := ringEngine s r d
    (pkType p = 1 → p.testBit 255 = false → exec (.nop r index) s = .next (finishPacket u r i p stOk 0 0 0)) ∧
    (∀ x : Instr, (x = .copy r index ∧ pkType p = 2) ∨ (x = .gather r index ∧ pkType p = 3) ∨ (x = .scatter r index ∧ pkType p = 4) →
      weightHeld u e p = false → drivesOf p false = [] →
      exec x s = .next (settlePacket u r i p (transferMem u e p (i % 2 ^ 60) Prog.start))) ∧
    (∀ s2 k, pkType p = 5 →
      let slot := fld p 255 240
      let n := fld p 239 236
      let first := fld p 235 232
      slotBad u r.job slot = false → first + n ≤ 4 → lrLive (launchRec u r.job slot) = false →
      armLaunch ((List.range n).foldl (fun t j => patchArg t r.job slot (first + j) (fld p (64 * j + 63) (64 * j))) u) r.job slot none
        = (s2, .ok k) →
      exec (.launch r index) s = .next (finishPacket s2 r i p stOk 0 0 0)) ∧
    (∀ s1, pkType p = 6 →
      (barrierRound e i p (fld p 111 110) 0 u = (s1, some true) →
        exec (.barrier r index) s = .next (finishPacket s1 r i p stOk 0 0 0)) ∧
      (barrierRound e i p (fld p 111 110) 0 u = (s1, none) →
        exec (.barrier r index) s = .next (setPkt s1 r i (.claimed 0 0)))) ∧
    (pkType p = 7 → p.testBit 255 = false → exec (.signal r index) s = .next (finishPacket u r i p stOk 0 0 0)) ∧
    (∀ s1 old, pkType p = 8 →
      atomicOp u e (fld p 255 192) (fld p 63 60) (p.testBit 59) (p.testBit 58) (fld p 191 128) (fld p 127 64) = (s1, .ok old) →
      exec (.atomic r index) s = .next (finishPacket s1 r i p stOk 0 0 old))

/-- R252, R254, R260, R391: a packet whose wait is tested again, a further round of a barrier, a malformed packet, and any
packet of a halted ring, which ends ABORTED but for the NOP that resumes the ring. Rests on the model's choices of log entry 32. -/
def Obligations.PacketsHeldBack : Prop :=
  (∀ (r : RingRef) (index : Word) (s : State) (q : Pkt), serving s = true → findPkt s r index.toNat = some q →
    (findRing s r).frozen = false →
    let i := index.toNat
    let p := q.bits.toNat
    let e := ringEngine s r (match ringDesc s r with | some (_, d) => d | none => 0)
    packetHeld s e (pktsBefore s r i) p = false →
    (∀ s1, q.phase = .waiting →
      (waitTest s e p (i % 2 ^ 60) = (s1, none) → exec (.packetWaitRetest r index) s = .next (setPkt s1 r i .waiting)) ∧
      (waitTest s e p (i % 2 ^ 60) = (s1, some false) →
        exec (.packetWaitRetest r index) s = .next (finishPacket s1 r i p stAborted 0x10 0 0)) ∧
      (waitTest s e p (i % 2 ^ 60) = (s1, some true) → pkType p = 1 → p.testBit 255 = false →
        exec (.packetWaitRetest r index) s = .next (finishPacket s1 r i p stOk 0 0 0))) ∧
    (∀ s1, q.phase = .claimed 0 0 → pkType p = 6 →
      (barrierRound e i p (fld p 111 110) 0 s = (s1, some true) →
        exec (.barrierRound r index) s = .next (finishPacket s1 r i p stOk 0 0 0)) ∧
      (barrierRound e i p (fld p 111 110) 0 s = (s1, none) →
        exec (.barrierRound r index) s = .next (setPkt s1 r i (.claimed 0 0))) ∧
      (barrierRound e i p (fld p 111 110) 0 s = (s1, some false) →
        exec (.barrierRound r index) s = .next (finishPacket s1 r i p stAborted 0x10 0 0)))) ∧
  (∀ (r : RingRef) (index : Word) (s : State) (d p : Nat), serving s = true → findPkt s r index.toNat = none →
    peekPacket s r index.toNat = some (d, p, false) →
    let u := takePacket s r index.toNat p .queued
    (packetBad p = true → ringHalted s r = false → signalHeld (findRing s r).pkts (cleanHeader p) = false →
      exec (.malformedPacket r index) s = .next (finishPacket u r index.toNat p stBound 2 0 0)) ∧
    (packetBad p = false → ringHalted s r = true → packetHeld s (ringEngine s r d) (findRing s r).pkts p = false →
      (isResume p = false → ∀ x : Instr,
        (x = .nop r index ∧ pkType p = 1) ∨ (x = .copy r index ∧ pkType p = 2) ∨ (x = .gather r index ∧ pkType p = 3) ∨
          (x = .scatter r index ∧ pkType p = 4) ∨ (x = .launch r index ∧ pkType p = 5) ∨ (x = .barrier r index ∧ pkType p = 6) ∨
          (x = .signal r index ∧ pkType p = 7) ∨ (x = .atomic r index ∧ pkType p = 8) ∨
          (pkType p = 9 ∧ ((x = .fetch r index ∧ kvOp p = 0) ∨ (x = .store r index ∧ kvOp p = 1) ∨ (x = .spill r index ∧ kvOp p = 2) ∨
            (x = .preload r index ∧ kvOp p = 3))) →
        exec x s = .next (finishPacket u r index.toNat p stAborted 0x11 0 0)) ∧
      (isResume p = true → pkWaitEn p = false → ∀ k v, ringDesc u r = some (k, v) → rdHalted v = true →
        exec (.nop r index) s =
          .next (finishPacket (putDesc u r.job r.desc.toNat k (setFld v 310 310 0)) r index.toNat p stOk 0 0 0))))

/-- R323, R327, R328: FETCH, STORE, SPILL and PRELOAD of a handle that passes its checks move their pages and complete
with what was moved; the handle is in flight meanwhile. Rests on the model's choices of log entries 26, 35. -/
def Obligations.PagePackets : Prop :=
  ∀ (r : RingRef) (index : Word) (s : State) (d p : Nat), PacketReady s r index.toNat d p → pkType p = 9 →
    let i := index.toNat
    let u := takePacket s r i p .queued
    let t := raisePkt u r i [kvHandle p]
    let m := kvRun t (ringEngine s r d) p Prog.start (kvTotal p) (deadDrives t)
    kvBegin u r.job p false = .go → kvAsks t p = [] → m.refused = false →
    ∀ x : Instr, (x = .fetch r index ∧ kvOp p = 0) ∨ (x = .store r index ∧ kvOp p = 1) ∨ (x = .spill r index ∧ kvOp p = 2) ∨
        (x = .preload r index ∧ kvOp p = 3) →
      exec x s = .next (finishPacket (mvNotice m r.job (i % 2 ^ 60)) r i p (mvStatus m).1 (mvStatus m).2
        (if m.stop = some (stLink, 0x21) then 0x7FF else 0) m.bytes)

/-! Requests of the host. -/

/-- R408, R409, R412, R413: what is looked at before a request is performed: a reserved field, the session's right to it,
a frozen requester, a TDI in ERROR, and the violation of a configuration message while the TDI is locked or runs.
Rests on the model's choices of log entry 40. -/
def Obligations.RequestOrder : Prop :=
  ∀ (s : State) (m : Msg), s.power = .on → (s.session m.session).up = true → s.lastSheetLost = false →
    let v := s.session m.session
    let turned : Nat → Res := fun r => .next (answer s m r)
    (m.resv ≠ 0 → exec (.placementPause m) s = turned rField) ∧
    (m.resv = 0 → ∀ j, v.job = some j →
      exec (.jobRemove m) s = turned rDenied ∧ (j ≠ m.job → exec (.placementPause m) s = turned rDenied)) ∧
    (m.resv = 0 → v.job = none ∨ v.job = some m.job →
      (v.frozen.contains m.job = true → exec (.placementPause m) s = turned rDenied) ∧
      (v.frozen.contains m.job = false → ∀ a : Word,
        (tdiOf s m.job = some .error → exec (.ringReset m a) s = turned rState ∧ ∀ core x, exec (.halt m core x) s = turned rState) ∧
        (tdiOf s m.job = some .locked ∨ tdiOf s m.job = some .run → ∃ t, exec (.ringReset m a) s = .next t ∧
          (t.session m.session).frozen.contains m.job = true ∧ tdiOf t m.job = some .error ∧
          t.sent.getLast? = some (.reply m.session (BitVec.ofNat 256 (headerOf 0x8000 m.tag m.job rDenied 32 false)) (echoOf m rDenied)))))

/-- R36, R113, R203, R287, R303 to R306, R358, R360, R372, R405, R409, R415, R424: the requests about a job and its tables
that are performed. Rests on the model's choices of log entries 2, 9, 40, 73. -/
def Obligations.JobRequests : Prop :=
  (∀ (s : State) (m : Msg), Heard s m jobAdminReq →
    (∀ d : BitVec 512, s.job m.job = none → m.job < 65536 → jobDescOk d.toNat m.job = true →
      (d.getLsbD 492 = false → exec (.jobCreate m d) s = performed (s.setJob m.job (some (freshJob d none))) m) ∧
      (d.getLsbD 492 = true → ∃ t k, exec (.jobCreate m d) s = performed t m ∧ t.job m.job = some (freshJob d (some k)) ∧
        k.counter = 0 ∧ k.keyId = BitVec.ofNat 32 (m.job * 65536 + (Tab.get (0 : BitVec 16) t.keyGen m.job).toNat) ∧
        Tab.get (0 : BitVec 16) t.keyGen m.job = Tab.get (0 : BitVec 16) s.keyGen m.job + 1)) ∧
    (∀ (asid : Nat) (e : BitVec 128), asid < 65536 → fld e.toNat 127 92 = 0 → fld e.toNat 47 32 = 0 → fld e.toNat 15 1 = 0 →
      exec (.asidSet m asid e) s = performed { s with asids := Tab.set 0 s.asids asid e } m) ∧
    (∀ j, s.job m.job = some j →
      (∃ t, exec (.jobRemove m) s = performed t m ∧ t.job m.job = none ∧ ∀ v ∈ t.rings, v.r.job ≠ m.job) ∧
      ∀ on, exec (.sysjobSet m on) s =
        performed (s.setJob m.job (some { j with desc := BitVec.ofNat 512 (setFld j.desc.toNat 491 491 (b2n on)) })) m)) ∧
  (∀ (s : State) (m : Msg) (j : Job), Heard s m configReq → s.job m.job = some j →
    (∀ entries, entries ≠ [] → entries.length ≤ 64 → (∀ w ∈ entries, windowOk w.toNat = true) →
      exec (.windowsSet m entries) s = performed (s.setJob m.job (some { j with
        windows := entries, desc := BitVec.ofNat 512 (setFld j.desc.toNat 458 453 (entries.length - 1)) })) m) ∧
    (∀ first recs,
      let new := (recs.zipIdx first).foldl (fun (t : Tab (BitVec 1024)) (r : BitVec 1024 × Nat) =>
        Tab.set 0 t r.2 (BitVec.ofNat 1024 (builtRec r.1.toNat))) j.pool
      first + recs.length ≤ jobField s m.job 474 459 + 1 → (∀ r ∈ recs, poolRecOk s m.job r.toNat = true) → acyclic new = true →
      (∀ i, i < recs.length → lrLive (poolRec j (first + i)) = false) →
      exec (.poolBuild m first recs) s = performed (s.setJob m.job (some { j with pool := new })) m)) ∧
  (∀ (s : State) (m : Msg) (j : Job), Heard s m plainReq → s.job m.job = some j →
    exec (.placementPause m) s = performed (holdUnits (s.setJob m.job (some { j with paused := true })) m.job (fun _ => true)) m ∧
    (j.saving = false → exec (.placementResume m) s =
      performed (releaseUnits (s.setJob m.job
        (some { j with migrating := false, migKey := none, bundleSent := false, paused := false })) m.job) m) ∧
    (∀ on, exec (.poisonEnable m on) s = performed (s.setJob m.job (some { j with poison := on })) m) ∧
    (∀ base n, base < 2 ^ 48 → 0 < n → firstUnwritable s m.job base (80 * n) = none → exec (.intervalMark m base n) s =
      performed (s.setJob m.job (some { j with marks := j.marks + 1, logBase := base, logCap := n, log := [] })) m) ∧
    (∀ slot t n, slotBad s m.job slot = false → armLaunch s m.job slot none = (t, .ok n) →
      exec (.arm m slot) s = .next (reply t m rOk (wordBytes [n]))) ∧
    (∀ a count parent, a % 16 = 0 → parent % 16 = 0 → count < 2 ^ 23 → a < 2 ^ 48 → parent < 2 ^ 48 →
      firstUnwritable s m.job a 16 = none → exec (.levelArm m a count parent) s = performed (writeCounter
        (s.setJob m.job (some { j with levels := if j.levels.contains a then j.levels else j.levels ++ [a] })) m.job a
        (count + parent * 2 ^ 64)) m) ∧
    (∀ level (a : Word) hard,
      let r := cancelLevel s m.job level a.toNat hard
      level ≤ 4 → r.2.1 = stOk → exec (.hostCancel m level a hard) s = .next (reply r.1 m rOk (wordBytes [r.2.2.2])))) ∧
  (∀ (s : State) (m : Msg) (a : Word), Heard s m plainReq → pathOf a.toNat = 5 → fld a.toNat 59 48 = 0 → a.toNat % 64 = 0 →
    exec (.refusalRing m a) s =
      performed (s.setSession m.session { s.session m.session with refusal := some a, refSeq := 0, refOv := false }) m)

/-- R246, R282, R291, R301, R302, R409, R414, R429: requests about rings, translations and code: a ring is made empty, reset
and removed with its packets ended; cached leaves of a range go; a manifest's number, a scanned mapping and a scanner's
refusal are answered. Rests on the model's choices of log entries 17, 40, 42, 43, 68. -/
def Obligations.RingAndCodeRequests : Prop :=
  (∀ (s : State) (m : Msg), Heard s m configReq →
    (∀ j (a : Word) (d : BitVec 512) k, s.job m.job = some j → rdOk d.toNat = true → rdJob d.toNat = m.job →
      ringBaseOk s m.job d.toNat = true → ringPlace s m.job (rdKind d.toNat) a.toNat = some k →
      let t := (s.setDesc k (freshRing d.toNat)).setTags k 64 0
      exec (.ringCreate m a d) s = performed (if rdKind d.toNat = 1 then clearRing t ⟨m.job, a⟩ else bindErrorLog t d.toNat k) m) ∧
    (∀ (a : Word) k d, namedRing s m a = some (k, d) →
      (let t := clearRing (abortPackets s ⟨m.job, a⟩ 0x14) ⟨m.job, a⟩
       let u := setRing t { findRing t ⟨m.job, a⟩ with next := BitVec.ofNat 64 (rdWrite (t.desc k)) }
       exec (.ringReset m a) s = performed (putDesc u m.job a.toNat k (setFld (u.desc k) 447 384 (rdWrite (u.desc k)))) m) ∧
      (let t := abortPackets s ⟨m.job, a⟩ 0x14
       let u := { t with rings := t.rings.filter (fun v => v.r != (⟨m.job, a⟩ : RingRef)) }
       exec (.ringRemove m a) s = performed (dropErrorLog (putDesc u m.job a.toNat k 0) k) m ∧
       (∀ v ∈ u.rings, v.r ≠ ⟨m.job, a⟩) ∧ (markedFrame u k = false → (putDesc u m.job a.toNat k 0).desc k = 0))) ∧
    (∀ asid va len, asid < 65536 → va + len ≤ 2 ^ 48 → (s.session m.session).job = none ∨ asid = jobAsid s m.job →
      let t := dropCached s asid va len
      let u := { t with faultPages := s.faultPages.filter (fun p =>
        !(p.1 == asid && va < (p.2 + 1) * 65536 && p.2 * 65536 < va + len)) }
      let clear := fun (l : List TlbEnt) => ∀ x ∈ l, x.asid = asid → va + len ≤ x.base * 2 ^ x.log2 ∨ (x.base + 1) * 2 ^ x.log2 ≤ va
      exec (.invalidate m asid va len) s = performed (u.rings.foldl (rereadRing asid va len) u) m ∧
      (∀ cl e, cl < 16 → e < 8 → clear (u.engineTlb cl e)) ∧ ∀ die, die < 4 → clear (u.dieCache die))) ∧
  (∀ (s : State) (m : Msg) (j : Job), Heard s m plainReq → s.job m.job = some j →
    (∀ (dict code : Word) mf t n, loadManifest s m.job dict.toNat code.toNat mf = (t, .ok n) →
      exec (.manifestLoad m dict code mf) s = .next (reply t m rOk (leBytes 2 n))) ∧
    (∀ (dict code : Word) mf, fld dict.toNat 63 48 = 0 → fld code.toNat 63 48 = 0 → dict.toNat % 65536 = 0 → code.toNat % 8192 = 0 →
      manifestFieldsOk mf = true → manifestSigned s mf = false →
      exec (.manifestLoad m dict code mf) s = .next (answer s m rDenied)) ∧
    (∀ n pages t, mapRequest s m.job n pages = (t, .ok) → exec (.mapx m n pages) s = performed t m) ∧
    (∀ n pages t p r, mapRequest s m.job n pages = (t, .scan p r) → r.2 ≠ .signature →
      exec (.mapx m n pages) s = .next (reply t m rScan (scanPayload (scanCode r.2) p r.1))) ∧
    (∀ pages : List Word, (∀ p ∈ pages, fld p.toNat 63 48 = 0 ∧ ∃ x ∈ s.mapped, x.asid = jobAsid s m.job ∧ x.va = fld p.toNat 47 16) →
      ∃ l, exec (.unmap m pages) s = performed { s with mapped := l } m ∧
        ∀ x, x ∈ l ↔ x ∈ s.mapped ∧ ¬ (x.asid = jobAsid s m.job ∧ ∃ p ∈ pages, fld p.toNat 47 16 = x.va)))

/-- R210, R211, R213, R214, R316, R326, R330: the requests about key-value tenants and about model updates. Rests on the model's
choices of log entries 9, 40, 41, 44, 69. -/
def Obligations.TenantAndModelRequests : Prop :=
  (∀ (s : State) (m : Msg), Heard s m tenantAdmin →
    (∀ pool : TenantPool, tenantDescOk pool.desc.toNat = true → Tab.get none s.tenants (fld pool.desc.toNat 511 500) = none →
      pool.lists.length ≤ 3 → (∀ l ∈ pool.lists, listOk pool.desc.toNat l = true) →
      let t := freshPool s pool
      exec (.tenantCreate m pool) s =
        performed { t with tenants := Tab.set none t.tenants (fld pool.desc.toNat 511 500) (some pool.desc) } m) ∧
    (∀ j n d, s.job m.job = some j → n < 4096 → Tab.get none s.tenants n = some d → j.tenants.contains n = false →
      (j.tenants.length < 16 →
        exec (.tenantGrant m n) s = performed (s.setJob m.job (some { j with tenants := j.tenants ++ [n] })) m) ∧
      (16 ≤ j.tenants.length → exec (.tenantGrant m n) s = .next (answer s m rRoom)))) ∧
  (∀ (s : State) (m : Msg) (n : Nat) (d : BitVec 512), (s.session m.session).job = none ∨ granted s m.job n = true →
    Tab.get none s.tenants n = some d →
    (Heard s m configReq →
      let slots := List.range (2 ^ tdTableLog2 d.toNat)
      let held := slots.filter (fun i => (heState (readEntry s d.toNat i) == 1 || heState (readEntry s d.toNat i) == 2) &&
        heFlight (readEntry s d.toNat i) != 0)
      let notes := held.map (fun i => mkHandle n (heGen (readEntry s d.toNat i)) i (heClass (readEntry s d.toNat i)))
      let t := slots.foldl (fun t i => endWaiters t n i stRevoked) (revokeMoves (slots.foldl (fun t i => revokeSlot t d.toNat i) s) n)
      exec (.tenantCancel m n) s =
        performed (endRevoked { t with revoking := t.revoking ++ [(n, m.job, notes)] } n d.toNat) m) ∧
    (Heard s m plainReq → ∀ b, b < 2 ^ tdGzLog2 d.toNat →
      let st := bkState (readBucket s d.toNat b)
      (st = 1 ∨ st = 2 → exec (.gzEvict m n b) s = performed (endWaiters (tombBucket s d.toNat b) n
        (hdSlot (bkHandle (readBucket s d.toNat b))) stStale) m) ∧
      (st ≠ 1 → st ≠ 2 → exec (.gzEvict m n b) s = .next (answer s m rState)))) ∧
  (∀ (s : State) (m : Msg), Heard s m adminReq →
    (∀ (kind : TxnKind) (model : BitVec 128) cores jobs, (∀ c ∈ cores, c < 1088) → (∀ j ∈ jobs, (s.job j).isSome = true) → s.txn = none →
      let n := s.txnCount
      let x : Txn := ⟨n, kind.patch, kind.attempts, model, cores, jobs, false, [], false, m.session, m.tag⟩
      let u := { s with txn := some x, txnCount := n + 1 }
      (recordHolds kind.attempts 0 = true → exec (.modelBegin m kind model cores jobs) s = .next (answer
        (jobs.foldl holdJob (usesModel (writeJournal u (jrMake n.toNat 1 kind.patch model.toNat)) model jobs)) m rAccepted)) ∧
      (recordHolds kind.attempts 0 = false →
        exec (.modelBegin m kind model cores jobs) s = .next (answer (abortTxn u x 0 0) m rAccepted))) ∧
    (∀ t, s.txn = some t →
      (t.begun = false ∨ txnBusy s t = true → ∀ rows, exec (.modelRows m rows) s = .next (answer s m rState)) ∧
      (t.begun = false → exec (.modelCommit m) s = .next (answer s m rState)) ∧
      (t.begun = true →
        (∀ rows, txnBusy s t = false → (∀ r ∈ rows, rowOk s t r = true) → (t.patch = true → ∀ d, d < 4 →
            freeUndo t d + (rows.filter (fun r => clusterOf r.core / 4 == d)).length ≤ 32768) →
          exec (.modelRows m rows) s = performed (rows.foldl writeGroup s) m) ∧
        (recordHolds t.attempts 1 = true → exec (.modelCommit m) s =
          performed (postEvent (finishTxn (writeJournal s (jrMake t.num.toNat 3 false t.model.toNat)) t) 0x8004 none [t.num.toNat]) m) ∧
        (recordHolds t.attempts 1 = false → exec (.modelCommit m) s = performed (abortTxn s t 0 0) m)))) ∧
  (∀ (s : State) (t : Txn), s.power = .on → s.txn = some t → t.begun = false →
    (txnBusy s t = true → exec .journalTxnStart s = .next s) ∧
    (txnBusy s t = false → exec .journalTxnStart s = .next { s with txn := some { t with begun := true } }))

/-- R26, R223, R313, R375, R383, R422: stepping, halting and reading a context, thawing and removing what is frozen,
injections, floors, a link's new key and the device's status. Rests on the model's choices of log entries 9, 16, 40. -/
def Obligations.DebugRequests : Prop :=
  (∀ (s : State) (m : Msg) (core x : Nat), Heard s m debugReq → core < 1088 → x ≤ 1 →
    let c := s.ctx core x
    c.run ≠ .free → c.run ≠ .placing → c.job = m.job →
    (∀ n, 1 ≤ n → n ≤ 65535 → c.mode.getLsbD 0 = true → c.frozen = false → c.run = .running →
      exec (.step m core x n) s = performed (s.setCtx core x { c with steps := n, halted := false }) m ∧
      exec (.halt m core x) s = performed (s.setCtx core x { c with steps := 0, halted := true }) m) ∧
    (c.mode.getLsbD 0 = false → exec (.halt m core x) s = .next (answer s m rState)) ∧
    (∀ t fr, frameFor s m.job = (t, some fr) → exec (.stateRead m core x) s = .next (reply (writeFrame t m.job fr
      (if confJob s m.job then coveredFrame c else frameBytes c ((landAll t core x false).ctx core x).arch [])) m rOk (wordBytes [fr])))) ∧
  (∀ (s : State) (m : Msg), Heard s m ⟨true, true, false, false⟩ → ∀ array a (mask : Word) kind now, injectOk array a kind = true →
    exec (.inject m array a mask kind now) s = performed (armInjection s array a mask kind now) m) ∧
  (∀ (s : State) (m : Msg), Heard s m thawReq →
    (∀ who, masterJob s m who = m.job → masterFrozen s m who = false → exec (.thaw m who) s = .next (answer s m rState)) ∧
    (∀ c ch, Tab.get false (s.core c).chFrozen ch = true → exec (.thaw m (.channel c ch)) s = performed (thawChannel s c ch) m) ∧
    (∀ c x, (s.ctx c x).job = m.job → (s.ctx c x).frozen = true →
      exec (.thaw m (.context c x)) s =
        if tdiOf s m.job = some .error then .next (answer s m rState) else performed (thawCtx s c x) m) ∧
    (∀ c x f, (s.ctx c x).frozen = false → awayUnit s m.job c x = some f → tdiOf s m.job ≠ some .error →
      exec (.thaw m (.context c x)) s = performed (thawAway s m.job f) m) ∧
    (∀ r : RingRef, r.job = m.job → (findRing s r).frozen = true → exec (.thaw m (.ring r)) s = performed (thawRing s r) m) ∧
    (∀ n, (s.session n).frozen.contains m.job = true → exec (.thaw m (.requester n)) s =
      performed (s.setSession n { s.session n with frozen := (s.session n).frozen.filter (· != m.job) }) m)) ∧
  (∀ (s : State) (m : Msg), Heard s m plainReq →
    (∀ c x f, (s.ctx c x).frozen = false → awayUnit s m.job c x = some f →
      exec (.remove m (.context c x)) s = performed (removeAway s m.job f) m) ∧
    (∀ c x, (s.ctx c x).job = m.job → (s.ctx c x).live = true →
      (s.ctx c x).frozen = true ∨ ((s.ctx c x).mode.getLsbD 0 = true ∧ awayUnit s m.job c x = none) →
      exec (.remove m (.context c x)) s =
        performed (removeCtx (s.setCtx c x { s.ctx c x with frozen := false, run := .removing .removed }) c x) m) ∧
    (∀ c ch, Tab.get false (s.core c).chFrozen ch = true →
      exec (.remove m (.channel c ch)) s = performed (thawChannel (flushChannel s c ch) c ch) m) ∧
    (∀ r : RingRef, r.job = m.job → (findRing s r).frozen = true →
      exec (.remove m (.ring r)) s = performed (thawRing (abortPackets s r 0x13) r) m) ∧
    (∀ n, ((s.session n).frozen.contains m.job = true →
        exec (.remove m (.requester n)) s = .next ((answer s m rOk).setSession n Session.none)) ∧
      ((s.session n).frozen.contains m.job = false → exec (.remove m (.requester n)) s = .next (answer s m rState)))) ∧
  (∀ (s : State) (m : Msg), Heard s m adminReq →
    (∀ a b c, a < 128 → b < 64 → c < 16 → exec (.floorsSet m a b c) s =
      performed (saveHeader { s with ret := { s.ret with floorCores := a, floorChannels := b, floorLinks := c } }) m) ∧
    (∃ t, exec (.replacementClear m) s = performed t m ∧ t.ret = { s.ret with replacement := false } ∧
      ∀ c, c < 16 → (t.cluster c).changeSeq = (s.cluster c).changeSeq + (if s.ret.replacement then 1 else 0)) ∧
    (∀ l, l < 8 → (s.link l).state = .up → exec (.linkRekey m l) s = performed (newEpoch s l) m)) ∧
  (∀ (s : State) (m : Msg), Heard s m plainReq ∨
      (Heard { s with lastSheetLost := false, power := .on } m plainReq ∧ s.power = .hold ∧ s.lastSheetLost = true) →
    ∃ l, exec (.statusRead m) s = .next (reply s m rOk l))

/-- R378, R404, R406 to R408, R411, R412, R427: sessions and TDIs: a session is established where there is room; the doorbell has
the next slot of its request ring read, whatever value it carries: a whole request is performed next, one of a reserved opcode
or layout is answered FIELD, part of a chain is kept, and a message that fails authentication ends the session; other writes
to BAR0 do nothing; a TDI moves through its states, and a request to stop an interface waits for a safe checkpoint of its job.
Rests on the model's choices of log entries 9, 40, 56. -/
def Obligations.SessionsAndInterfaces : Prop :=
  (∀ (s : State) (n job : Nat) (req ev : Word), s.power = .on → s.hostPort = true →
    (n < 16 → (s.session n).up = false → s.powerLost = false → n = 0 ∨ (s.job job).isSome = true →
      exec (.spdmSessionEstablish n job req ev) s =
        .next (s.setSession n { Session.none with up := true, job := if n = 0 then none else some job, req := req, ev := ev })) ∧
    ((∀ i, i < 16 → (s.session i).up = true) → exec (.spdmSessionEstablish n job req ev) s = .next (emit s (.noSession rRoom)))) ∧
  (∀ (s : State) (n value : Nat), s.power = .on → s.hostPort = true → s.lastSheetLost = false → (s.session n).up = true →
    let v := s.session n
    let u := s.setSession n { v with rung := true }
    (nextSlot s v.req = none → exec (.doorbell n value) s = .next (s.setSession n { v with rung := false })) ∧
    (∀ k slot, nextSlot s v.req = some (k, slot) →
      (stopPending u n = true → exec (.doorbell n value) s = .next u) ∧
      (stopPending u n = false →
        let w := passSlot u k
        (Config.openMessage n (u.bytes slot 4096) = none → exec (.doorbell n value) s = .next (w.setSession n Session.none)) ∧
        (∀ h data, Config.openMessage n (u.bytes slot 4096) = some (h, data) →
          let tag := fld h.toNat 239 224
          let body := data.take (fld h.toNat 191 160)
          let m := msgOf n h.toNat false
          let x := fun (l : List (Nat × Bool × List Byte)) => w.setSession n { v with rung := true, chains := v.chains.filter (·.1 != tag) ++ l }
          (∀ c ∈ v.chains, c.1 ≠ tag) →
          (h.getLsbD 199 = true → exec (.doorbell n value) s =
            .next (x [(tag, messageBad h.toNat, body)])) ∧
          (h.getLsbD 199 = false → ∀ i, Config.requestOf n h body = some i → requestHead i = some (m.opcode, m) →
            exec (.doorbell n value) s = .next { x [] with agenda := i :: s.agenda }) ∧
          (h.getLsbD 199 = false → Config.requestOf n h body = none → exec (.doorbell n value) s = .next (answer (x []) m rField)))))) ∧
  (∀ (s : State) off value, exec (.barWriteIgnored off value) s = .next s) ∧
  (∀ (s : State) (m : Msg) (j : Job), Heard s m plainReq → s.job m.job = some j →
    (tdiOf s m.job = some .unlocked → exec (.lockInterface m) s = performed (s.setJob m.job (some { j with tdi := .locked })) m) ∧
    (tdiOf s m.job ≠ some .unlocked → exec (.lockInterface m) s = .next (answer s m rState)) ∧
    (tdiOf s m.job = some .locked → exec (.startInterface m) s = performed (queuesDue (s.setJob m.job (some { j with tdi := .run })) m.job) m) ∧
    (tdiOf s m.job ≠ some .locked → exec (.startInterface m) s = .next (answer s m rState)) ∧
    (tdiOf s m.job = none → exec (.stopInterface m) s = .next (answer s m rState)) ∧
    (tdiOf s m.job ≠ none →
      (j.saving = true → exec (.stopInterface m) s =
        .next (s.setJob m.job (some { j with stopAsks := j.stopAsks ++ [(m.session, m.tag)] }))) ∧
      (j.saving = false →
        let t := scrubJob (removeUnits s m.job) m.job (jobRanges s m.job)
        ∀ k, t.job m.job = some k → exec (.stopInterface m) s = performed (t.setJob m.job
          (some { k with tdi := .unlocked, frozen := false, key := none, frozenUnits := [], stopAsks := [] })) m))) ∧
  (∀ (s : State) (job : Nat), s.power = .on → tdiOf s job ≠ none →
    ∃ t, exec (.ideStreamFailure job) s = .next t ∧ tdiOf t job = some .error)

/-- R417, R418, R420, R427: a migration out and in, its acknowledgement once its bundle has gone out, its confirmation at both
ends, and a safe checkpoint and restore, after which an interface stops where that was asked for meanwhile. Rests on the model's choices of log entries 9, 40, 56. -/
def Obligations.MigrationAndSafeTier : Prop :=
  (∀ (s : State) (m : Msg), Heard s m plainReq →
    (∀ j, s.job m.job = some j → j.migrating = false → j.saving = false →
      (tdiOf s m.job ≠ none → tdiOf s m.job ≠ some .error →
        let k := makeKey s
        exec (.migrateOut m) s = .next (sendBundle (answer (stopJob
          (k.1.setJob m.job (some { j with migrating := true, migKey := some k.2, bundleSent := false })) m.job) m rAccepted) m.job)) ∧
      (tdiOf s m.job = none ∨ tdiOf s m.job = some .error → exec (.migrateOut m) s = .next (answer s m rState)) ∧
      (j.frozen = false → exec (.safeCheckpoint m) s =
        .next (answer (stopJob (s.setJob m.job (some { j with saving := true })) m.job) m rAccepted)) ∧
      (∀ i, j.frozen = false → jobStopped s m.job = true → Tab.get none s.safe m.job = some i → exec (.safeRestore m) s =
        .next (answer (pauseJob (s.setJob m.job (some { j with saving := true })) m.job) m rAccepted))) ∧
    (s.job m.job = none → ∀ b : SealedBundle,
      (jobDescOk b.inner.desc.toNat m.job = true →
        let w := wrapKey s b.key
        exec (.migrateIn m b true) s = performed { w.1 with migIn := Tab.set none w.1.migIn m.job (some ⟨w.2, b⟩) } m) ∧
      exec (.migrateIn m b false) s = .next (answer s m rDenied) ∧
      (∀ h, Tab.get none s.migIn m.job = some h →
        exec (.migrateConfirm m false) s = .next (answer s m rState) ∧
        ∀ c, openBundle h = some c →
          let u := s.setJob m.job (some { freshJob c.desc (some ⟨c.key, c.salt, c.keyId, c.counter⟩) with pool := c.pool, tdi := .run })
          ∀ t, writePages u m.job c.pages = some t → exec (.migrateConfirm m true) s = performed
            (requeueJob (releaseUnits { t with migIn := Tab.set none t.migIn m.job none } m.job) m.job) m)) ∧
    (∀ j, s.job m.job = some j →
      (j.moved = true → exec (.migrateConfirm m true) s =
        performed (postEvent (s.setJob m.job (some { j with moved := false })) 0x8009 (some m.job) [m.job, 0]) m) ∧
      (j.moved = false → ∀ restart, exec (.migrateConfirm m restart) s = .next (answer s m rState)))) ∧
  (∀ (s : State) (job : Nat) (j : Job), s.power = .on → s.job job = some j →
    (j.migrating = true → j.bundleSent = true →
      exec (.migrationAck job false) s =
        .next (postEvent (s.setJob job (some { j with bundleSent := false, migKey := none })) 0x8009 (some job) [job, 1]) ∧
      ∃ t k, exec (.migrationAck job true) s = .next t ∧ t.job job = some k ∧ k.key = none ∧
        k.desc = j.desc ∧ k.pool = [] ∧ k.moved = true) ∧
    (j.migrating = true → j.bundleSent = false → ∀ ok, exec (.migrationAck job ok) s = .next s) ∧
    (j.saving = true → jobStopped s job = true →
      let i := saveImage s job j
      let done := fun (e : List (Nat × Nat × Nat)) (st : Nat) => [job] ++ extentWords e ++ [st]
      exec (.checkpointDone job true) s = .next (stopAfter (postEvent
        (endSaving { i.1 with safe := Tab.set none i.1.safe job (some i.2) } job) 0x800D (some job) (done i.2.extents stOk)) job) ∧
      exec (.checkpointDone job false) s = .next (stopAfter (postEvent (endSaving s job) 0x800D (some job) [job, stLink]) job) ∧
      ∀ i b t, Tab.get none s.safe job = some i → openImage i = some b → restoreImage s job j b = some t →
        exec (.restoreDone job) s =
          .next (stopAfter (postEvent (requeueJob (endSaving t job) job) 0x800E (some job) (done i.extents stOk)) job)))

/-! The device's own steps. -/

/-- R33, R35, R46, R49, R51, R61, R276, R370, R373, R374, R388: a context's results land, its unit is taken off, saved into a
frame or removed, placed and given its code. Rests on the model's choices of log entries 11, 12, 15, 16, 27, 28, 36, 58, 64. -/
def Obligations.ContextSteps : Prop :=
  (∀ (a : Arch) (n : Nat) (v : Vec) (ready off : Nat) (old : Bool), n ≠ 0 → a.dueRegs = [⟨.scalar n, v, 0, ready, old, none, off⟩] → a.seqDue = [] →
    (landRegs a).rdS n = v.setWidth 64 ∧ ∀ k, k ≠ n → (landRegs a).rdS k = a.rdS k) ∧
  (∀ (s : State) (core x : Nat),
    let c := s.ctx core x
    s.power = .on → c.frozen = false →
    (c.run = .running → anyDue c.arch = true → produced (s.core core).cycle c.arch = true →
      (dueTraps c.arch).findSome? (·.2) = none → rowsDue c.arch = [] → c.undo.length ≤ Config.undoRows →
      exec (.resultLanding core x none) s = .next (s.setCtx core x { c with arch := landRegs c.arch })) ∧
    (∀ w, c.run = .removing w →
      (w ≠ .interval → w ≠ .fatal → exec (.removal core x) s = .next (endUnit (flushUnit s core x) core x usCancelled 5)) ∧
      (w = .fatal → exec (.removal core x) s = .next (emitEvent (endUnit (flushUnit s core x) core x usCancelled 9) 0x8001 (some c.job)
        [c.cause.toNat, c.tval.toNat, c.recAddr])) ∧
      (w = .interval → exec (.removal core x) s = .next (intervalRollback s core x))) ∧
    (c.run = .running → c.halted = false → Config.longWait ≤ c.clock → c.unmet ≠ [] → trapsDue c.shadow = false →
      (∀ t, frameFor s c.job = (t, none) →
        exec (.longWaitSuspend core x) s = .next (t.setCtx core x { t.ctx core x with clock := 0 })) ∧
      (∀ t fr, frameFor s c.job = (t, some fr) →
        let u := rollback (readShadow t core x).1 core x
        (readShadow t core x).2 = false →
        exec (.longWaitSuspend core x) s = .next (saveToFrame u core x fr (u.ctx core x).arch (waitBlock c.arch.pc.toNat c.unmet)
          usWaiting 3 ((u.ctx core x).ckpt.toNat % 2 ^ 24) 8))) ∧
    (c.run = .running → c.preempt = true → c.softCancel = false → crPinned (recordOf s c) = true →
      trapsDue c.arch = false → ∀ t fr, frameFor s c.job = (t, some fr) →
        let u := release (checkpoint (landAll t core x false) core x) core
        exec (.pinnedPreemption core x) s =
          .next (saveToFrame u core x fr (u.ctx core x).arch [] usReady 4 ((u.ctx core x).arch.pc.toNat % 2 ^ 24) 0)) ∧
    (∀ f, c.run = .suspending f → unitCmds s core x = [] →
      let t := drain core x false 1024 s
      (t.ctx core x).run = .suspending f → exec (.suspensionComplete core x) s = .next (suspended t core x f)) ∧
    (c.run = .takeOff → Config.longWait ≤ c.clock → trapsDue c.arch = false →
      (∀ t, frameFor s c.job = (t, none) →
        exec (.rollbackTakeOffRetry core x) s = .next (t.setCtx core x { t.ctx core x with clock := 0 })) ∧
      (∀ t fr, frameFor s c.job = (t, some fr) → exec (.rollbackTakeOffRetry core x) s = .next (keepOff
        (saveToFrame { t.setCore core { t.core core with noPlace := true } with surveyDue := withDueSurvey t.surveyDue core }
          core x fr c.arch [] usReady 6 (c.ckpt.toNat % 2 ^ 24) 0) core))) ∧
    (c.run = .placing → inRun s (clusterOf core) = true → copiesHold s c.job c.recAddr = false →
      (readRecord s c.job c.recAddr = none → exec (.placement core x) s = .next (malformed s core x none)) ∧
      (∀ r, readRecord s c.job c.recAddr = some r →
        (recordBad r = true → exec (.placement core x) s = .next (malformed s core x none)) ∧
        (recordBad r = false → crFrame r = false →
          exec (.placement core x) s = .next (placeOn s core x r (liveArch r) (crSpill r) [] [])) ∧
        (recordBad r = false → crFrame r = true →
          let v := devMeet s c.job none (crSpill r) Config.frameBytes
          (devRead v c.job (crSpill r) Config.frameBytes = none →
            exec (.placement core x) s = .next (malformed v core x (some (crSpill r)))) ∧
          (∀ fr, devRead v c.job (crSpill r) Config.frameBytes = some fr → frameOkFor fr (crWaitKind r) = true →
            ∃ arrived status, exec (.placement core x) s = .next (returnFrame (placeOn (rehome v core x c.job c.recAddr) core x r
              (frArch fr (BitVec.ofNat 64 (crResume r))) (frScratch fr) arrived status) c.job (crSpill r)))))) ∧
    (fetching s core x = true → s.errs = [] →
      (cachedSeg s core c c.arch.pc.toNat = none →
        let num := c.arch.pc.toNat / 4096
        (segKey s (jobAsid s c.job) c.codeBase num = none → exec (.segmentFetch core x) s = .next (fetchTrap s core x .noexec 1 0)) ∧
        (∀ mp mf, segEntry s (jobAsid s c.job) c.codeBase num = some mp → s.manifests[mp.manifest]? = some mf →
          let bs := s.bytes (mp.frame * 65536 + (c.codeBase + num * 8192) % 65536) 8192
          let g : Seg := ⟨jobAsid s c.job, c.codeBase, num, BitVec.ofNat 512 (leNat (bs.take 64)), segWords bs⟩
          (tagOk mf.key num bs = false →
            exec (.segmentFetch core x) s = .next (fetchTrap s core x .segtag 0 (c.codeBase + 8192 * num))) ∧
          (tagOk mf.key num bs = true → (s.core core).segs.length < Config.segCache →
            exec (.segmentFetch core x) s = .next ((arrayWritten s (arrKey (coreArray 4 core) (8192 * (s.core core).segs.length)) 8192).setCore core
              { s.core core with segs := (s.core core).segs ++ [g] })))) ∧
      ((cachedSeg s core c c.arch.pc.toNat).isSome = true → loadedDict s core c = none →
        (dictFrames s (jobAsid s c.job) c.dict = none → exec (.dictLoad core x) s = .next (fetchTrap s core x .noexec 1 0)) ∧
        (∀ fs n mf, dictFrames s (jobAsid s c.job) c.dict = some (fs, n) → s.manifests[n]? = some mf →
          let count := cartCount (leNat (s.bytes (fs.headD 0) 64))
          let bs := framesBytes s fs (dictBytes count)
          ((s.core core).dicts.map (·.count)).sum + count ≤ 4095 →
          (tagOk mf.key dictNumber bs = false → exec (.dictLoad core x) s = .next (fetchTrap s core x .segtag 0 c.dict)) ∧
          (tagOk mf.key dictNumber bs = true → exec (.dictLoad core x) s = .next ((arrayWritten s
            (arrKey (coreArray 3 core) (48 * (1 + ((s.core core).dicts.map (·.count)).sum))) (48 * count)).setCore core { s.core core with
            dicts := (s.core core).dicts ++ [⟨jobAsid s c.job, c.dict, count, dictEnts bs count, x, 0⟩] })))))) ∧
  (∀ (s : State) (job va r : Nat), s.power = .on → readRecord s job va = some r → crState r = usWaiting → ctxOfUnit s job va = none →
    (waitHolds s job r = false → exec (.waitSatisfied job va) s = .next s) ∧
    (waitHolds s job r = true →
      exec (.waitSatisfied job va) s = .next (enqueueUnit (writeRecord (testWait s job r).1 job va (crSet r usReady (crReason r))) job va))) ∧
  (∀ (s : State) (cl : Nat), s.power = .on → cl < 16 → inRun s cl = true →
    let k := s.cluster cl
    let u := s.setCluster cl { k with decisions := k.decisions + 1, decideDue := k.decideDue - 1 }
    (∀ core x q age, choose u cl = some (core, x, q, age) → exec (.decide cl) s = .next (place u cl core x q age)) ∧
    (choose u cl = none → freeList u cl ≠ [] → exec (.decide cl) s = .next u) ∧
    (choose u cl = none → freeList u cl = [] → ∀ q v,
      bestOf u cl ((u.cluster cl).ready.filter (fun q => (coresOf u cl).any (fun c => eligible u c q))) = some q →
      victim u cl q = some v →
      (effCtx u (u.ctx v.1 v.2) < effReady u cl q →
        exec (.decide cl) s = .next (u.setCtx v.1 v.2 { u.ctx v.1 v.2 with preempt := true })) ∧
      (effReady u cl q ≤ effCtx u (u.ctx v.1 v.2) → exec (.decide cl) s = .next u)))

/-- R20 to R24, R376 to R378, R384, R425, R426: power: HOLD, a STEP kept for its end, the loss of power and bring-up, what a power
loss keeps of memory and what the retirement table's copies give back, clusters entering DOZE and OFF and waking, droop and trim. Rests on the model's choices of log entries 8, 19,
50, 51, 52. -/
def Obligations.PowerSteps : Prop :=
  (∀ s : State, exec .droop s = .next s ∧
    (s.power = .on → exec .holdEntry s = .next { s with power := .hold }) ∧
    (s.power = .hold → exec .reserveFloor s = .next { s with power := .off }) ∧
    (s.power = .off → exec .transportShock s = .next { s with shock := true }) ∧
    (s.power = .hold → s.lastSheetLost = true → exec .holdExit s = .next s) ∧
    (s.power = .hold → s.lastSheetLost = false → ∀ m core x n, (s.session m.session).up = true →
      exec (.step m core x n) s = .next { s with heldSteps := s.heldSteps ++ [(m, core, x, n)] }) ∧
    (s.power = .hold → s.lastSheetLost = false → s.heldSteps = [] → ∃ t, exec .holdExit s = .next t ∧
      t = { s with power := .on, links := t.links } ∧ ∀ l, l < 8 → t.link l = restartLink (s.link l)) ∧
    (s.power = .off → exec (.powerUp false) s = .next s ∧
      (let d := chosenTable s.die0 s.die2
       s.journal = [] → openSpares d = [] → ∃ t, exec (.powerUp true) s = .next t ∧
        (∀ a, t.mem.byte a = if a / 2 ^ 60 = 2 ∨ 5 ≤ a / 2 ^ 60 then s.mem.byte a else 0) ∧
        t.jobs = [] ∧ t.sessions = [] ∧ t.powerLost = true ∧ t.die0 = d ∧ t.die2 = d ∧
        t.ret = (d.header.map headerRead).getD State.reset.ret ∧ t.scores = s.die0.scores ∧ t.wear = s.wear ∧
        (s.shock = true → t.surveyFirst = true ∧ t.hostPort = false) ∧
        (∀ core x, core < 1088 → (t.ctx core x).run = .free ∧
          ((s.ctx core x).ckpt.getLsbD 63 = true → (t.ctx core x).shadow = (s.ctx core x).shadow ∧
            (t.ctx core x).ckpt = (s.ctx core x).ckpt ∧ (t.ctx core x).cause = (s.ctx core x).cause))))) ∧
  (∀ (s : State) (core a : Nat), (a < actBytes → (clearCore s core).mem.byte (actKey core a) = 0) ∧
    (a < accBytes → (clearCore s core).mem.byte (accKey core a) = 0)) ∧
  (∀ (s : State) (cl : Nat), s.power = .on → cl < 16 →
    let k := s.cluster cl
    (idleCluster s cl = true → exec (.clusterEnterDoze cl) s = .next (beginEntry s cl false) ∧
      ((∀ c ∈ clusterCtxs s cl, c.frozen = false) → pinnedUnits s (fun code => code / 64 % 16 == cl) = [] →
        exec (.clusterEnterOff cl) s = .next (beginEntry s cl true)) ∧
      ((clusterCtxs s cl).any (·.frozen) = true → exec (.clusterEnterOff cl) s = .next s)) ∧
    (∀ off, k.power = .entering off → exec (.clusterEntryComplete cl) s = .next (s.setCluster cl { k with
      power := if k.wakePending then .waking off else if off then .off else .doze
      tlb := if off then [] else k.tlb, wakePending := false })) ∧
    (wakeWanted s cl = true →
      (k.power = .doze → exec (.clusterWake cl) s = .next (s.setCluster cl { k with power := .waking false })) ∧
      (k.power = .off → exec (.clusterWake cl) s = .next (s.setCluster cl { k with power := .waking true })) ∧
      (∀ off, k.power = .entering off → exec (.clusterWake cl) s = .next (s.setCluster cl { k with wakePending := true }))) ∧
    (∀ off, k.power = .waking off →
      let u := (List.range Config.physCores).foldl (fun t x =>
        if off then clearCore t (68 * cl + x) else wakeCore t (68 * cl + x)) s
      exec (.clusterWakeDone cl) s = .next (releaseAll (u.setCluster cl { u.cluster cl with power := .run }))) ∧
    (k.power = .run →
      (inTrimWindow s cl = true → exec (.trimStepDown cl) s = .next (s.setCluster cl { k with trimMv := min 60 (k.trimMv + 5) })) ∧
      (inTrimWindow s cl = false → exec (.trimStepDown cl) s = .next s)))

/-- R312, R362 to R364, R380 to R382: what the Surveyor leases, passes and retires, a spare in service, scores that halve, and
sheets that fail and switch. Rests on the model's choices of log entries 47, 48, 49. -/
def Obligations.SurveySteps : Prop :=
  ∀ s : State, s.power = .on →
    (∀ ch w, ch < 48 → w < 64 → s.leases.contains (.window ch w) = false → spareUsed s ch = false →
      exec (.surveyLease (.window ch w)) s = .next (noted { s with leases := s.leases ++ [.window ch w] } [2176 + 64 * ch + w])) ∧
    (∀ l, l < 8 → s.leases.contains (.link l) = false → Tab.get false s.outLinks l = false →
      exec (.surveyLease (.link l)) s = .next (noted { s with leases := s.leases ++ [.link l] } [5248 + l])) ∧
    (∀ sh d, sh < 4 → d < 5 → s.leases.contains (.segment sh d) = false → s.sheets.busy = false → s.sheets.live.length = 4 →
      exec (.surveyLease (.segment sh d)) s = .next (noted { s with
        leases := s.leases ++ [.segment sh d], sheets := { s.sheets with next := s.sheets.live.filter (· != sh), busy := true } }
          [5256 + 5 * sh + d])) ∧
    (∀ cl x, cl < 16 → x < 68 → s.leases.contains (.core cl x) = false → (s.cluster cl).retired.getLsbD x = false →
      (inRun s cl = false → exec (.surveyLease (.core cl x)) s = .next (leaseLater (surveyWake s cl) (68 * cl + x))) ∧
      (inRun s cl = true → (s.core (68 * cl + x)).leased = false →
        let u := beginCoreLease s (68 * cl + x)
        (stoppedFor u (68 * cl + x) 0 = true → stoppedFor u (68 * cl + x) 1 = true → exec (.surveyLease (.core cl x)) s =
          .next (capacityChange (noted { u with leases := u.leases ++ [.core cl x] } [68 * cl + x, 1088 + (68 * cl + x)]) cl (fun k => { k with leased := k.leased + 1 }))) ∧
        (stoppedFor u (68 * cl + x) 0 = false → exec (.surveyLease (.core cl x)) s = .next (leaseLater u (68 * cl + x))))) ∧
    (∀ c n, s.leases.contains c = true →
      (∀ cl x, c = .core cl x → (s.cluster cl).work = none → exec (.surveyPass c n) s = .next (surveyEnded (passCore s cl x n))) ∧
      (∀ sh d, c = .segment sh d → s.sheets.busy = false → exec (.surveyPass c n) s =
        .next (surveyEnded { s with leases := s.leases.filter (· != c), sheets := { s.sheets with next := withSheet s.sheets.live sh, busy := true } })) ∧
      ((∃ ch w, c = .window ch w) ∨ (∃ l, c = .link l) →
        exec (.surveyPass c n) s = .next (surveyEnded { s with leases := s.leases.filter (· != c) }))) ∧
    (∀ c, s.leases.contains c = true →
      (∀ cl x, c = .core cl x → (s.cluster cl).work = none → exec (.surveyMismatch c 0) s =
        .next (surveyEnded (retireCore (chargeScore (settleCore s cl x true) (68 * cl + x) 16384) cl x 0))) ∧
      (∀ ch w, c = .window ch w → ∃ t, exec (.surveyMismatch c 0) s = .next t ∧ Tab.get false t.outWindows (64 * ch + w) = true ∧
        t.score (scoreIndex c) = min 65535 (s.score (scoreIndex c) + 16384) ∧ t.leases = s.leases.filter (· != c)) ∧
      (∀ l, c = .link l → ∃ t, exec (.surveyMismatch c 0) s = .next t ∧ Tab.get false t.outLinks l = true ∧ (t.link l).state = .down) ∧
      (∀ sh d, c = .segment sh d → s.sheets.busy = false → ∃ t, exec (.surveyMismatch c 0) s = .next t ∧
        t.sheets = ⟨s.sheets.live, s.sheets.live.filter (· != sh), true, s.sheets.retired ++ [sh]⟩)) ∧
    (∀ cl w, (s.cluster cl).work = some w →
      let old := 68 * cl + w.old
      let new := 68 * cl + w.spare
      let u := spareCore (spareState (putInService s cl w) old new) old new
      let v := dropLease (endAsk (endAsk u new 0) new 1) (.core cl w.old)
      (w.half = false → exec (.spareInService cl) s = .next (prepareSpare s cl w)) ∧
      (w.half = true → exec (.spareInService cl) s = .next (surveyEnded (returnCluster (releaseAll
        ((capacityChange v cl (fun k => { k with leased := k.leased - 1 })).decisionDue cl)) cl)))) ∧
    (∀ sh, sh < 4 → s.sheets.retired.contains sh = false → s.sheets.busy = false →
      (s.sheets.retired.length < 3 → ∃ t, exec (.sheetFailure sh) s = .next t ∧
        t.sheets = ⟨s.sheets.live, s.sheets.live.filter (· != sh), true, s.sheets.retired ++ [sh]⟩ ∧ t.power = .on) ∧
      (s.sheets.retired.length = 3 → ∃ t, exec (.sheetFailure sh) s = .next t ∧ t.lastSheetLost = true ∧ t.power = .hold ∧
        t.ret.replacement = true ∧ ∃ l, t.sent.getLast? = some (.event 0x800C none l))) ∧
    (s.sheets.busy = true → ∃ t, exec .sheetRehashSwitch s = .next t ∧
      t.sheets = { s.sheets with live := s.sheets.next, busy := false }) ∧
    (∀ d, ∃ t, exec (.scoreHalving d) s = .next t ∧
      ∀ i, t.score i = if scoreDomain i = d ∧ clockRuns s i = true then s.score i / 2 else s.score i)

/-- R241, R253, R294, R299, R404, R405, R419, R421 to R423: inbound requests, page moves, links, the host port and the
drives. Rests on the model's choices of log entries 9, 19, 53, 54, 55, 57. -/
def Obligations.OutsideSteps : Prop :=
  ∀ s : State, s.power = .on →
    (∀ r : HostReq, s.hostPort = true → r.bar0 = true → ∀ n, r.acc = .read n → 4 ≤ r.off → r.off + n ≤ 65536 →
      ∃ t, exec (.hostInboundRequest r) s = .next t ∧ t.sent = s.sent ++ [.completion r.requester 0 false (List.replicate n 0)]) ∧
    (∀ r : HostReq, s.hostPort = true → r.bar0 = false →
      (r.pasid = none → exec (.hostInboundRequest r) s = .next (complete s r 1 (false, []))) ∧
      (∀ asid, r.pasid = some asid → asid < 65536 →
        let va := r.off % 2 ^ 48
        let job := asidOwner s asid
        0 < accBytesOf r.acc → va % 65536 + accBytesOf r.acc ≤ 65536 → atomicServed r.acc va = true →
        (requesterFrozen s r job = true → exec (.hostInboundRequest r) s =
          .next (refusalRecord (complete s r 2 (false, [])) r asid rfFrozen 255)) ∧
        (requesterFrozen s r job = false →
          let t := inbound s asid va (accWrites r.acc) none (3 * 2 ^ 60 + r.requester % 2 ^ 16)
          (∀ u e, t = (u, .error e) →
            exec (.hostInboundRequest r) s = .next (refusalRecord (complete u r 2 (false, [])) r asid e.1 e.2)) ∧
          (∀ u x v d, t = (u, .ok x) → performAccess u x.addr ⟨none, job⟩ r.acc (hostPoison u job) = (v, some d) →
            exec (.hostInboundRequest r) s = .next (complete v r 0 d))))) ∧
    (∀ r : PeerReq, (s.link r.link).state = .up →
      let va := r.va % 2 ^ 48
      let job := asidOwner s r.asid
      0 < accBytesOf r.acc → va % 65536 + accBytesOf r.acc ≤ 65536 → tdiOf s job = none ∨ tdiOf s job = some .run →
      let t := inbound s r.asid va (accWrites r.acc) (some r.peer) (4 * 2 ^ 60 + r.peer % 256)
      (∀ u e, t = (u, .error e) →
        exec (.peerInboundRequest r) s = .next (answerPeer u r.link (.hint r.peer e.2 e.1) (leBytes 8 e.2))) ∧
      (∀ u x v d, t = (u, .ok x) →
        performAccess (countAccess u r.asid va x.leafAt (some r.peer)) x.addr ⟨none, job⟩ r.acc true = (v, some d) →
        exec (.peerInboundRequest r) s = .next (answerPeer v r.link
          (.peerDone r.peer d.2 (if d.1 then poisonedIn v x.addr (accBytesOf r.acc) else [])) d.2))) ∧
    (∀ asid va peer q x, s.moveReqs.find? (fun q => q.asid == asid && q.va == va && q.peer == peer) = some q →
      walk s asid va 6 false = some x →
      let step := exec (.pageMove asid va peer) s
      let page := pageOut s q.peer q.asid q.va x.addr (leNat (s.bytes x.leafAt 16))
      (q.phase = .due → fld x.leaf 7 6 ≠ 0 ∨ upLink s = none → step = .next (moveTo s q none)) ∧
      (q.phase = .due → fld x.leaf 7 6 = 0 → ∀ l, upLink s = some l →
        step = .next (answerPeer (moveTo s q (some .asked)) l (.askFrame q.peer q.asid q.va) (leBytes 8 q.va))) ∧
      (q.phase = .granted → ∀ l, upLink s = some l → ∃ t, step = .next t ∧ t.moveReqs = (moveTo s q (some .sent)).moveReqs ∧
        .page q.peer page ∈ t.sent) ∧
      (q.phase = .arrived → step = .next (leavePage s q x)) ∧
      (q.phase = .asked ∨ q.phase = .sent → step = .next s)) ∧
    (∀ l (f : Flit), (s.link l).state = .up →
      let k := s.link l
      let heard := exec (.flitReceive l f) s
      (f.crcOk = false → heard = .next (chargeScore (emit s (.replay l k.recvSeq)) (5248 + l) 1)) ∧
      (f.crcOk = true → macHolds l f = false → heard = .next (linkTo s l .halted)) ∧
      (f.crcOk = true → macHolds l f = true → f.epoch ≠ k.epoch ∨ f.seq ≠ k.recvSeq → heard = .next s) ∧
      (f.crcOk = true → macHolds l f = true → f.epoch = k.epoch → f.seq = k.recvSeq →
        let u := s.setLink l { k with recvSeq := k.recvSeq + 1, unacked := k.unacked.filter (fun u => f.ack ≤ u.1) }
        (f.body = none → heard = .next u) ∧
        (∀ b, f.body = some b → heard = .next (peerMsg u l b)) ∧
        (∀ asid va peer q, f.body = some (.noFrame asid va peer) →
          u.moveReqs.find? (fun q => q.asid == asid && q.va == va && q.peer == peer && q.phase == .asked) = some q →
          heard = .next (moveTo u q none)) ∧
        (∀ m, f.body = some (.page m) → (∀ q ∈ s.framesFor, q.1 ≠ m.asid) → heard = .next u) ∧
        (∀ seq, f.body = some (.replay seq) → heard = .next (chargeScore (resend u l seq) (5248 + l) 1)))) ∧
    (∀ l, l < 8 →
      let k := s.link l
      (k.state = .up → exec (.linkMacFailure l) s = .next (linkTo s l .halted) ∧
        exec (.linkDown l) s = .next (abandonMoves (linkTo (s.setLink l k) l .down))) ∧
      (k.state ≠ .up → k.state ≠ .down →
        exec (.linkDown l) s = .next (abandonMoves (linkTo (s.setLink l { k with fails := 16 }) l .down)) ∧
        exec (.linkRetrainComplete l) s = .next (sendBundles (linkTo (newEpoch (s.setLink l { k with fails := 0 }) l) l .up)))) ∧
    (∀ drive sct sc, Tab.get false s.drives drive = false →
      let code := sct % 8 * 256 + sc % 256
      let done := exec (.nvmeCompletion drive sct sc) s
      (∀ q k, firstCmd s drive = some (q, k) →
        let u := { s with nvmeQ := Tab.set [] s.nvmeQ q ((s.pair q).erase k) }
        (waits s k.who = false → done = .next u) ∧
        (waits s k.who = true → code ≠ 0 → done = .next (nvmeAnswer (withdraw u k.who) k.who [drive] code)) ∧
        (waits s k.who = true → code = 0 →
          (u.nvmeQ.any (fun p => p.2.any (fun v => v.who == k.who)) = true → done = .next u) ∧
          (u.nvmeQ.any (fun p => p.2.any (fun v => v.who == k.who)) = false → done = .next (nvmeAnswer u k.who [] 0)))) ∧
      (firstCmd s drive = none → done = .next s)) ∧
    (∀ drive, drive < 4 → Tab.get false s.drives drive = false → ∃ t, exec (.driveUnresponsive drive) s = .next t ∧
      t.sent.getLast? = some (.event 0x800B none [8 + drive, 0])) ∧
    (s.hostPort = true → exec .hostPortNotDelivering s = .next (endHostTransfers { s with hostPort := false })) ∧
    (s.hostPort = false → exec .hostPortNotDelivering s = .next s)

/-! The whole machine. -/

/-- R12, R109, R141, R170, R173, R193, R194, R303, R310, R362, R406: the device right after reset; memory is in its
canonical form, every context free with its registers at zero but the words of R173, every activation and accumulator
byte zero and every line plaintext, every cluster with 64 cores and 4 spares, no job and no session. Rests on the
model's choices of log entries 3, 4, 62. -/
def Obligations.ResetState : Prop :=
  let s := State.reset
  Ordered s ∧
  (∀ core x,
    let c := s.ctx core x
    c.run = .free ∧ c.ckpt = 0 ∧ c.cause = 0 ∧ c.arch.tick = 0 ∧
    (∀ n, c.arch.rdS n = 0 ∧ c.arch.rdV n = 0 ∧ c.arch.rdW n = 0 ∧ c.arch.rdH n = 0 ∧ c.arch.rdF n = 0 ∧ c.arch.rdTb n = 0 ∧
      c.arch.rdQ n = none ∧ c.arch.rdP n = decide (n = 0) ∧ c.arch.rdK n = if n = 0 then BitVec.allOnes 64 else 0) ∧
    c.arch.mSh = ⟨1, 0x10000, 0, 0, 0, 0xFFFFFFFF, 0⟩ ∧ c.arch.mAct = c.arch.mSh ∧ c.arch.dSh = ⟨0, 0, 0⟩ ∧ c.arch.bankC = false) ∧
  (∀ core a, s.mem.byte (actKey core a) = 0 ∧ s.mem.byte (accKey core a) = 0 ∧ s.form core a = false) ∧
  (∀ c, (s.cluster c).cores = 64 ∧ (s.cluster c).spares = 4 ∧ (s.cluster c).map = List.range 64 ∧ (s.cluster c).decisions = 0) ∧
  s.ret = ⟨0, false, 60, 44, 6⟩ ∧ (∀ i, s.score i = 0 ∧ s.job i = none ∧ (s.session i).up = false)

/-- R64, R70, R72: one word of every slot class, written out from the formats, and the worked bundle of R68, taken apart as the
spec takes it apart. -/
def Obligations.DecodeWorkedWords : Prop :=
  decodeSlot .c 0x0100000000001020 = some (.j ⟨0, 0, 0x1020⟩) ∧
  decodeSlot .s 0x0110518000000000 = some (.add ⟨4, 5, 6, .none, 0⟩) ∧
  decodeSlot .v 0x010420C069800000 = some (.vadd ⟨1, 2, 3, 0, .bf16, 3, .rne, false, .none, 0⟩) ∧
  decodeSlot .m 0x1202000A00000000 = some (.mset ⟨0, 4, 0, 5, .none, .rne, false⟩) ∧
  decodeSlot .e 0x1107000000000003 = some (.semadd ⟨7, 0, 0, 0, 0, 0, .eq, 3⟩) ∧
  decodeSlot .s 0xFF00000000000000 = none ∧
  (let r := scanBundle (0x0302071801400000 * 2 ^ 320 + 0x0110518000000000 * 2 ^ 192 + 0x010420C069800000 * 2 ^ 128)
   r.2 = [] ∧ r.1.waitIndex = 3 ∧ r.1.waitThreshold = 2 ∧ r.1.sigIndex = 7 ∧ r.1.sigIncrement = 1 ∧ r.1.ckpt = true ∧
   r.1.susp = false ∧ r.1.guards = [0, 5, 0, 0, 0] ∧ r.1.occupied = [false, true, true, false, false] ∧
   r.1.slots = [none, some (.add ⟨4, 5, 6, .none, 0⟩), some (.vadd ⟨1, 2, 3, 0, .bf16, 3, .rne, false, .none, 0⟩), none, none])

/-- R64, R70 to R72, R75: for every well-formed slot instruction, with every operand at every value its format admits, the
decoder reads from its encoding that instruction; so no two of them share an encoding. -/
def Obligations.RoundTrip : Prop :=
  ∀ i : Instr, (encode i).isSome = true → i.WellFormed →
    decodeTableWord 384 (soloBundle i) = some i ∧
    ∀ cl w, encode i = some (cl, w) → w < 2 ^ 64 ∧ decodeSlot cl w = some i

/-- R43, R54 to R58, R64 to R68: a step runs what stands first in the agenda, else the device's own next happening. A cycle
of a core in RUN completes whenever neither context offers an encoding that the scanner refuses. An issue of a bundle
with no live slot applies its header and passes the tick; one whose one live slot holds instruction i, with nothing to
wait for, is the meaning of i after the header, and then the tick passes; both over data without errors. Rests on the model's
choices of log entries 1, 16, 59. -/
def Obligations.StepIssuesDecoded : Prop :=
  (∀ (s : State) i rest, s.agenda = i :: rest → inSlot i = false → step s = exec i { s with agenda := rest }) ∧
  (∀ s : State, s.agenda = [] → step s = exec (nextOwn s) { s with turn := s.turn + 1 }) ∧
  (∀ (s : State) (core : Nat), s.power = .on → s.lastSheetLost = false → inRun s (clusterOf core) = true →
    let w := beginCycle (beginCycle s core 0) core 1
    (∀ x r, offerOf w core x ≠ .refused r) → ∃ t, exec (.bundleIssue core) s = .next t) ∧
  (∀ (s : State) (core bits : Nat) (lit : Bool) (cart : BitVec 512) (b : Bundle),
    s.power = .on → s.lastSheetLost = false → inRun s (clusterOf core) = true → s.errs = [] →
    let c := s.ctx core 0
    c.run = .running → c.halted = false → c.frozen = false → c.mode.getLsbD 0 = false → c.bubble = 0 → c.arch.idle = 0 →
    anyDue c.arch = false → (s.ctx core 1).run = .free → anyDue (s.ctx core 1).arch = false →
    fetch s core 0 = .ok bits lit cart → scanBundle bits = (b, []) → reservedAt s core c cart = none →
    liveSlots c.arch b = [] → b.ckpt = false → c.withhold.length ≤ Config.withholdEntries →
    b.waitThreshold ≤ (Tab.get (0 : BitVec 16) c.arch.f b.waitIndex).toNat →
    let v := countIssue ((asActing s core 0 ⟨b, lit, cart, []⟩).setCtx core 0
      { c with cart := cart, arch := applyHeader c.arch b, replay := false }) core 0
    let w := writeArrays v.noBundle core 0
    exec (.bundleIssue core) s =
      .next (endCycle (stall (w.setCtx core 0 (passTick (w.ctx core 0) lit none)) core 1 .stopped) core none)) ∧
  (∀ (s : State) (core bits : Nat) (lit : Bool) (cart : BitVec 512) (b : Bundle) (k : Nat) (i : Instr),
    s.power = .on → s.lastSheetLost = false → inRun s (clusterOf core) = true → s.errs = [] →
    let c := s.ctx core 0
    c.run = .running → c.halted = false → c.frozen = false → c.mode.getLsbD 0 = false → c.bubble = 0 → c.arch.idle = 0 →
    anyDue c.arch = false → (s.ctx core 1).run = .free → anyDue (s.ctx core 1).arch = false →
    fetch s core 0 = .ok bits lit cart → scanBundle bits = (b, []) → reservedAt s core c cart = none →
    let o : Offer := ⟨b, lit, cart, liveSlots c.arch b⟩
    let a := asActing s core 0 o
    o.live = [(k, i)] → inSlot i = true → unmetWaits a o = [] → busy a o = false → b.ckpt = false → forced s core 0 o = false →
    let v := countIssue (a.setCtx core 0 { c with cart := cart, arch := applyHeader c.arch b, replay := false }) core 0
    ∀ t, exec i (v.atSlot k) = .next t →
      let w := writeArrays t.noBundle core 0
      let z := if t.cur.trapped then afterTrap w core 0 else w.setCtx core 0 (passTick (w.ctx core 0) lit t.cur.next)
      exec (.bundleIssue core) s = .next (endCycle (stall z core 1 .stopped) core none))

/-- R46, R126, R198: the frame of a slot instruction other than SUSPEND and YIELD, which end the unit's run, that goes through without a
trap, over data without errors: every scalar, predicate, lane-predicate, vector, latch and shape register keeps its value
until its result is due, and every byte of memory keeps its value until the withheld entry is released. A SIGWT whose word
is not read posts a notice or an error record at once (R357, R208), and that alone may write memory. -/
def Obligations.IssueLeavesRegistersAndMemory : Prop :=
  ∀ (i : Instr) (s t : State), inSlot i = true → (∀ f, i ≠ .suspend f) → (∀ f, i ≠ .yield f) →
    s.errs = [] → s.cur.trapped = false → exec i s = .next t → t.cur.trapped = false →
    SameRegisters s t ∧ ((∀ f, i = .sigwt f → ∃ v, (sigwtRead f s).2 = .ok v) → SameMemory s t)

/-- R3: no instruction is refused, and the one fault is a bundle issue that meets an encoding which the scanner refuses.
Rests on the model's choices of log entries 8, 60. -/
def Obligations.OnlyReservedEncodingStops : Prop :=
  ∀ (i : Instr) (s : State), (∀ r, exec i s ≠ .refused r) ∧
    ∀ f, exec i s = .fault f → ∃ core r, i = .bundleIssue core ∧ f = .reservedEncoding r

/-- Every step keeps memory in its one canonical form: keys strictly rising, no byte listed that reads as an unlisted one
does. Rests on the model's choices of log entry 3. -/
def Obligations.MemoryCanonicalStep : Prop :=
  ∀ s t : State, Ordered s → step s = .next t → Ordered t

end
end

