-- ==== Sys2Proof/Laws/Cipher.lean ====
section
/-! SUPPORT. AES-256-GCM: two blocks under one key stream twice are themselves, so that a key which the device has wrapped unwraps. -/
namespace Sys2Proof.Machine

/-- The runs that a list splits into. -/
theorem chunks_get {α : Type} (n c : Nat) (l : List α) (i : Nat) (h : i < c) (hi : n * i < l.length) :
    (chunks n c l)[i]? = some ((l.drop (n * i)).take n) := by
  induction c generalizing i l with
  | zero => omega
  | succ c ih =>
    rw [chunks, if_neg (by rw [List.isEmpty_iff_length_eq_zero]; omega)]
    cases i with
    | zero => simp
    | succ i =>
      rw [List.getElem?_cons_succ, ih _ _ (by omega) (by rw [List.length_drop]; rw [Nat.mul_succ] at hi; omega), List.drop_drop]
      congr 3; ring
/-- A list of whole runs splits into all of them. -/
theorem chunks_length {α : Type} (n c : Nat) (l : List α) (hn : 0 < n) (h : l.length = n * c) : (chunks n c l).length = c := by
  induction c generalizing l with
  | zero => rfl
  | succ c ih =>
    rw [Nat.mul_succ] at h
    rw [chunks, if_neg (by rw [List.isEmpty_iff_length_eq_zero]; omega), List.length_cons, ih _ (by rw [List.length_drop]; omega)]

theorem xorL_length (a b : List Nat) : (xorL a b).length = min a.length b.length := by simp [xorL]

/-- Words of an expanded key have four bytes. -/
theorem aesExpand_words (n i rcon : Nat) (w : List (List Nat)) (h8 : 8 ≤ w.length) (h4 : ∀ x ∈ w, x.length = 4) :
    (aesExpand n i rcon w).length = w.length + n ∧ ∀ x ∈ aesExpand n i rcon w, x.length = 4 := by
  induction n generalizing i rcon w with
  | zero => simp [aesExpand]; exact h4
  | succ n ih =>
    rw [aesExpand]
    have hp : (w.getD 0 []).length = 4 := by
      rw [List.getD_eq_getElem (hn := by omega)]; exact h4 _ (List.getElem_mem _)
    have h7 : (w.getD 7 []).length = 4 := by
      rw [List.getD_eq_getElem (hn := by omega)]; exact h4 _ (List.getElem_mem _)
    refine (ih _ _ _ (by rw [List.length_cons]; omega) ?_).imp (fun h => by rw [h, List.length_cons]; omega) id
    intro x hx
    rcases List.mem_cons.1 hx with rfl | hx
    · rw [List.length_map, List.length_zip, h7]
      split
      · obtain ⟨a, b, c, d, he⟩ : ∃ a b c d, w.getD 0 [] = [a, b, c, d] := by
          match w.getD 0 [], hp with
          | [a, b, c, d], _ => exact ⟨a, b, c, d, rfl⟩
        rw [he]; simp
      · split <;> simp only [List.length_map, hp, min_self]
    · exact h4 x hx
theorem aesKeys_last (key : List Nat) (h : key.length = 32) : ((aesKeys key).getD 14 []).length = 16 := by
  have hc : ∀ x ∈ (chunks 4 8 key).reverse, x.length = 4 := by
    intro x hx
    obtain ⟨i, hi, rfl⟩ := List.getElem_of_mem (List.mem_reverse.1 hx)
    have hl := chunks_length 4 8 key (by omega) (by omega)
    rw [hl] at hi
    have := chunks_get 4 8 key i hi (by omega)
    rw [List.getElem?_eq_getElem (by omega)] at this
    rw [Option.some.inj this, List.length_take, List.length_drop]; omega
  have he := aesExpand_words 52 8 1 _ (by rw [List.length_reverse, chunks_length _ _ _ (by omega) (by omega)]) hc
  rw [List.length_reverse, chunks_length _ _ _ (by omega) (by omega)] at he
  rw [aesKeys, List.getD_eq_getElem?_getD, List.getElem?_map, chunks_get _ _ _ _ (by omega) (by omega)]
  rw [Option.map_some, Option.getD_some, List.length_flatten]
  have : (List.take 4 (List.drop (4 * 14) (aesExpand 52 8 1 (chunks 4 8 key).reverse))).map List.length = List.replicate 4 4 := by
    rw [List.eq_replicate_iff]
    refine ⟨by rw [List.length_map, List.length_take, List.length_drop]; omega, fun b hb => ?_⟩
    obtain ⟨x, hx, rfl⟩ := List.mem_map.1 hb
    exact he.2 x (List.mem_of_mem_drop (List.mem_of_mem_take hx))
  rw [this]; rfl
theorem aesBlock_length (key b : List Nat) (h : key.length = 32) : (aesBlock (aesKeys key) b).length = 16 := by
  rw [aesBlock, xorL_length, aesKeys_last key h]; simp [aesShiftRows]

/-- A block under its key stream twice is the block. -/
theorem block_twice (b k : List Nat) (h : b.length ≤ k.length) :
    ((xorL (((xorL b k).map (BitVec.ofNat 8 ·)).map (·.toNat)) k).map (BitVec.ofNat 8 ·)) = b.map (BitVec.ofNat 8 ·) := by
  refine List.ext_getElem (by simp [xorL]; omega) fun i h1 h2 => ?_
  simp only [xorL, List.getElem_map, List.getElem_zip]
  apply BitVec.eq_of_getLsbD_eq
  intro j hj
  simp only [BitVec.getLsbD_ofNat, hj, decide_true, Bool.true_and, Nat.testBit_xor, BitVec.toNat_ofNat, Nat.testBit_mod_two_pow]
  cases (b[i]'(by simpa using h2)).testBit j <;> cases (k[i]'(by simp at h2; omega)).testBit j <;> rfl

theorem chunks_two {α : Type} (a b : List α) (ha : a.length = 16) (hb : b.length = 16) : chunks 16 3 (a ++ b) = [a, b] := by
  have h1 : (a ++ b).isEmpty = false := by rw [Bool.eq_false_iff, Ne, List.isEmpty_iff_length_eq_zero, List.length_append]; omega
  have h2 : b.isEmpty = false := by rw [Bool.eq_false_iff, Ne, List.isEmpty_iff_length_eq_zero]; omega
  have t1 : (a ++ b).take 16 = a := by rw [← ha, List.take_left]
  have d1 : (a ++ b).drop 16 = b := by rw [← ha, List.drop_left]
  have t2 : b.take 16 = b := by rw [← hb, List.take_length]
  have d2 : b.drop 16 = [] := by rw [← hb, List.drop_length]
  rw [chunks, h1, t1, d1, chunks, h2, t2, d2]; rfl
/-- Two blocks under one key stream. -/
theorem gcmCtr_two (keys : List (List Nat)) (iv : Nat) (a b : List Nat) (ha : a.length = 16) (hb : b.length = 16) :
    gcmCtr keys iv (a ++ b) = xorL a (aesBlock keys (natBlock (iv * 2 ^ 32 + 2))) ++ xorL b (aesBlock keys (natBlock (iv * 2 ^ 32 + 3))) := by
  rw [gcmCtr, List.length_append, ha, hb, chunks_two a b ha hb]
  simp
theorem toNat_map (m : List Byte) : (m.map (·.toNat)).map (BitVec.ofNat 8 ·) = m := by
  rw [List.map_map]; simp [Function.comp_def]
/-- 32 bytes under AES-256-GCM twice are the bytes. -/
theorem gcmCrypt_twice (key iv m : List Byte) (hk : key.length = 32) (hm : m.length = 32) : gcmCrypt key iv (gcmCrypt key iv m) = m := by
  have hb := aesBlock_length (key.map (·.toNat)) (natBlock (beNat iv * 2 ^ 32 + 2)) (by rw [List.length_map, hk])
  have hc := aesBlock_length (key.map (·.toNat)) (natBlock (beNat iv * 2 ^ 32 + 3)) (by rw [List.length_map, hk])
  obtain ⟨a, b, rfl, ha, he⟩ : ∃ a b : List Byte, m = a ++ b ∧ a.length = 16 ∧ b.length = 16 :=
    ⟨m.take 16, m.drop 16, (List.take_append_drop 16 m).symm, by rw [List.length_take]; omega, by rw [List.length_drop]; omega⟩
  unfold gcmCrypt
  rw [List.map_append, gcmCtr_two _ _ _ _ (by rw [List.length_map, ha]) (by rw [List.length_map, he]), List.map_append, List.map_append,
    gcmCtr_two _ _ _ _ (by rw [List.length_map, List.length_map, xorL_length, List.length_map]; omega)
      (by rw [List.length_map, List.length_map, xorL_length, List.length_map]; omega),
    List.map_append, block_twice _ _ (by rw [List.length_map]; omega), block_twice _ _ (by rw [List.length_map]; omega), toNat_map, toNat_map]
theorem leBytes_length (n x : Nat) : (leBytes n x).length = n := by
  induction n generalizing x with
  | zero => rfl
  | succ n ih => rw [leBytes, List.length_cons, ih]
theorem leNat_leBytes (n x : Nat) (h : x < 256 ^ n) : leNat (leBytes n x) = x := by
  induction n generalizing x with
  | zero => simp at h; subst h; rfl
  | succ n ih =>
    rw [leBytes, leNat, ih _ (by rw [Nat.div_lt_iff_lt_mul (by omega)]; rw [pow_succ] at h; exact h), BitVec.toNat_ofNat]
    omega
/-- A key that this device has wrapped unwraps here (R415, R417). -/
theorem unwrap_wrap (s : State) (k : BitVec 256) : unwrapKey (wrapKey s k).2 = some k := by
  unfold unwrapKey wrapKey
  dsimp only
  rw [if_pos rfl, gcmCrypt_twice _ _ _ (leBytes_length _ _) (leBytes_length _ _), leNat_leBytes _ _ (by have := k.isLt; norm_num at this ⊢; exact this)]
  simp

end Sys2Proof.Machine
end

