-- ==== Sys2Proof/Laws/Tab.lean ====
section
/-! SUPPORT. Sparse tables and memory: what a read after a write gives, and that every operation keeps the canonical
form. -/
namespace Sys2Proof.Machine

variable {α : Type}

/-! Reading a table. -/

theorem Tab.get_append (d : α) (t u : Tab α) (a : Nat) :
    Tab.get d (t ++ u) a = if t.any (fun c => c.1 == a) then Tab.get d t a else Tab.get d u a := by
  induction t with
  | nil => simp
  | cons c t ih =>
    obtain ⟨k, v⟩ := c
    by_cases h : k = a
    · simp [Tab.get, h]
    · rw [List.cons_append, Tab.get, if_neg h, ih, List.any_cons, Tab.get, if_neg h, beq_eq_false_iff_ne.2 h, Bool.false_or]

theorem Tab.get_of_not_any (d : α) (t : Tab α) (a : Nat) (h : t.any (fun c => c.1 == a) = false) : Tab.get d t a = d := by
  induction t with
  | nil => rfl
  | cons c t ih =>
    obtain ⟨k, v⟩ := c
    simp only [List.any_cons, Bool.or_eq_false_iff, beq_eq_false_iff_ne] at h
    simp [Tab.get, h.1, ih h.2]

theorem Tab.get_filter (d : α) (p : Nat → Bool) (t : Tab α) (a : Nat) :
    Tab.get d (t.filter (fun c => p c.1)) a = if p a then Tab.get d t a else d := by
  induction t with
  | nil => simp [Tab.get]
  | cons c t ih =>
    obtain ⟨k, v⟩ := c
    by_cases hk : k = a
    · subst hk
      by_cases hp : p k
      · simp [List.filter, Tab.get, hp]
      · simp [List.filter, hp, ih]
    · by_cases hp : p k
      · simp [List.filter, Tab.get, hp, hk, ih]
      · simp [List.filter, Tab.get, hp, hk, ih]

theorem Tab.any_filter (p : Nat → Bool) (t : Tab α) (a : Nat) :
    (t.filter (fun c => p c.1)).any (fun c => c.1 == a) = (p a && t.any (fun c => c.1 == a)) := by
  induction t with
  | nil => simp
  | cons c t ih =>
    obtain ⟨k, v⟩ := c
    by_cases hp : p k
    · by_cases hk : k = a
      · subst hk; simp [List.filter, hp]
      · simp [List.filter, hp, beq_eq_false_iff_ne.2 hk, ih]
    · by_cases hk : k = a
      · subst hk; simp [List.filter, hp, ih]
      · simp [List.filter, hp, beq_eq_false_iff_ne.2 hk, ih]

theorem Tab.get_set_same [DecidableEq α] (d : α) (t : Tab α) (a : Nat) (v : α) : Tab.get d (Tab.set d t a v) a = v := by
  unfold Tab.set
  rw [Tab.get_append, Tab.get_append]
  by_cases hv : v = d
  · simp [hv, Tab.any_filter (fun k => decide (k < a)), Tab.get_filter d (fun k => decide (a < k))]
  · simp [hv, Tab.any_filter (fun k => decide (k < a)), Tab.get]

theorem Tab.get_set_other [DecidableEq α] (d : α) (t : Tab α) {a b : Nat} (h : b ≠ a) (v : α) :
    Tab.get d (Tab.set d t a v) b = Tab.get d t b := by
  unfold Tab.set
  have hm : (if v = d then [] else [(a, v)] : Tab α).any (fun c => c.1 == b) = false := by
    split <;> simp; exact fun e => h e.symm
  rw [Tab.get_append, Tab.get_append, List.any_append, hm]
  by_cases hb : b < a
  · by_cases ha : t.any (fun c => c.1 == b)
    · simp [Tab.any_filter (fun k => decide (k < a)), Tab.get_filter d (fun k => decide (k < a)), hb, ha]
    · have hf : t.any (fun c => c.1 == b) = false := Bool.eq_false_iff.2 ha
      simp [Tab.any_filter (fun k => decide (k < a)), Tab.get_filter d (fun k => decide (a < k)), hb, hf,
        Tab.get_of_not_any d t b hf]
  · have hab : a < b := by omega
    simp [Tab.any_filter (fun k => decide (k < a)), Tab.get_filter d (fun k => decide (a < k)), hb, hab]

/-! The canonical form. -/

/-- The canonical form, said with Prop connectives. -/
theorem Tab.wf_cons [DecidableEq α] (d : α) (k : Nat) (v : α) (t : Tab α) :
    Tab.wf d ((k, v) :: t) = true ↔ v ≠ d ∧ (∀ c ∈ t, k < c.1) ∧ Tab.wf d t = true := by
  simp [Tab.wf, and_assoc]

theorem Tab.wf_filter [DecidableEq α] (d : α) (p : Nat × α → Bool) : ∀ t : Tab α, Tab.wf d t = true →
    Tab.wf d (t.filter p) = true
  | [], _ => rfl
  | (k, v) :: t, h => by
    rw [Tab.wf_cons] at h
    have ih := Tab.wf_filter d p t h.2.2
    by_cases hp : p (k, v)
    · rw [List.filter_cons_of_pos hp, Tab.wf_cons]
      exact ⟨h.1, fun c hc => h.2.1 c (List.mem_filter.1 hc).1, ih⟩
    · rw [List.filter_cons_of_neg hp]; exact ih

theorem Tab.wf_append [DecidableEq α] (d : α) : ∀ t u : Tab α, Tab.wf d t = true → Tab.wf d u = true →
    (∀ c ∈ t, ∀ e ∈ u, c.1 < e.1) → Tab.wf d (t ++ u) = true
  | [], u, _, hu, _ => hu
  | (k, v) :: t, u, ht, hu, hs => by
    rw [Tab.wf_cons] at ht
    rw [List.cons_append, Tab.wf_cons]
    refine ⟨ht.1, ?_, Tab.wf_append d t u ht.2.2 hu (fun c hc e he => hs c (List.mem_cons_of_mem _ hc) e he)⟩
    intro c hc
    rcases List.mem_append.1 hc with h | h
    · exact ht.2.1 c h
    · exact hs (k, v) (List.mem_cons_self ..) c h

theorem Tab.set_wf [DecidableEq α] (d : α) (t : Tab α) (a : Nat) (v : α) (h : Tab.wf d t = true) :
    Tab.wf d (Tab.set d t a v) = true := by
  unfold Tab.set
  refine Tab.wf_append d _ _ (Tab.wf_append d _ _ (Tab.wf_filter d _ t h) ?_ ?_) (Tab.wf_filter d _ t h) ?_
  · split
    · rfl
    · simpa [Tab.wf]
  · intro c hc e he
    have h1 : c.1 < a := by simpa using (List.mem_filter.1 hc).2
    split at he
    · simp at he
    · simp at he; rw [he]; exact h1
  · intro c hc e he
    have h2 : a < e.1 := by simpa using (List.mem_filter.1 he).2
    rcases List.mem_append.1 hc with h1 | h1
    · have : c.1 < a := by simpa using (List.mem_filter.1 h1).2
      omega
    · split at h1
      · simp at h1
      · simp at h1; rw [h1]; exact h2

/-! Memory. -/

theorem Memory.cells_ge : ∀ (a : Nat) (bs : List Byte), ∀ c ∈ Memory.cells a bs, a ≤ c.1 ∧ c.1 < a + bs.length
  | _, [] => by simp [Memory.cells]
  | a, b :: bs => by
    intro c hc
    have ih := Memory.cells_ge (a + 1) bs
    unfold Memory.cells at hc
    split at hc
    · have := ih c hc; simp only [List.length_cons]; omega
    · rcases List.mem_cons.1 hc with h | h
      · subst h; simp
      · have := ih c h; simp only [List.length_cons]; omega

theorem Memory.cells_wf : ∀ (a : Nat) (bs : List Byte), Tab.wf (0 : Byte) (Memory.cells a bs) = true
  | _, [] => rfl
  | a, b :: bs => by
    unfold Memory.cells
    split
    · exact Memory.cells_wf (a + 1) bs
    · rename_i hb
      rw [Tab.wf_cons]
      refine ⟨hb, fun c hc => ?_, Memory.cells_wf (a + 1) bs⟩
      have := Memory.cells_ge (a + 1) bs c hc
      omega

/-- A write keeps the canonical form. -/
theorem Memory.write_wf (m : Memory) (a : Nat) (bs : List Byte) (h : m.wf = true) : (m.write a bs).wf = true := by
  unfold Memory.wf Memory.write
  refine Tab.wf_append _ _ _ (Tab.wf_filter _ _ m h) (Tab.wf_append _ _ _ (Memory.cells_wf a bs) (Tab.wf_filter _ _ m h) ?_) ?_
  · intro c hc e he
    have h1 := Memory.cells_ge a bs c hc
    have h2 : a + bs.length ≤ e.1 := by simpa using (List.mem_filter.1 he).2
    omega
  · intro c hc e he
    have h1 : c.1 < a := by simpa using (List.mem_filter.1 hc).2
    rcases List.mem_append.1 he with h2 | h2
    · have := Memory.cells_ge a bs e h2; omega
    · have : a + bs.length ≤ e.1 := by simpa using (List.mem_filter.1 h2).2
      omega

/-- Zeroing a range keeps the canonical form. -/
theorem Memory.zero_wf (m : Memory) (a n : Nat) (h : m.wf = true) : (m.zero a n).wf = true := Tab.wf_filter _ _ m h

/-- Taking cells away keeps the canonical form. -/
theorem Memory.filter_wf (m : Memory) (p : Nat × Byte → Bool) (h : m.wf = true) : Memory.wf (m.filter p) = true :=
  Tab.wf_filter _ _ m h

theorem Memory.byte_cells : ∀ (a : Nat) (bs : List Byte) (k : Nat),
    Tab.get (0 : Byte) (Memory.cells a bs) k = if a ≤ k then bs.getD (k - a) 0 else 0
  | a, [], k => by simp [Memory.cells, Tab.get]
  | a, b :: bs, k => by
    have ih := Memory.byte_cells (a + 1) bs k
    unfold Memory.cells
    by_cases hk : a = k
    · subst hk
      by_cases hb : b = 0
      · simp only [hb, if_true, ih, if_neg (show ¬ a + 1 ≤ a by omega)]; simp
      · rw [if_neg hb, Tab.get, if_pos rfl]; simp
    · have e : (if a + 1 ≤ k then bs.getD (k - (a + 1)) 0 else 0) = (if a ≤ k then (b :: bs).getD (k - a) 0 else (0 : Byte)) := by
        by_cases hle : a + 1 ≤ k
        · have h2 : k - a = (k - (a + 1)) + 1 := by omega
          simp [hle, show a ≤ k by omega, h2]
        · simp [hle, show ¬ a ≤ k by omega]
      split
      · rw [ih, e]
      · rw [Tab.get, if_neg hk, ih, e]

/-- A byte within a write reads as written; every other byte as before. -/
theorem Memory.byte_write (m : Memory) (a : Nat) (bs : List Byte) (k : Nat) :
    (m.write a bs).byte k = if a ≤ k ∧ k < a + bs.length then bs.getD (k - a) 0 else m.byte k := by
  unfold Memory.write Memory.byte
  have hcell : (Memory.cells a bs).any (fun c => c.1 == k) = true → a ≤ k ∧ k < a + bs.length := by
    intro h
    obtain ⟨c, hc, he⟩ := List.any_eq_true.1 h
    have := Memory.cells_ge a bs c hc
    simp only [beq_iff_eq] at he
    omega
  rw [Tab.get_append, Tab.get_append, Tab.any_filter (fun x => decide (x < a)),
    Tab.get_filter 0 (fun x => decide (x < a)), Tab.get_filter 0 (fun x => decide (a + bs.length ≤ x)), Memory.byte_cells]
  by_cases h1 : k < a
  · have hn : ¬ (a ≤ k ∧ k < a + bs.length) := by omega
    have hc : (Memory.cells a bs).any (fun c => c.1 == k) = false := by
      rcases h : (Memory.cells a bs).any (fun c => c.1 == k) with _ | _
      · rfl
      · exact absurd (hcell h) hn
    rcases hm : m.any (fun c => c.1 == k) with _ | _
    · have e := Tab.get_of_not_any (0 : Byte) m k hm
      rw [e]
      simp [h1, hc, show ¬ a + bs.length ≤ k by omega, show ¬ a ≤ k by omega]
    · simp [h1, show ¬ a ≤ k by omega]
  · have ha : a ≤ k := by omega
    by_cases h2 : k < a + bs.length
    · rcases hc : (Memory.cells a bs).any (fun c => c.1 == k) with _ | _
      · have := Tab.get_of_not_any (0 : Byte) _ k hc
        rw [Memory.byte_cells, if_pos ha] at this
        rw [this]
        simp [h1, ha, h2, show ¬ a + bs.length ≤ k by omega]
      · simp [h1, ha, h2]
    · have hc : (Memory.cells a bs).any (fun c => c.1 == k) = false := by
        rcases h : (Memory.cells a bs).any (fun c => c.1 == k) with _ | _
        · rfl
        · exact absurd (hcell h) (by omega)
      simp [h1, h2, hc, show a + bs.length ≤ k by omega]

/-- A byte of a zeroed range reads zero; every other byte as before. -/
theorem Memory.byte_zero (m : Memory) (a n k : Nat) :
    (m.zero a n).byte k = if a ≤ k ∧ k < a + n then 0 else m.byte k := by
  unfold Memory.zero Memory.byte
  rw [Tab.get_filter 0 (fun x => decide (x < a) || decide (a + n ≤ x))]
  by_cases h : a ≤ k ∧ k < a + n
  · simp [h, show ¬ k < a by omega, show ¬ a + n ≤ k by omega]
  · rw [if_neg h, if_pos]
    simp only [Bool.or_eq_true, decide_eq_true_eq]; omega

theorem Memory.readAux_eq (m : Memory) : ∀ n a, Memory.readAux m n a = (List.range n).map (fun i => m.byte (a + i))
  | 0, _ => rfl
  | n + 1, a => by
    rw [Memory.readAux, Memory.readAux_eq m n (a + 1), List.range_succ_eq_map, List.map_cons, List.map_map]
    simp only [Function.comp_def, Nat.add_zero, Nat.add_assoc, Nat.add_comm 1, Nat.succ_eq_add_one]

/-- A string read from memory holds its bytes one by one. -/
theorem Memory.read_eq (m : Memory) (a n : Nat) : m.read a n = (List.range n).map (fun i => m.byte (a + i)) := by
  unfold Memory.read
  rw [Memory.readAux_eq]
  refine List.map_congr_left (fun i hi => ?_)
  have : i < n := List.mem_range.1 hi
  unfold Memory.byte
  rw [Tab.get_filter 0 (fun x => decide (a ≤ x) && decide (x < a + n)), if_pos]
  simp only [Bool.and_eq_true, decide_eq_true_eq]; omega

@[simp] theorem Memory.read_length (m : Memory) (a n : Nat) : (m.read a n).length = n := by
  rw [Memory.read_eq]; simp

end Sys2Proof.Machine
end

