-- ==== Sys2Proof/Laws/State.lean ====
section
/-! SUPPORT. The fields of the state after each named update: one lemma per field and update, so that no proof unfolds a
record update. -/
namespace Sys2Proof.Machine

@[simp] theorem State.setCore_mem (s : State) (c : Nat) (v : Core) : (s.setCore c v).mem = s.mem := rfl
@[simp] theorem State.setCore_forms (s : State) (c : Nat) (v : Core) : (s.setCore c v).forms = s.forms := rfl
@[simp] theorem State.setCore_tags (s : State) (c : Nat) (v : Core) : (s.setCore c v).tags = s.tags := rfl
@[simp] theorem State.setCore_errs (s : State) (c : Nat) (v : Core) : (s.setCore c v).errs = s.errs := rfl
@[simp] theorem State.setCore_inject (s : State) (c : Nat) (v : Core) : (s.setCore c v).inject = s.inject := rfl
@[simp] theorem State.setCore_errLogs (s : State) (c : Nat) (v : Core) : (s.setCore c v).errLogs = s.errLogs := rfl
@[simp] theorem State.setCore_clusters (s : State) (c : Nat) (v : Core) : (s.setCore c v).clusters = s.clusters := rfl
@[simp] theorem State.setCore_dieTlb (s : State) (c : Nat) (v : Core) : (s.setCore c v).dieTlb = s.dieTlb := rfl
@[simp] theorem State.setCore_asids (s : State) (c : Nat) (v : Core) : (s.setCore c v).asids = s.asids := rfl
@[simp] theorem State.setCore_mapped (s : State) (c : Nat) (v : Core) : (s.setCore c v).mapped = s.mapped := rfl
@[simp] theorem State.setCore_jobs (s : State) (c : Nat) (v : Core) : (s.setCore c v).jobs = s.jobs := rfl
@[simp] theorem State.setCore_manifests (s : State) (c : Nat) (v : Core) : (s.setCore c v).manifests = s.manifests := rfl
@[simp] theorem State.setCore_enrolled (s : State) (c : Nat) (v : Core) : (s.setCore c v).enrolled = s.enrolled := rfl
@[simp] theorem State.setCore_keyGen (s : State) (c : Nat) (v : Core) : (s.setCore c v).keyGen = s.keyGen := rfl
@[simp] theorem State.setCore_tenants (s : State) (c : Nat) (v : Core) : (s.setCore c v).tenants = s.tenants := rfl
@[simp] theorem State.setCore_revoking (s : State) (c : Nat) (v : Core) : (s.setCore c v).revoking = s.revoking := rfl
@[simp] theorem State.setCore_rings (s : State) (c : Nat) (v : Core) : (s.setCore c v).rings = s.rings := rfl
@[simp] theorem State.setCore_ret (s : State) (c : Nat) (v : Core) : (s.setCore c v).ret = s.ret := rfl
@[simp] theorem State.setCore_die0 (s : State) (c : Nat) (v : Core) : (s.setCore c v).die0 = s.die0 := rfl
@[simp] theorem State.setCore_scores (s : State) (c : Nat) (v : Core) : (s.setCore c v).scores = s.scores := rfl
@[simp] theorem State.setCore_die2 (s : State) (c : Nat) (v : Core) : (s.setCore c v).die2 = s.die2 := rfl
@[simp] theorem State.setCore_surveyDue (s : State) (c : Nat) (v : Core) : (s.setCore c v).surveyDue = s.surveyDue := rfl
@[simp] theorem State.setCore_wear (s : State) (c : Nat) (v : Core) : (s.setCore c v).wear = s.wear := rfl
@[simp] theorem State.setCore_journal (s : State) (c : Nat) (v : Core) : (s.setCore c v).journal = s.journal := rfl
@[simp] theorem State.setCore_txn (s : State) (c : Nat) (v : Core) : (s.setCore c v).txn = s.txn := rfl
@[simp] theorem State.setCore_txnCount (s : State) (c : Nat) (v : Core) : (s.setCore c v).txnCount = s.txnCount := rfl
@[simp] theorem State.setCore_badModels (s : State) (c : Nat) (v : Core) : (s.setCore c v).badModels = s.badModels := rfl
@[simp] theorem State.setCore_sheets (s : State) (c : Nat) (v : Core) : (s.setCore c v).sheets = s.sheets := rfl
@[simp] theorem State.setCore_links (s : State) (c : Nat) (v : Core) : (s.setCore c v).links = s.links := rfl
@[simp] theorem State.setCore_drives (s : State) (c : Nat) (v : Core) : (s.setCore c v).drives = s.drives := rfl
@[simp] theorem State.setCore_hostPort (s : State) (c : Nat) (v : Core) : (s.setCore c v).hostPort = s.hostPort := rfl
@[simp] theorem State.setCore_nvmeQ (s : State) (c : Nat) (v : Core) : (s.setCore c v).nvmeQ = s.nvmeQ := rfl
@[simp] theorem State.setCore_sessions (s : State) (c : Nat) (v : Core) : (s.setCore c v).sessions = s.sessions := rfl
@[simp] theorem State.setCore_leases (s : State) (c : Nat) (v : Core) : (s.setCore c v).leases = s.leases := rfl
@[simp] theorem State.setCore_outWindows (s : State) (c : Nat) (v : Core) : (s.setCore c v).outWindows = s.outWindows := rfl
@[simp] theorem State.setCore_outLinks (s : State) (c : Nat) (v : Core) : (s.setCore c v).outLinks = s.outLinks := rfl
@[simp] theorem State.setCore_safe (s : State) (c : Nat) (v : Core) : (s.setCore c v).safe = s.safe := rfl
@[simp] theorem State.setCore_migIn (s : State) (c : Nat) (v : Core) : (s.setCore c v).migIn = s.migIn := rfl
@[simp] theorem State.setCore_power (s : State) (c : Nat) (v : Core) : (s.setCore c v).power = s.power := rfl
@[simp] theorem State.setCore_shock (s : State) (c : Nat) (v : Core) : (s.setCore c v).shock = s.shock := rfl
@[simp] theorem State.setCore_lastSheetLost (s : State) (c : Nat) (v : Core) : (s.setCore c v).lastSheetLost = s.lastSheetLost := rfl
@[simp] theorem State.setCore_powerLost (s : State) (c : Nat) (v : Core) : (s.setCore c v).powerLost = s.powerLost := rfl
@[simp] theorem State.setCore_surveyFirst (s : State) (c : Nat) (v : Core) : (s.setCore c v).surveyFirst = s.surveyFirst := rfl
@[simp] theorem State.setCore_faultPages (s : State) (c : Nat) (v : Core) : (s.setCore c v).faultPages = s.faultPages := rfl
@[simp] theorem State.setCore_moveReqs (s : State) (c : Nat) (v : Core) : (s.setCore c v).moveReqs = s.moveReqs := rfl
@[simp] theorem State.setCore_framesFor (s : State) (c : Nat) (v : Core) : (s.setCore c v).framesFor = s.framesFor := rfl
@[simp] theorem State.setCore_heldSteps (s : State) (c : Nat) (v : Core) : (s.setCore c v).heldSteps = s.heldSteps := rfl
@[simp] theorem State.setCore_sent (s : State) (c : Nat) (v : Core) : (s.setCore c v).sent = s.sent := rfl
@[simp] theorem State.setCore_agenda (s : State) (c : Nat) (v : Core) : (s.setCore c v).agenda = s.agenda := rfl
@[simp] theorem State.setCore_turn (s : State) (c : Nat) (v : Core) : (s.setCore c v).turn = s.turn := rfl
@[simp] theorem State.setCore_freeCtr (s : State) (c : Nat) (v : Core) : (s.setCore c v).freeCtr = s.freeCtr := rfl
@[simp] theorem State.setCore_cur (s : State) (c : Nat) (v : Core) : (s.setCore c v).cur = s.cur := rfl

@[simp] theorem State.setCtx_mem (s : State) (c x : Nat) (v : Ctx) : (s.setCtx c x v).mem = s.mem := rfl
@[simp] theorem State.setCtx_forms (s : State) (c x : Nat) (v : Ctx) : (s.setCtx c x v).forms = s.forms := rfl
@[simp] theorem State.setCtx_tags (s : State) (c x : Nat) (v : Ctx) : (s.setCtx c x v).tags = s.tags := rfl
@[simp] theorem State.setCtx_errs (s : State) (c x : Nat) (v : Ctx) : (s.setCtx c x v).errs = s.errs := rfl
@[simp] theorem State.setCtx_inject (s : State) (c x : Nat) (v : Ctx) : (s.setCtx c x v).inject = s.inject := rfl
@[simp] theorem State.setCtx_errLogs (s : State) (c x : Nat) (v : Ctx) : (s.setCtx c x v).errLogs = s.errLogs := rfl
@[simp] theorem State.setCtx_clusters (s : State) (c x : Nat) (v : Ctx) : (s.setCtx c x v).clusters = s.clusters := rfl
@[simp] theorem State.setCtx_dieTlb (s : State) (c x : Nat) (v : Ctx) : (s.setCtx c x v).dieTlb = s.dieTlb := rfl
@[simp] theorem State.setCtx_asids (s : State) (c x : Nat) (v : Ctx) : (s.setCtx c x v).asids = s.asids := rfl
@[simp] theorem State.setCtx_mapped (s : State) (c x : Nat) (v : Ctx) : (s.setCtx c x v).mapped = s.mapped := rfl
@[simp] theorem State.setCtx_jobs (s : State) (c x : Nat) (v : Ctx) : (s.setCtx c x v).jobs = s.jobs := rfl
@[simp] theorem State.setCtx_manifests (s : State) (c x : Nat) (v : Ctx) : (s.setCtx c x v).manifests = s.manifests := rfl
@[simp] theorem State.setCtx_enrolled (s : State) (c x : Nat) (v : Ctx) : (s.setCtx c x v).enrolled = s.enrolled := rfl
@[simp] theorem State.setCtx_keyGen (s : State) (c x : Nat) (v : Ctx) : (s.setCtx c x v).keyGen = s.keyGen := rfl
@[simp] theorem State.setCtx_tenants (s : State) (c x : Nat) (v : Ctx) : (s.setCtx c x v).tenants = s.tenants := rfl
@[simp] theorem State.setCtx_revoking (s : State) (c x : Nat) (v : Ctx) : (s.setCtx c x v).revoking = s.revoking := rfl
@[simp] theorem State.setCtx_rings (s : State) (c x : Nat) (v : Ctx) : (s.setCtx c x v).rings = s.rings := rfl
@[simp] theorem State.setCtx_ret (s : State) (c x : Nat) (v : Ctx) : (s.setCtx c x v).ret = s.ret := rfl
@[simp] theorem State.setCtx_die0 (s : State) (c x : Nat) (v : Ctx) : (s.setCtx c x v).die0 = s.die0 := rfl
@[simp] theorem State.setCtx_scores (s : State) (c x : Nat) (v : Ctx) : (s.setCtx c x v).scores = s.scores := rfl
@[simp] theorem State.setCtx_die2 (s : State) (c x : Nat) (v : Ctx) : (s.setCtx c x v).die2 = s.die2 := rfl
@[simp] theorem State.setCtx_surveyDue (s : State) (c x : Nat) (v : Ctx) : (s.setCtx c x v).surveyDue = s.surveyDue := rfl
@[simp] theorem State.setCtx_wear (s : State) (c x : Nat) (v : Ctx) : (s.setCtx c x v).wear = s.wear := rfl
@[simp] theorem State.setCtx_journal (s : State) (c x : Nat) (v : Ctx) : (s.setCtx c x v).journal = s.journal := rfl
@[simp] theorem State.setCtx_txn (s : State) (c x : Nat) (v : Ctx) : (s.setCtx c x v).txn = s.txn := rfl
@[simp] theorem State.setCtx_txnCount (s : State) (c x : Nat) (v : Ctx) : (s.setCtx c x v).txnCount = s.txnCount := rfl
@[simp] theorem State.setCtx_badModels (s : State) (c x : Nat) (v : Ctx) : (s.setCtx c x v).badModels = s.badModels := rfl
@[simp] theorem State.setCtx_sheets (s : State) (c x : Nat) (v : Ctx) : (s.setCtx c x v).sheets = s.sheets := rfl
@[simp] theorem State.setCtx_links (s : State) (c x : Nat) (v : Ctx) : (s.setCtx c x v).links = s.links := rfl
@[simp] theorem State.setCtx_drives (s : State) (c x : Nat) (v : Ctx) : (s.setCtx c x v).drives = s.drives := rfl
@[simp] theorem State.setCtx_hostPort (s : State) (c x : Nat) (v : Ctx) : (s.setCtx c x v).hostPort = s.hostPort := rfl
@[simp] theorem State.setCtx_nvmeQ (s : State) (c x : Nat) (v : Ctx) : (s.setCtx c x v).nvmeQ = s.nvmeQ := rfl
@[simp] theorem State.setCtx_sessions (s : State) (c x : Nat) (v : Ctx) : (s.setCtx c x v).sessions = s.sessions := rfl
@[simp] theorem State.setCtx_leases (s : State) (c x : Nat) (v : Ctx) : (s.setCtx c x v).leases = s.leases := rfl
@[simp] theorem State.setCtx_outWindows (s : State) (c x : Nat) (v : Ctx) : (s.setCtx c x v).outWindows = s.outWindows := rfl
@[simp] theorem State.setCtx_outLinks (s : State) (c x : Nat) (v : Ctx) : (s.setCtx c x v).outLinks = s.outLinks := rfl
@[simp] theorem State.setCtx_safe (s : State) (c x : Nat) (v : Ctx) : (s.setCtx c x v).safe = s.safe := rfl
@[simp] theorem State.setCtx_migIn (s : State) (c x : Nat) (v : Ctx) : (s.setCtx c x v).migIn = s.migIn := rfl
@[simp] theorem State.setCtx_power (s : State) (c x : Nat) (v : Ctx) : (s.setCtx c x v).power = s.power := rfl
@[simp] theorem State.setCtx_shock (s : State) (c x : Nat) (v : Ctx) : (s.setCtx c x v).shock = s.shock := rfl
@[simp] theorem State.setCtx_lastSheetLost (s : State) (c x : Nat) (v : Ctx) : (s.setCtx c x v).lastSheetLost = s.lastSheetLost := rfl
@[simp] theorem State.setCtx_powerLost (s : State) (c x : Nat) (v : Ctx) : (s.setCtx c x v).powerLost = s.powerLost := rfl
@[simp] theorem State.setCtx_surveyFirst (s : State) (c x : Nat) (v : Ctx) : (s.setCtx c x v).surveyFirst = s.surveyFirst := rfl
@[simp] theorem State.setCtx_faultPages (s : State) (c x : Nat) (v : Ctx) : (s.setCtx c x v).faultPages = s.faultPages := rfl
@[simp] theorem State.setCtx_moveReqs (s : State) (c x : Nat) (v : Ctx) : (s.setCtx c x v).moveReqs = s.moveReqs := rfl
@[simp] theorem State.setCtx_framesFor (s : State) (c x : Nat) (v : Ctx) : (s.setCtx c x v).framesFor = s.framesFor := rfl
@[simp] theorem State.setCtx_heldSteps (s : State) (c x : Nat) (v : Ctx) : (s.setCtx c x v).heldSteps = s.heldSteps := rfl
@[simp] theorem State.setCtx_sent (s : State) (c x : Nat) (v : Ctx) : (s.setCtx c x v).sent = s.sent := rfl
@[simp] theorem State.setCtx_agenda (s : State) (c x : Nat) (v : Ctx) : (s.setCtx c x v).agenda = s.agenda := rfl
@[simp] theorem State.setCtx_turn (s : State) (c x : Nat) (v : Ctx) : (s.setCtx c x v).turn = s.turn := rfl
@[simp] theorem State.setCtx_freeCtr (s : State) (c x : Nat) (v : Ctx) : (s.setCtx c x v).freeCtr = s.freeCtr := rfl
@[simp] theorem State.setCtx_cur (s : State) (c x : Nat) (v : Ctx) : (s.setCtx c x v).cur = s.cur := rfl

@[simp] theorem State.setMe_mem (s : State) (v : Ctx) : (s.setMe v).mem = s.mem := rfl
@[simp] theorem State.setMe_forms (s : State) (v : Ctx) : (s.setMe v).forms = s.forms := rfl
@[simp] theorem State.setMe_tags (s : State) (v : Ctx) : (s.setMe v).tags = s.tags := rfl
@[simp] theorem State.setMe_errs (s : State) (v : Ctx) : (s.setMe v).errs = s.errs := rfl
@[simp] theorem State.setMe_inject (s : State) (v : Ctx) : (s.setMe v).inject = s.inject := rfl
@[simp] theorem State.setMe_errLogs (s : State) (v : Ctx) : (s.setMe v).errLogs = s.errLogs := rfl
@[simp] theorem State.setMe_clusters (s : State) (v : Ctx) : (s.setMe v).clusters = s.clusters := rfl
@[simp] theorem State.setMe_dieTlb (s : State) (v : Ctx) : (s.setMe v).dieTlb = s.dieTlb := rfl
@[simp] theorem State.setMe_asids (s : State) (v : Ctx) : (s.setMe v).asids = s.asids := rfl
@[simp] theorem State.setMe_mapped (s : State) (v : Ctx) : (s.setMe v).mapped = s.mapped := rfl
@[simp] theorem State.setMe_jobs (s : State) (v : Ctx) : (s.setMe v).jobs = s.jobs := rfl
@[simp] theorem State.setMe_manifests (s : State) (v : Ctx) : (s.setMe v).manifests = s.manifests := rfl
@[simp] theorem State.setMe_enrolled (s : State) (v : Ctx) : (s.setMe v).enrolled = s.enrolled := rfl
@[simp] theorem State.setMe_keyGen (s : State) (v : Ctx) : (s.setMe v).keyGen = s.keyGen := rfl
@[simp] theorem State.setMe_tenants (s : State) (v : Ctx) : (s.setMe v).tenants = s.tenants := rfl
@[simp] theorem State.setMe_revoking (s : State) (v : Ctx) : (s.setMe v).revoking = s.revoking := rfl
@[simp] theorem State.setMe_rings (s : State) (v : Ctx) : (s.setMe v).rings = s.rings := rfl
@[simp] theorem State.setMe_ret (s : State) (v : Ctx) : (s.setMe v).ret = s.ret := rfl
@[simp] theorem State.setMe_die0 (s : State) (v : Ctx) : (s.setMe v).die0 = s.die0 := rfl
@[simp] theorem State.setMe_scores (s : State) (v : Ctx) : (s.setMe v).scores = s.scores := rfl
@[simp] theorem State.setMe_die2 (s : State) (v : Ctx) : (s.setMe v).die2 = s.die2 := rfl
@[simp] theorem State.setMe_surveyDue (s : State) (v : Ctx) : (s.setMe v).surveyDue = s.surveyDue := rfl
@[simp] theorem State.setMe_wear (s : State) (v : Ctx) : (s.setMe v).wear = s.wear := rfl
@[simp] theorem State.setMe_journal (s : State) (v : Ctx) : (s.setMe v).journal = s.journal := rfl
@[simp] theorem State.setMe_txn (s : State) (v : Ctx) : (s.setMe v).txn = s.txn := rfl
@[simp] theorem State.setMe_txnCount (s : State) (v : Ctx) : (s.setMe v).txnCount = s.txnCount := rfl
@[simp] theorem State.setMe_badModels (s : State) (v : Ctx) : (s.setMe v).badModels = s.badModels := rfl
@[simp] theorem State.setMe_sheets (s : State) (v : Ctx) : (s.setMe v).sheets = s.sheets := rfl
@[simp] theorem State.setMe_links (s : State) (v : Ctx) : (s.setMe v).links = s.links := rfl
@[simp] theorem State.setMe_drives (s : State) (v : Ctx) : (s.setMe v).drives = s.drives := rfl
@[simp] theorem State.setMe_hostPort (s : State) (v : Ctx) : (s.setMe v).hostPort = s.hostPort := rfl
@[simp] theorem State.setMe_nvmeQ (s : State) (v : Ctx) : (s.setMe v).nvmeQ = s.nvmeQ := rfl
@[simp] theorem State.setMe_sessions (s : State) (v : Ctx) : (s.setMe v).sessions = s.sessions := rfl
@[simp] theorem State.setMe_leases (s : State) (v : Ctx) : (s.setMe v).leases = s.leases := rfl
@[simp] theorem State.setMe_outWindows (s : State) (v : Ctx) : (s.setMe v).outWindows = s.outWindows := rfl
@[simp] theorem State.setMe_outLinks (s : State) (v : Ctx) : (s.setMe v).outLinks = s.outLinks := rfl
@[simp] theorem State.setMe_safe (s : State) (v : Ctx) : (s.setMe v).safe = s.safe := rfl
@[simp] theorem State.setMe_migIn (s : State) (v : Ctx) : (s.setMe v).migIn = s.migIn := rfl
@[simp] theorem State.setMe_power (s : State) (v : Ctx) : (s.setMe v).power = s.power := rfl
@[simp] theorem State.setMe_shock (s : State) (v : Ctx) : (s.setMe v).shock = s.shock := rfl
@[simp] theorem State.setMe_lastSheetLost (s : State) (v : Ctx) : (s.setMe v).lastSheetLost = s.lastSheetLost := rfl
@[simp] theorem State.setMe_powerLost (s : State) (v : Ctx) : (s.setMe v).powerLost = s.powerLost := rfl
@[simp] theorem State.setMe_surveyFirst (s : State) (v : Ctx) : (s.setMe v).surveyFirst = s.surveyFirst := rfl
@[simp] theorem State.setMe_faultPages (s : State) (v : Ctx) : (s.setMe v).faultPages = s.faultPages := rfl
@[simp] theorem State.setMe_moveReqs (s : State) (v : Ctx) : (s.setMe v).moveReqs = s.moveReqs := rfl
@[simp] theorem State.setMe_framesFor (s : State) (v : Ctx) : (s.setMe v).framesFor = s.framesFor := rfl
@[simp] theorem State.setMe_heldSteps (s : State) (v : Ctx) : (s.setMe v).heldSteps = s.heldSteps := rfl
@[simp] theorem State.setMe_sent (s : State) (v : Ctx) : (s.setMe v).sent = s.sent := rfl
@[simp] theorem State.setMe_agenda (s : State) (v : Ctx) : (s.setMe v).agenda = s.agenda := rfl
@[simp] theorem State.setMe_turn (s : State) (v : Ctx) : (s.setMe v).turn = s.turn := rfl
@[simp] theorem State.setMe_freeCtr (s : State) (v : Ctx) : (s.setMe v).freeCtr = s.freeCtr := rfl
@[simp] theorem State.setMe_cur (s : State) (v : Ctx) : (s.setMe v).cur = s.cur := rfl

@[simp] theorem State.setArch_mem (s : State) (a : Arch) : (s.setArch a).mem = s.mem := rfl
@[simp] theorem State.setArch_forms (s : State) (a : Arch) : (s.setArch a).forms = s.forms := rfl
@[simp] theorem State.setArch_tags (s : State) (a : Arch) : (s.setArch a).tags = s.tags := rfl
@[simp] theorem State.setArch_errs (s : State) (a : Arch) : (s.setArch a).errs = s.errs := rfl
@[simp] theorem State.setArch_inject (s : State) (a : Arch) : (s.setArch a).inject = s.inject := rfl
@[simp] theorem State.setArch_errLogs (s : State) (a : Arch) : (s.setArch a).errLogs = s.errLogs := rfl
@[simp] theorem State.setArch_clusters (s : State) (a : Arch) : (s.setArch a).clusters = s.clusters := rfl
@[simp] theorem State.setArch_dieTlb (s : State) (a : Arch) : (s.setArch a).dieTlb = s.dieTlb := rfl
@[simp] theorem State.setArch_asids (s : State) (a : Arch) : (s.setArch a).asids = s.asids := rfl
@[simp] theorem State.setArch_mapped (s : State) (a : Arch) : (s.setArch a).mapped = s.mapped := rfl
@[simp] theorem State.setArch_jobs (s : State) (a : Arch) : (s.setArch a).jobs = s.jobs := rfl
@[simp] theorem State.setArch_manifests (s : State) (a : Arch) : (s.setArch a).manifests = s.manifests := rfl
@[simp] theorem State.setArch_enrolled (s : State) (a : Arch) : (s.setArch a).enrolled = s.enrolled := rfl
@[simp] theorem State.setArch_keyGen (s : State) (a : Arch) : (s.setArch a).keyGen = s.keyGen := rfl
@[simp] theorem State.setArch_tenants (s : State) (a : Arch) : (s.setArch a).tenants = s.tenants := rfl
@[simp] theorem State.setArch_revoking (s : State) (a : Arch) : (s.setArch a).revoking = s.revoking := rfl
@[simp] theorem State.setArch_rings (s : State) (a : Arch) : (s.setArch a).rings = s.rings := rfl
@[simp] theorem State.setArch_ret (s : State) (a : Arch) : (s.setArch a).ret = s.ret := rfl
@[simp] theorem State.setArch_die0 (s : State) (a : Arch) : (s.setArch a).die0 = s.die0 := rfl
@[simp] theorem State.setArch_scores (s : State) (a : Arch) : (s.setArch a).scores = s.scores := rfl
@[simp] theorem State.setArch_die2 (s : State) (a : Arch) : (s.setArch a).die2 = s.die2 := rfl
@[simp] theorem State.setArch_surveyDue (s : State) (a : Arch) : (s.setArch a).surveyDue = s.surveyDue := rfl
@[simp] theorem State.setArch_wear (s : State) (a : Arch) : (s.setArch a).wear = s.wear := rfl
@[simp] theorem State.setArch_journal (s : State) (a : Arch) : (s.setArch a).journal = s.journal := rfl
@[simp] theorem State.setArch_txn (s : State) (a : Arch) : (s.setArch a).txn = s.txn := rfl
@[simp] theorem State.setArch_txnCount (s : State) (a : Arch) : (s.setArch a).txnCount = s.txnCount := rfl
@[simp] theorem State.setArch_badModels (s : State) (a : Arch) : (s.setArch a).badModels = s.badModels := rfl
@[simp] theorem State.setArch_sheets (s : State) (a : Arch) : (s.setArch a).sheets = s.sheets := rfl
@[simp] theorem State.setArch_links (s : State) (a : Arch) : (s.setArch a).links = s.links := rfl
@[simp] theorem State.setArch_drives (s : State) (a : Arch) : (s.setArch a).drives = s.drives := rfl
@[simp] theorem State.setArch_hostPort (s : State) (a : Arch) : (s.setArch a).hostPort = s.hostPort := rfl
@[simp] theorem State.setArch_nvmeQ (s : State) (a : Arch) : (s.setArch a).nvmeQ = s.nvmeQ := rfl
@[simp] theorem State.setArch_sessions (s : State) (a : Arch) : (s.setArch a).sessions = s.sessions := rfl
@[simp] theorem State.setArch_leases (s : State) (a : Arch) : (s.setArch a).leases = s.leases := rfl
@[simp] theorem State.setArch_outWindows (s : State) (a : Arch) : (s.setArch a).outWindows = s.outWindows := rfl
@[simp] theorem State.setArch_outLinks (s : State) (a : Arch) : (s.setArch a).outLinks = s.outLinks := rfl
@[simp] theorem State.setArch_safe (s : State) (a : Arch) : (s.setArch a).safe = s.safe := rfl
@[simp] theorem State.setArch_migIn (s : State) (a : Arch) : (s.setArch a).migIn = s.migIn := rfl
@[simp] theorem State.setArch_power (s : State) (a : Arch) : (s.setArch a).power = s.power := rfl
@[simp] theorem State.setArch_shock (s : State) (a : Arch) : (s.setArch a).shock = s.shock := rfl
@[simp] theorem State.setArch_lastSheetLost (s : State) (a : Arch) : (s.setArch a).lastSheetLost = s.lastSheetLost := rfl
@[simp] theorem State.setArch_powerLost (s : State) (a : Arch) : (s.setArch a).powerLost = s.powerLost := rfl
@[simp] theorem State.setArch_surveyFirst (s : State) (a : Arch) : (s.setArch a).surveyFirst = s.surveyFirst := rfl
@[simp] theorem State.setArch_faultPages (s : State) (a : Arch) : (s.setArch a).faultPages = s.faultPages := rfl
@[simp] theorem State.setArch_moveReqs (s : State) (a : Arch) : (s.setArch a).moveReqs = s.moveReqs := rfl
@[simp] theorem State.setArch_framesFor (s : State) (a : Arch) : (s.setArch a).framesFor = s.framesFor := rfl
@[simp] theorem State.setArch_heldSteps (s : State) (a : Arch) : (s.setArch a).heldSteps = s.heldSteps := rfl
@[simp] theorem State.setArch_sent (s : State) (a : Arch) : (s.setArch a).sent = s.sent := rfl
@[simp] theorem State.setArch_agenda (s : State) (a : Arch) : (s.setArch a).agenda = s.agenda := rfl
@[simp] theorem State.setArch_turn (s : State) (a : Arch) : (s.setArch a).turn = s.turn := rfl
@[simp] theorem State.setArch_freeCtr (s : State) (a : Arch) : (s.setArch a).freeCtr = s.freeCtr := rfl
@[simp] theorem State.setArch_cur (s : State) (a : Arch) : (s.setArch a).cur = s.cur := rfl

@[simp] theorem State.setMyCore_mem (s : State) (v : Core) : (s.setMyCore v).mem = s.mem := rfl
@[simp] theorem State.setMyCore_forms (s : State) (v : Core) : (s.setMyCore v).forms = s.forms := rfl
@[simp] theorem State.setMyCore_tags (s : State) (v : Core) : (s.setMyCore v).tags = s.tags := rfl
@[simp] theorem State.setMyCore_errs (s : State) (v : Core) : (s.setMyCore v).errs = s.errs := rfl
@[simp] theorem State.setMyCore_inject (s : State) (v : Core) : (s.setMyCore v).inject = s.inject := rfl
@[simp] theorem State.setMyCore_errLogs (s : State) (v : Core) : (s.setMyCore v).errLogs = s.errLogs := rfl
@[simp] theorem State.setMyCore_clusters (s : State) (v : Core) : (s.setMyCore v).clusters = s.clusters := rfl
@[simp] theorem State.setMyCore_dieTlb (s : State) (v : Core) : (s.setMyCore v).dieTlb = s.dieTlb := rfl
@[simp] theorem State.setMyCore_asids (s : State) (v : Core) : (s.setMyCore v).asids = s.asids := rfl
@[simp] theorem State.setMyCore_mapped (s : State) (v : Core) : (s.setMyCore v).mapped = s.mapped := rfl
@[simp] theorem State.setMyCore_jobs (s : State) (v : Core) : (s.setMyCore v).jobs = s.jobs := rfl
@[simp] theorem State.setMyCore_manifests (s : State) (v : Core) : (s.setMyCore v).manifests = s.manifests := rfl
@[simp] theorem State.setMyCore_enrolled (s : State) (v : Core) : (s.setMyCore v).enrolled = s.enrolled := rfl
@[simp] theorem State.setMyCore_keyGen (s : State) (v : Core) : (s.setMyCore v).keyGen = s.keyGen := rfl
@[simp] theorem State.setMyCore_tenants (s : State) (v : Core) : (s.setMyCore v).tenants = s.tenants := rfl
@[simp] theorem State.setMyCore_revoking (s : State) (v : Core) : (s.setMyCore v).revoking = s.revoking := rfl
@[simp] theorem State.setMyCore_rings (s : State) (v : Core) : (s.setMyCore v).rings = s.rings := rfl
@[simp] theorem State.setMyCore_ret (s : State) (v : Core) : (s.setMyCore v).ret = s.ret := rfl
@[simp] theorem State.setMyCore_die0 (s : State) (v : Core) : (s.setMyCore v).die0 = s.die0 := rfl
@[simp] theorem State.setMyCore_scores (s : State) (v : Core) : (s.setMyCore v).scores = s.scores := rfl
@[simp] theorem State.setMyCore_die2 (s : State) (v : Core) : (s.setMyCore v).die2 = s.die2 := rfl
@[simp] theorem State.setMyCore_surveyDue (s : State) (v : Core) : (s.setMyCore v).surveyDue = s.surveyDue := rfl
@[simp] theorem State.setMyCore_wear (s : State) (v : Core) : (s.setMyCore v).wear = s.wear := rfl
@[simp] theorem State.setMyCore_journal (s : State) (v : Core) : (s.setMyCore v).journal = s.journal := rfl
@[simp] theorem State.setMyCore_txn (s : State) (v : Core) : (s.setMyCore v).txn = s.txn := rfl
@[simp] theorem State.setMyCore_txnCount (s : State) (v : Core) : (s.setMyCore v).txnCount = s.txnCount := rfl
@[simp] theorem State.setMyCore_badModels (s : State) (v : Core) : (s.setMyCore v).badModels = s.badModels := rfl
@[simp] theorem State.setMyCore_sheets (s : State) (v : Core) : (s.setMyCore v).sheets = s.sheets := rfl
@[simp] theorem State.setMyCore_links (s : State) (v : Core) : (s.setMyCore v).links = s.links := rfl
@[simp] theorem State.setMyCore_drives (s : State) (v : Core) : (s.setMyCore v).drives = s.drives := rfl
@[simp] theorem State.setMyCore_hostPort (s : State) (v : Core) : (s.setMyCore v).hostPort = s.hostPort := rfl
@[simp] theorem State.setMyCore_nvmeQ (s : State) (v : Core) : (s.setMyCore v).nvmeQ = s.nvmeQ := rfl
@[simp] theorem State.setMyCore_sessions (s : State) (v : Core) : (s.setMyCore v).sessions = s.sessions := rfl
@[simp] theorem State.setMyCore_leases (s : State) (v : Core) : (s.setMyCore v).leases = s.leases := rfl
@[simp] theorem State.setMyCore_outWindows (s : State) (v : Core) : (s.setMyCore v).outWindows = s.outWindows := rfl
@[simp] theorem State.setMyCore_outLinks (s : State) (v : Core) : (s.setMyCore v).outLinks = s.outLinks := rfl
@[simp] theorem State.setMyCore_safe (s : State) (v : Core) : (s.setMyCore v).safe = s.safe := rfl
@[simp] theorem State.setMyCore_migIn (s : State) (v : Core) : (s.setMyCore v).migIn = s.migIn := rfl
@[simp] theorem State.setMyCore_power (s : State) (v : Core) : (s.setMyCore v).power = s.power := rfl
@[simp] theorem State.setMyCore_shock (s : State) (v : Core) : (s.setMyCore v).shock = s.shock := rfl
@[simp] theorem State.setMyCore_lastSheetLost (s : State) (v : Core) : (s.setMyCore v).lastSheetLost = s.lastSheetLost := rfl
@[simp] theorem State.setMyCore_powerLost (s : State) (v : Core) : (s.setMyCore v).powerLost = s.powerLost := rfl
@[simp] theorem State.setMyCore_surveyFirst (s : State) (v : Core) : (s.setMyCore v).surveyFirst = s.surveyFirst := rfl
@[simp] theorem State.setMyCore_faultPages (s : State) (v : Core) : (s.setMyCore v).faultPages = s.faultPages := rfl
@[simp] theorem State.setMyCore_moveReqs (s : State) (v : Core) : (s.setMyCore v).moveReqs = s.moveReqs := rfl
@[simp] theorem State.setMyCore_framesFor (s : State) (v : Core) : (s.setMyCore v).framesFor = s.framesFor := rfl
@[simp] theorem State.setMyCore_heldSteps (s : State) (v : Core) : (s.setMyCore v).heldSteps = s.heldSteps := rfl
@[simp] theorem State.setMyCore_sent (s : State) (v : Core) : (s.setMyCore v).sent = s.sent := rfl
@[simp] theorem State.setMyCore_agenda (s : State) (v : Core) : (s.setMyCore v).agenda = s.agenda := rfl
@[simp] theorem State.setMyCore_turn (s : State) (v : Core) : (s.setMyCore v).turn = s.turn := rfl
@[simp] theorem State.setMyCore_freeCtr (s : State) (v : Core) : (s.setMyCore v).freeCtr = s.freeCtr := rfl
@[simp] theorem State.setMyCore_cur (s : State) (v : Core) : (s.setMyCore v).cur = s.cur := rfl

@[simp] theorem State.setCluster_mem (s : State) (c : Nat) (v : Cluster) : (s.setCluster c v).mem = s.mem := rfl
@[simp] theorem State.setCluster_forms (s : State) (c : Nat) (v : Cluster) : (s.setCluster c v).forms = s.forms := rfl
@[simp] theorem State.setCluster_tags (s : State) (c : Nat) (v : Cluster) : (s.setCluster c v).tags = s.tags := rfl
@[simp] theorem State.setCluster_errs (s : State) (c : Nat) (v : Cluster) : (s.setCluster c v).errs = s.errs := rfl
@[simp] theorem State.setCluster_inject (s : State) (c : Nat) (v : Cluster) : (s.setCluster c v).inject = s.inject := rfl
@[simp] theorem State.setCluster_errLogs (s : State) (c : Nat) (v : Cluster) : (s.setCluster c v).errLogs = s.errLogs := rfl
@[simp] theorem State.setCluster_cores (s : State) (c : Nat) (v : Cluster) : (s.setCluster c v).cores = s.cores := rfl
@[simp] theorem State.setCluster_dieTlb (s : State) (c : Nat) (v : Cluster) : (s.setCluster c v).dieTlb = s.dieTlb := rfl
@[simp] theorem State.setCluster_asids (s : State) (c : Nat) (v : Cluster) : (s.setCluster c v).asids = s.asids := rfl
@[simp] theorem State.setCluster_mapped (s : State) (c : Nat) (v : Cluster) : (s.setCluster c v).mapped = s.mapped := rfl
@[simp] theorem State.setCluster_jobs (s : State) (c : Nat) (v : Cluster) : (s.setCluster c v).jobs = s.jobs := rfl
@[simp] theorem State.setCluster_manifests (s : State) (c : Nat) (v : Cluster) : (s.setCluster c v).manifests = s.manifests := rfl
@[simp] theorem State.setCluster_enrolled (s : State) (c : Nat) (v : Cluster) : (s.setCluster c v).enrolled = s.enrolled := rfl
@[simp] theorem State.setCluster_keyGen (s : State) (c : Nat) (v : Cluster) : (s.setCluster c v).keyGen = s.keyGen := rfl
@[simp] theorem State.setCluster_tenants (s : State) (c : Nat) (v : Cluster) : (s.setCluster c v).tenants = s.tenants := rfl
@[simp] theorem State.setCluster_revoking (s : State) (c : Nat) (v : Cluster) : (s.setCluster c v).revoking = s.revoking := rfl
@[simp] theorem State.setCluster_rings (s : State) (c : Nat) (v : Cluster) : (s.setCluster c v).rings = s.rings := rfl
@[simp] theorem State.setCluster_ret (s : State) (c : Nat) (v : Cluster) : (s.setCluster c v).ret = s.ret := rfl
@[simp] theorem State.setCluster_die0 (s : State) (c : Nat) (v : Cluster) : (s.setCluster c v).die0 = s.die0 := rfl
@[simp] theorem State.setCluster_scores (s : State) (c : Nat) (v : Cluster) : (s.setCluster c v).scores = s.scores := rfl
@[simp] theorem State.setCluster_die2 (s : State) (c : Nat) (v : Cluster) : (s.setCluster c v).die2 = s.die2 := rfl
@[simp] theorem State.setCluster_surveyDue (s : State) (c : Nat) (v : Cluster) : (s.setCluster c v).surveyDue = s.surveyDue := rfl
@[simp] theorem State.setCluster_wear (s : State) (c : Nat) (v : Cluster) : (s.setCluster c v).wear = s.wear := rfl
@[simp] theorem State.setCluster_journal (s : State) (c : Nat) (v : Cluster) : (s.setCluster c v).journal = s.journal := rfl
@[simp] theorem State.setCluster_txn (s : State) (c : Nat) (v : Cluster) : (s.setCluster c v).txn = s.txn := rfl
@[simp] theorem State.setCluster_txnCount (s : State) (c : Nat) (v : Cluster) : (s.setCluster c v).txnCount = s.txnCount := rfl
@[simp] theorem State.setCluster_badModels (s : State) (c : Nat) (v : Cluster) : (s.setCluster c v).badModels = s.badModels := rfl
@[simp] theorem State.setCluster_sheets (s : State) (c : Nat) (v : Cluster) : (s.setCluster c v).sheets = s.sheets := rfl
@[simp] theorem State.setCluster_links (s : State) (c : Nat) (v : Cluster) : (s.setCluster c v).links = s.links := rfl
@[simp] theorem State.setCluster_drives (s : State) (c : Nat) (v : Cluster) : (s.setCluster c v).drives = s.drives := rfl
@[simp] theorem State.setCluster_hostPort (s : State) (c : Nat) (v : Cluster) : (s.setCluster c v).hostPort = s.hostPort := rfl
@[simp] theorem State.setCluster_nvmeQ (s : State) (c : Nat) (v : Cluster) : (s.setCluster c v).nvmeQ = s.nvmeQ := rfl
@[simp] theorem State.setCluster_sessions (s : State) (c : Nat) (v : Cluster) : (s.setCluster c v).sessions = s.sessions := rfl
@[simp] theorem State.setCluster_leases (s : State) (c : Nat) (v : Cluster) : (s.setCluster c v).leases = s.leases := rfl
@[simp] theorem State.setCluster_outWindows (s : State) (c : Nat) (v : Cluster) : (s.setCluster c v).outWindows = s.outWindows := rfl
@[simp] theorem State.setCluster_outLinks (s : State) (c : Nat) (v : Cluster) : (s.setCluster c v).outLinks = s.outLinks := rfl
@[simp] theorem State.setCluster_safe (s : State) (c : Nat) (v : Cluster) : (s.setCluster c v).safe = s.safe := rfl
@[simp] theorem State.setCluster_migIn (s : State) (c : Nat) (v : Cluster) : (s.setCluster c v).migIn = s.migIn := rfl
@[simp] theorem State.setCluster_power (s : State) (c : Nat) (v : Cluster) : (s.setCluster c v).power = s.power := rfl
@[simp] theorem State.setCluster_shock (s : State) (c : Nat) (v : Cluster) : (s.setCluster c v).shock = s.shock := rfl
@[simp] theorem State.setCluster_lastSheetLost (s : State) (c : Nat) (v : Cluster) : (s.setCluster c v).lastSheetLost = s.lastSheetLost := rfl
@[simp] theorem State.setCluster_powerLost (s : State) (c : Nat) (v : Cluster) : (s.setCluster c v).powerLost = s.powerLost := rfl
@[simp] theorem State.setCluster_surveyFirst (s : State) (c : Nat) (v : Cluster) : (s.setCluster c v).surveyFirst = s.surveyFirst := rfl
@[simp] theorem State.setCluster_faultPages (s : State) (c : Nat) (v : Cluster) : (s.setCluster c v).faultPages = s.faultPages := rfl
@[simp] theorem State.setCluster_moveReqs (s : State) (c : Nat) (v : Cluster) : (s.setCluster c v).moveReqs = s.moveReqs := rfl
@[simp] theorem State.setCluster_framesFor (s : State) (c : Nat) (v : Cluster) : (s.setCluster c v).framesFor = s.framesFor := rfl
@[simp] theorem State.setCluster_heldSteps (s : State) (c : Nat) (v : Cluster) : (s.setCluster c v).heldSteps = s.heldSteps := rfl
@[simp] theorem State.setCluster_sent (s : State) (c : Nat) (v : Cluster) : (s.setCluster c v).sent = s.sent := rfl
@[simp] theorem State.setCluster_agenda (s : State) (c : Nat) (v : Cluster) : (s.setCluster c v).agenda = s.agenda := rfl
@[simp] theorem State.setCluster_turn (s : State) (c : Nat) (v : Cluster) : (s.setCluster c v).turn = s.turn := rfl
@[simp] theorem State.setCluster_freeCtr (s : State) (c : Nat) (v : Cluster) : (s.setCluster c v).freeCtr = s.freeCtr := rfl
@[simp] theorem State.setCluster_cur (s : State) (c : Nat) (v : Cluster) : (s.setCluster c v).cur = s.cur := rfl

@[simp] theorem State.setJob_mem (s : State) (j : Nat) (v : Option Job) : (s.setJob j v).mem = s.mem := rfl
@[simp] theorem State.setJob_forms (s : State) (j : Nat) (v : Option Job) : (s.setJob j v).forms = s.forms := rfl
@[simp] theorem State.setJob_tags (s : State) (j : Nat) (v : Option Job) : (s.setJob j v).tags = s.tags := rfl
@[simp] theorem State.setJob_errs (s : State) (j : Nat) (v : Option Job) : (s.setJob j v).errs = s.errs := rfl
@[simp] theorem State.setJob_inject (s : State) (j : Nat) (v : Option Job) : (s.setJob j v).inject = s.inject := rfl
@[simp] theorem State.setJob_errLogs (s : State) (j : Nat) (v : Option Job) : (s.setJob j v).errLogs = s.errLogs := rfl
@[simp] theorem State.setJob_cores (s : State) (j : Nat) (v : Option Job) : (s.setJob j v).cores = s.cores := rfl
@[simp] theorem State.setJob_clusters (s : State) (j : Nat) (v : Option Job) : (s.setJob j v).clusters = s.clusters := rfl
@[simp] theorem State.setJob_dieTlb (s : State) (j : Nat) (v : Option Job) : (s.setJob j v).dieTlb = s.dieTlb := rfl
@[simp] theorem State.setJob_asids (s : State) (j : Nat) (v : Option Job) : (s.setJob j v).asids = s.asids := rfl
@[simp] theorem State.setJob_mapped (s : State) (j : Nat) (v : Option Job) : (s.setJob j v).mapped = s.mapped := rfl
@[simp] theorem State.setJob_manifests (s : State) (j : Nat) (v : Option Job) : (s.setJob j v).manifests = s.manifests := rfl
@[simp] theorem State.setJob_enrolled (s : State) (j : Nat) (v : Option Job) : (s.setJob j v).enrolled = s.enrolled := rfl
@[simp] theorem State.setJob_keyGen (s : State) (j : Nat) (v : Option Job) : (s.setJob j v).keyGen = s.keyGen := rfl
@[simp] theorem State.setJob_tenants (s : State) (j : Nat) (v : Option Job) : (s.setJob j v).tenants = s.tenants := rfl
@[simp] theorem State.setJob_revoking (s : State) (j : Nat) (v : Option Job) : (s.setJob j v).revoking = s.revoking := rfl
@[simp] theorem State.setJob_rings (s : State) (j : Nat) (v : Option Job) : (s.setJob j v).rings = s.rings := rfl
@[simp] theorem State.setJob_ret (s : State) (j : Nat) (v : Option Job) : (s.setJob j v).ret = s.ret := rfl
@[simp] theorem State.setJob_die0 (s : State) (j : Nat) (v : Option Job) : (s.setJob j v).die0 = s.die0 := rfl
@[simp] theorem State.setJob_scores (s : State) (j : Nat) (v : Option Job) : (s.setJob j v).scores = s.scores := rfl
@[simp] theorem State.setJob_die2 (s : State) (j : Nat) (v : Option Job) : (s.setJob j v).die2 = s.die2 := rfl
@[simp] theorem State.setJob_surveyDue (s : State) (j : Nat) (v : Option Job) : (s.setJob j v).surveyDue = s.surveyDue := rfl
@[simp] theorem State.setJob_wear (s : State) (j : Nat) (v : Option Job) : (s.setJob j v).wear = s.wear := rfl
@[simp] theorem State.setJob_journal (s : State) (j : Nat) (v : Option Job) : (s.setJob j v).journal = s.journal := rfl
@[simp] theorem State.setJob_txn (s : State) (j : Nat) (v : Option Job) : (s.setJob j v).txn = s.txn := rfl
@[simp] theorem State.setJob_txnCount (s : State) (j : Nat) (v : Option Job) : (s.setJob j v).txnCount = s.txnCount := rfl
@[simp] theorem State.setJob_badModels (s : State) (j : Nat) (v : Option Job) : (s.setJob j v).badModels = s.badModels := rfl
@[simp] theorem State.setJob_sheets (s : State) (j : Nat) (v : Option Job) : (s.setJob j v).sheets = s.sheets := rfl
@[simp] theorem State.setJob_links (s : State) (j : Nat) (v : Option Job) : (s.setJob j v).links = s.links := rfl
@[simp] theorem State.setJob_drives (s : State) (j : Nat) (v : Option Job) : (s.setJob j v).drives = s.drives := rfl
@[simp] theorem State.setJob_hostPort (s : State) (j : Nat) (v : Option Job) : (s.setJob j v).hostPort = s.hostPort := rfl
@[simp] theorem State.setJob_nvmeQ (s : State) (j : Nat) (v : Option Job) : (s.setJob j v).nvmeQ = s.nvmeQ := rfl
@[simp] theorem State.setJob_sessions (s : State) (j : Nat) (v : Option Job) : (s.setJob j v).sessions = s.sessions := rfl
@[simp] theorem State.setJob_leases (s : State) (j : Nat) (v : Option Job) : (s.setJob j v).leases = s.leases := rfl
@[simp] theorem State.setJob_outWindows (s : State) (j : Nat) (v : Option Job) : (s.setJob j v).outWindows = s.outWindows := rfl
@[simp] theorem State.setJob_outLinks (s : State) (j : Nat) (v : Option Job) : (s.setJob j v).outLinks = s.outLinks := rfl
@[simp] theorem State.setJob_safe (s : State) (j : Nat) (v : Option Job) : (s.setJob j v).safe = s.safe := rfl
@[simp] theorem State.setJob_migIn (s : State) (j : Nat) (v : Option Job) : (s.setJob j v).migIn = s.migIn := rfl
@[simp] theorem State.setJob_power (s : State) (j : Nat) (v : Option Job) : (s.setJob j v).power = s.power := rfl
@[simp] theorem State.setJob_shock (s : State) (j : Nat) (v : Option Job) : (s.setJob j v).shock = s.shock := rfl
@[simp] theorem State.setJob_lastSheetLost (s : State) (j : Nat) (v : Option Job) : (s.setJob j v).lastSheetLost = s.lastSheetLost := rfl
@[simp] theorem State.setJob_powerLost (s : State) (j : Nat) (v : Option Job) : (s.setJob j v).powerLost = s.powerLost := rfl
@[simp] theorem State.setJob_surveyFirst (s : State) (j : Nat) (v : Option Job) : (s.setJob j v).surveyFirst = s.surveyFirst := rfl
@[simp] theorem State.setJob_faultPages (s : State) (j : Nat) (v : Option Job) : (s.setJob j v).faultPages = s.faultPages := rfl
@[simp] theorem State.setJob_moveReqs (s : State) (j : Nat) (v : Option Job) : (s.setJob j v).moveReqs = s.moveReqs := rfl
@[simp] theorem State.setJob_framesFor (s : State) (j : Nat) (v : Option Job) : (s.setJob j v).framesFor = s.framesFor := rfl
@[simp] theorem State.setJob_heldSteps (s : State) (j : Nat) (v : Option Job) : (s.setJob j v).heldSteps = s.heldSteps := rfl
@[simp] theorem State.setJob_sent (s : State) (j : Nat) (v : Option Job) : (s.setJob j v).sent = s.sent := rfl
@[simp] theorem State.setJob_agenda (s : State) (j : Nat) (v : Option Job) : (s.setJob j v).agenda = s.agenda := rfl
@[simp] theorem State.setJob_turn (s : State) (j : Nat) (v : Option Job) : (s.setJob j v).turn = s.turn := rfl
@[simp] theorem State.setJob_freeCtr (s : State) (j : Nat) (v : Option Job) : (s.setJob j v).freeCtr = s.freeCtr := rfl
@[simp] theorem State.setJob_cur (s : State) (j : Nat) (v : Option Job) : (s.setJob j v).cur = s.cur := rfl

@[simp] theorem State.setErr_mem (s : State) (k : Nat) (e : Err) : (s.setErr k e).mem = s.mem := rfl
@[simp] theorem State.setErr_forms (s : State) (k : Nat) (e : Err) : (s.setErr k e).forms = s.forms := rfl
@[simp] theorem State.setErr_tags (s : State) (k : Nat) (e : Err) : (s.setErr k e).tags = s.tags := rfl
@[simp] theorem State.setErr_inject (s : State) (k : Nat) (e : Err) : (s.setErr k e).inject = s.inject := rfl
@[simp] theorem State.setErr_errLogs (s : State) (k : Nat) (e : Err) : (s.setErr k e).errLogs = s.errLogs := rfl
@[simp] theorem State.setErr_cores (s : State) (k : Nat) (e : Err) : (s.setErr k e).cores = s.cores := rfl
@[simp] theorem State.setErr_clusters (s : State) (k : Nat) (e : Err) : (s.setErr k e).clusters = s.clusters := rfl
@[simp] theorem State.setErr_dieTlb (s : State) (k : Nat) (e : Err) : (s.setErr k e).dieTlb = s.dieTlb := rfl
@[simp] theorem State.setErr_asids (s : State) (k : Nat) (e : Err) : (s.setErr k e).asids = s.asids := rfl
@[simp] theorem State.setErr_mapped (s : State) (k : Nat) (e : Err) : (s.setErr k e).mapped = s.mapped := rfl
@[simp] theorem State.setErr_jobs (s : State) (k : Nat) (e : Err) : (s.setErr k e).jobs = s.jobs := rfl
@[simp] theorem State.setErr_manifests (s : State) (k : Nat) (e : Err) : (s.setErr k e).manifests = s.manifests := rfl
@[simp] theorem State.setErr_enrolled (s : State) (k : Nat) (e : Err) : (s.setErr k e).enrolled = s.enrolled := rfl
@[simp] theorem State.setErr_keyGen (s : State) (k : Nat) (e : Err) : (s.setErr k e).keyGen = s.keyGen := rfl
@[simp] theorem State.setErr_tenants (s : State) (k : Nat) (e : Err) : (s.setErr k e).tenants = s.tenants := rfl
@[simp] theorem State.setErr_revoking (s : State) (k : Nat) (e : Err) : (s.setErr k e).revoking = s.revoking := rfl
@[simp] theorem State.setErr_rings (s : State) (k : Nat) (e : Err) : (s.setErr k e).rings = s.rings := rfl
@[simp] theorem State.setErr_ret (s : State) (k : Nat) (e : Err) : (s.setErr k e).ret = s.ret := rfl
@[simp] theorem State.setErr_die0 (s : State) (k : Nat) (e : Err) : (s.setErr k e).die0 = s.die0 := rfl
@[simp] theorem State.setErr_scores (s : State) (k : Nat) (e : Err) : (s.setErr k e).scores = s.scores := rfl
@[simp] theorem State.setErr_die2 (s : State) (k : Nat) (e : Err) : (s.setErr k e).die2 = s.die2 := rfl
@[simp] theorem State.setErr_surveyDue (s : State) (k : Nat) (e : Err) : (s.setErr k e).surveyDue = s.surveyDue := rfl
@[simp] theorem State.setErr_wear (s : State) (k : Nat) (e : Err) : (s.setErr k e).wear = s.wear := rfl
@[simp] theorem State.setErr_journal (s : State) (k : Nat) (e : Err) : (s.setErr k e).journal = s.journal := rfl
@[simp] theorem State.setErr_txn (s : State) (k : Nat) (e : Err) : (s.setErr k e).txn = s.txn := rfl
@[simp] theorem State.setErr_txnCount (s : State) (k : Nat) (e : Err) : (s.setErr k e).txnCount = s.txnCount := rfl
@[simp] theorem State.setErr_badModels (s : State) (k : Nat) (e : Err) : (s.setErr k e).badModels = s.badModels := rfl
@[simp] theorem State.setErr_sheets (s : State) (k : Nat) (e : Err) : (s.setErr k e).sheets = s.sheets := rfl
@[simp] theorem State.setErr_links (s : State) (k : Nat) (e : Err) : (s.setErr k e).links = s.links := rfl
@[simp] theorem State.setErr_drives (s : State) (k : Nat) (e : Err) : (s.setErr k e).drives = s.drives := rfl
@[simp] theorem State.setErr_hostPort (s : State) (k : Nat) (e : Err) : (s.setErr k e).hostPort = s.hostPort := rfl
@[simp] theorem State.setErr_nvmeQ (s : State) (k : Nat) (e : Err) : (s.setErr k e).nvmeQ = s.nvmeQ := rfl
@[simp] theorem State.setErr_sessions (s : State) (k : Nat) (e : Err) : (s.setErr k e).sessions = s.sessions := rfl
@[simp] theorem State.setErr_leases (s : State) (k : Nat) (e : Err) : (s.setErr k e).leases = s.leases := rfl
@[simp] theorem State.setErr_outWindows (s : State) (k : Nat) (e : Err) : (s.setErr k e).outWindows = s.outWindows := rfl
@[simp] theorem State.setErr_outLinks (s : State) (k : Nat) (e : Err) : (s.setErr k e).outLinks = s.outLinks := rfl
@[simp] theorem State.setErr_safe (s : State) (k : Nat) (e : Err) : (s.setErr k e).safe = s.safe := rfl
@[simp] theorem State.setErr_migIn (s : State) (k : Nat) (e : Err) : (s.setErr k e).migIn = s.migIn := rfl
@[simp] theorem State.setErr_power (s : State) (k : Nat) (e : Err) : (s.setErr k e).power = s.power := rfl
@[simp] theorem State.setErr_shock (s : State) (k : Nat) (e : Err) : (s.setErr k e).shock = s.shock := rfl
@[simp] theorem State.setErr_lastSheetLost (s : State) (k : Nat) (e : Err) : (s.setErr k e).lastSheetLost = s.lastSheetLost := rfl
@[simp] theorem State.setErr_powerLost (s : State) (k : Nat) (e : Err) : (s.setErr k e).powerLost = s.powerLost := rfl
@[simp] theorem State.setErr_surveyFirst (s : State) (k : Nat) (e : Err) : (s.setErr k e).surveyFirst = s.surveyFirst := rfl
@[simp] theorem State.setErr_faultPages (s : State) (k : Nat) (e : Err) : (s.setErr k e).faultPages = s.faultPages := rfl
@[simp] theorem State.setErr_moveReqs (s : State) (k : Nat) (e : Err) : (s.setErr k e).moveReqs = s.moveReqs := rfl
@[simp] theorem State.setErr_framesFor (s : State) (k : Nat) (e : Err) : (s.setErr k e).framesFor = s.framesFor := rfl
@[simp] theorem State.setErr_heldSteps (s : State) (k : Nat) (e : Err) : (s.setErr k e).heldSteps = s.heldSteps := rfl
@[simp] theorem State.setErr_sent (s : State) (k : Nat) (e : Err) : (s.setErr k e).sent = s.sent := rfl
@[simp] theorem State.setErr_agenda (s : State) (k : Nat) (e : Err) : (s.setErr k e).agenda = s.agenda := rfl
@[simp] theorem State.setErr_turn (s : State) (k : Nat) (e : Err) : (s.setErr k e).turn = s.turn := rfl
@[simp] theorem State.setErr_freeCtr (s : State) (k : Nat) (e : Err) : (s.setErr k e).freeCtr = s.freeCtr := rfl
@[simp] theorem State.setErr_cur (s : State) (k : Nat) (e : Err) : (s.setErr k e).cur = s.cur := rfl

@[simp] theorem State.setForm_mem (s : State) (core line : Nat) (v : Bool) : (s.setForm core line v).mem = s.mem := rfl
@[simp] theorem State.setForm_tags (s : State) (core line : Nat) (v : Bool) : (s.setForm core line v).tags = s.tags := rfl
@[simp] theorem State.setForm_errs (s : State) (core line : Nat) (v : Bool) : (s.setForm core line v).errs = s.errs := rfl
@[simp] theorem State.setForm_inject (s : State) (core line : Nat) (v : Bool) : (s.setForm core line v).inject = s.inject := rfl
@[simp] theorem State.setForm_errLogs (s : State) (core line : Nat) (v : Bool) : (s.setForm core line v).errLogs = s.errLogs := rfl
@[simp] theorem State.setForm_cores (s : State) (core line : Nat) (v : Bool) : (s.setForm core line v).cores = s.cores := rfl
@[simp] theorem State.setForm_clusters (s : State) (core line : Nat) (v : Bool) : (s.setForm core line v).clusters = s.clusters := rfl
@[simp] theorem State.setForm_dieTlb (s : State) (core line : Nat) (v : Bool) : (s.setForm core line v).dieTlb = s.dieTlb := rfl
@[simp] theorem State.setForm_asids (s : State) (core line : Nat) (v : Bool) : (s.setForm core line v).asids = s.asids := rfl
@[simp] theorem State.setForm_mapped (s : State) (core line : Nat) (v : Bool) : (s.setForm core line v).mapped = s.mapped := rfl
@[simp] theorem State.setForm_jobs (s : State) (core line : Nat) (v : Bool) : (s.setForm core line v).jobs = s.jobs := rfl
@[simp] theorem State.setForm_manifests (s : State) (core line : Nat) (v : Bool) : (s.setForm core line v).manifests = s.manifests := rfl
@[simp] theorem State.setForm_enrolled (s : State) (core line : Nat) (v : Bool) : (s.setForm core line v).enrolled = s.enrolled := rfl
@[simp] theorem State.setForm_keyGen (s : State) (core line : Nat) (v : Bool) : (s.setForm core line v).keyGen = s.keyGen := rfl
@[simp] theorem State.setForm_tenants (s : State) (core line : Nat) (v : Bool) : (s.setForm core line v).tenants = s.tenants := rfl
@[simp] theorem State.setForm_revoking (s : State) (core line : Nat) (v : Bool) : (s.setForm core line v).revoking = s.revoking := rfl
@[simp] theorem State.setForm_rings (s : State) (core line : Nat) (v : Bool) : (s.setForm core line v).rings = s.rings := rfl
@[simp] theorem State.setForm_ret (s : State) (core line : Nat) (v : Bool) : (s.setForm core line v).ret = s.ret := rfl
@[simp] theorem State.setForm_die0 (s : State) (core line : Nat) (v : Bool) : (s.setForm core line v).die0 = s.die0 := rfl
@[simp] theorem State.setForm_scores (s : State) (core line : Nat) (v : Bool) : (s.setForm core line v).scores = s.scores := rfl
@[simp] theorem State.setForm_die2 (s : State) (core line : Nat) (v : Bool) : (s.setForm core line v).die2 = s.die2 := rfl
@[simp] theorem State.setForm_surveyDue (s : State) (core line : Nat) (v : Bool) : (s.setForm core line v).surveyDue = s.surveyDue := rfl
@[simp] theorem State.setForm_wear (s : State) (core line : Nat) (v : Bool) : (s.setForm core line v).wear = s.wear := rfl
@[simp] theorem State.setForm_journal (s : State) (core line : Nat) (v : Bool) : (s.setForm core line v).journal = s.journal := rfl
@[simp] theorem State.setForm_txn (s : State) (core line : Nat) (v : Bool) : (s.setForm core line v).txn = s.txn := rfl
@[simp] theorem State.setForm_txnCount (s : State) (core line : Nat) (v : Bool) : (s.setForm core line v).txnCount = s.txnCount := rfl
@[simp] theorem State.setForm_badModels (s : State) (core line : Nat) (v : Bool) : (s.setForm core line v).badModels = s.badModels := rfl
@[simp] theorem State.setForm_sheets (s : State) (core line : Nat) (v : Bool) : (s.setForm core line v).sheets = s.sheets := rfl
@[simp] theorem State.setForm_links (s : State) (core line : Nat) (v : Bool) : (s.setForm core line v).links = s.links := rfl
@[simp] theorem State.setForm_drives (s : State) (core line : Nat) (v : Bool) : (s.setForm core line v).drives = s.drives := rfl
@[simp] theorem State.setForm_hostPort (s : State) (core line : Nat) (v : Bool) : (s.setForm core line v).hostPort = s.hostPort := rfl
@[simp] theorem State.setForm_nvmeQ (s : State) (core line : Nat) (v : Bool) : (s.setForm core line v).nvmeQ = s.nvmeQ := rfl
@[simp] theorem State.setForm_sessions (s : State) (core line : Nat) (v : Bool) : (s.setForm core line v).sessions = s.sessions := rfl
@[simp] theorem State.setForm_leases (s : State) (core line : Nat) (v : Bool) : (s.setForm core line v).leases = s.leases := rfl
@[simp] theorem State.setForm_outWindows (s : State) (core line : Nat) (v : Bool) : (s.setForm core line v).outWindows = s.outWindows := rfl
@[simp] theorem State.setForm_outLinks (s : State) (core line : Nat) (v : Bool) : (s.setForm core line v).outLinks = s.outLinks := rfl
@[simp] theorem State.setForm_safe (s : State) (core line : Nat) (v : Bool) : (s.setForm core line v).safe = s.safe := rfl
@[simp] theorem State.setForm_migIn (s : State) (core line : Nat) (v : Bool) : (s.setForm core line v).migIn = s.migIn := rfl
@[simp] theorem State.setForm_power (s : State) (core line : Nat) (v : Bool) : (s.setForm core line v).power = s.power := rfl
@[simp] theorem State.setForm_shock (s : State) (core line : Nat) (v : Bool) : (s.setForm core line v).shock = s.shock := rfl
@[simp] theorem State.setForm_lastSheetLost (s : State) (core line : Nat) (v : Bool) : (s.setForm core line v).lastSheetLost = s.lastSheetLost := rfl
@[simp] theorem State.setForm_powerLost (s : State) (core line : Nat) (v : Bool) : (s.setForm core line v).powerLost = s.powerLost := rfl
@[simp] theorem State.setForm_surveyFirst (s : State) (core line : Nat) (v : Bool) : (s.setForm core line v).surveyFirst = s.surveyFirst := rfl
@[simp] theorem State.setForm_faultPages (s : State) (core line : Nat) (v : Bool) : (s.setForm core line v).faultPages = s.faultPages := rfl
@[simp] theorem State.setForm_moveReqs (s : State) (core line : Nat) (v : Bool) : (s.setForm core line v).moveReqs = s.moveReqs := rfl
@[simp] theorem State.setForm_framesFor (s : State) (core line : Nat) (v : Bool) : (s.setForm core line v).framesFor = s.framesFor := rfl
@[simp] theorem State.setForm_heldSteps (s : State) (core line : Nat) (v : Bool) : (s.setForm core line v).heldSteps = s.heldSteps := rfl
@[simp] theorem State.setForm_sent (s : State) (core line : Nat) (v : Bool) : (s.setForm core line v).sent = s.sent := rfl
@[simp] theorem State.setForm_agenda (s : State) (core line : Nat) (v : Bool) : (s.setForm core line v).agenda = s.agenda := rfl
@[simp] theorem State.setForm_turn (s : State) (core line : Nat) (v : Bool) : (s.setForm core line v).turn = s.turn := rfl
@[simp] theorem State.setForm_freeCtr (s : State) (core line : Nat) (v : Bool) : (s.setForm core line v).freeCtr = s.freeCtr := rfl
@[simp] theorem State.setForm_cur (s : State) (core line : Nat) (v : Bool) : (s.setForm core line v).cur = s.cur := rfl

@[simp] theorem State.setTags_mem (s : State) (k n tag : Nat) : (s.setTags k n tag).mem = s.mem := rfl
@[simp] theorem State.setTags_forms (s : State) (k n tag : Nat) : (s.setTags k n tag).forms = s.forms := rfl
@[simp] theorem State.setTags_errs (s : State) (k n tag : Nat) : (s.setTags k n tag).errs = s.errs := rfl
@[simp] theorem State.setTags_inject (s : State) (k n tag : Nat) : (s.setTags k n tag).inject = s.inject := rfl
@[simp] theorem State.setTags_errLogs (s : State) (k n tag : Nat) : (s.setTags k n tag).errLogs = s.errLogs := rfl
@[simp] theorem State.setTags_cores (s : State) (k n tag : Nat) : (s.setTags k n tag).cores = s.cores := rfl
@[simp] theorem State.setTags_clusters (s : State) (k n tag : Nat) : (s.setTags k n tag).clusters = s.clusters := rfl
@[simp] theorem State.setTags_dieTlb (s : State) (k n tag : Nat) : (s.setTags k n tag).dieTlb = s.dieTlb := rfl
@[simp] theorem State.setTags_asids (s : State) (k n tag : Nat) : (s.setTags k n tag).asids = s.asids := rfl
@[simp] theorem State.setTags_mapped (s : State) (k n tag : Nat) : (s.setTags k n tag).mapped = s.mapped := rfl
@[simp] theorem State.setTags_jobs (s : State) (k n tag : Nat) : (s.setTags k n tag).jobs = s.jobs := rfl
@[simp] theorem State.setTags_manifests (s : State) (k n tag : Nat) : (s.setTags k n tag).manifests = s.manifests := rfl
@[simp] theorem State.setTags_enrolled (s : State) (k n tag : Nat) : (s.setTags k n tag).enrolled = s.enrolled := rfl
@[simp] theorem State.setTags_keyGen (s : State) (k n tag : Nat) : (s.setTags k n tag).keyGen = s.keyGen := rfl
@[simp] theorem State.setTags_tenants (s : State) (k n tag : Nat) : (s.setTags k n tag).tenants = s.tenants := rfl
@[simp] theorem State.setTags_revoking (s : State) (k n tag : Nat) : (s.setTags k n tag).revoking = s.revoking := rfl
@[simp] theorem State.setTags_rings (s : State) (k n tag : Nat) : (s.setTags k n tag).rings = s.rings := rfl
@[simp] theorem State.setTags_ret (s : State) (k n tag : Nat) : (s.setTags k n tag).ret = s.ret := rfl
@[simp] theorem State.setTags_die0 (s : State) (k n tag : Nat) : (s.setTags k n tag).die0 = s.die0 := rfl
@[simp] theorem State.setTags_scores (s : State) (k n tag : Nat) : (s.setTags k n tag).scores = s.scores := rfl
@[simp] theorem State.setTags_die2 (s : State) (k n tag : Nat) : (s.setTags k n tag).die2 = s.die2 := rfl
@[simp] theorem State.setTags_surveyDue (s : State) (k n tag : Nat) : (s.setTags k n tag).surveyDue = s.surveyDue := rfl
@[simp] theorem State.setTags_wear (s : State) (k n tag : Nat) : (s.setTags k n tag).wear = s.wear := rfl
@[simp] theorem State.setTags_journal (s : State) (k n tag : Nat) : (s.setTags k n tag).journal = s.journal := rfl
@[simp] theorem State.setTags_txn (s : State) (k n tag : Nat) : (s.setTags k n tag).txn = s.txn := rfl
@[simp] theorem State.setTags_txnCount (s : State) (k n tag : Nat) : (s.setTags k n tag).txnCount = s.txnCount := rfl
@[simp] theorem State.setTags_badModels (s : State) (k n tag : Nat) : (s.setTags k n tag).badModels = s.badModels := rfl
@[simp] theorem State.setTags_sheets (s : State) (k n tag : Nat) : (s.setTags k n tag).sheets = s.sheets := rfl
@[simp] theorem State.setTags_links (s : State) (k n tag : Nat) : (s.setTags k n tag).links = s.links := rfl
@[simp] theorem State.setTags_drives (s : State) (k n tag : Nat) : (s.setTags k n tag).drives = s.drives := rfl
@[simp] theorem State.setTags_hostPort (s : State) (k n tag : Nat) : (s.setTags k n tag).hostPort = s.hostPort := rfl
@[simp] theorem State.setTags_nvmeQ (s : State) (k n tag : Nat) : (s.setTags k n tag).nvmeQ = s.nvmeQ := rfl
@[simp] theorem State.setTags_sessions (s : State) (k n tag : Nat) : (s.setTags k n tag).sessions = s.sessions := rfl
@[simp] theorem State.setTags_leases (s : State) (k n tag : Nat) : (s.setTags k n tag).leases = s.leases := rfl
@[simp] theorem State.setTags_outWindows (s : State) (k n tag : Nat) : (s.setTags k n tag).outWindows = s.outWindows := rfl
@[simp] theorem State.setTags_outLinks (s : State) (k n tag : Nat) : (s.setTags k n tag).outLinks = s.outLinks := rfl
@[simp] theorem State.setTags_safe (s : State) (k n tag : Nat) : (s.setTags k n tag).safe = s.safe := rfl
@[simp] theorem State.setTags_migIn (s : State) (k n tag : Nat) : (s.setTags k n tag).migIn = s.migIn := rfl
@[simp] theorem State.setTags_power (s : State) (k n tag : Nat) : (s.setTags k n tag).power = s.power := rfl
@[simp] theorem State.setTags_shock (s : State) (k n tag : Nat) : (s.setTags k n tag).shock = s.shock := rfl
@[simp] theorem State.setTags_lastSheetLost (s : State) (k n tag : Nat) : (s.setTags k n tag).lastSheetLost = s.lastSheetLost := rfl
@[simp] theorem State.setTags_powerLost (s : State) (k n tag : Nat) : (s.setTags k n tag).powerLost = s.powerLost := rfl
@[simp] theorem State.setTags_surveyFirst (s : State) (k n tag : Nat) : (s.setTags k n tag).surveyFirst = s.surveyFirst := rfl
@[simp] theorem State.setTags_faultPages (s : State) (k n tag : Nat) : (s.setTags k n tag).faultPages = s.faultPages := rfl
@[simp] theorem State.setTags_moveReqs (s : State) (k n tag : Nat) : (s.setTags k n tag).moveReqs = s.moveReqs := rfl
@[simp] theorem State.setTags_framesFor (s : State) (k n tag : Nat) : (s.setTags k n tag).framesFor = s.framesFor := rfl
@[simp] theorem State.setTags_heldSteps (s : State) (k n tag : Nat) : (s.setTags k n tag).heldSteps = s.heldSteps := rfl
@[simp] theorem State.setTags_sent (s : State) (k n tag : Nat) : (s.setTags k n tag).sent = s.sent := rfl
@[simp] theorem State.setTags_agenda (s : State) (k n tag : Nat) : (s.setTags k n tag).agenda = s.agenda := rfl
@[simp] theorem State.setTags_turn (s : State) (k n tag : Nat) : (s.setTags k n tag).turn = s.turn := rfl
@[simp] theorem State.setTags_freeCtr (s : State) (k n tag : Nat) : (s.setTags k n tag).freeCtr = s.freeCtr := rfl
@[simp] theorem State.setTags_cur (s : State) (k n tag : Nat) : (s.setTags k n tag).cur = s.cur := rfl

@[simp] theorem State.setScore_mem (s : State) (i v : Nat) : (s.setScore i v).mem = s.mem := rfl
@[simp] theorem State.setScore_forms (s : State) (i v : Nat) : (s.setScore i v).forms = s.forms := rfl
@[simp] theorem State.setScore_tags (s : State) (i v : Nat) : (s.setScore i v).tags = s.tags := rfl
@[simp] theorem State.setScore_errs (s : State) (i v : Nat) : (s.setScore i v).errs = s.errs := rfl
@[simp] theorem State.setScore_inject (s : State) (i v : Nat) : (s.setScore i v).inject = s.inject := rfl
@[simp] theorem State.setScore_errLogs (s : State) (i v : Nat) : (s.setScore i v).errLogs = s.errLogs := rfl
@[simp] theorem State.setScore_cores (s : State) (i v : Nat) : (s.setScore i v).cores = s.cores := rfl
@[simp] theorem State.setScore_clusters (s : State) (i v : Nat) : (s.setScore i v).clusters = s.clusters := rfl
@[simp] theorem State.setScore_dieTlb (s : State) (i v : Nat) : (s.setScore i v).dieTlb = s.dieTlb := rfl
@[simp] theorem State.setScore_asids (s : State) (i v : Nat) : (s.setScore i v).asids = s.asids := rfl
@[simp] theorem State.setScore_mapped (s : State) (i v : Nat) : (s.setScore i v).mapped = s.mapped := rfl
@[simp] theorem State.setScore_jobs (s : State) (i v : Nat) : (s.setScore i v).jobs = s.jobs := rfl
@[simp] theorem State.setScore_manifests (s : State) (i v : Nat) : (s.setScore i v).manifests = s.manifests := rfl
@[simp] theorem State.setScore_enrolled (s : State) (i v : Nat) : (s.setScore i v).enrolled = s.enrolled := rfl
@[simp] theorem State.setScore_keyGen (s : State) (i v : Nat) : (s.setScore i v).keyGen = s.keyGen := rfl
@[simp] theorem State.setScore_tenants (s : State) (i v : Nat) : (s.setScore i v).tenants = s.tenants := rfl
@[simp] theorem State.setScore_revoking (s : State) (i v : Nat) : (s.setScore i v).revoking = s.revoking := rfl
@[simp] theorem State.setScore_rings (s : State) (i v : Nat) : (s.setScore i v).rings = s.rings := rfl
@[simp] theorem State.setScore_ret (s : State) (i v : Nat) : (s.setScore i v).ret = s.ret := rfl
@[simp] theorem State.setScore_wear (s : State) (i v : Nat) : (s.setScore i v).wear = s.wear := rfl
@[simp] theorem State.setScore_journal (s : State) (i v : Nat) : (s.setScore i v).journal = s.journal := rfl
@[simp] theorem State.setScore_txn (s : State) (i v : Nat) : (s.setScore i v).txn = s.txn := rfl
@[simp] theorem State.setScore_txnCount (s : State) (i v : Nat) : (s.setScore i v).txnCount = s.txnCount := rfl
@[simp] theorem State.setScore_badModels (s : State) (i v : Nat) : (s.setScore i v).badModels = s.badModels := rfl
@[simp] theorem State.setScore_sheets (s : State) (i v : Nat) : (s.setScore i v).sheets = s.sheets := rfl
@[simp] theorem State.setScore_links (s : State) (i v : Nat) : (s.setScore i v).links = s.links := rfl
@[simp] theorem State.setScore_drives (s : State) (i v : Nat) : (s.setScore i v).drives = s.drives := rfl
@[simp] theorem State.setScore_hostPort (s : State) (i v : Nat) : (s.setScore i v).hostPort = s.hostPort := rfl
@[simp] theorem State.setScore_nvmeQ (s : State) (i v : Nat) : (s.setScore i v).nvmeQ = s.nvmeQ := rfl
@[simp] theorem State.setScore_sessions (s : State) (i v : Nat) : (s.setScore i v).sessions = s.sessions := rfl
@[simp] theorem State.setScore_leases (s : State) (i v : Nat) : (s.setScore i v).leases = s.leases := rfl
@[simp] theorem State.setScore_outWindows (s : State) (i v : Nat) : (s.setScore i v).outWindows = s.outWindows := rfl
@[simp] theorem State.setScore_outLinks (s : State) (i v : Nat) : (s.setScore i v).outLinks = s.outLinks := rfl
@[simp] theorem State.setScore_safe (s : State) (i v : Nat) : (s.setScore i v).safe = s.safe := rfl
@[simp] theorem State.setScore_migIn (s : State) (i v : Nat) : (s.setScore i v).migIn = s.migIn := rfl
@[simp] theorem State.setScore_power (s : State) (i v : Nat) : (s.setScore i v).power = s.power := rfl
@[simp] theorem State.setScore_shock (s : State) (i v : Nat) : (s.setScore i v).shock = s.shock := rfl
@[simp] theorem State.setScore_lastSheetLost (s : State) (i v : Nat) : (s.setScore i v).lastSheetLost = s.lastSheetLost := rfl
@[simp] theorem State.setScore_powerLost (s : State) (i v : Nat) : (s.setScore i v).powerLost = s.powerLost := rfl
@[simp] theorem State.setScore_surveyFirst (s : State) (i v : Nat) : (s.setScore i v).surveyFirst = s.surveyFirst := rfl
@[simp] theorem State.setScore_faultPages (s : State) (i v : Nat) : (s.setScore i v).faultPages = s.faultPages := rfl
@[simp] theorem State.setScore_moveReqs (s : State) (i v : Nat) : (s.setScore i v).moveReqs = s.moveReqs := rfl
@[simp] theorem State.setScore_framesFor (s : State) (i v : Nat) : (s.setScore i v).framesFor = s.framesFor := rfl
@[simp] theorem State.setScore_heldSteps (s : State) (i v : Nat) : (s.setScore i v).heldSteps = s.heldSteps := rfl
@[simp] theorem State.setScore_sent (s : State) (i v : Nat) : (s.setScore i v).sent = s.sent := rfl
@[simp] theorem State.setScore_agenda (s : State) (i v : Nat) : (s.setScore i v).agenda = s.agenda := rfl
@[simp] theorem State.setScore_turn (s : State) (i v : Nat) : (s.setScore i v).turn = s.turn := rfl
@[simp] theorem State.setScore_freeCtr (s : State) (i v : Nat) : (s.setScore i v).freeCtr = s.freeCtr := rfl
@[simp] theorem State.setScore_cur (s : State) (i v : Nat) : (s.setScore i v).cur = s.cur := rfl

@[simp] theorem State.setSession_mem (s : State) (n : Nat) (v : Session) : (s.setSession n v).mem = s.mem := rfl
@[simp] theorem State.setSession_forms (s : State) (n : Nat) (v : Session) : (s.setSession n v).forms = s.forms := rfl
@[simp] theorem State.setSession_tags (s : State) (n : Nat) (v : Session) : (s.setSession n v).tags = s.tags := rfl
@[simp] theorem State.setSession_errs (s : State) (n : Nat) (v : Session) : (s.setSession n v).errs = s.errs := rfl
@[simp] theorem State.setSession_inject (s : State) (n : Nat) (v : Session) : (s.setSession n v).inject = s.inject := rfl
@[simp] theorem State.setSession_errLogs (s : State) (n : Nat) (v : Session) : (s.setSession n v).errLogs = s.errLogs := rfl
@[simp] theorem State.setSession_cores (s : State) (n : Nat) (v : Session) : (s.setSession n v).cores = s.cores := rfl
@[simp] theorem State.setSession_clusters (s : State) (n : Nat) (v : Session) : (s.setSession n v).clusters = s.clusters := rfl
@[simp] theorem State.setSession_dieTlb (s : State) (n : Nat) (v : Session) : (s.setSession n v).dieTlb = s.dieTlb := rfl
@[simp] theorem State.setSession_asids (s : State) (n : Nat) (v : Session) : (s.setSession n v).asids = s.asids := rfl
@[simp] theorem State.setSession_mapped (s : State) (n : Nat) (v : Session) : (s.setSession n v).mapped = s.mapped := rfl
@[simp] theorem State.setSession_jobs (s : State) (n : Nat) (v : Session) : (s.setSession n v).jobs = s.jobs := rfl
@[simp] theorem State.setSession_manifests (s : State) (n : Nat) (v : Session) : (s.setSession n v).manifests = s.manifests := rfl
@[simp] theorem State.setSession_enrolled (s : State) (n : Nat) (v : Session) : (s.setSession n v).enrolled = s.enrolled := rfl
@[simp] theorem State.setSession_keyGen (s : State) (n : Nat) (v : Session) : (s.setSession n v).keyGen = s.keyGen := rfl
@[simp] theorem State.setSession_tenants (s : State) (n : Nat) (v : Session) : (s.setSession n v).tenants = s.tenants := rfl
@[simp] theorem State.setSession_revoking (s : State) (n : Nat) (v : Session) : (s.setSession n v).revoking = s.revoking := rfl
@[simp] theorem State.setSession_rings (s : State) (n : Nat) (v : Session) : (s.setSession n v).rings = s.rings := rfl
@[simp] theorem State.setSession_ret (s : State) (n : Nat) (v : Session) : (s.setSession n v).ret = s.ret := rfl
@[simp] theorem State.setSession_die0 (s : State) (n : Nat) (v : Session) : (s.setSession n v).die0 = s.die0 := rfl
@[simp] theorem State.setSession_scores (s : State) (n : Nat) (v : Session) : (s.setSession n v).scores = s.scores := rfl
@[simp] theorem State.setSession_die2 (s : State) (n : Nat) (v : Session) : (s.setSession n v).die2 = s.die2 := rfl
@[simp] theorem State.setSession_surveyDue (s : State) (n : Nat) (v : Session) : (s.setSession n v).surveyDue = s.surveyDue := rfl
@[simp] theorem State.setSession_wear (s : State) (n : Nat) (v : Session) : (s.setSession n v).wear = s.wear := rfl
@[simp] theorem State.setSession_journal (s : State) (n : Nat) (v : Session) : (s.setSession n v).journal = s.journal := rfl
@[simp] theorem State.setSession_txn (s : State) (n : Nat) (v : Session) : (s.setSession n v).txn = s.txn := rfl
@[simp] theorem State.setSession_txnCount (s : State) (n : Nat) (v : Session) : (s.setSession n v).txnCount = s.txnCount := rfl
@[simp] theorem State.setSession_badModels (s : State) (n : Nat) (v : Session) : (s.setSession n v).badModels = s.badModels := rfl
@[simp] theorem State.setSession_sheets (s : State) (n : Nat) (v : Session) : (s.setSession n v).sheets = s.sheets := rfl
@[simp] theorem State.setSession_links (s : State) (n : Nat) (v : Session) : (s.setSession n v).links = s.links := rfl
@[simp] theorem State.setSession_drives (s : State) (n : Nat) (v : Session) : (s.setSession n v).drives = s.drives := rfl
@[simp] theorem State.setSession_hostPort (s : State) (n : Nat) (v : Session) : (s.setSession n v).hostPort = s.hostPort := rfl
@[simp] theorem State.setSession_nvmeQ (s : State) (n : Nat) (v : Session) : (s.setSession n v).nvmeQ = s.nvmeQ := rfl
@[simp] theorem State.setSession_leases (s : State) (n : Nat) (v : Session) : (s.setSession n v).leases = s.leases := rfl
@[simp] theorem State.setSession_outWindows (s : State) (n : Nat) (v : Session) : (s.setSession n v).outWindows = s.outWindows := rfl
@[simp] theorem State.setSession_outLinks (s : State) (n : Nat) (v : Session) : (s.setSession n v).outLinks = s.outLinks := rfl
@[simp] theorem State.setSession_safe (s : State) (n : Nat) (v : Session) : (s.setSession n v).safe = s.safe := rfl
@[simp] theorem State.setSession_migIn (s : State) (n : Nat) (v : Session) : (s.setSession n v).migIn = s.migIn := rfl
@[simp] theorem State.setSession_power (s : State) (n : Nat) (v : Session) : (s.setSession n v).power = s.power := rfl
@[simp] theorem State.setSession_shock (s : State) (n : Nat) (v : Session) : (s.setSession n v).shock = s.shock := rfl
@[simp] theorem State.setSession_lastSheetLost (s : State) (n : Nat) (v : Session) : (s.setSession n v).lastSheetLost = s.lastSheetLost := rfl
@[simp] theorem State.setSession_powerLost (s : State) (n : Nat) (v : Session) : (s.setSession n v).powerLost = s.powerLost := rfl
@[simp] theorem State.setSession_surveyFirst (s : State) (n : Nat) (v : Session) : (s.setSession n v).surveyFirst = s.surveyFirst := rfl
@[simp] theorem State.setSession_faultPages (s : State) (n : Nat) (v : Session) : (s.setSession n v).faultPages = s.faultPages := rfl
@[simp] theorem State.setSession_moveReqs (s : State) (n : Nat) (v : Session) : (s.setSession n v).moveReqs = s.moveReqs := rfl
@[simp] theorem State.setSession_framesFor (s : State) (n : Nat) (v : Session) : (s.setSession n v).framesFor = s.framesFor := rfl
@[simp] theorem State.setSession_heldSteps (s : State) (n : Nat) (v : Session) : (s.setSession n v).heldSteps = s.heldSteps := rfl
@[simp] theorem State.setSession_sent (s : State) (n : Nat) (v : Session) : (s.setSession n v).sent = s.sent := rfl
@[simp] theorem State.setSession_agenda (s : State) (n : Nat) (v : Session) : (s.setSession n v).agenda = s.agenda := rfl
@[simp] theorem State.setSession_turn (s : State) (n : Nat) (v : Session) : (s.setSession n v).turn = s.turn := rfl
@[simp] theorem State.setSession_freeCtr (s : State) (n : Nat) (v : Session) : (s.setSession n v).freeCtr = s.freeCtr := rfl
@[simp] theorem State.setSession_cur (s : State) (n : Nat) (v : Session) : (s.setSession n v).cur = s.cur := rfl

@[simp] theorem State.setLink_mem (s : State) (l : Nat) (v : Link) : (s.setLink l v).mem = s.mem := rfl
@[simp] theorem State.setLink_forms (s : State) (l : Nat) (v : Link) : (s.setLink l v).forms = s.forms := rfl
@[simp] theorem State.setLink_tags (s : State) (l : Nat) (v : Link) : (s.setLink l v).tags = s.tags := rfl
@[simp] theorem State.setLink_errs (s : State) (l : Nat) (v : Link) : (s.setLink l v).errs = s.errs := rfl
@[simp] theorem State.setLink_inject (s : State) (l : Nat) (v : Link) : (s.setLink l v).inject = s.inject := rfl
@[simp] theorem State.setLink_errLogs (s : State) (l : Nat) (v : Link) : (s.setLink l v).errLogs = s.errLogs := rfl
@[simp] theorem State.setLink_cores (s : State) (l : Nat) (v : Link) : (s.setLink l v).cores = s.cores := rfl
@[simp] theorem State.setLink_clusters (s : State) (l : Nat) (v : Link) : (s.setLink l v).clusters = s.clusters := rfl
@[simp] theorem State.setLink_dieTlb (s : State) (l : Nat) (v : Link) : (s.setLink l v).dieTlb = s.dieTlb := rfl
@[simp] theorem State.setLink_asids (s : State) (l : Nat) (v : Link) : (s.setLink l v).asids = s.asids := rfl
@[simp] theorem State.setLink_mapped (s : State) (l : Nat) (v : Link) : (s.setLink l v).mapped = s.mapped := rfl
@[simp] theorem State.setLink_jobs (s : State) (l : Nat) (v : Link) : (s.setLink l v).jobs = s.jobs := rfl
@[simp] theorem State.setLink_manifests (s : State) (l : Nat) (v : Link) : (s.setLink l v).manifests = s.manifests := rfl
@[simp] theorem State.setLink_enrolled (s : State) (l : Nat) (v : Link) : (s.setLink l v).enrolled = s.enrolled := rfl
@[simp] theorem State.setLink_keyGen (s : State) (l : Nat) (v : Link) : (s.setLink l v).keyGen = s.keyGen := rfl
@[simp] theorem State.setLink_tenants (s : State) (l : Nat) (v : Link) : (s.setLink l v).tenants = s.tenants := rfl
@[simp] theorem State.setLink_revoking (s : State) (l : Nat) (v : Link) : (s.setLink l v).revoking = s.revoking := rfl
@[simp] theorem State.setLink_rings (s : State) (l : Nat) (v : Link) : (s.setLink l v).rings = s.rings := rfl
@[simp] theorem State.setLink_ret (s : State) (l : Nat) (v : Link) : (s.setLink l v).ret = s.ret := rfl
@[simp] theorem State.setLink_die0 (s : State) (l : Nat) (v : Link) : (s.setLink l v).die0 = s.die0 := rfl
@[simp] theorem State.setLink_scores (s : State) (l : Nat) (v : Link) : (s.setLink l v).scores = s.scores := rfl
@[simp] theorem State.setLink_die2 (s : State) (l : Nat) (v : Link) : (s.setLink l v).die2 = s.die2 := rfl
@[simp] theorem State.setLink_surveyDue (s : State) (l : Nat) (v : Link) : (s.setLink l v).surveyDue = s.surveyDue := rfl
@[simp] theorem State.setLink_wear (s : State) (l : Nat) (v : Link) : (s.setLink l v).wear = s.wear := rfl
@[simp] theorem State.setLink_journal (s : State) (l : Nat) (v : Link) : (s.setLink l v).journal = s.journal := rfl
@[simp] theorem State.setLink_txn (s : State) (l : Nat) (v : Link) : (s.setLink l v).txn = s.txn := rfl
@[simp] theorem State.setLink_txnCount (s : State) (l : Nat) (v : Link) : (s.setLink l v).txnCount = s.txnCount := rfl
@[simp] theorem State.setLink_badModels (s : State) (l : Nat) (v : Link) : (s.setLink l v).badModels = s.badModels := rfl
@[simp] theorem State.setLink_sheets (s : State) (l : Nat) (v : Link) : (s.setLink l v).sheets = s.sheets := rfl
@[simp] theorem State.setLink_drives (s : State) (l : Nat) (v : Link) : (s.setLink l v).drives = s.drives := rfl
@[simp] theorem State.setLink_hostPort (s : State) (l : Nat) (v : Link) : (s.setLink l v).hostPort = s.hostPort := rfl
@[simp] theorem State.setLink_nvmeQ (s : State) (l : Nat) (v : Link) : (s.setLink l v).nvmeQ = s.nvmeQ := rfl
@[simp] theorem State.setLink_sessions (s : State) (l : Nat) (v : Link) : (s.setLink l v).sessions = s.sessions := rfl
@[simp] theorem State.setLink_leases (s : State) (l : Nat) (v : Link) : (s.setLink l v).leases = s.leases := rfl
@[simp] theorem State.setLink_outWindows (s : State) (l : Nat) (v : Link) : (s.setLink l v).outWindows = s.outWindows := rfl
@[simp] theorem State.setLink_outLinks (s : State) (l : Nat) (v : Link) : (s.setLink l v).outLinks = s.outLinks := rfl
@[simp] theorem State.setLink_safe (s : State) (l : Nat) (v : Link) : (s.setLink l v).safe = s.safe := rfl
@[simp] theorem State.setLink_migIn (s : State) (l : Nat) (v : Link) : (s.setLink l v).migIn = s.migIn := rfl
@[simp] theorem State.setLink_power (s : State) (l : Nat) (v : Link) : (s.setLink l v).power = s.power := rfl
@[simp] theorem State.setLink_shock (s : State) (l : Nat) (v : Link) : (s.setLink l v).shock = s.shock := rfl
@[simp] theorem State.setLink_lastSheetLost (s : State) (l : Nat) (v : Link) : (s.setLink l v).lastSheetLost = s.lastSheetLost := rfl
@[simp] theorem State.setLink_powerLost (s : State) (l : Nat) (v : Link) : (s.setLink l v).powerLost = s.powerLost := rfl
@[simp] theorem State.setLink_surveyFirst (s : State) (l : Nat) (v : Link) : (s.setLink l v).surveyFirst = s.surveyFirst := rfl
@[simp] theorem State.setLink_faultPages (s : State) (l : Nat) (v : Link) : (s.setLink l v).faultPages = s.faultPages := rfl
@[simp] theorem State.setLink_moveReqs (s : State) (l : Nat) (v : Link) : (s.setLink l v).moveReqs = s.moveReqs := rfl
@[simp] theorem State.setLink_framesFor (s : State) (l : Nat) (v : Link) : (s.setLink l v).framesFor = s.framesFor := rfl
@[simp] theorem State.setLink_heldSteps (s : State) (l : Nat) (v : Link) : (s.setLink l v).heldSteps = s.heldSteps := rfl
@[simp] theorem State.setLink_sent (s : State) (l : Nat) (v : Link) : (s.setLink l v).sent = s.sent := rfl
@[simp] theorem State.setLink_agenda (s : State) (l : Nat) (v : Link) : (s.setLink l v).agenda = s.agenda := rfl
@[simp] theorem State.setLink_turn (s : State) (l : Nat) (v : Link) : (s.setLink l v).turn = s.turn := rfl
@[simp] theorem State.setLink_freeCtr (s : State) (l : Nat) (v : Link) : (s.setLink l v).freeCtr = s.freeCtr := rfl
@[simp] theorem State.setLink_cur (s : State) (l : Nat) (v : Link) : (s.setLink l v).cur = s.cur := rfl

@[simp] theorem Arch.wrV_s (a : Arch) (n : Nat) (v : Vec) : (a.wrV n v).s = a.s := rfl
@[simp] theorem Arch.wrV_p (a : Arch) (n : Nat) (v : Vec) : (a.wrV n v).p = a.p := rfl
@[simp] theorem Arch.wrV_k (a : Arch) (n : Nat) (v : Vec) : (a.wrV n v).k = a.k := rfl
@[simp] theorem Arch.wrV_w (a : Arch) (n : Nat) (v : Vec) : (a.wrV n v).w = a.w := rfl
@[simp] theorem Arch.wrV_h (a : Arch) (n : Nat) (v : Vec) : (a.wrV n v).h = a.h := rfl
@[simp] theorem Arch.wrV_bankC (a : Arch) (n : Nat) (v : Vec) : (a.wrV n v).bankC = a.bankC := rfl
@[simp] theorem Arch.wrV_mAct (a : Arch) (n : Nat) (v : Vec) : (a.wrV n v).mAct = a.mAct := rfl
@[simp] theorem Arch.wrV_mSh (a : Arch) (n : Nat) (v : Vec) : (a.wrV n v).mSh = a.mSh := rfl
@[simp] theorem Arch.wrV_dAct (a : Arch) (n : Nat) (v : Vec) : (a.wrV n v).dAct = a.dAct := rfl
@[simp] theorem Arch.wrV_dSh (a : Arch) (n : Nat) (v : Vec) : (a.wrV n v).dSh = a.dSh := rfl
@[simp] theorem Arch.wrV_loops (a : Arch) (n : Nat) (v : Vec) : (a.wrV n v).loops = a.loops := rfl
@[simp] theorem Arch.wrV_idle (a : Arch) (n : Nat) (v : Vec) : (a.wrV n v).idle = a.idle := rfl
@[simp] theorem Arch.wrV_dueRegs (a : Arch) (n : Nat) (v : Vec) : (a.wrV n v).dueRegs = a.dueRegs := rfl
@[simp] theorem Arch.wrV_seqDue (a : Arch) (n : Nat) (v : Vec) : (a.wrV n v).seqDue = a.seqDue := rfl
@[simp] theorem Arch.wrV_dueLatches (a : Arch) (n : Nat) (v : Vec) : (a.wrV n v).dueLatches = a.dueLatches := rfl
@[simp] theorem Arch.wrV_groups (a : Arch) (n : Nat) (v : Vec) : (a.wrV n v).groups = a.groups := rfl
@[simp] theorem Arch.wrV_tick (a : Arch) (n : Nat) (v : Vec) : (a.wrV n v).tick = a.tick := rfl
@[simp] theorem Arch.wrV_pc (a : Arch) (n : Nat) (v : Vec) : (a.wrV n v).pc = a.pc := rfl
@[simp] theorem Arch.wrV_f (a : Arch) (n : Nat) (v : Vec) : (a.wrV n v).f = a.f := rfl
@[simp] theorem Arch.wrV_tb (a : Arch) (n : Nat) (v : Vec) : (a.wrV n v).tb = a.tb := rfl
@[simp] theorem Arch.wrV_nextId (a : Arch) (n : Nat) (v : Vec) : (a.wrV n v).nextId = a.nextId := rfl
@[simp] theorem Arch.wrV_q (a : Arch) (n : Nat) (v : Vec) : (a.wrV n v).q = a.q := rfl
@[simp] theorem Arch.wrV_gather (a : Arch) (n : Nat) (v : Vec) : (a.wrV n v).gather = a.gather := rfl

@[simp] theorem Arch.wrW_s (a : Arch) (n : Nat) (v : Latch) : (a.wrW n v).s = a.s := rfl
@[simp] theorem Arch.wrW_p (a : Arch) (n : Nat) (v : Latch) : (a.wrW n v).p = a.p := rfl
@[simp] theorem Arch.wrW_k (a : Arch) (n : Nat) (v : Latch) : (a.wrW n v).k = a.k := rfl
@[simp] theorem Arch.wrW_v (a : Arch) (n : Nat) (v : Latch) : (a.wrW n v).v = a.v := rfl
@[simp] theorem Arch.wrW_h (a : Arch) (n : Nat) (v : Latch) : (a.wrW n v).h = a.h := rfl
@[simp] theorem Arch.wrW_bankC (a : Arch) (n : Nat) (v : Latch) : (a.wrW n v).bankC = a.bankC := rfl
@[simp] theorem Arch.wrW_mAct (a : Arch) (n : Nat) (v : Latch) : (a.wrW n v).mAct = a.mAct := rfl
@[simp] theorem Arch.wrW_mSh (a : Arch) (n : Nat) (v : Latch) : (a.wrW n v).mSh = a.mSh := rfl
@[simp] theorem Arch.wrW_dAct (a : Arch) (n : Nat) (v : Latch) : (a.wrW n v).dAct = a.dAct := rfl
@[simp] theorem Arch.wrW_dSh (a : Arch) (n : Nat) (v : Latch) : (a.wrW n v).dSh = a.dSh := rfl
@[simp] theorem Arch.wrW_loops (a : Arch) (n : Nat) (v : Latch) : (a.wrW n v).loops = a.loops := rfl
@[simp] theorem Arch.wrW_idle (a : Arch) (n : Nat) (v : Latch) : (a.wrW n v).idle = a.idle := rfl
@[simp] theorem Arch.wrW_dueRegs (a : Arch) (n : Nat) (v : Latch) : (a.wrW n v).dueRegs = a.dueRegs := rfl
@[simp] theorem Arch.wrW_seqDue (a : Arch) (n : Nat) (v : Latch) : (a.wrW n v).seqDue = a.seqDue := rfl
@[simp] theorem Arch.wrW_dueLatches (a : Arch) (n : Nat) (v : Latch) : (a.wrW n v).dueLatches = a.dueLatches := rfl
@[simp] theorem Arch.wrW_groups (a : Arch) (n : Nat) (v : Latch) : (a.wrW n v).groups = a.groups := rfl
@[simp] theorem Arch.wrW_tick (a : Arch) (n : Nat) (v : Latch) : (a.wrW n v).tick = a.tick := rfl
@[simp] theorem Arch.wrW_pc (a : Arch) (n : Nat) (v : Latch) : (a.wrW n v).pc = a.pc := rfl
@[simp] theorem Arch.wrW_f (a : Arch) (n : Nat) (v : Latch) : (a.wrW n v).f = a.f := rfl
@[simp] theorem Arch.wrW_tb (a : Arch) (n : Nat) (v : Latch) : (a.wrW n v).tb = a.tb := rfl
@[simp] theorem Arch.wrW_nextId (a : Arch) (n : Nat) (v : Latch) : (a.wrW n v).nextId = a.nextId := rfl
@[simp] theorem Arch.wrW_q (a : Arch) (n : Nat) (v : Latch) : (a.wrW n v).q = a.q := rfl
@[simp] theorem Arch.wrW_gather (a : Arch) (n : Nat) (v : Latch) : (a.wrW n v).gather = a.gather := rfl

@[simp] theorem Arch.wrH_s (a : Arch) (n : Nat) (v : BitVec 256) : (a.wrH n v).s = a.s := rfl
@[simp] theorem Arch.wrH_p (a : Arch) (n : Nat) (v : BitVec 256) : (a.wrH n v).p = a.p := rfl
@[simp] theorem Arch.wrH_k (a : Arch) (n : Nat) (v : BitVec 256) : (a.wrH n v).k = a.k := rfl
@[simp] theorem Arch.wrH_v (a : Arch) (n : Nat) (v : BitVec 256) : (a.wrH n v).v = a.v := rfl
@[simp] theorem Arch.wrH_w (a : Arch) (n : Nat) (v : BitVec 256) : (a.wrH n v).w = a.w := rfl
@[simp] theorem Arch.wrH_bankC (a : Arch) (n : Nat) (v : BitVec 256) : (a.wrH n v).bankC = a.bankC := rfl
@[simp] theorem Arch.wrH_mAct (a : Arch) (n : Nat) (v : BitVec 256) : (a.wrH n v).mAct = a.mAct := rfl
@[simp] theorem Arch.wrH_mSh (a : Arch) (n : Nat) (v : BitVec 256) : (a.wrH n v).mSh = a.mSh := rfl
@[simp] theorem Arch.wrH_dAct (a : Arch) (n : Nat) (v : BitVec 256) : (a.wrH n v).dAct = a.dAct := rfl
@[simp] theorem Arch.wrH_dSh (a : Arch) (n : Nat) (v : BitVec 256) : (a.wrH n v).dSh = a.dSh := rfl
@[simp] theorem Arch.wrH_loops (a : Arch) (n : Nat) (v : BitVec 256) : (a.wrH n v).loops = a.loops := rfl
@[simp] theorem Arch.wrH_idle (a : Arch) (n : Nat) (v : BitVec 256) : (a.wrH n v).idle = a.idle := rfl
@[simp] theorem Arch.wrH_dueRegs (a : Arch) (n : Nat) (v : BitVec 256) : (a.wrH n v).dueRegs = a.dueRegs := rfl
@[simp] theorem Arch.wrH_seqDue (a : Arch) (n : Nat) (v : BitVec 256) : (a.wrH n v).seqDue = a.seqDue := rfl
@[simp] theorem Arch.wrH_dueLatches (a : Arch) (n : Nat) (v : BitVec 256) : (a.wrH n v).dueLatches = a.dueLatches := rfl
@[simp] theorem Arch.wrH_groups (a : Arch) (n : Nat) (v : BitVec 256) : (a.wrH n v).groups = a.groups := rfl
@[simp] theorem Arch.wrH_tick (a : Arch) (n : Nat) (v : BitVec 256) : (a.wrH n v).tick = a.tick := rfl
@[simp] theorem Arch.wrH_pc (a : Arch) (n : Nat) (v : BitVec 256) : (a.wrH n v).pc = a.pc := rfl
@[simp] theorem Arch.wrH_f (a : Arch) (n : Nat) (v : BitVec 256) : (a.wrH n v).f = a.f := rfl
@[simp] theorem Arch.wrH_tb (a : Arch) (n : Nat) (v : BitVec 256) : (a.wrH n v).tb = a.tb := rfl
@[simp] theorem Arch.wrH_nextId (a : Arch) (n : Nat) (v : BitVec 256) : (a.wrH n v).nextId = a.nextId := rfl
@[simp] theorem Arch.wrH_q (a : Arch) (n : Nat) (v : BitVec 256) : (a.wrH n v).q = a.q := rfl
@[simp] theorem Arch.wrH_gather (a : Arch) (n : Nat) (v : BitVec 256) : (a.wrH n v).gather = a.gather := rfl

@[simp] theorem Arch.wrF_s (a : Arch) (n : Nat) (v : BitVec 16) : (a.wrF n v).s = a.s := rfl
@[simp] theorem Arch.wrF_p (a : Arch) (n : Nat) (v : BitVec 16) : (a.wrF n v).p = a.p := rfl
@[simp] theorem Arch.wrF_k (a : Arch) (n : Nat) (v : BitVec 16) : (a.wrF n v).k = a.k := rfl
@[simp] theorem Arch.wrF_v (a : Arch) (n : Nat) (v : BitVec 16) : (a.wrF n v).v = a.v := rfl
@[simp] theorem Arch.wrF_w (a : Arch) (n : Nat) (v : BitVec 16) : (a.wrF n v).w = a.w := rfl
@[simp] theorem Arch.wrF_h (a : Arch) (n : Nat) (v : BitVec 16) : (a.wrF n v).h = a.h := rfl
@[simp] theorem Arch.wrF_bankC (a : Arch) (n : Nat) (v : BitVec 16) : (a.wrF n v).bankC = a.bankC := rfl
@[simp] theorem Arch.wrF_mAct (a : Arch) (n : Nat) (v : BitVec 16) : (a.wrF n v).mAct = a.mAct := rfl
@[simp] theorem Arch.wrF_mSh (a : Arch) (n : Nat) (v : BitVec 16) : (a.wrF n v).mSh = a.mSh := rfl
@[simp] theorem Arch.wrF_dAct (a : Arch) (n : Nat) (v : BitVec 16) : (a.wrF n v).dAct = a.dAct := rfl
@[simp] theorem Arch.wrF_dSh (a : Arch) (n : Nat) (v : BitVec 16) : (a.wrF n v).dSh = a.dSh := rfl
@[simp] theorem Arch.wrF_loops (a : Arch) (n : Nat) (v : BitVec 16) : (a.wrF n v).loops = a.loops := rfl
@[simp] theorem Arch.wrF_idle (a : Arch) (n : Nat) (v : BitVec 16) : (a.wrF n v).idle = a.idle := rfl
@[simp] theorem Arch.wrF_dueRegs (a : Arch) (n : Nat) (v : BitVec 16) : (a.wrF n v).dueRegs = a.dueRegs := rfl
@[simp] theorem Arch.wrF_seqDue (a : Arch) (n : Nat) (v : BitVec 16) : (a.wrF n v).seqDue = a.seqDue := rfl
@[simp] theorem Arch.wrF_dueLatches (a : Arch) (n : Nat) (v : BitVec 16) : (a.wrF n v).dueLatches = a.dueLatches := rfl
@[simp] theorem Arch.wrF_groups (a : Arch) (n : Nat) (v : BitVec 16) : (a.wrF n v).groups = a.groups := rfl
@[simp] theorem Arch.wrF_tick (a : Arch) (n : Nat) (v : BitVec 16) : (a.wrF n v).tick = a.tick := rfl
@[simp] theorem Arch.wrF_pc (a : Arch) (n : Nat) (v : BitVec 16) : (a.wrF n v).pc = a.pc := rfl
@[simp] theorem Arch.wrF_tb (a : Arch) (n : Nat) (v : BitVec 16) : (a.wrF n v).tb = a.tb := rfl
@[simp] theorem Arch.wrF_nextId (a : Arch) (n : Nat) (v : BitVec 16) : (a.wrF n v).nextId = a.nextId := rfl
@[simp] theorem Arch.wrF_q (a : Arch) (n : Nat) (v : BitVec 16) : (a.wrF n v).q = a.q := rfl
@[simp] theorem Arch.wrF_gather (a : Arch) (n : Nat) (v : BitVec 16) : (a.wrF n v).gather = a.gather := rfl

@[simp] theorem Arch.wrTb_s (a : Arch) (n : Nat) (v : BitVec 27) : (a.wrTb n v).s = a.s := rfl
@[simp] theorem Arch.wrTb_p (a : Arch) (n : Nat) (v : BitVec 27) : (a.wrTb n v).p = a.p := rfl
@[simp] theorem Arch.wrTb_k (a : Arch) (n : Nat) (v : BitVec 27) : (a.wrTb n v).k = a.k := rfl
@[simp] theorem Arch.wrTb_v (a : Arch) (n : Nat) (v : BitVec 27) : (a.wrTb n v).v = a.v := rfl
@[simp] theorem Arch.wrTb_w (a : Arch) (n : Nat) (v : BitVec 27) : (a.wrTb n v).w = a.w := rfl
@[simp] theorem Arch.wrTb_h (a : Arch) (n : Nat) (v : BitVec 27) : (a.wrTb n v).h = a.h := rfl
@[simp] theorem Arch.wrTb_bankC (a : Arch) (n : Nat) (v : BitVec 27) : (a.wrTb n v).bankC = a.bankC := rfl
@[simp] theorem Arch.wrTb_mAct (a : Arch) (n : Nat) (v : BitVec 27) : (a.wrTb n v).mAct = a.mAct := rfl
@[simp] theorem Arch.wrTb_mSh (a : Arch) (n : Nat) (v : BitVec 27) : (a.wrTb n v).mSh = a.mSh := rfl
@[simp] theorem Arch.wrTb_dAct (a : Arch) (n : Nat) (v : BitVec 27) : (a.wrTb n v).dAct = a.dAct := rfl
@[simp] theorem Arch.wrTb_dSh (a : Arch) (n : Nat) (v : BitVec 27) : (a.wrTb n v).dSh = a.dSh := rfl
@[simp] theorem Arch.wrTb_loops (a : Arch) (n : Nat) (v : BitVec 27) : (a.wrTb n v).loops = a.loops := rfl
@[simp] theorem Arch.wrTb_idle (a : Arch) (n : Nat) (v : BitVec 27) : (a.wrTb n v).idle = a.idle := rfl
@[simp] theorem Arch.wrTb_dueRegs (a : Arch) (n : Nat) (v : BitVec 27) : (a.wrTb n v).dueRegs = a.dueRegs := rfl
@[simp] theorem Arch.wrTb_seqDue (a : Arch) (n : Nat) (v : BitVec 27) : (a.wrTb n v).seqDue = a.seqDue := rfl
@[simp] theorem Arch.wrTb_dueLatches (a : Arch) (n : Nat) (v : BitVec 27) : (a.wrTb n v).dueLatches = a.dueLatches := rfl
@[simp] theorem Arch.wrTb_groups (a : Arch) (n : Nat) (v : BitVec 27) : (a.wrTb n v).groups = a.groups := rfl
@[simp] theorem Arch.wrTb_tick (a : Arch) (n : Nat) (v : BitVec 27) : (a.wrTb n v).tick = a.tick := rfl
@[simp] theorem Arch.wrTb_pc (a : Arch) (n : Nat) (v : BitVec 27) : (a.wrTb n v).pc = a.pc := rfl
@[simp] theorem Arch.wrTb_f (a : Arch) (n : Nat) (v : BitVec 27) : (a.wrTb n v).f = a.f := rfl
@[simp] theorem Arch.wrTb_nextId (a : Arch) (n : Nat) (v : BitVec 27) : (a.wrTb n v).nextId = a.nextId := rfl
@[simp] theorem Arch.wrTb_q (a : Arch) (n : Nat) (v : BitVec 27) : (a.wrTb n v).q = a.q := rfl
@[simp] theorem Arch.wrTb_gather (a : Arch) (n : Nat) (v : BitVec 27) : (a.wrTb n v).gather = a.gather := rfl

@[simp] theorem Arch.wrQ_s (a : Arch) (n : Nat) (v : Option Binding) : (a.wrQ n v).s = a.s := rfl
@[simp] theorem Arch.wrQ_p (a : Arch) (n : Nat) (v : Option Binding) : (a.wrQ n v).p = a.p := rfl
@[simp] theorem Arch.wrQ_k (a : Arch) (n : Nat) (v : Option Binding) : (a.wrQ n v).k = a.k := rfl
@[simp] theorem Arch.wrQ_v (a : Arch) (n : Nat) (v : Option Binding) : (a.wrQ n v).v = a.v := rfl
@[simp] theorem Arch.wrQ_w (a : Arch) (n : Nat) (v : Option Binding) : (a.wrQ n v).w = a.w := rfl
@[simp] theorem Arch.wrQ_h (a : Arch) (n : Nat) (v : Option Binding) : (a.wrQ n v).h = a.h := rfl
@[simp] theorem Arch.wrQ_bankC (a : Arch) (n : Nat) (v : Option Binding) : (a.wrQ n v).bankC = a.bankC := rfl
@[simp] theorem Arch.wrQ_mAct (a : Arch) (n : Nat) (v : Option Binding) : (a.wrQ n v).mAct = a.mAct := rfl
@[simp] theorem Arch.wrQ_mSh (a : Arch) (n : Nat) (v : Option Binding) : (a.wrQ n v).mSh = a.mSh := rfl
@[simp] theorem Arch.wrQ_dAct (a : Arch) (n : Nat) (v : Option Binding) : (a.wrQ n v).dAct = a.dAct := rfl
@[simp] theorem Arch.wrQ_dSh (a : Arch) (n : Nat) (v : Option Binding) : (a.wrQ n v).dSh = a.dSh := rfl
@[simp] theorem Arch.wrQ_loops (a : Arch) (n : Nat) (v : Option Binding) : (a.wrQ n v).loops = a.loops := rfl
@[simp] theorem Arch.wrQ_idle (a : Arch) (n : Nat) (v : Option Binding) : (a.wrQ n v).idle = a.idle := rfl
@[simp] theorem Arch.wrQ_dueRegs (a : Arch) (n : Nat) (v : Option Binding) : (a.wrQ n v).dueRegs = a.dueRegs := rfl
@[simp] theorem Arch.wrQ_seqDue (a : Arch) (n : Nat) (v : Option Binding) : (a.wrQ n v).seqDue = a.seqDue := rfl
@[simp] theorem Arch.wrQ_dueLatches (a : Arch) (n : Nat) (v : Option Binding) : (a.wrQ n v).dueLatches = a.dueLatches := rfl
@[simp] theorem Arch.wrQ_groups (a : Arch) (n : Nat) (v : Option Binding) : (a.wrQ n v).groups = a.groups := rfl
@[simp] theorem Arch.wrQ_tick (a : Arch) (n : Nat) (v : Option Binding) : (a.wrQ n v).tick = a.tick := rfl
@[simp] theorem Arch.wrQ_pc (a : Arch) (n : Nat) (v : Option Binding) : (a.wrQ n v).pc = a.pc := rfl
@[simp] theorem Arch.wrQ_f (a : Arch) (n : Nat) (v : Option Binding) : (a.wrQ n v).f = a.f := rfl
@[simp] theorem Arch.wrQ_tb (a : Arch) (n : Nat) (v : Option Binding) : (a.wrQ n v).tb = a.tb := rfl
@[simp] theorem Arch.wrQ_nextId (a : Arch) (n : Nat) (v : Option Binding) : (a.wrQ n v).nextId = a.nextId := rfl
@[simp] theorem Arch.wrQ_gather (a : Arch) (n : Nat) (v : Option Binding) : (a.wrQ n v).gather = a.gather := rfl

@[simp] theorem Arch.wrLoop_s (a : Arch) (n : Nat) (v : Loop) : (a.wrLoop n v).s = a.s := rfl
@[simp] theorem Arch.wrLoop_p (a : Arch) (n : Nat) (v : Loop) : (a.wrLoop n v).p = a.p := rfl
@[simp] theorem Arch.wrLoop_k (a : Arch) (n : Nat) (v : Loop) : (a.wrLoop n v).k = a.k := rfl
@[simp] theorem Arch.wrLoop_v (a : Arch) (n : Nat) (v : Loop) : (a.wrLoop n v).v = a.v := rfl
@[simp] theorem Arch.wrLoop_w (a : Arch) (n : Nat) (v : Loop) : (a.wrLoop n v).w = a.w := rfl
@[simp] theorem Arch.wrLoop_h (a : Arch) (n : Nat) (v : Loop) : (a.wrLoop n v).h = a.h := rfl
@[simp] theorem Arch.wrLoop_bankC (a : Arch) (n : Nat) (v : Loop) : (a.wrLoop n v).bankC = a.bankC := rfl
@[simp] theorem Arch.wrLoop_mAct (a : Arch) (n : Nat) (v : Loop) : (a.wrLoop n v).mAct = a.mAct := rfl
@[simp] theorem Arch.wrLoop_mSh (a : Arch) (n : Nat) (v : Loop) : (a.wrLoop n v).mSh = a.mSh := rfl
@[simp] theorem Arch.wrLoop_dAct (a : Arch) (n : Nat) (v : Loop) : (a.wrLoop n v).dAct = a.dAct := rfl
@[simp] theorem Arch.wrLoop_dSh (a : Arch) (n : Nat) (v : Loop) : (a.wrLoop n v).dSh = a.dSh := rfl
@[simp] theorem Arch.wrLoop_idle (a : Arch) (n : Nat) (v : Loop) : (a.wrLoop n v).idle = a.idle := rfl
@[simp] theorem Arch.wrLoop_dueRegs (a : Arch) (n : Nat) (v : Loop) : (a.wrLoop n v).dueRegs = a.dueRegs := rfl
@[simp] theorem Arch.wrLoop_seqDue (a : Arch) (n : Nat) (v : Loop) : (a.wrLoop n v).seqDue = a.seqDue := rfl
@[simp] theorem Arch.wrLoop_dueLatches (a : Arch) (n : Nat) (v : Loop) : (a.wrLoop n v).dueLatches = a.dueLatches := rfl
@[simp] theorem Arch.wrLoop_groups (a : Arch) (n : Nat) (v : Loop) : (a.wrLoop n v).groups = a.groups := rfl
@[simp] theorem Arch.wrLoop_tick (a : Arch) (n : Nat) (v : Loop) : (a.wrLoop n v).tick = a.tick := rfl
@[simp] theorem Arch.wrLoop_pc (a : Arch) (n : Nat) (v : Loop) : (a.wrLoop n v).pc = a.pc := rfl
@[simp] theorem Arch.wrLoop_f (a : Arch) (n : Nat) (v : Loop) : (a.wrLoop n v).f = a.f := rfl
@[simp] theorem Arch.wrLoop_tb (a : Arch) (n : Nat) (v : Loop) : (a.wrLoop n v).tb = a.tb := rfl
@[simp] theorem Arch.wrLoop_nextId (a : Arch) (n : Nat) (v : Loop) : (a.wrLoop n v).nextId = a.nextId := rfl
@[simp] theorem Arch.wrLoop_q (a : Arch) (n : Nat) (v : Loop) : (a.wrLoop n v).q = a.q := rfl
@[simp] theorem Arch.wrLoop_gather (a : Arch) (n : Nat) (v : Loop) : (a.wrLoop n v).gather = a.gather := rfl

@[simp] theorem Arch.wrId_s (a : Arch) (n : Nat) (v : BitVec 32) : (a.wrId n v).s = a.s := rfl
@[simp] theorem Arch.wrId_p (a : Arch) (n : Nat) (v : BitVec 32) : (a.wrId n v).p = a.p := rfl
@[simp] theorem Arch.wrId_k (a : Arch) (n : Nat) (v : BitVec 32) : (a.wrId n v).k = a.k := rfl
@[simp] theorem Arch.wrId_v (a : Arch) (n : Nat) (v : BitVec 32) : (a.wrId n v).v = a.v := rfl
@[simp] theorem Arch.wrId_w (a : Arch) (n : Nat) (v : BitVec 32) : (a.wrId n v).w = a.w := rfl
@[simp] theorem Arch.wrId_h (a : Arch) (n : Nat) (v : BitVec 32) : (a.wrId n v).h = a.h := rfl
@[simp] theorem Arch.wrId_bankC (a : Arch) (n : Nat) (v : BitVec 32) : (a.wrId n v).bankC = a.bankC := rfl
@[simp] theorem Arch.wrId_mAct (a : Arch) (n : Nat) (v : BitVec 32) : (a.wrId n v).mAct = a.mAct := rfl
@[simp] theorem Arch.wrId_mSh (a : Arch) (n : Nat) (v : BitVec 32) : (a.wrId n v).mSh = a.mSh := rfl
@[simp] theorem Arch.wrId_dAct (a : Arch) (n : Nat) (v : BitVec 32) : (a.wrId n v).dAct = a.dAct := rfl
@[simp] theorem Arch.wrId_dSh (a : Arch) (n : Nat) (v : BitVec 32) : (a.wrId n v).dSh = a.dSh := rfl
@[simp] theorem Arch.wrId_loops (a : Arch) (n : Nat) (v : BitVec 32) : (a.wrId n v).loops = a.loops := rfl
@[simp] theorem Arch.wrId_idle (a : Arch) (n : Nat) (v : BitVec 32) : (a.wrId n v).idle = a.idle := rfl
@[simp] theorem Arch.wrId_dueRegs (a : Arch) (n : Nat) (v : BitVec 32) : (a.wrId n v).dueRegs = a.dueRegs := rfl
@[simp] theorem Arch.wrId_seqDue (a : Arch) (n : Nat) (v : BitVec 32) : (a.wrId n v).seqDue = a.seqDue := rfl
@[simp] theorem Arch.wrId_dueLatches (a : Arch) (n : Nat) (v : BitVec 32) : (a.wrId n v).dueLatches = a.dueLatches := rfl
@[simp] theorem Arch.wrId_groups (a : Arch) (n : Nat) (v : BitVec 32) : (a.wrId n v).groups = a.groups := rfl
@[simp] theorem Arch.wrId_tick (a : Arch) (n : Nat) (v : BitVec 32) : (a.wrId n v).tick = a.tick := rfl
@[simp] theorem Arch.wrId_pc (a : Arch) (n : Nat) (v : BitVec 32) : (a.wrId n v).pc = a.pc := rfl
@[simp] theorem Arch.wrId_f (a : Arch) (n : Nat) (v : BitVec 32) : (a.wrId n v).f = a.f := rfl
@[simp] theorem Arch.wrId_tb (a : Arch) (n : Nat) (v : BitVec 32) : (a.wrId n v).tb = a.tb := rfl
@[simp] theorem Arch.wrId_q (a : Arch) (n : Nat) (v : BitVec 32) : (a.wrId n v).q = a.q := rfl
@[simp] theorem Arch.wrId_gather (a : Arch) (n : Nat) (v : BitVec 32) : (a.wrId n v).gather = a.gather := rfl

@[simp] theorem Arch.wrG_s (a : Arch) (n : Nat) (v : Option Gather) : (a.wrG n v).s = a.s := rfl
@[simp] theorem Arch.wrG_p (a : Arch) (n : Nat) (v : Option Gather) : (a.wrG n v).p = a.p := rfl
@[simp] theorem Arch.wrG_k (a : Arch) (n : Nat) (v : Option Gather) : (a.wrG n v).k = a.k := rfl
@[simp] theorem Arch.wrG_v (a : Arch) (n : Nat) (v : Option Gather) : (a.wrG n v).v = a.v := rfl
@[simp] theorem Arch.wrG_w (a : Arch) (n : Nat) (v : Option Gather) : (a.wrG n v).w = a.w := rfl
@[simp] theorem Arch.wrG_h (a : Arch) (n : Nat) (v : Option Gather) : (a.wrG n v).h = a.h := rfl
@[simp] theorem Arch.wrG_bankC (a : Arch) (n : Nat) (v : Option Gather) : (a.wrG n v).bankC = a.bankC := rfl
@[simp] theorem Arch.wrG_mAct (a : Arch) (n : Nat) (v : Option Gather) : (a.wrG n v).mAct = a.mAct := rfl
@[simp] theorem Arch.wrG_mSh (a : Arch) (n : Nat) (v : Option Gather) : (a.wrG n v).mSh = a.mSh := rfl
@[simp] theorem Arch.wrG_dAct (a : Arch) (n : Nat) (v : Option Gather) : (a.wrG n v).dAct = a.dAct := rfl
@[simp] theorem Arch.wrG_dSh (a : Arch) (n : Nat) (v : Option Gather) : (a.wrG n v).dSh = a.dSh := rfl
@[simp] theorem Arch.wrG_loops (a : Arch) (n : Nat) (v : Option Gather) : (a.wrG n v).loops = a.loops := rfl
@[simp] theorem Arch.wrG_idle (a : Arch) (n : Nat) (v : Option Gather) : (a.wrG n v).idle = a.idle := rfl
@[simp] theorem Arch.wrG_dueRegs (a : Arch) (n : Nat) (v : Option Gather) : (a.wrG n v).dueRegs = a.dueRegs := rfl
@[simp] theorem Arch.wrG_seqDue (a : Arch) (n : Nat) (v : Option Gather) : (a.wrG n v).seqDue = a.seqDue := rfl
@[simp] theorem Arch.wrG_dueLatches (a : Arch) (n : Nat) (v : Option Gather) : (a.wrG n v).dueLatches = a.dueLatches := rfl
@[simp] theorem Arch.wrG_groups (a : Arch) (n : Nat) (v : Option Gather) : (a.wrG n v).groups = a.groups := rfl
@[simp] theorem Arch.wrG_tick (a : Arch) (n : Nat) (v : Option Gather) : (a.wrG n v).tick = a.tick := rfl
@[simp] theorem Arch.wrG_pc (a : Arch) (n : Nat) (v : Option Gather) : (a.wrG n v).pc = a.pc := rfl
@[simp] theorem Arch.wrG_f (a : Arch) (n : Nat) (v : Option Gather) : (a.wrG n v).f = a.f := rfl
@[simp] theorem Arch.wrG_tb (a : Arch) (n : Nat) (v : Option Gather) : (a.wrG n v).tb = a.tb := rfl
@[simp] theorem Arch.wrG_nextId (a : Arch) (n : Nat) (v : Option Gather) : (a.wrG n v).nextId = a.nextId := rfl
@[simp] theorem Arch.wrG_q (a : Arch) (n : Nat) (v : Option Gather) : (a.wrG n v).q = a.q := rfl

@[simp] theorem Arch.wrS_p (a : Arch) (n : Nat) (v : Word) : (a.wrS n v).p = a.p := by
  unfold Arch.wrS; split <;> rfl
@[simp] theorem Arch.wrS_k (a : Arch) (n : Nat) (v : Word) : (a.wrS n v).k = a.k := by
  unfold Arch.wrS; split <;> rfl
@[simp] theorem Arch.wrS_v (a : Arch) (n : Nat) (v : Word) : (a.wrS n v).v = a.v := by
  unfold Arch.wrS; split <;> rfl
@[simp] theorem Arch.wrS_w (a : Arch) (n : Nat) (v : Word) : (a.wrS n v).w = a.w := by
  unfold Arch.wrS; split <;> rfl
@[simp] theorem Arch.wrS_h (a : Arch) (n : Nat) (v : Word) : (a.wrS n v).h = a.h := by
  unfold Arch.wrS; split <;> rfl
@[simp] theorem Arch.wrS_bankC (a : Arch) (n : Nat) (v : Word) : (a.wrS n v).bankC = a.bankC := by
  unfold Arch.wrS; split <;> rfl
@[simp] theorem Arch.wrS_mAct (a : Arch) (n : Nat) (v : Word) : (a.wrS n v).mAct = a.mAct := by
  unfold Arch.wrS; split <;> rfl
@[simp] theorem Arch.wrS_mSh (a : Arch) (n : Nat) (v : Word) : (a.wrS n v).mSh = a.mSh := by
  unfold Arch.wrS; split <;> rfl
@[simp] theorem Arch.wrS_dAct (a : Arch) (n : Nat) (v : Word) : (a.wrS n v).dAct = a.dAct := by
  unfold Arch.wrS; split <;> rfl
@[simp] theorem Arch.wrS_dSh (a : Arch) (n : Nat) (v : Word) : (a.wrS n v).dSh = a.dSh := by
  unfold Arch.wrS; split <;> rfl
@[simp] theorem Arch.wrS_loops (a : Arch) (n : Nat) (v : Word) : (a.wrS n v).loops = a.loops := by
  unfold Arch.wrS; split <;> rfl
@[simp] theorem Arch.wrS_idle (a : Arch) (n : Nat) (v : Word) : (a.wrS n v).idle = a.idle := by
  unfold Arch.wrS; split <;> rfl
@[simp] theorem Arch.wrS_dueRegs (a : Arch) (n : Nat) (v : Word) : (a.wrS n v).dueRegs = a.dueRegs := by
  unfold Arch.wrS; split <;> rfl
@[simp] theorem Arch.wrS_seqDue (a : Arch) (n : Nat) (v : Word) : (a.wrS n v).seqDue = a.seqDue := by
  unfold Arch.wrS; split <;> rfl
@[simp] theorem Arch.wrS_dueLatches (a : Arch) (n : Nat) (v : Word) : (a.wrS n v).dueLatches = a.dueLatches := by
  unfold Arch.wrS; split <;> rfl
@[simp] theorem Arch.wrS_groups (a : Arch) (n : Nat) (v : Word) : (a.wrS n v).groups = a.groups := by
  unfold Arch.wrS; split <;> rfl
@[simp] theorem Arch.wrS_tick (a : Arch) (n : Nat) (v : Word) : (a.wrS n v).tick = a.tick := by
  unfold Arch.wrS; split <;> rfl
@[simp] theorem Arch.wrS_pc (a : Arch) (n : Nat) (v : Word) : (a.wrS n v).pc = a.pc := by
  unfold Arch.wrS; split <;> rfl
@[simp] theorem Arch.wrS_f (a : Arch) (n : Nat) (v : Word) : (a.wrS n v).f = a.f := by
  unfold Arch.wrS; split <;> rfl
@[simp] theorem Arch.wrS_tb (a : Arch) (n : Nat) (v : Word) : (a.wrS n v).tb = a.tb := by
  unfold Arch.wrS; split <;> rfl
@[simp] theorem Arch.wrS_nextId (a : Arch) (n : Nat) (v : Word) : (a.wrS n v).nextId = a.nextId := by
  unfold Arch.wrS; split <;> rfl
@[simp] theorem Arch.wrS_q (a : Arch) (n : Nat) (v : Word) : (a.wrS n v).q = a.q := by
  unfold Arch.wrS; split <;> rfl
@[simp] theorem Arch.wrS_gather (a : Arch) (n : Nat) (v : Word) : (a.wrS n v).gather = a.gather := by
  unfold Arch.wrS; split <;> rfl

@[simp] theorem Arch.wrP_s (a : Arch) (n : Nat) (v : Bool) : (a.wrP n v).s = a.s := by
  unfold Arch.wrP; split <;> rfl
@[simp] theorem Arch.wrP_k (a : Arch) (n : Nat) (v : Bool) : (a.wrP n v).k = a.k := by
  unfold Arch.wrP; split <;> rfl
@[simp] theorem Arch.wrP_v (a : Arch) (n : Nat) (v : Bool) : (a.wrP n v).v = a.v := by
  unfold Arch.wrP; split <;> rfl
@[simp] theorem Arch.wrP_w (a : Arch) (n : Nat) (v : Bool) : (a.wrP n v).w = a.w := by
  unfold Arch.wrP; split <;> rfl
@[simp] theorem Arch.wrP_h (a : Arch) (n : Nat) (v : Bool) : (a.wrP n v).h = a.h := by
  unfold Arch.wrP; split <;> rfl
@[simp] theorem Arch.wrP_bankC (a : Arch) (n : Nat) (v : Bool) : (a.wrP n v).bankC = a.bankC := by
  unfold Arch.wrP; split <;> rfl
@[simp] theorem Arch.wrP_mAct (a : Arch) (n : Nat) (v : Bool) : (a.wrP n v).mAct = a.mAct := by
  unfold Arch.wrP; split <;> rfl
@[simp] theorem Arch.wrP_mSh (a : Arch) (n : Nat) (v : Bool) : (a.wrP n v).mSh = a.mSh := by
  unfold Arch.wrP; split <;> rfl
@[simp] theorem Arch.wrP_dAct (a : Arch) (n : Nat) (v : Bool) : (a.wrP n v).dAct = a.dAct := by
  unfold Arch.wrP; split <;> rfl
@[simp] theorem Arch.wrP_dSh (a : Arch) (n : Nat) (v : Bool) : (a.wrP n v).dSh = a.dSh := by
  unfold Arch.wrP; split <;> rfl
@[simp] theorem Arch.wrP_loops (a : Arch) (n : Nat) (v : Bool) : (a.wrP n v).loops = a.loops := by
  unfold Arch.wrP; split <;> rfl
@[simp] theorem Arch.wrP_idle (a : Arch) (n : Nat) (v : Bool) : (a.wrP n v).idle = a.idle := by
  unfold Arch.wrP; split <;> rfl
@[simp] theorem Arch.wrP_dueRegs (a : Arch) (n : Nat) (v : Bool) : (a.wrP n v).dueRegs = a.dueRegs := by
  unfold Arch.wrP; split <;> rfl
@[simp] theorem Arch.wrP_seqDue (a : Arch) (n : Nat) (v : Bool) : (a.wrP n v).seqDue = a.seqDue := by
  unfold Arch.wrP; split <;> rfl
@[simp] theorem Arch.wrP_dueLatches (a : Arch) (n : Nat) (v : Bool) : (a.wrP n v).dueLatches = a.dueLatches := by
  unfold Arch.wrP; split <;> rfl
@[simp] theorem Arch.wrP_groups (a : Arch) (n : Nat) (v : Bool) : (a.wrP n v).groups = a.groups := by
  unfold Arch.wrP; split <;> rfl
@[simp] theorem Arch.wrP_tick (a : Arch) (n : Nat) (v : Bool) : (a.wrP n v).tick = a.tick := by
  unfold Arch.wrP; split <;> rfl
@[simp] theorem Arch.wrP_pc (a : Arch) (n : Nat) (v : Bool) : (a.wrP n v).pc = a.pc := by
  unfold Arch.wrP; split <;> rfl
@[simp] theorem Arch.wrP_f (a : Arch) (n : Nat) (v : Bool) : (a.wrP n v).f = a.f := by
  unfold Arch.wrP; split <;> rfl
@[simp] theorem Arch.wrP_tb (a : Arch) (n : Nat) (v : Bool) : (a.wrP n v).tb = a.tb := by
  unfold Arch.wrP; split <;> rfl
@[simp] theorem Arch.wrP_nextId (a : Arch) (n : Nat) (v : Bool) : (a.wrP n v).nextId = a.nextId := by
  unfold Arch.wrP; split <;> rfl
@[simp] theorem Arch.wrP_q (a : Arch) (n : Nat) (v : Bool) : (a.wrP n v).q = a.q := by
  unfold Arch.wrP; split <;> rfl
@[simp] theorem Arch.wrP_gather (a : Arch) (n : Nat) (v : Bool) : (a.wrP n v).gather = a.gather := by
  unfold Arch.wrP; split <;> rfl

@[simp] theorem Arch.wrK_s (a : Arch) (n : Nat) (v : Word) : (a.wrK n v).s = a.s := by
  unfold Arch.wrK; split <;> rfl
@[simp] theorem Arch.wrK_p (a : Arch) (n : Nat) (v : Word) : (a.wrK n v).p = a.p := by
  unfold Arch.wrK; split <;> rfl
@[simp] theorem Arch.wrK_v (a : Arch) (n : Nat) (v : Word) : (a.wrK n v).v = a.v := by
  unfold Arch.wrK; split <;> rfl
@[simp] theorem Arch.wrK_w (a : Arch) (n : Nat) (v : Word) : (a.wrK n v).w = a.w := by
  unfold Arch.wrK; split <;> rfl
@[simp] theorem Arch.wrK_h (a : Arch) (n : Nat) (v : Word) : (a.wrK n v).h = a.h := by
  unfold Arch.wrK; split <;> rfl
@[simp] theorem Arch.wrK_bankC (a : Arch) (n : Nat) (v : Word) : (a.wrK n v).bankC = a.bankC := by
  unfold Arch.wrK; split <;> rfl
@[simp] theorem Arch.wrK_mAct (a : Arch) (n : Nat) (v : Word) : (a.wrK n v).mAct = a.mAct := by
  unfold Arch.wrK; split <;> rfl
@[simp] theorem Arch.wrK_mSh (a : Arch) (n : Nat) (v : Word) : (a.wrK n v).mSh = a.mSh := by
  unfold Arch.wrK; split <;> rfl
@[simp] theorem Arch.wrK_dAct (a : Arch) (n : Nat) (v : Word) : (a.wrK n v).dAct = a.dAct := by
  unfold Arch.wrK; split <;> rfl
@[simp] theorem Arch.wrK_dSh (a : Arch) (n : Nat) (v : Word) : (a.wrK n v).dSh = a.dSh := by
  unfold Arch.wrK; split <;> rfl
@[simp] theorem Arch.wrK_loops (a : Arch) (n : Nat) (v : Word) : (a.wrK n v).loops = a.loops := by
  unfold Arch.wrK; split <;> rfl
@[simp] theorem Arch.wrK_idle (a : Arch) (n : Nat) (v : Word) : (a.wrK n v).idle = a.idle := by
  unfold Arch.wrK; split <;> rfl
@[simp] theorem Arch.wrK_dueRegs (a : Arch) (n : Nat) (v : Word) : (a.wrK n v).dueRegs = a.dueRegs := by
  unfold Arch.wrK; split <;> rfl
@[simp] theorem Arch.wrK_seqDue (a : Arch) (n : Nat) (v : Word) : (a.wrK n v).seqDue = a.seqDue := by
  unfold Arch.wrK; split <;> rfl
@[simp] theorem Arch.wrK_dueLatches (a : Arch) (n : Nat) (v : Word) : (a.wrK n v).dueLatches = a.dueLatches := by
  unfold Arch.wrK; split <;> rfl
@[simp] theorem Arch.wrK_groups (a : Arch) (n : Nat) (v : Word) : (a.wrK n v).groups = a.groups := by
  unfold Arch.wrK; split <;> rfl
@[simp] theorem Arch.wrK_tick (a : Arch) (n : Nat) (v : Word) : (a.wrK n v).tick = a.tick := by
  unfold Arch.wrK; split <;> rfl
@[simp] theorem Arch.wrK_pc (a : Arch) (n : Nat) (v : Word) : (a.wrK n v).pc = a.pc := by
  unfold Arch.wrK; split <;> rfl
@[simp] theorem Arch.wrK_f (a : Arch) (n : Nat) (v : Word) : (a.wrK n v).f = a.f := by
  unfold Arch.wrK; split <;> rfl
@[simp] theorem Arch.wrK_tb (a : Arch) (n : Nat) (v : Word) : (a.wrK n v).tb = a.tb := by
  unfold Arch.wrK; split <;> rfl
@[simp] theorem Arch.wrK_nextId (a : Arch) (n : Nat) (v : Word) : (a.wrK n v).nextId = a.nextId := by
  unfold Arch.wrK; split <;> rfl
@[simp] theorem Arch.wrK_q (a : Arch) (n : Nat) (v : Word) : (a.wrK n v).q = a.q := by
  unfold Arch.wrK; split <;> rfl
@[simp] theorem Arch.wrK_gather (a : Arch) (n : Nat) (v : Word) : (a.wrK n v).gather = a.gather := by
  unfold Arch.wrK; split <;> rfl

/-! What the named parts hold after an update. -/

@[simp] theorem Core.ctx_setCtx_same (c : Core) (x : Nat) (v : Ctx) : (c.setCtx x v).ctx x = v := by
  unfold Core.ctx Core.setCtx; split <;> rfl

theorem Core.ctx_setCtx_zero_one (c : Core) (v : Ctx) : (c.setCtx 0 v).ctx 1 = c.ctx 1 := rfl
theorem Core.ctx_setCtx_one_zero (c : Core) (v : Ctx) : (c.setCtx 1 v).ctx 0 = c.ctx 0 := rfl

@[simp] theorem State.core_setCore_same (s : State) (c : Nat) (v : Core) : (s.setCore c v).core c = v :=
  Tab.get_set_same _ _ _ _
theorem State.core_setCore_other (s : State) {c b : Nat} (v : Core) (h : b ≠ c) : (s.setCore c v).core b = s.core b :=
  Tab.get_set_other _ _ h _
@[simp] theorem State.cluster_setCluster_same (s : State) (c : Nat) (v : Cluster) : (s.setCluster c v).cluster c = v :=
  Tab.get_set_same _ _ _ _
theorem State.cluster_setCluster_other (s : State) {c b : Nat} (v : Cluster) (h : b ≠ c) :
    (s.setCluster c v).cluster b = s.cluster b :=
  Tab.get_set_other _ _ h _
@[simp] theorem State.job_setJob_same (s : State) (j : Nat) (v : Option Job) : (s.setJob j v).job j = v :=
  Tab.get_set_same _ _ _ _
theorem State.job_setJob_other (s : State) {j b : Nat} (v : Option Job) (h : b ≠ j) : (s.setJob j v).job b = s.job b :=
  Tab.get_set_other _ _ h _
@[simp] theorem State.session_setSession_same (s : State) (n : Nat) (v : Session) : (s.setSession n v).session n = v :=
  Tab.get_set_same _ _ _ _
@[simp] theorem State.link_setLink_same (s : State) (l : Nat) (v : Link) : (s.setLink l v).link l = v :=
  Tab.get_set_same _ _ _ _
@[simp] theorem State.ctx_setCtx_same (s : State) (c x : Nat) (v : Ctx) : (s.setCtx c x v).ctx c x = v := by
  simp [State.ctx, State.setCtx]
@[simp] theorem State.me_setMe (s : State) (v : Ctx) : (s.setMe v).me = v := by simp [State.me, State.setMe]
@[simp] theorem State.arch_setArch (s : State) (a : Arch) : (s.setArch a).arch = a := by
  simp [State.arch, State.setArch]
@[simp] theorem State.myCore_setMyCore (s : State) (v : Core) : (s.setMyCore v).myCore = v := by
  simp [State.myCore, State.setMyCore]

/-! Registers of the captured state. -/

/-- s0 keeps reading zero, whatever is written to it (R71, R109). -/
theorem Arch.rdS_zero (a : Arch) : a.rdS 0 = 0 := rfl
theorem Arch.rdS_wrS_same (a : Arch) {n : Nat} (h : n ≠ 0) (v : Word) : (a.wrS n v).rdS n = v := by
  simp [Arch.rdS, Arch.wrS, h, Tab.get_set_same]
theorem Arch.rdS_wrS_other (a : Arch) {n m : Nat} (h : m ≠ n) (v : Word) : (a.wrS n v).rdS m = a.rdS m := by
  by_cases h0 : n = 0
  · simp [Arch.wrS, h0]
  · by_cases hm : m = 0
    · simp [Arch.rdS, hm]
    · simp [Arch.rdS, Arch.wrS, h0, hm, Tab.get_set_other _ _ h]
theorem Arch.rdF_wrF_same (a : Arch) (n : Nat) (v : BitVec 16) : (a.wrF n v).rdF n = v := Tab.get_set_same _ _ _ _
theorem Arch.rdF_wrF_other (a : Arch) {n m : Nat} (h : m ≠ n) (v : BitVec 16) : (a.wrF n v).rdF m = a.rdF m :=
  Tab.get_set_other _ _ h _
theorem Arch.rdV_wrV_same (a : Arch) (n : Nat) (v : Vec) : (a.wrV n v).rdV n = v := Tab.get_set_same _ _ _ _
theorem Arch.rdTb_wrTb_same (a : Arch) (n : Nat) (v : BitVec 27) : (a.wrTb n v).rdTb n = v := Tab.get_set_same _ _ _ _

end Sys2Proof.Machine
end

