-- ==== Sys2Proof/Laws/Ops.lean ====
section
/-! SUPPORT. What each shared operation of a context does, said once: results that find room, accesses that are fit, reads
of memory without errors. -/
namespace Sys2Proof
open Machine

/-! Results that find room. -/

theorem pushResult_of_room (s : State) (d : Dest) (v lat own : Nat) (h : Room s 1) :
    pushResult s d v lat own none =
      withDue s [⟨d, BitVec.ofNat 2048 v, lat, s.myCore.cycle + own, false, none, s.arch.pc.toNat⟩] := by
  have h' : ¬ 64 ≤ s.arch.dueRegs.length := by unfold Room at h; omega
  simp only [pushResult, h', if_false]
  rfl

theorem push_of_room (s : State) (d : Dest) (v cls : Nat) (h : Room s 1) : push s d v cls = withResult s d v cls :=
  pushResult_of_room s d v _ _ h

theorem pushScalar_of_room (s : State) (n v : Nat) (h : Room s 1) : pushScalar s n v = withResult s (.scalar n) v 0 :=
  push_of_room s _ _ _ h

theorem pushPair_of_room (s : State) (n : Nat) (c : Bool) (h : Room s 1) :
    pushPair s n c = withResult s (.pair n) (if c then 1 else 2) 0 := push_of_room s _ _ _ h

/-- What a result leaves as it was. -/
@[simp] theorem withDue_cur (s : State) (l : List DueReg) : (withDue s l).cur = s.cur := rfl
@[simp] theorem withResult_cur (s : State) (d : Dest) (v cls : Nat) : (withResult s d v cls).cur = s.cur := rfl
@[simp] theorem withResult_mem (s : State) (d : Dest) (v cls : Nat) : (withResult s d v cls).mem = s.mem := rfl
@[simp] theorem withResult_errs (s : State) (d : Dest) (v cls : Nat) : (withResult s d v cls).errs = s.errs := rfl
@[simp] theorem withResult_arch (s : State) (d : Dest) (v cls : Nat) :
    (withResult s d v cls).arch = { s.arch with dueRegs := s.arch.dueRegs ++ [entryOf s d v cls] } := by
  simp [withResult, withDue]

theorem State.me_setArch (s : State) (a : Arch) : (s.setArch a).me = { s.me with arch := a } := by
  simp [State.setArch]

@[simp] theorem withResult_me (s : State) (d : Dest) (v cls : Nat) :
    (withResult s d v cls).me = { s.me with arch := { s.arch with dueRegs := s.arch.dueRegs ++ [entryOf s d v cls] } } := by
  simp [withResult, withDue, State.me_setArch]

theorem room_withResult (s : State) (d : Dest) (v cls n : Nat) (h : Room s (n + 1)) : Room (withResult s d v cls) n := by
  unfold Room at *
  simp only [withResult_arch, List.length_append, List.length_cons, List.length_nil]
  omega

theorem Room.mono {s : State} {n m : Nat} (h : Room s n) (hm : m ≤ n) : Room s m := by
  unfold Room at *; omega

/-! Accesses that are fit. -/

theorem boundFlaw_inside (b : Nat × Nat) (a n : Nat) (h1 : b.1 ≤ a) (h2 : a + n ≤ b.2) : boundFlaw b a n = none := by
  unfold boundFlaw
  have h1' : ¬ a < b.1 := by omega
  have h2' : ¬ b.2 < a + n := by omega
  simp [h1', h2']

theorem formFlaw_plain (s : State) (a n : Nat)
    (h : ∀ l, a / 256 ≤ l → 256 * l < a + n → s.form s.cur.core l = false) : formFlaw s a n = none := by
  unfold formFlaw
  split
  · rfl
  · rename_i hn
    have : ((List.range ((a + n - 1) / 256 + 1 - a / 256)).map (· + a / 256)).find? (s.form s.cur.core ·) = none := by
      rw [List.find?_eq_none]
      intro l hl
      simp only [List.mem_map, List.mem_range] at hl
      obtain ⟨i, hi, rfl⟩ := hl
      simp [h (i + a / 256) (by omega) (by omega)]
    rw [this]

theorem Inside.bound {s : State} {sp : Space} {a n : Nat} (h : Inside s sp a n) : boundFlaw (spaceBounds s sp) a n = none :=
  boundFlaw_inside _ _ _ h.1 h.2.1

theorem Inside.form {s : State} {a n : Nat} (h : Inside s .act a n) : formFlaw s a n = none :=
  formFlaw_plain s a n (h.2.2 rfl)

theorem accessFlaw_of_clear (s : State) (sp : Space) (a n align : Nat) (h : Clear s sp a n align) :
    accessFlaw s sp a n align = none := by
  obtain ⟨h1, h2⟩ := h
  have hb := h2.bound
  cases sp
  · simp [accessFlaw, firstFlaw, h1, hb]
  · simp [accessFlaw, firstFlaw, h1, hb, h2.form]
  · simp [accessFlaw, firstFlaw, h1, hb]

/-! Memory without errors. -/

theorem readEccMany_clean (s : State) (sp : Space) (rs : List (Nat × Nat)) (h : s.errs = []) :
    readEccMany s sp rs = (s, none) := by
  simp [readEccMany, h]

theorem readEcc_clean (s : State) (sp : Space) (a n : Nat) (h : s.errs = []) : readEcc s sp a n = (s, none) :=
  readEccMany_clean s sp _ h

end Sys2Proof
end

