-- ==== Sys2Proof/Laws/Requests.lean ====
section
/-! SUPPORT. What a request can come to, what a write to memory leaves besides memory, and what a context set reads as. -/
namespace Sys2Proof
open Machine

/-- A request that is heard is performed. -/
theorem request_of_heard {s : State} {m : Msg} {k : ReqKind} (h : Heard s m k) (f : State → State) : request s m k f = f s := by
  obtain ⟨h1, h2, h3, h4, h5, h6, h7, h8⟩ := h
  have h9 : notPerformed s m k = none := by
    unfold notPerformed
    rcases h5 with h5 | ⟨h5, h5'⟩ <;> rcases h6 with h6 | h6 <;> simp_all
  simp only [request, h1, h2, h9]
  by_cases hc : k.config = true
  · obtain ⟨a, b⟩ := h8 hc
    simp [hc, a, b]
  · simp [hc]

/-- Everything that a request can do. -/
theorem request_cases (s : State) (m : Msg) (k : ReqKind) (f : State → State) :
    request s m k f = s ∨ (∃ r, request s m k f = answer s m r) ∨ request s m k f = configViolation s m ∨ request s m k f = f s := by
  unfold request
  split
  · exact .inl rfl
  · split
    · exact .inr (.inl ⟨_, rfl⟩)
    · split
      · exact .inr (.inr (.inl rfl))
      · exact .inr (.inr (.inr rfl))

/-! A write to memory. -/

theorem setErr_mem (s : State) (k : Nat) (e : Err) : (s.setErr k e).mem = s.mem := rfl
theorem applyInjection_mem (s : State) (k kind : Nat) (mask : Word) : (applyInjection s k kind mask).mem = s.mem := rfl

theorem fireInjections_mem (s : State) (hit : Nat → Bool) : (fireInjections s hit).mem = s.mem := by
  have h : ∀ (l : List (Nat × Option Inj)) (t : State), (l.foldl (fun s c => match c.2 with
      | some j => if hit j.key then
          { applyInjection s j.key j.kind j.mask with inject := Tab.set none s.inject c.1 none } else s
      | none => s) t).mem = t.mem := by
    intro l
    induction l with
    | nil => exact fun _ => rfl
    | cons c l ih =>
      intro t
      rw [List.foldl_cons, ih]
      split
      · split <;> rfl
      · rfl
  exact h s.inject s

theorem foldl_setErr_mem (k n : Nat) (l : List Nat) (s : State) :
    (l.foldl (fun s i => if k ≤ i && i + granule k ≤ n then s.setErr i Err.clear else s) s).mem = s.mem := by
  induction l generalizing s with
  | nil => rfl
  | cons i l ih => rw [List.foldl_cons, ih]; split <;> rfl

/-- A write stores its bytes and touches no other byte. -/
theorem put_mem (s : State) (k : Nat) (bs : List Byte) : (s.put k bs).mem = s.mem.write k bs := by
  simp only [State.put]
  split
  · rfl
  · rw [fireInjections_mem, foldl_setErr_mem]

theorem put_byte (s : State) (k : Nat) (bs : List Byte) (a : Nat) :
    (s.put k bs).mem.byte a = if k ≤ a ∧ a < k + bs.length then bs.getD (a - k) 0 else s.mem.byte a := by
  rw [put_mem, Memory.byte_write]

/-- A write keeps the canonical form. -/
theorem Ordered.put {s : State} (h : Ordered s) (k : Nat) (bs : List Byte) : Ordered (s.put k bs) := by
  show (s.put k bs).mem.wf = true
  rw [put_mem]; exact Memory.write_wf _ _ _ h

/-- Memory lists nothing after reset. -/
theorem reset_mem_wf : State.reset.mem.wf = true := rfl

/-! Contexts. -/

@[simp] theorem ctx_setCtx_same (s : State) (core x : Nat) (v : Ctx) : (s.setCtx core x v).ctx core x = v := by
  simp only [State.ctx, State.setCtx, State.core, State.setCore, Tab.get_set_same, Core.ctx, Core.setCtx]
  split <;> simp_all

theorem ctx_setCtx_core (s : State) {core other : Nat} (h : other ≠ core) (x y : Nat) (v : Ctx) :
    (s.setCtx core x v).ctx other y = s.ctx other y := by
  simp only [State.ctx, State.setCtx, State.core, State.setCore, Tab.get_set_other _ _ h]

end Sys2Proof
end

