-- ==== Sys2Proof/Laws/Slots.lean ====
section
/-! SUPPORT. Within its bundle a slot's instruction has the meaning that exec gives it. -/
namespace Sys2Proof.Machine

set_option maxHeartbeats 2000000 in
theorem slotExec_eq (i : Instr) (s : State) (h : inSlot i = true) : slotExec i s = exec i s := by
  revert h
  cases i
  all_goals first | (intro _; rfl) | (intro h; exact absurd h Bool.false_ne_true)

end Sys2Proof.Machine
end

