-- ==== Sys2Proof/Tests/Slice0.lean ====
section
/-! SUPPORT. The model's own tests: ill-formed terms that WellFormed refuses, words written out from the spec's formats
with what they decode to, a state for the hypotheses of every statement, and the spec's worked examples. -/
namespace Sys2Proof.Tests
open Sys2Proof Machine
set_option maxRecDepth 100000
set_option Elab.async false
/-- Each word, in its slot, decodes to its instruction. -/
abbrev Reads (l : List (SlotClass × Nat × Instr)) : Prop := ∀ x ∈ l, decodeSlot x.1 x.2.1 = some x.2.2


/-! Ill-formed terms: the well-formedness check refuses each, with its reason. -/

/-- The reason is among those that the check gives, so the instruction is not well-formed. -/
abbrev Refused (l : List (ScanReason × Instr)) : Prop := ∀ x ∈ l, x.1 ∈ operandChecks x.2

def sr : SR := ⟨4, 5, 6, .none, 0⟩
def si : SI := ⟨4, 5, .none, 0⟩
def cy : CY := ⟨0, 0, 0, .context, 0⟩
def vr : VR := ⟨1, 2, 0, 0, .f32, 0, .rne, false, .none, 0⟩
def vi : VI := ⟨1, 0, 0, .f32, 0, 0⟩
def ms : MS := ⟨0, 0, 0, 0, .none, .rne, false⟩
def er : ER := ⟨0, 0, 0, 0, 0, 0, 0, 0, 0⟩
def ec : EC := ⟨0, 0, 0, 0, 0, 0, .eq, 0⟩

/-- R70, R71, R129, R130, R135, R147, R275: the C slot. -/
theorem test_ill_formed_control : Refused [
  (.field, .j ⟨1, 0, 0⟩), (.field, .j ⟨0, 1, 0⟩), (.field, .jr ⟨1, 1, 0⟩), (.field, .call ⟨1, 1, 0⟩), (.field, .ret ⟨1, 1, 0⟩), (.field, .ret ⟨1, 0, 1⟩),
  (.range, .loop ⟨6, 0, 0, 1, 2, 1, 1⟩), (.range, .loop ⟨0, 0, 3, 1, 2, 1, 1⟩), (.range, .loop ⟨0, 0, 0, 1, 2, 0, 1⟩), (.range, .loop ⟨0, 0, 0, 1, 2, 12, 1⟩),
  (.range, .lbrk ⟨6, 0, 0, 0, 0, 0, 0⟩), (.field, .lbrk ⟨0, 1, 0, 0, 0, 0, 0⟩), (.field, .lbrk ⟨0, 0, 0, 0, 0, 0, 1⟩),
  (.range, .suspend ⟨1, 0, 0, true⟩), (.field, .suspend ⟨0, 1, 0, true⟩), (.field, .suspend ⟨0, 0, 1, true⟩), (.field, .suspend ⟨0, 1, 0, false⟩), (.field, .suspend ⟨5, 8, 0, false⟩),
  (.range, .suspend ⟨5, 6, 0, false⟩), (.field, .suspend ⟨6, 1, 0, false⟩), (.field, .suspend ⟨7, 1, 0, false⟩), (.range, .suspend ⟨1, 0, 0, false⟩), (.range, .suspend ⟨8, 0, 0, false⟩),
  (.range, .yield ⟨1, 0, 0, false⟩), (.field, .yield ⟨0, 1, 0, false⟩), (.field, .yield ⟨0, 0, 0, true⟩),
  (.range, .trap { cy with imm := 0xFF00 }), (.range, .brk { cy with imm := 0xFFFF }), (.field, .trap { cy with sd := 1 }), (.field, .brk { cy with scope := .core }),
  (.range, .sysr { cy with sys := 0x0B }), (.range, .sysr { cy with sys := 0x16 }), (.range, .sysw { cy with sys := 0x41 }), (.field, .sysr { cy with sa := 1 }), (.field, .sysw { cy with sd := 1 }),
  (.field, .icinv { cy with imm := 1 }), (.field, .tick { cy with scope := .die }), (.range, .idle { cy with imm := 0 }), (.field, .idle { cy with imm := 1, sa := 1 })] := by decide

/-- R117, R120, R122 to R126: the S slot. -/
theorem test_ill_formed_scalar : Refused [
  (.type, .add { sr with ty := .i64 }), (.type, .shl { sr with ty := .n16 }), (.field, .xor { sr with pa := 1 }), (.type, .mulh { sr with ty := .n32 }), (.type, .max { sr with ty := .n32 }),
  (.type, .mulhn { sr with ty := .i32 }), (.type, .minn { sr with ty := .i32 }), (.type, .div { sr with ty := .i16 }), (.type, .rem { sr with ty := .f32 }), (.type, .clz { sr with ty := .i32, sb := 0 }),
  (.field, .popc sr), (.type, .sext { sr with ty := .i64, sb := 0 }), (.type, .zext { sr with ty := .i8, sb := 0 }), (.range, .sel { sr with pa := 24 }), (.type, .sel { sr with ty := .i32 }),
  (.type, .addi { si with ty := .n64 }), (.range, .shli { si with imm := 64 }), (.range, .shri { si with ty := .i32, imm := 32 }), (.type, .sari { si with ty := .i8 }),
  (.range, .cmp ⟨0, 1, .i32, .eq, 2, 0⟩), (.type, .cmp ⟨1, 1, .f32, .eq, 2, 0⟩), (.field, .cmp ⟨1, 1, .i32, .eq, 2, 1⟩), (.field, .cmpi ⟨1, 1, .i32, .eq, 2, 0⟩), (.range, .cmpi ⟨12, 1, .i32, .eq, 0, 0⟩),
  (.range, .pand ⟨1, 24, 0, false, false, false⟩), (.range, .por ⟨1, 0, 31, false, false, false⟩), (.field, .pxor ⟨1, 0, 0, false, false, true⟩), (.range, .pset ⟨15, 0, 0, false, false, true⟩), (.field, .pset ⟨1, 2, 0, false, false, true⟩),
  (.type, .lda si), (.type, .sta { si with ty := .f32 }), (.type, .ldw { si with ty := .n4 }), (.type, .ldc { si with ty := .i64 }), (.type, .stc { si with ty := .n16 })] := by decide

/-- R71, R147, R151, R153 to R159: the V slot. -/
theorem test_ill_formed_vector : Refused [
  (.range, .vadd { vr with vd := 48 }), (.range, .vadd { vr with vb := 63 }), (.type, .vadd { vr with ty := .e4m3 }), (.field, .vadd { vr with vc := 1 }), (.field, .vadd { vr with ty2 := .i8 }), (.field, .vadd { vr with ctl := 1 }),
  (.range, .vfma { vr with vc := 50 }), (.field, .vexp2 { vr with vb := 1 }), (.field, .vmin { vr with rnd := .rtz }), (.field, .vneg { vr with sat := true }),
  (.type, .viadd vr), (.type, .vand { vr with ty := .i32 }), (.field, .vxor { vr with ty := .n32, sat := true }), (.range, .vcmp { vr with vd := 16 }), (.range, .vcmp { vr with ctl := 6 }),
  (.range, .vcmp { vr with ctl := 8 }), (.field, .vicmp { vr with ty := .i16, ctl := 16 }), (.type, .vsel { vr with ty := .n8 }), (.field, .vperm { vr with vc := 1 }), (.field, .vperm { vr with ctl := 2 }),
  (.type, .vcvt { vr with ty2 := .f32 }), (.range, .vcvt { vr with ty2 := .i32, ctl := 1 }), (.type, .vpack { vr with ty := .e4m3, ty2 := .i32 }), (.range, .vpack { vr with ty := .i8, ty2 := .i32, ctl := 4 }),
  (.field, .vunpk { vr with ty2 := .e2m1, vb := 1 }), (.type, .vunpk { vr with ty2 := .i8 }), (.type, .vbscl { vr with ty := .e2m1, ty2 := .bf16 }), (.field, .vbscl { vr with ty := .e2m1, ty2 := .f32, ctl := 8 }), (.range, .vbscl { vr with ty := .e5m2, ty2 := .f32, ctl := 4 }),
  (.field, .vrsum { vr with ty := .n16, rnd := .rup }), (.field, .vrmax { vr with sat := true }), (.range, .vscan { vr with ctl := 3 }), (.type, .vscan { vr with ty := .f16 }), (.field, .vscan { vr with ctl := 1, sat := true }),
  (.type, .vkey { vr with ty := .n32 }), (.field, .vkey { vr with ctl := 2 }), (.range, .vhist { vr with ty := .n32 }), (.range, .vhist { vr with ty := .n32, ctl := 0xE0 }), (.range, .vhist { vr with ty := .n16, ctl := 0x4F }),
  (.field, .vhist { vr with ty := .n32, ctl := 0x220 }), (.field, .vbcst { vi with va := 1 }), (.type, .vbcst { vi with ty := .i4 }), (.range, .vmovs { vi with imm := 64 }), (.field, .vmovs { vi with imm := 0x8000 }), (.field, .vmovs { vi with km := 1 }),
  (.field, .vmovs { vi with va := 1 }), (.range, .vrot { vi with va := 48 }), (.field, .vlda ⟨1, 2, 3, .f32, 0, 0⟩), (.range, .vldc ⟨48, 2, 0, .f32, 0, 0⟩), (.field, .vsta ⟨1, 2, 3, .f32, 0, 0⟩), (.type, .vstc ⟨0, 2, 3, .i64, 0, 0⟩),
  (.type, .vglda ⟨1, 2, 3, .f16, 0, 0⟩), (.type, .vmovq ⟨1, 0, .n64, 0⟩), (.range, .vmovq ⟨63, 0, .f32, 0⟩), (.field, .kand ⟨1, 2, 3, 1⟩), (.field, .kor ⟨1, 2, 3, 1⟩), (.field, .knot ⟨1, 2, 3, 0⟩), (.field, .kset ⟨1, 2, 0, 0⟩), (.field, .kpop ⟨1, 2, 3, 4⟩)] := by decide

/-- R71, R166, R173, R176, R178, R183, R187: the M slot. -/
theorem test_ill_formed_matrix : Refused [
  (.field, .mlat ⟨0, 1, 1, .none, 0⟩), (.field, .mlata ⟨0, 1, 0, .i8, 0⟩), (.field, .mlatq ⟨0, 1, 1, .none, 0⟩), (.field, .mlatq ⟨0, 0, 1, .none, 64⟩),
  (.type, .mma ⟨0, 1, 0, .e4m3, .i8, false, 0⟩), (.type, .mma ⟨0, 1, 0, .bf16, .f16, false, 0⟩), (.field, .mma ⟨0, 1, 1, .i8, .i8, false, 0⟩), (.field, .mma ⟨0, 1, 0, .i8, .i8, false, 1⟩),
  (.range, .mmav ⟨0, 0, 31, .i8, .i8, false, 0⟩), (.field, .mmav ⟨0, 1, 32, .i8, .i8, false, 0⟩), (.type, .mconv ⟨0, 1, 0, .e2m1, .e4m3, false, 0⟩), (.field, .mconv ⟨0, 1, 1, .i8, .i8, false, 0⟩),
  (.field, .mshape { ms with sel := 1 }), (.field, .mpad { ms with ty := .i8 }), (.range, .mpad { ms with sel := 2 }), (.range, .mset { ms with sel := 7 }), (.range, .mset { ms with sel := 0x13 }), (.field, .mset { ms with h := 1 }),
  (.field, .mzero { ms with sa := 1 }), (.field, .mzero { ms with sat := true }), (.type, .mdrain { ms with ty := .i8 }), (.field, .mdrain { ms with ty := .f32, rnd := .rup }), (.range, .mdrain { ms with ty := .f32, sel := 0x80 }),
  (.field, .mdrain { ms with ty := .f32, sel := 0xA0, sa := 1 }), (.range, .dot ⟨31, 40, 1, .i8, .i8⟩), (.range, .dotacc ⟨40, 31, 1, .i8, .i8⟩), (.type, .dot ⟨40, 40, 1, .f32, .f32⟩)] := by decide

/-- R190, R217, R219, R223, R224, R265 to R274, R307, R331, R351, R360: the E slot. -/
theorem test_ill_formed_external : Refused [
  (.field, .cpy { er with q := 1 }), (.field, .cpy { er with tb := 1 }), (.field, .cpy { er with imm := 1 }), (.range, .sbind { er with imm := 3 }), (.range, .sbind { er with flags := 4 }), (.range, .sbind { er with flags := 4, imm := 64 }),
  (.field, .sbind { er with flags := 4, imm := 3, ch := 1 }), (.field, .srel { er with flags := 1 }), (.range, .gath er), (.field, .gath { er with flags := 0x600 }), (.field, .gidx { er with q := 1 }), (.range, .qapp { er with flags := 0x30 }), (.field, .qapp { er with flags := 0x40 }),
  (.range, .atom { er with flags := 0x800 }), (.range, .atom { er with flags := 0x38 }), (.range, .fence er), (.field, .fence { er with flags := 0x840 }), (.field, .sfence { er with flags := 0x400 }), (.range, .sfence { er with flags := 0x38 }),
  (.range, .semset { ec with sa := 1, imm := 1 }), (.field, .semadd { ec with cond := .lt }), (.field, .semwt { ec with sa := 1 }), (.field, .tbarm { ec with f := 1 }), (.range, .tbexp { ec with sa := 1, imm := 1 }), (.range, .tbwait { ec with imm := 2 }),
  (.range, .xidrd { ec with imm := 2 }), (.field, .xidwt { ec with sd := 1 }), (.field, .sigadd { ec with tb := 1 }), (.field, .sigwt { ec with imm := 1 }), (.field, .bmset { ec with ch := 1 }), (.field, .bmwait { ec with cond := .eq, ch := 1 }),
  (.field, .larm { er with imm := 1 }), (.field, .lpatch { er with flags := 0x400 }), (.range, .cancel { er with flags := 0x280 }), (.field, .cancel { er with sb := 1 }), (.field, .kvref { er with sb := 1 }), (.range, .kvapp { er with imm := 16 }),
  (.field, .kvapp { er with q := 1 }), (.field, .kvrej { er with flags := 1 }), (.field, .kvcommit { er with sb := 1 }), (.field, .kvfree { er with imm := 1 }), (.field, .gzclaim { er with imm := 1 }), (.field, .gzjoin { er with tb := 1 }), (.field, .gzfind { er with flags := 2 }),
  (.field, .seal { er with sc := 1 }), (.field, .unseal { er with flags := 1 }), (.range, .errinj { er with flags := 0x500 }), (.field, .errinj { er with imm := 1 })] := by decide

/-- R69 to R72: words laid out field by field from the formats, family control. -/
theorem test_decode_control : Reads [
  (.c, 0x0100000000ABC123, .j ⟨0, 0, 11256099⟩),
  (.c, 0x02A4000000000456, .jr ⟨41, 0, 1110⟩),
  (.c, 0x0302500000800001, .call ⟨0, 37, 8388609⟩),
  (.c, 0x0458000000000000, .ret ⟨22, 0, 0⟩),
  (.c, 0x08B4E02364AF00F1, .loop ⟨5, 167, 0, 17, 44, 9, 3080433⟩),
  (.c, 0x0820598000800000, .loop ⟨1, 2, 51, 0, 0, 1, 0⟩),
  (.c, 0x0960000000000000, .lbrk ⟨3, 0, 0, 0, 0, 0, 0⟩),
  (.c, 0x0A4EED4000000000, .bsel ⟨19, 46, 53⟩),
  (.c, 0x0B80000000000000, .lendC ⟨true⟩),
  (.v, 0x4680000000000000, .lendV ⟨true⟩),
  (.c, 0x1064D500AAF37BC4, .suspend ⟨6, 316672, 717020913, false⟩),
  (.c, 0x1000000000000002, .suspend ⟨0, 0, 0, true⟩),
  (.c, 0x1100000056A95404, .yield ⟨0, 0, 363484417, false⟩),
  (.c, 0x180000000000FEFF, .trap ⟨0, 0, 0, .context, 65279⟩),
  (.c, 0x1900000000001234, .brk ⟨0, 0, 0, .context, 4660⟩),
  (.c, 0x1A9C004000000000, .sysr ⟨39, 0, 64, .context, 0⟩),
  (.c, 0x1B01B00100000000, .sysw ⟨0, 27, 1, .context, 0⟩),
  (.c, 0x1C00000080000000, .icinv ⟨0, 0, 0, .device, 0⟩),
  (.c, 0x1DE8000000000000, .tick ⟨58, 0, 0, .context, 0⟩),
  (.c, 0x1E00000000000064, .idle ⟨0, 0, 0, .context, 100⟩)] := by decide

/-- R69 to R72: words laid out field by field from the formats, family scalar registers. -/
theorem test_decode_scalar_registers : Reads [
  (.s, 0x01152A0800000000, .add ⟨5, 18, 40, .i32, 0⟩),
  (.s, 0x0231DD4800000000, .sub ⟨12, 29, 53, .i32, 0⟩),
  (.s, 0x034E808800000000, .mul ⟨19, 40, 2, .i32, 0⟩),
  (.s, 0x046B33C800000000, .mulh ⟨26, 51, 15, .i32, 0⟩),
  (.s, 0x0587E71200000000, .mulhn ⟨33, 62, 28, .n32, 0⟩),
  (.s, 0x06A09A5400000000, .div ⟨40, 9, 41, .n64, 0⟩),
  (.s, 0x07BD4D9400000000, .rem ⟨47, 20, 54, .n64, 0⟩),
  (.s, 0x08D9F0C800000000, .and ⟨54, 31, 3, .i32, 0⟩),
  (.s, 0x09F6A40800000000, .or ⟨61, 42, 16, .i32, 0⟩),
  (.s, 0x0A13574800000000, .xor ⟨4, 53, 29, .i32, 0⟩),
  (.s, 0x0B2C0A8800000000, .andn ⟨11, 0, 42, .i32, 0⟩),
  (.s, 0x0C48BDC800000000, .shl ⟨18, 11, 55, .i32, 0⟩),
  (.s, 0x0D65610800000000, .shr ⟨25, 22, 4, .i32, 0⟩),
  (.s, 0x0E82144800000000, .sar ⟨32, 33, 17, .i32, 0⟩),
  (.s, 0x0F9EC78800000000, .min ⟨39, 44, 30, .i32, 0⟩),
  (.s, 0x10BB7AC800000000, .max ⟨46, 55, 43, .i32, 0⟩),
  (.s, 0x11D42E1200000000, .minn ⟨53, 2, 56, .n32, 0⟩),
  (.s, 0x12F0D15200000000, .maxn ⟨60, 13, 5, .n32, 0⟩),
  (.s, 0x130D801200000000, .clz ⟨3, 24, 0, .n32, 0⟩),
  (.s, 0x142A301200000000, .ctz ⟨10, 35, 0, .n32, 0⟩),
  (.s, 0x1546E01200000000, .popc ⟨17, 46, 0, .n32, 0⟩),
  (.s, 0x1663900800000000, .sext ⟨24, 57, 0, .i32, 0⟩),
  (.s, 0x177C401000000000, .zext ⟨31, 4, 0, .n16, 0⟩),
  (.s, 0x1898F4C170000000, .sel ⟨38, 15, 19, .none, 23⟩)] := by decide

/-- R69 to R72: words laid out field by field from the formats, family scalar other. -/
theorem test_decode_scalar_other : Reads [
  (.s, 0x193211BF80000001, .maddr ⟨12, 33, 6, 63, 2147483649⟩),
  (.s, 0x2027C200FFFF0000, .addi ⟨9, 60, .i32, 4294901760⟩),
  (.s, 0x212BB480FFFF0001, .andi ⟨10, 59, .n32, 4294901761⟩),
  (.s, 0x222FA200FFFF0002, .ori ⟨11, 58, .i32, 4294901762⟩),
  (.s, 0x23339480FFFF0003, .xori ⟨12, 57, .n32, 4294901763⟩),
  (.s, 0x243782000000001F, .shli ⟨13, 56, .i32, 31⟩),
  (.s, 0x253B74800000001F, .shri ⟨14, 55, .n32, 31⟩),
  (.s, 0x263F62000000001F, .sari ⟨15, 54, .i32, 31⟩),
  (.s, 0x301000000000DEF0, .li ⟨4, 57072⟩),
  (.s, 0x3110123456789ABC, .lih ⟨4, 20015998343868⟩),
  (.s, 0x38B8957700000000, .cmp ⟨11, 34, .n64, .ge, 55, 0⟩),
  (.s, 0x3918C840FFFFFF9C, .cmpi ⟨1, 35, .i32, .ne, 0, 4294967196⟩),
  (.s, 0x3C2B9E0000000000, .pand ⟨2, 23, 7, true, false, false⟩),
  (.s, 0x3D32590000000000, .por ⟨3, 4, 22, false, true, false⟩),
  (.s, 0x3E44AB0000000000, .pxor ⟨4, 9, 10, true, true, false⟩),
  (.s, 0x3F50008000000000, .pset ⟨5, 0, 0, false, false, true⟩),
  (.s, 0x40532100FFFFFFF8, .lda ⟨20, 50, .i8, 4294967288⟩),
  (.s, 0x41571400FFFFFFF7, .sta ⟨21, 49, .n16, 4294967287⟩),
  (.s, 0x425B0580FFFFFFF6, .ldc ⟨22, 48, .f32, 4294967286⟩),
  (.s, 0x435EF480FFFFFFF5, .stc ⟨23, 47, .n32, 4294967285⟩),
  (.s, 0x4462E500FFFFFFF4, .ldw ⟨24, 46, .n64, 4294967284⟩)] := by decide

/-- R69 to R72: words laid out field by field from the formats, family vector float. -/
theorem test_decode_vector_float : Reads [
  (.v, 0x01BC25005F900000, .vadd ⟨47, 2, 20, 0, .f32, 15, .rne, true, .none, 0⟩),
  (.v, 0x02B8554067200000, .vsub ⟨46, 5, 21, 0, .f16, 14, .rtz, false, .none, 0⟩),
  (.v, 0x03B485806ED00000, .vmul ⟨45, 8, 22, 0, .bf16, 13, .rdn, true, .none, 0⟩),
  (.v, 0x04B0B5DC5E600000, .vfma ⟨44, 11, 23, 28, .f32, 12, .rup, false, .none, 0⟩),
  (.v, 0x05ACE61B65900000, .vfms ⟨43, 14, 24, 27, .f16, 11, .rne, true, .none, 0⟩),
  (.v, 0x06A916406D000000, .vmin ⟨42, 17, 25, 0, .bf16, 10, .rne, false, .none, 0⟩),
  (.v, 0x07A546805C800000, .vmax ⟨41, 20, 26, 0, .f32, 9, .rne, false, .none, 0⟩),
  (.v, 0x08A1700064000000, .vabs ⟨40, 23, 0, 0, .f16, 8, .rne, false, .none, 0⟩),
  (.v, 0x099DA0006B800000, .vneg ⟨39, 26, 0, 0, .bf16, 7, .rne, false, .none, 0⟩),
  (.v, 0x0A99D0005B200000, .vexp2 ⟨38, 29, 0, 0, .f32, 6, .rtz, false, .none, 0⟩),
  (.v, 0x0B96000062D00000, .vlog2 ⟨37, 32, 0, 0, .f16, 5, .rdn, true, .none, 0⟩),
  (.v, 0x0C9230006A600000, .vrcp ⟨36, 35, 0, 0, .bf16, 4, .rup, false, .none, 0⟩),
  (.v, 0x0D8E600059900000, .vrsq ⟨35, 38, 0, 0, .f32, 3, .rne, true, .none, 0⟩),
  (.v, 0x100C40006AF58001, .vcvt ⟨3, 4, 0, 0, .bf16, 5, .rup, true, .f32, 1⟩),
  (.v, 0x1118700084358007, .vpack ⟨6, 7, 0, 0, .e2m1, 8, .rtz, true, .f32, 7⟩),
  (.v, 0x1224A2C05E57000B, .vunpk ⟨9, 10, 11, 0, .f32, 12, .rdn, true, .e4m3, 11⟩),
  (.v, 0x1334E3C078E58013, .vbscl ⟨13, 14, 15, 0, .e5m2, 1, .rup, false, .f32, 19⟩)] := by decide

/-- R69 to R72: words laid out field by field from the formats, family vector integer. -/
theorem test_decode_vector_integer : Reads [
  (.v, 0x187A804020100000, .viadd ⟨30, 40, 1, 0, .i32, 0, .rne, true, .none, 0⟩),
  (.v, 0x197E708018900000, .visub ⟨31, 39, 2, 0, .i16, 1, .rne, true, .none, 0⟩),
  (.v, 0x1A8260C041100000, .vimul ⟨32, 38, 3, 0, .n16, 2, .rne, true, .none, 0⟩),
  (.v, 0x1B86510041800000, .vand ⟨33, 37, 4, 0, .n16, 3, .rne, false, .none, 0⟩),
  (.v, 0x1C8A41404A000000, .vor ⟨34, 36, 5, 0, .n32, 4, .rne, false, .none, 0⟩),
  (.v, 0x1D8E318042800000, .vxor ⟨35, 35, 6, 0, .n16, 5, .rne, false, .none, 0⟩),
  (.v, 0x1E9221C04B000000, .vshl ⟨36, 34, 7, 0, .n32, 6, .rne, false, .none, 0⟩),
  (.v, 0x1F96120043800000, .vshr ⟨37, 33, 8, 0, .n16, 7, .rne, false, .none, 0⟩),
  (.v, 0x209A02404C000000, .vsar ⟨38, 32, 9, 0, .n32, 8, .rne, false, .none, 0⟩),
  (.v, 0x283E18806100000D, .vcmp ⟨15, 33, 34, 0, .f16, 2, .rne, false, .none, 13⟩),
  (.v, 0x290420C04A000004, .vicmp ⟨1, 2, 3, 0, .n32, 4, .rne, false, .none, 4⟩),
  (.v, 0x2A1461C06C000000, .vsel ⟨5, 6, 7, 0, .bf16, 8, .rne, false, .none, 0⟩),
  (.v, 0x2B240FDD40008001, .vbcst ⟨9, 0, 63, .e4m3, 10, 32769⟩),
  (.v, 0x2C00B304000080FF, .vmovs ⟨0, 11, 12, .i8, 0, 33023⟩),
  (.v, 0x2C3403960000003F, .vmovs ⟨13, 0, 14, .f32, 0, 63⟩),
  (.v, 0x2D3D045219800001, .vperm ⟨15, 16, 17, 18, .i16, 3, .rne, false, .none, 1⟩),
  (.v, 0x2E4D454EC0001234, .vrot ⟨19, 20, 21, .n8, 6, 4660⟩),
  (.v, 0x3004200061F00000, .vrsum ⟨1, 2, 0, 0, .f16, 3, .rup, true, .none, 0⟩),
  (.v, 0x311050001B000000, .vrmax ⟨4, 5, 0, 0, .i16, 6, .rne, false, .none, 0⟩),
  (.v, 0x321C80004C800000, .vrmin ⟨7, 8, 0, 0, .n32, 9, .rne, false, .none, 0⟩),
  (.v, 0x3328B00026000002, .vscan ⟨10, 11, 0, 0, .i32, 12, .rne, false, .none, 2⟩),
  (.v, 0x3434E0006F800001, .vkey ⟨13, 14, 0, 0, .bf16, 15, .rne, false, .none, 1⟩),
  (.v, 0x354110004090014A, .vhist ⟨16, 17, 0, 0, .n16, 1, .rne, true, .none, 330⟩)] := by decide

/-- R69 to R72: words laid out field by field from the formats, family vector memory. -/
theorem test_decode_vector_memory : Reads [
  (.v, 0x40597020E0800001, .vlda ⟨22, 23, 0, .e2m1, 7, 8388609⟩),
  (.v, 0x4101961700000040, .vsta ⟨0, 25, 24, .f32, 8, 64⟩),
  (.v, 0x4269B01720000080, .vldc ⟨26, 27, 0, .f32, 9, 128⟩),
  (.v, 0x4301D713400000C0, .vstc ⟨0, 29, 28, .n32, 10, 192⟩),
  (.v, 0x4479F80960FFFFFF, .vglda ⟨30, 31, 32, .i32, 11, 16777215⟩),
  (.v, 0x45879BA000000000, .vmovq ⟨33, 14, .bf16, 13⟩),
  (.v, 0x5012300000000000, .kand ⟨1, 2, 3, 0⟩),
  (.v, 0x5145600000000000, .kor ⟨4, 5, 6, 0⟩),
  (.v, 0x5278000000000000, .knot ⟨7, 8, 0, 0⟩),
  (.v, 0x53900F4000000000, .kset ⟨9, 0, 0, 61⟩),
  (.v, 0x540ABF8000000000, .kpop ⟨0, 10, 11, 62⟩)] := by decide

/-- R69 to R72: words laid out field by field from the formats, family matrix. -/
theorem test_decode_matrix : Reads [
  (.m, 0x01F0800000000880, .mlat ⟨7, 33, 0, .none, 2176⟩),
  (.m, 0x02D10000FFFFFFC0, .mlata ⟨6, 34, 0, .none, 4294967232⟩),
  (.m, 0x03A0680000000000, .mlatq ⟨5, 0, 13, .none, 0⟩),
  (.m, 0x0896802340000000, .mma ⟨4, 45, 0, .i8, .n4, true, 0⟩),
  (.m, 0x09407ED680000000, .mmav ⟨2, 0, 63, .bf16, .bf16, false, 0⟩),
  (.m, 0x0A3700F870000000, .mconv ⟨1, 46, 0, .e5m2, .e2m1, true, 6⟩),
  (.m, 0x10B7800000000000, .mshape ⟨5, 47, 0, 0, .none, .rne, false⟩),
  (.m, 0x1198000200000000, .mpad ⟨4, 48, 0, 1, .none, .rne, false⟩),
  (.m, 0x1218802400000000, .mset ⟨0, 49, 0, 18, .none, .rne, false⟩),
  (.m, 0x130065FE00000000, .mzero ⟨0, 0, 50, 255, .none, .rne, false⟩),
  (.m, 0x1419E8FEE0000000, .mdrain ⟨0, 51, 52, 127, .e4m3, .rne, false⟩),
  (.m, 0x14006B7EC0000000, .mdrain ⟨0, 0, 53, 191, .f16, .rne, false⟩),
  (.m, 0x1883FDA0F0000000, .dot ⟨32, 63, 54, .e2m1, .e5m2⟩),
  (.m, 0x19BF0DCE10000000, .dotacc ⟨47, 48, 55, .n8, .i4⟩)] := by decide

/-- R69 to R72: words laid out field by field from the formats, family external. -/
theorem test_decode_external : Reads [
  (.e, 0x0110A00BFFFC0000, .cpy ⟨4, 10, 0, 11, 7, 31, 15, 3072, 0⟩),
  (.e, 0x0201400000903F3F, .sbind ⟨0, 20, 0, 0, 0, 0, 9, 63, 63⟩),
  (.e, 0x0300000000800000, .srel ⟨0, 0, 0, 0, 0, 0, 8, 0, 0⟩),
  (.e, 0x040420C4A67C0000, .gath ⟨1, 2, 3, 4, 5, 6, 7, 3072, 0⟩),
  (.e, 0x05015000C0000000, .gidx ⟨0, 21, 0, 0, 6, 0, 0, 0, 0⟩),
  (.e, 0x0659761980002800, .qapp ⟨22, 23, 24, 25, 4, 0, 0, 40, 0⟩),
  (.e, 0x0769B71D6007E000, .atom ⟨26, 27, 28, 29, 3, 0, 0, 2016, 0⟩),
  (.e, 0x08000000000C1800, .fence ⟨0, 0, 0, 0, 0, 0, 0, 3096, 0⟩),
  (.e, 0x0900000000002800, .sfence ⟨0, 0, 0, 0, 0, 0, 0, 40, 0⟩),
  (.e, 0x2001E01F000800FF, .larm ⟨0, 30, 0, 31, 0, 0, 0, 2048, 255⟩),
  (.e, 0x21020862000B0008, .lpatch ⟨0, 32, 33, 34, 0, 0, 0, 2816, 8⟩),
  (.e, 0x2202302400060000, .cancel ⟨0, 35, 0, 36, 0, 0, 0, 1536, 0⟩),
  (.e, 0x309660275E080000, .kvref ⟨37, 38, 0, 39, 2, 30, 0, 2048, 0⟩),
  (.e, 0x31A29AAB2000010F, .kvapp ⟨40, 41, 42, 43, 1, 0, 0, 1, 15⟩),
  (.e, 0x32B2DBAFE0000000, .kvrej ⟨44, 45, 46, 47, 7, 0, 0, 0, 0⟩),
  (.e, 0x33C31032C0000000, .kvcommit ⟨48, 49, 0, 50, 6, 0, 0, 0, 0⟩),
  (.e, 0x34CF4035A0000000, .kvfree ⟨51, 52, 0, 53, 5, 0, 0, 0, 0⟩),
  (.e, 0x35DB7E3980000100, .gzclaim ⟨54, 55, 56, 57, 4, 0, 0, 1, 0⟩),
  (.e, 0x36EBBF3D60000000, .gzjoin ⟨58, 59, 60, 61, 3, 0, 0, 0, 0⟩),
  (.e, 0x37FBF04240000000, .gzfind ⟨62, 63, 1, 2, 2, 0, 0, 0, 0⟩),
  (.e, 0x400C4140200000FF, .seal ⟨3, 4, 5, 0, 1, 0, 0, 0, 255⟩),
  (.e, 0x41187200E0000010, .unseal ⟨6, 7, 8, 0, 7, 0, 0, 0, 16⟩),
  (.e, 0x4200928B00048000, .errinj ⟨0, 9, 10, 11, 0, 0, 0, 1152, 0⟩)] := by decide

/-- R69 to R72: words laid out field by field from the formats, family counters. -/
theorem test_decode_counters : Reads [
  (.e, 0x10FF0003F0000000, .semset ⟨255, 0, 0, 0, 63, 0, .eq, 0⟩),
  (.e, 0x118000000000FFFF, .semadd ⟨128, 0, 0, 0, 0, 0, .eq, 65535⟩),
  (.e, 0x1209001C00280003, .semwt ⟨9, 0, 0, 7, 0, 0, .ge, 3⟩),
  (.e, 0x1300F80060000000, .tbarm ⟨0, 31, 0, 0, 6, 0, .eq, 0⟩),
  (.e, 0x1400880000008001, .tbexp ⟨0, 17, 0, 0, 0, 0, .eq, 32769⟩),
  (.e, 0x1500188400000001, .tbwait ⟨0, 3, 0, 33, 0, 0, .eq, 1⟩),
  (.e, 0x1600078800000001, .xidrd ⟨0, 0, 7, 34, 0, 0, .eq, 1⟩),
  (.e, 0x1700050230000000, .xidwt ⟨0, 0, 5, 0, 35, 0, .eq, 0⟩),
  (.e, 0x1800039259800000, .sigadd ⟨0, 0, 3, 36, 37, 38, .eq, 0⟩),
  (.e, 0x1900009E8A500000, .sigwt ⟨0, 0, 0, 39, 40, 41, .lt, 0⟩),
  (.e, 0x23000002A0000000, .bmset ⟨0, 0, 0, 0, 42, 0, .eq, 0⟩),
  (.e, 0x240000AECB400000, .bmwait ⟨0, 0, 0, 43, 44, 45, .eq, 0⟩)] := by decide

/-- The words that the spec itself works out (R125, R148, R159, R173, R178, R179, R186 to R189, R216, R265, R266, R274, R276, R309,
R331, R351, R360 and the programs). -/
theorem test_decode_worked_words : Reads [
  (.s, 0x39324A8000000064, .cmpi ⟨3, 9, .i64, .lt, 0, 100⟩),
  (.c, 0x080360169D000002, .loop ⟨0, 27, 0, 11, 19, 10, 2⟩),
  (.c, 0x080160145D000008, .loop ⟨0, 11, 0, 10, 11, 10, 8⟩),
  (.c, 0x080580249D000004, .loop ⟨0, 44, 0, 18, 19, 10, 4⟩),
  (.s, 0x403CA28000000010, .lda ⟨15, 10, .i64, 16⟩),
  (.s, 0x0344F40000000000, .mul ⟨17, 15, 16, .none, 0⟩),
  (.s, 0x3835929B00000000, .cmp ⟨3, 22, .n32, .lt, 27, 0⟩),
  (.v, 0x0410518759200000, .vfma ⟨4, 5, 6, 7, .f32, 2, .rtz, false, .none, 0⟩),
  (.v, 0x340C200062000000, .vkey ⟨3, 2, 0, 0, .f16, 4, .rne, false, .none, 0⟩),
  (.v, 0x351430004200008C, .vhist ⟨5, 3, 0, 0, .n16, 4, .rne, false, .none, 0x8C⟩),
  (.v, 0x3408100060000001, .vkey ⟨2, 1, 0, 0, .f16, 0, .rne, false, .none, 1⟩),
  (.v, 0x355C600048800180, .vhist ⟨23, 6, 0, 0, .n32, 1, .rne, false, .none, 0x180⟩),
  (.m, 0x1202800000000000, .mset ⟨0, 5, 0, 0, .none, .rne, false⟩),
  (.m, 0x0165000000000880, .mlat ⟨3, 10, 0, .none, 0x880⟩),
  (.m, 0x086600E740000000, .mma ⟨3, 12, 0, .e4m3, .e4m3, true, 0⟩),
  (.m, 0x080600D6C0000000, .mma ⟨0, 12, 0, .bf16, .bf16, true, 0⟩),
  (.m, 0x0A4380E748000000, .mconv ⟨2, 7, 0, .e4m3, .e4m3, true, 1⟩),
  (.m, 0x14002960B0000000, .mdrain ⟨0, 0, 20, 0xB0, .f32, .rne, false⟩),
  (.m, 0x18A2425D00000000, .dot ⟨40, 36, 9, .e4m3, .e2m1⟩),
  (.e, 0x071051874000A000, .atom ⟨4, 5, 6, 7, 2, 0, 0, 0xA0, 0⟩),
  (.e, 0x0110A00B65080000, .cpy ⟨4, 10, 0, 11, 3, 5, 0, 0x800, 0⟩),
  (.e, 0x0128800002080000, .cpy ⟨10, 8, 0, 0, 0, 2, 0, 0x800, 0⟩),
  (.e, 0x0128000400000000, .cpy ⟨10, 0, 0, 4, 0, 0, 0, 0, 0⟩),
  (.e, 0x0201400000202203, .sbind ⟨0, 20, 0, 0, 0, 0, 2, 34, 3⟩),
  (.e, 0x0800000000082000, .fence ⟨0, 0, 0, 0, 0, 0, 0, 0x820, 0⟩),
  (.e, 0x0900000000002000, .sfence ⟨0, 0, 0, 0, 0, 0, 0, 0x20, 0⟩),
  (.c, 0x1051870500050718, .suspend ⟨5, 0x18705, 0x000141C6, false⟩),
  (.e, 0x2000500800080009, .larm ⟨0, 5, 0, 8, 0, 0, 0, 0x800, 9⟩),
  (.e, 0x210051C600020000, .lpatch ⟨0, 5, 7, 6, 0, 0, 0, 0x200, 0⟩),
  (.e, 0x3110A2CC40000001, .kvapp ⟨4, 10, 11, 12, 2, 0, 0, 0, 1⟩),
  (.e, 0x1209001C00280003, .semwt ⟨9, 0, 0, 7, 0, 0, .ge, 3⟩),
  (.e, 0x1300180060000000, .tbarm ⟨0, 3, 0, 0, 6, 0, .eq, 0⟩),
  (.e, 0x1300100000004000, .tbarm ⟨0, 2, 0, 0, 0, 0, .eq, 16384⟩),
  (.e, 0x1500101C00000001, .tbwait ⟨0, 2, 0, 7, 0, 0, .eq, 1⟩),
  (.e, 0x1900001C51A80000, .sigwt ⟨0, 0, 0, 7, 5, 6, .ge, 0⟩),
  (.e, 0x22005006000C8002, .cancel ⟨0, 5, 0, 6, 0, 0, 0, 0xC80, 2⟩)] := by decide


/-! States that meet the statements' hypotheses. -/

/-- Core 0 with a unit in context 0, every buffer its own. -/
def base : State := loadBundle State.reset 0
/-- The same with `n` results due. -/
def due (n : Nat) : State := base.setArch { base.arch with dueRegs := List.replicate n ⟨.scalar 1, 0, 5, 0, false, none, 0⟩ }
/-- The same with bounds in force: a cartouche whose act_base is line 2 and act_limit line 4, acc_base row 2. -/
def bounded : State := base.setMe { base.me with cart := BitVec.ofNat 512 (2 * 2 ^ 288 + 4 * 2 ^ 304 + 2 * 2 ^ 320 + 4096 * 2 ^ 336) }
/-- Context 0 of core 0 at captured state `a`. -/
def withArch (a : Arch) : State := base.setArch a
/-- Some scalar registers written. -/
def regs (l : List (Nat × Word)) : State := base.setArch (l.foldl (fun a x => a.wrS x.1 x.2) base.arch)
/-- Activation bytes of core 0 written. -/
def poked (s : State) (a : Nat) (bs : List Byte) : State := s.put (actKey 0 a) bs

theorem clear_of {s : State} (hf : s.forms = []) {sp : Space} {a n al : Nat}
    (h : a % al = 0 ∧ (spaceBounds s sp).1 ≤ a ∧ a + n ≤ (spaceBounds s sp).2) : Clear s sp a n al :=
  ⟨h.1, h.2.1, h.2.2, fun _ _ _ _ => by rw [State.form, hf]; rfl⟩

theorem inside_of {s : State} (hf : s.forms = []) {sp : Space} {a n : Nat}
    (h : (spaceBounds s sp).1 ≤ a ∧ a + n ≤ (spaceBounds s sp).2) : Inside s sp a n :=
  ⟨h.1, h.2, fun _ _ _ _ => by rw [State.form, hf]; rfl⟩

/-- ScalarArithmetic, ScalarBitwiseAndShifts, PredicatePairs, LanePredicates: room for one result at both ends. -/
theorem wit_room : Room (due 0) 1 ∧ Room (due 63) 1 ∧ ¬ Room (due 64) 1 ∧ Room (due 61) 3 := by
  unfold Room; decide +kernel

/-- ScalarArithmetic and ScalarMoves: every type of the high products and of the minima and maxima. -/
theorem wit_scalar_types : ∀ f ∈ [sr, { sr with ty := .i32 }], ∀ g ∈ [sr, { sr with ty := .n32 }],
    (Instr.mulh f).WellFormed ∧ (Instr.min f).WellFormed ∧ (Instr.max f).WellFormed ∧
    (Instr.mulhn g).WellFormed ∧ (Instr.minn g).WellFormed ∧ (Instr.maxn g).WellFormed := by
  unfold Instr.WellFormed; decide +kernel

/-- PredicatePairs: well-formed compares and predicate operations, to the first and the last pair that they may write. -/
theorem wit_pairs : ∀ n ∈ [(1 : Fin 16), 11],
    (Instr.cmp ⟨n, 4, .i64, .lt, 5, 0⟩).WellFormed ∧ (Instr.cmpi ⟨n, 4, .n32, .eq, 0, 7⟩).WellFormed ∧
    (Instr.pand ⟨n, 0, 23, true, false, false⟩).WellFormed ∧ (Instr.pset ⟨n, 0, 0, false, false, true⟩).WellFormed := by
  unfold Instr.WellFormed; decide +kernel

/-- LanePredicates: well-formed forms at the last registers, and a result for k0. -/
theorem wit_lane_predicates : (Instr.kand ⟨15, 15, 15, 0⟩).WellFormed ∧ (Instr.kor ⟨15, 0, 15, 0⟩).WellFormed ∧ (Instr.knot ⟨15, 15, 0, 0⟩).WellFormed ∧
    (Instr.kset ⟨15, 0, 0, 63⟩).WellFormed ∧ (Instr.kpop ⟨0, 15, 15, 63⟩).WellFormed ∧ (⟨.kreg 0, 5, 1, 0, false, none, 0⟩ : DueReg).dest = .kreg 0 := by
  unfold Instr.WellFormed; decide +kernel

/-- BufferLoads and BufferStores: the first and the last word of each buffer, with the narrowest and the widest type. -/
theorem wit_buffer_access : ∀ x ∈ [(Space.act, 0, Ty.i64), (.act, 0x1FFFF8, .n64), (.act, 0x1FFFFF, .n8), (.wt, 0x3FFFFF8, .i64), (.wt, 0x3FFFFFE, .i16)],
    let f : SI := ⟨4, 0, x.2.2, BitVec.ofNat 32 x.2.1⟩
    let n := tyWidth f.ty / 8
    Room (due 63) 1 ∧ (due 63).errs = [] ∧ (Instr.lda f).WellFormed ∧ (Instr.ldw f).WellFormed ∧ (Instr.sta f).WellFormed ∧
    (rdS (due 63) f.sa.val + f.imm.signExtend 64).toNat = x.2.1 ∧ Clear (due 63) x.1 x.2.1 n n := by
  refine fun x h => ?_
  have := (show ∀ x ∈ [(Space.act, 0, Ty.i64), (.act, 0x1FFFF8, .n64), (.act, 0x1FFFFF, .n8), (.wt, 0x3FFFFF8, .i64), (.wt, 0x3FFFFFE, .i16)],
    (due 63).arch.dueRegs.length + 1 ≤ 64 ∧ operandChecks (.lda ⟨4, 0, x.2.2, BitVec.ofNat 32 x.2.1⟩) = [] ∧
    operandChecks (.ldw ⟨4, 0, x.2.2, BitVec.ofNat 32 x.2.1⟩) = [] ∧ operandChecks (.sta ⟨4, 0, x.2.2, BitVec.ofNat 32 x.2.1⟩) = [] ∧
    (rdS (due 63) 0 + (BitVec.ofNat 32 x.2.1).signExtend 64).toNat = x.2.1 ∧ (x.2.1 % (tyWidth x.2.2 / 8) = 0 ∧
      (spaceBounds (due 63) x.1).1 ≤ x.2.1 ∧ x.2.1 + tyWidth x.2.2 / 8 ≤ (spaceBounds (due 63) x.1).2) by decide +kernel) x h
  exact ⟨this.1, rfl, this.2.1, this.2.2.1, this.2.2.2.1, this.2.2.2.2.1, clear_of rfl this.2.2.2.2.2⟩

/-- The accumulator buffer likewise. -/
theorem wit_accumulator_access : (Instr.ldc ⟨4, 0, .f32, 0x7FFFC⟩).WellFormed ∧ (Instr.stc ⟨4, 0, .n32, 0x7FFFC⟩).WellFormed ∧
    (rdS (due 63) 0 + (0x7FFFC : BitVec 32).signExtend 64).toNat = 0x7FFFC ∧ Clear (due 63) .acc 0x7FFFC 4 4 ∧ Clear (due 63) .acc 0 4 4 := by
  refine ⟨by unfold Instr.WellFormed; decide +kernel, by unfold Instr.WellFormed; decide +kernel, by decide +kernel, clear_of rfl (by decide +kernel), clear_of rfl (by decide +kernel)⟩

/-- StoreBecomesVisible: a context with nothing withheld, and ranges that end and begin at the store's edges. -/
theorem wit_store_visible : base.me.withhold = [] ∧ (∀ x, (base.ctx base.cur.core x).releasing = []) ∧ base.errs = [] ∧ base.inject = [] ∧
    (8 + 8 ≤ 16 ∨ 16 + 4 ≤ 8) ∧ (20 + 8 ≤ 16 ∨ 16 + 4 ≤ 20) := by
  refine ⟨by decide +kernel, fun x => ?_, by decide +kernel, by decide +kernel, by decide⟩
  by_cases h : x = 0
  · subst h; decide +kernel
  · rw [State.ctx, Core.ctx, if_neg h]; decide +kernel

/-- AccessTraps: the last misaligned byte, the byte below act_base, the word at act_limit and one past the end, a ciphertext line, and a word that begins
inside the weight buffer and ends outside it. -/
theorem wit_access_traps :
    (Instr.lda { si with ty := .i64 }).WellFormed ∧ (Instr.ldc { si with ty := .f32 }).WellFormed ∧ (Instr.ldw { si with ty := .i64 }).WellFormed ∧
    (spaceBounds base .wt) = (0, 2 ^ 26) ∧ (2 ^ 26 % 8 = 0 ∧ (spaceBounds base .wt).1 ≤ 2 ^ 26 ∧ (spaceBounds base .wt).2 < 2 ^ 26 + 8) ∧ 7 % 8 ≠ 0 ∧ (spaceBounds bounded .act) = (512, 1024) ∧ (spaceBounds bounded .acc).1 = 256 ∧
    (504 % 8 = 0 ∧ 504 < (spaceBounds bounded .act).1) ∧
    (1024 % 8 = 0 ∧ (spaceBounds bounded .act).1 ≤ 1024 ∧ (spaceBounds bounded .act).2 < 1024 + 8) ∧
    (let s := bounded.setForm 0 2 true
     512 % 8 = 0 ∧ (spaceBounds s .act).1 ≤ 512 ∧ 512 + 8 ≤ (spaceBounds s .act).2 ∧ s.form s.cur.core (512 / 256) = true) := by
  unfold Instr.WellFormed; decide +kernel

/-- TrapEntry: with and without debug-step mode, nothing to restore. -/
theorem wit_trap_entry : base.errs = [] ∧ base.me.mode.getLsbD 0 = false ∧ base.me.undo = [] ∧
    (base.setMe { base.me with mode := 1 }).me.mode.getLsbD 0 = true := by decide +kernel

/-- JumpsAndLoops: a first call, a loop with no and with one iteration, an active and an idle level. -/
theorem wit_jumps : Room (due 63) 1 ∧ (due 63).cur.trapped = false ∧
    (let f : CL := ⟨5, 3, 0, 1, 0, 1, 0⟩; f.sa.val = 0 ∧ f.trip.setWidth 64 = (0 : Word) ∧ f.level.val < 6) ∧
    ((1 : BitVec 22).setWidth 64 ≠ (0 : Word)) ∧ (base.arch.rdLoop 5).active = false ∧
    ((base.setArch (base.arch.wrLoop 5 ⟨true, 33, 36, 1, 0, 0, 1⟩)).arch.rdLoop 5).active = true := by
  unfold Room; decide +kernel

/-- A context at the end of the range of level 5 with `n` iterations left. -/
def atRangeEnd (n : Word) : Ctx := { Ctx.reset with arch := { Arch.reset 36 with loops := [(5, ⟨true, 33, 36, n, 0, 0, 1⟩)] } }

/-- The same with level 5 nested in level 3, which ends there too with `m` left. -/
def nestedEnd (m n : Word) : Ctx := { Ctx.reset with arch := { Arch.reset 36 with loops := [(3, ⟨true, 10, 36, m, 4, 8, 2⟩), (5, ⟨true, 33, 36, n, 0, 0, 1⟩)] } }

/-- LoopBackEdge: the end of the range with two iterations left and with one; of two nested ranges, the inner one branches back, or the outer one after
the inner one's end, or neither. -/
theorem wit_loop_back :
    (atRangeEnd 2).arch.idle = 0 ∧ (atRangeEnd 2).arch.seqDue = [] ∧
    ((atRangeEnd 2).arch.rdLoop 5).active = true ∧ (atRangeEnd 2).arch.pc.toNat = ((atRangeEnd 2).arch.rdLoop 5).stop ∧
    1 < ((atRangeEnd 2).arch.rdLoop 5).left.toNat ∧
    (∀ m, m < 6 → ((atRangeEnd 1).arch.rdLoop m).active = true → ((atRangeEnd 1).arch.rdLoop m).left.toNat ≤ 1) := by decide +kernel
theorem wit_loop_nested : ∀ x ∈ [((2 : Nat), (2 : Nat)), (2, 1), (1, 1)],
    let a := (nestedEnd (BitVec.ofNat 64 x.1) (BitVec.ofNat 64 x.2)).arch
    a.idle = 0 ∧ a.seqDue = [] ∧ (∀ l ∈ [3, 5], (a.rdLoop l).active = true ∧ (a.rdLoop l).stop = a.pc.toNat) ∧
    (1 < (a.rdLoop 5).left.toNat ↔ x.2 = 2) ∧ (1 < (a.rdLoop 3).left.toNat ↔ x.1 = 2) ∧ (a.rdLoop 3).target ≠ 0 ∧ (a.rdLoop 3).pair ≠ 0 := by decide +kernel

/-- A table of `n` equal buckets of size 64 at activation address 0 (R133). -/
def bucketTable (n : Nat) : State :=
  poked (due 61) 0 (leBytes (16 * (n + 1)) (n + 0x000900 * 2 ^ 8 + joinElems 128 (List.replicate n (64 + 0x000400 * 2 ^ 32)) * 2 ^ 128))

/-- BucketSelect: tables of one bucket, the dimension at the size and one above it. -/
theorem wit_bucket_select :
    let s := bucketTable 1
    let tab := leNat (seen s .act 0 32)
    Room s 3 ∧ s.errs = [] ∧ s.cur.trapped = false ∧ leNat (seen s .act 0 1) = 1 ∧ Clear s .act 0 32 16 ∧ fld tab 127 32 = 0 ∧ fld tab 255 184 = 0 ∧
    64 ≤ fld tab 159 128 ∧ fld tab 159 128 - 64 < 2 ^ 16 ∧ fld tab 159 128 < 65 := by
  refine ⟨by unfold Room; decide +kernel, by decide +kernel, by decide +kernel, by decide +kernel, clear_of rfl (by decide +kernel), ?_⟩
  decide +kernel

/-- BucketSelect: the largest table, at the end of the buffer's first 1,040 bytes. -/
theorem wit_bucket_select_largest : leNat (seen (bucketTable 64) .act 0 1) = 64 ∧ Clear (bucketTable 64) .act 0 (16 * 65) 16 :=
  ⟨by decide +kernel, clear_of rfl (by decide +kernel)⟩

/-- SystemRegisters: a context with and one without the right to P registers. -/
theorem wit_system_registers : Room (due 63) 1 ∧ base.me.mode.getLsbD 3 = false ∧
    (base.setMe { base.me with mode := 8 }).me.mode.getLsbD 3 = true ∧ (0 : BitVec 12) ≠ 1 := by
  unfold Room; decide +kernel

/-- OwnershipAndStops: both owners; no write of the bank pending, one in the bundle, and one due at either end of the bank; a core with a copy; suspensions with and without an open gather. -/
theorem wit_ownership : base.arch.bankC = false ∧ Room (due 63) 1 ∧ (∀ d ∈ base.cur.vdests, d < 32 ∨ 47 < d) ∧
    (∀ e ∈ (due 63).arch.dueRegs, e.dest = .scalar 1) ∧
    (let s := { base with cur := { base.cur with vdests := [32, 47] } }; ∃ d ∈ s.cur.vdests, 32 ≤ d ∧ d ≤ 47) ∧
    inScope .core base.cur.core 0 = true ∧ (base.cluster (clusterOf 0)).power = .run ∧ (0 : Nat) ∈ base.cores.map (·.1) ∧
    base.cur.susp = false ∧ gatherPending base.arch = false ∧ gatherPending (base.arch.wrG 7 (some ⟨0, 1, 0⟩)) = true ∧
    (∀ n ∈ [32, 47], let s := base.setArch { base.arch with dueRegs := [⟨.vec n, 0, 5, 0, false, none, 0⟩] }
      s.arch.bankC ≠ true ∧ ∃ e ∈ s.arch.dueRegs, e.dest = .vec n ∧ 32 ≤ n ∧ n ≤ 47) ∧
    (let s := base.setMe { base.me with withhold := [.store 0 [(0, 1)]] }; ∀ e ∈ s.me.withhold, e = .store 0 [(0, 1)]) ∧
    ({ base with cur := { base.cur with susp := true } } : State).cur.susp = true ∧ base.me.preempt = false ∧ base.me.softCancel = false ∧
    base.me.leaseStop = false := by
  unfold Room; decide +kernel


/-! Vector and matrix statements. -/

/-- The same device after LEND: bank C is the M slot's. -/
def lent : State := (due 63).setArch { (due 63).arch with bankC := true }

/-- VectorFloat, Transcendentals, VectorInteger, PermuteAndConvert, Reductions, DotProducts: each slot at the edges of its registers, with bank C and
without. -/
theorem wit_banks : Room lent 1 ∧ OwnV (due 63) [0, 31, 32, 47] ∧ OwnV lent [0, 31, 48] ∧ OwnM lent [32, 47, 48, 63] ∧ OwnM (due 63) [48, 63, 31] ∧
    tyFloat .bf16 = true ∧ tyFloat .n16 = false ∧ (0x10 : BitVec 15).getLsbD 4 = true ∧ (0x0F : BitVec 15).getLsbD 4 = false := by
  refine ⟨by unfold Room; decide +kernel, ?_, ?_, ?_, ?_, by decide⟩ <;> first | unfold OwnV | unfold OwnM
  · exact fun h => absurd h (by decide +kernel)
  · exact fun _ => by decide
  · exact fun h => absurd h (by decide +kernel)
  · exact fun _ => by decide

theorem real_one (f : Fmt) (a : Nat) (m : Nat) (e : ℤ) (h : fpDecode f a = .fin false m e) : HasValue f a (m * 2 ^ e) :=
  ⟨false, m, e, h, by simp⟩
/-- RoundingIsNearest: a number between two encodings, the largest finite number of the format and one beyond it. -/
theorem wit_rounding : ((1 : ℝ) * (3 : ℕ) * 2 ^ (-1 : ℤ) ≠ 0) ∧ |(1 : ℝ) * (3 : ℕ) * 2 ^ (-1 : ℤ)| ≤ 6 ∧ HasValue fmtE2M1 (fmtE2M1.maxEnc false) 6 ∧
    (6 : ℝ) < |(1 : ℝ) * (7 : ℕ) * 2 ^ (0 : ℤ)| ∧ HasValue fmtF32 0x3F800000 1 := by
  refine ⟨by norm_num, by norm_num [abs_of_pos], ?_, by norm_num, ?_⟩
  · have := real_one fmtE2M1 (fmtE2M1.maxEnc false) 3 1 (by decide)
    norm_num at this; exact this
  · have := real_one fmtF32 0x3F800000 (2 ^ 23) (-23) (by decide)
    norm_num at this; exact this
/-- OperationsAreExact: values and a group's terms; operands of a reciprocal, a reciprocal root, a power and a logarithm. -/
theorem wit_exact : IsReal (.fin false 3 (-1)) (3 / 2) ∧ IsReal (.fin true 3 (-1)) (-(3 / 2)) ∧ (3 / 2 : ℝ) + -(3 / 2) = 0 ∧
    (let t : Term := ⟨.fin false 1 0, .fin false 1 10, 127, 127⟩
     t.sa ≠ 255 ∧ t.sb ≠ 255 ∧ IsReal t.a 1 ∧ IsReal t.b 1024 ∧ (2 : ℝ) ^ (10 : ℤ) ≤ |1 * 1024 * 2 ^ ((t.sa : ℤ) - 127) * 2 ^ ((t.sb : ℤ) - 127)| ∧
     |1 * 1024 * 2 ^ ((t.sa : ℤ) - 127) * 2 ^ ((t.sb : ℤ) - 127)| < (2 : ℝ) ^ (10 + 1 : ℤ)) ∧
    HasValue fmtF16 0x7BFF 65504 ∧ HasValue fmtF16 0x4000 2 ∧ |(1 / 2 : ℝ)| ≤ 65504 ∧ 1 / √(2 : ℝ) ≤ 65504 ∧ (2 : ℝ) = (2 : ℤ) ∧ (2 : ℝ) ^ (2 : ℤ) ≤ 65504 ∧
    (2 : ℝ) = 2 ^ (1 : ℤ) ∧ HasValue fmtF16 0x3C00 1 := by
  refine ⟨⟨false, 3, -1, rfl, by norm_num⟩, ⟨true, 3, -1, rfl, by norm_num⟩, by norm_num,
    ⟨by decide, by decide, ⟨false, 1, 0, rfl, by norm_num⟩, ⟨false, 1, 10, rfl, by norm_num⟩, by norm_num, by norm_num⟩,
    ?_, ?_, by norm_num [abs_of_pos], ?_, by norm_num, by norm_num, by norm_num, ?_⟩
  · have := real_one fmtF16 0x7BFF 2047 5 (by decide)
    norm_num at this; exact this
  · have := real_one fmtF16 0x4000 1024 (-9) (by decide)
    norm_num at this; exact this
  · have h : 1 ≤ √(2 : ℝ) := by rw [show (1 : ℝ) = √1 by simp]; exact Real.sqrt_le_sqrt (by norm_num)
    calc 1 / √(2 : ℝ) ≤ 1 := by rw [div_le_one (by linarith)]; exact h
      _ ≤ 65504 := by norm_num
  · have := real_one fmtF16 0x3C00 1024 (-10) (by decide)
    norm_num at this; exact this

/-- CompareAndSelect: VMOVS either way, at its last lane. -/
theorem wit_insert_extract : (Instr.vmovs ⟨0, 47, 12, .i8, 0, 0x80FF⟩).WellFormed ∧ (0x80FF : BitVec 16).getLsbD 15 = true ∧
    (Instr.vmovs ⟨47, 0, 12, .i8, 0, 0x00FF⟩).WellFormed ∧ (0x00FF : BitVec 16).getLsbD 15 = false := by
  unfold Instr.WellFormed; decide

/-- A stream with elements of `u` units, one of them arrived, `c` consumed. -/
def streamed (u : Nat) (c : Nat) : State :=
  let s := (due 63).setArch ((due 63).arch.wrQ 15 (some ⟨64, 3, u, none, c⟩))
  s.setMe { s.me with arrived := [(15, 1)] }

/-- VectorMemory: the last 256 bytes of each buffer under all lanes, no lane at an odd address, the last word of a gather, a stream with and without an
element. -/
theorem wit_vector_memory :
    rdK base 0 ≠ 0 ∧ (2 ^ 21 - 256) % 64 = 0 ∧ (∀ j, j < 64 → Inside (due 63) .act (2 ^ 21 - 256 + 4 * j) 4) ∧
    (2 ^ 19 - 256) % 64 = 0 ∧ (∀ j, j < 64 → Inside (due 63) .acc (2 ^ 19 - 256 + 4 * j) 4) ∧
    rdK base 1 = 0 ∧ Clear (due 63) .act (2 ^ 21 - 4) 4 4 ∧
    (streamed 4 0).errs = [] ∧ Room (streamed 4 0) 1 ∧ OwnV (streamed 4 0) [47] ∧ (streamed 4 0).arch.rdQ 15 = some ⟨64, 3, 4, none, 0⟩ ∧
    streamReady (streamed 4 0).me 15 = true ∧ streamReady (streamed 4 1).me 15 = false := by
  refine ⟨by decide +kernel, by decide, fun j h => inside_of rfl ?_, by decide, fun j h => inside_of rfl ?_, by decide +kernel, clear_of rfl (by decide +kernel),
    by decide +kernel, by unfold Room; decide +kernel, fun h => absurd h (by decide +kernel), by decide +kernel⟩
  · rw [show spaceBounds (due 63) .act = (0, 2097152) by decide +kernel]; dsimp only; omega
  · rw [show spaceBounds (due 63) .acc = (0, 524288) by decide +kernel]; dsimp only; omega

/-- A valid shape record of 8 by 8 by 64 bytes, not derived yet (R183). -/
def shapeRec : Nat := 2 ^ 240 + 8 * 2 ^ 168 + 8 * 2 ^ 152 + 64 * 2 ^ 128 + 512 * 2 ^ 104 + 2 ^ 96
/-- The record at activation address 32, its padding at h1 and a bad one at h2; s1 to s3 hold operands. -/
def shaped : State :=
  let s := poked (due 63) 32 (leBytes 32 shapeRec)
  s.setArch (((((s.arch.wrH 1 (BitVec.ofNat 256 (shapeDerive shapeRec))).wrH 2 0).wrS 1 32).wrS 2 (2 ^ 21 - 64)).wrS 3 0xFFFFFFFF)

/-- LatchesAndEngineWords: the last latch image of each buffer, a stream of 34 units, room for one latch more, values in and out of a word's limits, records
in and out of theirs. -/
theorem wit_latches : (due 63).errs = [] ∧ (due 63).arch.dueLatches.length < 8 ∧ Clear (due 63) .wt (2 ^ 26 - 2176) 2176 64 ∧
    Clear (due 63) .act (2 ^ 21 - 2176) 2176 64 ∧ (streamed 34 0).arch.rdQ 15 = some ⟨64, 3, 34, none, 0⟩ ∧
    streamReady (streamed 34 0).me 15 = true ∧ streamReady (streamed 34 1).me 15 = false ∧
    engWordOk 0 256 = true ∧ engWordOk 0 257 = false ∧ Room shaped 1 ∧ shaped.errs = [] ∧ (rdS shaped 1).toNat = 32 ∧ Clear shaped .act 32 32 32 :=
  ⟨rfl, by decide +kernel, clear_of rfl (by decide +kernel), clear_of rfl (by decide +kernel), by decide +kernel, by decide +kernel, by decide +kernel,
    by decide +kernel, by decide +kernel, by unfold Room; decide +kernel, rfl, by decide +kernel, clear_of rfl (by decide +kernel)⟩
theorem wit_shape_words : shapeOk (leNat (seen shaped .act 32 32)) = true ∧ fld (leNat (seen shaped .act 32 32)) 63 32 = 0 ∧
    shapeOk (leNat (seen base .act 0 32)) = false ∧
    (let h := (shaped.arch.rdH 1).toNat
     shapeOk h = true ∧ shapeOk (setFld h 84 64 (rdS shaped 2).toNat) = true ∧ (rdS shaped 2).toNat < 2 ^ 21 ∧ (rdS shaped 3).toNat < 2 ^ 32 ∧
     shapeOk (setFld (setFld (setFld (setFld h 215 208 255) 207 200 255) 199 192 255) 191 184 255) = true) ∧
    shapeOk (shaped.arch.rdH 2).toNat = false := by decide +kernel

/-- An array set-up of 4 live rows of 64 bytes from row 4092 on. -/
def arrayState : State :=
  shaped.setArch { shaped.arch with mSh := { MSet.reset with rows := 4, acc := 0x010000 + 4092, astride := 64 } }

theorem array_fits_of {s : State} (hf : s.forms = []) {rows : List (Nat × ARow × Nat)} {scales : Option Nat} {nb m : Nat}
    (h : (∀ r ∈ rows, stagedLate s.arch r.2.2 (m + latency s 8) = false) ∧
      (∀ q ∈ arrayReads s.arch.mSh rows nb scales, (spaceBounds s .act).1 ≤ q.1 ∧ q.1 + q.2 ≤ (spaceBounds s .act).2) ∧
      (∀ r ∈ rows, (spaceBounds s .acc).1 ≤ 128 * r.2.2 ∧ 128 * r.2.2 + 128 ≤ (spaceBounds s .acc).2) ∧
      s.arch.groups.length < 16 ∧ stagedRows s.arch + rows.length ≤ 512) : ArrayFits s rows scales nb m :=
  ⟨h.1, fun q hq => inside_of hf (h.2.1 q hq), fun r hr => inside_of hf (h.2.2.1 r hr), h.2.2.2.1, h.2.2.2.2⟩

/-- ArrayStarts: the last four accumulator rows, from memory, from a vector register and through a shape record. -/
theorem wit_array_starts :
    let p := arrayState.arch.mSh
    arrayState.errs = [] ∧ fld p.kpad.toNat 7 0 < tileDepth .i8 .i8 ∧ fld p.rows.toNat 8 0 = 4 ∧
    ArrayFits arrayState (liveRows p (fun i => .mem ((2097088 - 192 + i * fld p.astride.toNat 23 0) % 2 ^ 64))) none 64 4 ∧ (2097088 - 192) % 64 = 0 ∧
    ArrayFits arrayState (liveRows p (fun i => .vec (64 * i))) none 64 4 ∧
    ArrayFits arrayState (liveRows p (convRow (arrayState.arch.rdH 1).toNat 0)) none 64 4 ∧ convBad (arrayState.arch.rdH 1).toNat 0 = false := by
  refine ⟨rfl, by decide +kernel, by decide +kernel, array_fits_of rfl ?_, by decide, array_fits_of rfl ?_, array_fits_of rfl ?_, ?_⟩ <;> decide +kernel

/-- AccumulatorRows: 128 rows up to the last one, and drains of the last rows into a register and into the last bytes of the buffer. -/
theorem wit_accumulator_rows :
    (∀ r ∈ (List.range 128).map (3968 + ·), stagedLate base.arch r (latency base 0) = false) ∧
    (∀ r ∈ (List.range 128).map (3968 + ·), Inside base .acc (128 * r) 128) ∧ base.arch.groups.length < 16 ∧ stagedRows base.arch + 128 ≤ 512 ∧
    (0xB0 : BitVec 8).getLsbD 7 = true ∧ (∀ i, i < 2 → Inside base .acc (128 * (4094 + i)) 128) ∧
    (0x01 : BitVec 8).getLsbD 7 = false ∧ Clear base .act (2 ^ 21 - 256) (4 * 32 * 2) (4 * 32) := by
  refine ⟨by decide +kernel, fun r h => inside_of rfl ?_, by decide +kernel, by decide +kernel, by decide, fun i h => inside_of rfl ?_, by decide, clear_of rfl (by decide +kernel)⟩
  · rw [show spaceBounds base .acc = (0, 524288) by decide +kernel]; simp at h; obtain ⟨a, h1, h2⟩ := h; subst h2; dsimp only; omega
  · rw [show spaceBounds base .acc = (0, 524288) by decide +kernel]; dsimp only; omega

/-- DotProducts: 16 rows of 32 bytes at the end of the weight buffer, with and without scales. -/
def dotState : State := (due 63).setArch { (due 63).arch with dSh := { DSet.reset with wstride := 32 } }
theorem wit_dot_products : dotState.errs = [] ∧ Room dotState 1 ∧ OwnM dotState [48, 63] ∧ fld dotState.arch.dSh.mode.toNat 15 8 < dotDepth .e2m1 ∧
    (67108864 - 1088) % 32 = 0 ∧ fld dotState.arch.dSh.wstride.toNat 23 0 % 32 = 0 ∧
    (∀ l, l < 16 → Inside dotState .wt ((67108864 - 1088 + l * fld dotState.arch.dSh.wstride.toNat 23 0) % 2 ^ 64) 32) ∧
    isScaled .e2m1 (dotState.arch.dSh.mode.getLsbD 1) = true ∧ isScaled .n4 (dotState.arch.dSh.mode.getLsbD 1) = false ∧
    (∀ l, l < 16 → Inside dotState .wt (wrapInt 64 (((67108864 - 1088 : Nat) : Int) + sx 32 dotState.arch.dSh.wscale.toNat + (2 * l : Nat))) 2) := by
  refine ⟨rfl, by unfold Room; decide +kernel, fun _ => by decide, by decide +kernel, by decide, by decide +kernel, fun l h => inside_of rfl ?_,
    by decide +kernel, by decide +kernel, fun l h => inside_of rfl ?_⟩
  · exact (show ∀ l, l < 16 → (spaceBounds dotState .wt).1 ≤ (67108864 - 1088 + l * fld dotState.arch.dSh.wstride.toNat 23 0) % 2 ^ 64 ∧
      (67108864 - 1088 + l * fld dotState.arch.dSh.wstride.toNat 23 0) % 2 ^ 64 + 32 ≤ (spaceBounds dotState .wt).2 by decide +kernel) l h
  · exact (show ∀ l, l < 16 → (spaceBounds dotState .wt).1 ≤ wrapInt 64 (((67108864 - 1088 : Nat) : Int) + sx 32 dotState.arch.dSh.wscale.toNat + (2 * l : Nat)) ∧
      wrapInt 64 (((67108864 - 1088 : Nat) : Int) + sx 32 dotState.arch.dSh.wscale.toNat + (2 * l : Nat)) + 2 ≤ (spaceBounds dotState .wt).2 by decide +kernel) l h


/-- VectorMemory: lanes below the bounds, across their end and misaligned, the lowest and the highest lane alone, a ciphertext line, a stream of another size. -/
theorem wit_vector_traps :
    (let s := bounded.setArch ((bounded.arch.wrK 1 1).wrK 2 (2 ^ 63))
     rdK s 1 ≠ 0 ∧ 4 % 64 ≠ 0 ∧ 448 % 64 = 0 ∧ (rdK s 1).getLsbD 0 = true ∧ 448 + 4 * 0 < (spaceBounds s .act).1 ∧
     (rdK s 2).getLsbD 63 = true ∧ 832 % 64 = 0 ∧ (spaceBounds s .act).2 < 832 + 4 * 63 + 4 ∧ 5 % 4 ≠ 0) ∧
    (let s := bounded.setForm 0 2 true
     (∀ m, m < 64 → ¬ (512 + 4 * m < (spaceBounds s .act).1 ∨ (spaceBounds s .act).2 < 512 + 4 * m + 4)) ∧ s.form s.cur.core ((512 + 4 * 0) / 256) = true) ∧
    OwnV (streamed 34 0) [47] ∧ (streamed 34 0).arch.rdQ 15 = some ⟨64, 3, 34, none, 0⟩ ∧ (due 63).arch.rdQ 15 = none := by
  refine ⟨by decide +kernel, by decide +kernel, fun h => absurd h (by decide +kernel), by decide +kernel⟩
/-- LatchesAndEngineWords: misaligned and out-of-bounds images, no stream and one of another size, a padding and a base out of range. -/
theorem wit_latch_traps : 32 % 64 ≠ 0 ∧ (2 ^ 26 - 64) % 64 = 0 ∧ (spaceBounds (due 63) .wt).1 ≤ 2 ^ 26 - 64 ∧ (spaceBounds (due 63) .wt).2 < 2 ^ 26 - 64 + 2176 ∧
    (448 % 64 = 0 ∧ 448 < (spaceBounds bounded .act).1) ∧ (due 63).arch.rdQ 15 = none ∧ (streamed 4 0).arch.rdQ 15 = some ⟨64, 3, 4, none, 0⟩ ∧
    ¬ ((2 ^ 32 : Nat) < 2 ^ 32) ∧ ¬ ((2 ^ 21 : Nat) < 2 ^ 21) := by decide +kernel

/-! Statements about the E slot and what its commands do. -/

/-- Page tables of address space 0: virtual bytes 0 to 2^32 are themselves, those from 2^40 on are host addresses, and page 2^41 is shared (R287, R288). -/
def paged (s : State) : State :=
  let t := { s with asids := [(0, BitVec.ofNat 128 (1 + 2 ^ 64))] }
  (((((((t.put 0x1000 (leBytes 16 0x2001)).put 0x1010 (leBytes 16 0x3001)).put 0x1020 (leBytes 16 0x4001)).put 0x2000 (leBytes 16 0x33)).put
    0x3000 (leBytes 16 0xB3)).put 0x4000 (leBytes 16 0x5001)).put 0x5000 (leBytes 16 0x6001)).put 0x6000 (leBytes 16 0x100133)

/-- Registers that hold the operands' ends of range. -/
def opers : State := (due 63).setArch ([(1, 2 ^ 21 - 64), (2, 1), (3, 2 ^ 24 - 1), (4, 2 ^ 21 - 16), (5, 4096), (6, 4097), (7, 2 ^ 21 - 256),
  (8, 2 ^ 23 - 1), (9, 2 ^ 23), (10, 2 ^ 31), (11, 2 ^ 31 - 1), (12, 2 ^ 21 - 65536), (13, 2 ^ 21 - 32), (14, 8), (15, 2 ^ 21 - 4112), (16, 2 ^ 21 - 48)].foldl
  (fun a x => a.wrS x.1 (BitVec.ofNat 64 x.2)) (due 63).arch)

/-- Counters: a semaphore at and off its threshold, barriers armed and not, the greatest change and one above it, both halves of the transfer IDs. -/
theorem wit_counters : Room opers 1 ∧ holds .ge false (Tab.get 0 opers.cur.sems 9 : BitVec 16) 0 = true ∧ holds .ge false (Tab.get 0 opers.cur.sems 9 : BitVec 16) 1 = false ∧
    tbArmed (opers.arch.rdTb 31) = false ∧ (rdS opers 8).toNat < 2 ^ 23 ∧ 2 ^ 23 ≤ (rdS opers 9).toNat ∧
    tbArmed ((opers.arch.wrTb 31 (tbMake false true false 5)).rdTb 31) = true ∧ (0 : BitVec 16).toNat = b2n (tbPhase (opers.arch.rdTb 31)) ∧
    (1 : BitVec 16).toNat ≠ b2n (tbPhase (opers.arch.rdTb 31)) ∧
    2 ^ 31 ≤ ((rdS opers 10).setWidth 32 - opers.arch.rdId 7).toNat ∧ ((rdS opers 11).setWidth 32 - opers.arch.rdId 7).toNat < 2 ^ 31 := by
  unfold Room; decide +kernel

/-- CopyCommands: the last image, no record and the last one, a bound stream, one and the most elements of a gather. -/
def bound : State := opers.setArch (opers.arch.wrQ 15 (some ⟨64, 3, 4, none, 0⟩))
theorem wit_copy_commands : Room bound 1 ∧ bound.cur.trapped = false ∧ RecordFits bound 0 16 ∧ RecordFits bound 4 16 ∧ (rdS bound 1).toNat = 2 ^ 21 - 64 ∧
    Clear bound .act (2 ^ 21 - 64) 64 64 ∧ erFl ⟨0, 1, 2, 4, 7, 0, 15, 0x400, 0⟩ 18 18 = 1 ∧ erFl ⟨0, 1, 2, 4, 7, 0, 0, 0, 0⟩ 18 18 = 0 ∧
    bound.arch.rdQ 15 = some ⟨64, 3, 4, none, 0⟩ ∧ (rdS bound 2).toNat = 1 ∧ (rdS bound 3).toNat + 1 = 2 ^ 24 ∧ bound.arch.rdG 7 = none :=
  ⟨by unfold Room; decide +kernel, rfl, .inl rfl, .inr (clear_of rfl (by decide +kernel)), by decide +kernel, clear_of rfl (by decide +kernel), by decide, by decide,
    by decide +kernel⟩

/-- AtomicAndSealCommands: contexts with and without a key, 1 line and 256 lines with their records, a signal address. -/
def confidential : State := opers.setMe { opers.me with mode := 4 }
theorem wit_cipher_commands : Room confidential 1 ∧ confidential.cur.trapped = false ∧ opers.me.mode.getLsbD 2 = false ∧ confidential.me.mode.getLsbD 2 = true ∧
    Clear confidential .act (rdS confidential 4).toNat 16 16 ∧ (rdS confidential 7).toNat % 256 = 0 ∧ (spaceBounds confidential .act).1 ≤ (rdS confidential 7).toNat ∧
    (rdS confidential 7).toNat + 256 * 1 ≤ (spaceBounds confidential .act).2 ∧ Clear confidential .act 0 (32 * 1) 32 ∧
    (0 + 32 * 1 ≤ (rdS confidential 7).toNat) ∧ (rdS confidential 12).toNat + 256 * 256 ≤ (spaceBounds confidential .act).2 ∧ Clear confidential .act 0 (32 * 256) 32 ∧
    signalFlaw (rdS confidential 14).toNat = none :=
  ⟨by unfold Room; decide +kernel, rfl, by decide +kernel, by decide +kernel, clear_of rfl (by decide +kernel), by decide +kernel, by decide +kernel, by decide +kernel,
    clear_of rfl (by decide +kernel), by decide +kernel, by decide +kernel, clear_of rfl (by decide +kernel), by decide +kernel⟩

/-- KeyValueCommands: images and blocks that end at the buffer's end, 1 and 4,096 entries, and 0 and 4,097. -/
theorem wit_key_value_commands : Clear opers .act (rdS opers 1).toNat 64 64 ∧ RecordFits opers 4 16 ∧ RecordFits opers 16 48 ∧ RecordFits opers 15 (16 + 4096) ∧
    Clear opers .act 0 (16 * (rdS opers 5).toNat) 16 ∧ (rdS opers 5).toNat = 4096 ∧ (rdS opers 2).toNat = 1 ∧ (rdS opers 0).toNat = 0 ∧ 4096 < (rdS opers 6).toNat :=
  ⟨clear_of rfl (by decide +kernel), .inr (clear_of rfl (by decide +kernel)), .inr (clear_of rfl (by decide +kernel)), .inr (clear_of rfl (by decide +kernel)),
    clear_of rfl (by decide +kernel), by decide +kernel⟩

/-- Job 0 without restrictions, its launch slot 0 with a bitmap of 8 bits at address 2^16. -/
def job0 : Job := { freshJob 0 none with pool := [(0, BitVec.ofNat 1024 (8 * 2 ^ 813 + 2 ^ 16 * 2 ^ 480 + 2 * 2 ^ 1020))] }
def jobbed : State := (paged opers).setJob 0 (some job0)

/-- CommandsWithoutId: a bound and a free stream, a system job's context and another, injections that are allowed and not, the bitmap's last bit and the
one after it. -/
theorem wit_commands_without_id : RecordFits bound 4 16 ∧ bound.arch.rdQ 0 = none ∧ bound.arch.rdQ 15 = some ⟨64, 3, 4, none, 0⟩ ∧ bound.me.mode.getLsbD 3 = false ∧
    (bound.setMe { bound.me with mode := 8 }).me.mode.getLsbD 3 = true ∧ injectOk 3 (2 ^ 21 - 1) 0 = true ∧ injectOk 3 (2 ^ 21) 0 = false ∧
    jobbed.job jobbed.me.job = some job0 ∧ lrBitmap (poolRec job0 0) ≠ 0 ∧ 7 < lrBitmapBits (poolRec job0 0) ∧ lrBitmapBits (poolRec job0 0) ≤ 8 ∧
    lrBitmap (poolRec job0 1) = 0 :=
  ⟨.inr (clear_of rfl (by decide +kernel)), by decide +kernel⟩

/-- Channel 7 with a gather of one element left, its address queue holding `n`. -/
def gathering (n : Nat) : State :=
  let s := opers.setArch (opers.arch.wrG 7 (some ⟨15, 1, 0⟩))
  s.setMyCore { s.myCore with addrQ := [(addrQKey s.me.job s.me.recAddr 7, List.replicate n 0)] }

/-- A context whose stream 15 was bound and is being released. -/
def releasing : State := opers.setMe { opers.me with withhold := [.cmd 0 (commandOf opers 9 0 0 (.srel 15 none))] }
/-- The one command of context 0 on core 0, its number 1, on channel 5. -/
def cmdOf (k : CmdKind) (ph : Phase) : Cmd := ⟨1, 0, 5, 9, 0, 0, 4, k, ph, loadedCart, 0, []⟩
/-- StreamsAndWaits: the largest ring of slots, a bound and a free register, a release still withheld, 63 and 64 addresses queued, a signal that answers,
waits or cannot be read, and a bitmap's bit that is set, clear, absent and not readable. -/
theorem wit_streams_and_waits : (0 : Nat) % 64 = 0 ∧ (spaceBounds opers .act).1 = 0 ∧ 0 + 64 * 64 * 63 ≤ (spaceBounds opers .act).2 ∧ opers.arch.rdQ 15 = none ∧
    srelHeld opers.me 15 = false ∧ releasing.arch.rdQ 15 = none ∧ srelHeld releasing.me 15 = true ∧ bound.arch.rdQ 15 ≠ none ∧
    ((Instr.sbind ⟨0, 20, 0, 0, 0, 0, 2, 34, 3⟩).WellFormed ∧ 32 % 64 ≠ 0 ∧ (2 ^ 21 - 64) % 64 = 0 ∧ (spaceBounds opers .act).1 ≤ 2 ^ 21 - 64 ∧
      (spaceBounds opers .act).2 < 2 ^ 21 - 64 + (3 + 1) * 64 * 34 ∧ 448 % 64 = 0 ∧ 448 < (spaceBounds bounded .act).1) ∧
    (opers.arch.wrG 7 (some ⟨15, 0, 1⟩)).rdG 7 = some ⟨15, 0, 1⟩ ∧ (gathering 63).arch.rdG 7 = some ⟨15, 1, 0⟩ ∧ addrQHeld (gathering 63).myCore 7 = 63 ∧ addrQHeld (gathering 64).myCore 7 = 64 ∧ opers.arch.rdG 7 = none := by
  unfold Instr.WellFormed; decide +kernel
/-- A SIGWT on channel 7 of the signal object that s20 addresses, and what it reads there. -/
def sigF : EC := ⟨0, 0, 7, 4, 20, 21, .ge, 0⟩
def readsWord (s : State) (a : Nat) : Except (Nat × Nat) Nat := (sigwtRead sigF (s.setArch (s.arch.wrS 20 (BitVec.ofNat 64 a)))).2
theorem wit_waits :
    signalFlaw 0x10000 = none ∧ (sigwtRead sigF jobbed).1.arch.dueRegs.length + 1 ≤ 64 ∧ readsWord jobbed 0x10000 = .ok 0 ∧ condHolds .eq (sx 64 0) 0 = true ∧ 0 ≤ sx 64 0 ∧ condHolds .ne (sx 64 0) 0 = false ∧
    readsWord (jobbed.put 0x10000 (leBytes 8 (2 ^ 64 - 1))) 0x10000 = .ok (2 ^ 64 - 1) ∧ sx 64 (2 ^ 64 - 1) < 0 ∧
    readsWord (jobbed.poisonAt 0x10000) 0x10000 = .error (stPoison, 0) ∧
    signalFlaw (5 * 2 ^ 60 + 2 ^ 40) = none ∧ (match readsWord { jobbed with hostPort := false } (5 * 2 ^ 60 + 2 ^ 40) with
      | .error x => !sigwtEnds x | .ok _ => false) = true ∧
    (match readsWord (opers.setJob 0 (some job0)) 0x10000 with | .error x => x == (stBound, 1) | .ok _ => false) = true ∧
    (postNotice (opers.setJob 0 (some job0)) 0 nkFault 0x10000 (2 * 2 ^ 60 + 7 * 2 ^ 32)).arch.dueRegs.length + 1 ≤ 64 ∧
    bitmapOutcome (opers.setJob 0 (some job0)) 0 0x10000 7 = some none ∧ bitmapOutcome jobbed 0 0x10000 7 = none ∧ bitmapOutcome (jobbed.put 0x10000 [0x80]) 0 0x10000 7 = some (some 1) ∧ bitmapOutcome jobbed 0 0x10000 8 = some (some 2) := by
  decide +kernel


/-- A device whose core 0 holds it. -/
def held (s : State) (k : CmdKind) (ph : Phase) : State := s.setCore 0 { s.core 0 with cmds := [cmdOf k ph] }
/-- It is found and may be performed. -/
abbrev Ready1 (s : State) (k : CmdKind) (ph : Phase) : Prop :=
  findCmd (held s k ph) 0 1 = some (cmdOf k ph) ∧ mayPerform (held s k ph) 0 (cmdOf k ph) = true ∧ mayPerform (held s k ph) 0 (cmdOf k ph) = true

/-- Whether an access went through. -/
def went {α : Type} (x : State × Except (Nat × Nat) α) : Bool := match x.2 with
  | .ok _ => true
  | .error _ => false
theorem went_ok {α : Type} {x : State × Except (Nat × Nat) α} (h : went x = true) : ∃ t v, x = (t, .ok v) := by
  obtain ⟨t, e | v⟩ := x
  · cases h
  · exact ⟨t, v, rfl⟩

/-- A copy of 64 bytes from 0x10000 to 0x20000, and a gather's image of 64-byte rows at 0x10000. -/
def copyImage : Nat := 2 * 2 ^ 476 + 0x10000 * 2 ^ 192 + 0x20000 * 2 ^ 128 + 64 * 2 ^ 104
def gatherImage : Nat := 3 * 2 ^ 476 + 0x10000 * 2 ^ 192 + 64 * 2 ^ 40 + 64 * 2 ^ 16
/-- A ring descriptor of kind `k` with `2^n` slots at `b`, `w` entries written (R246). -/
def ringAt (k n b w : Nat) : Nat := w * 2 ^ 448 + b * 2 ^ 320 + k * 2 ^ 316 + n * 2 ^ 311
/-- Device memory with an empty ring at 0x30000 whose slots stand at 0x40000. -/
def ringed : State := jobbed.put 0x30000 (leBytes 64 (ringAt 1 4 0x40000 0))

/-- ChannelPerforms: a malformed and a good copy, one refused before, an element of a gather, a ring with room, words that are readable and writable. -/
theorem wit_channel_copies : Ready1 jobbed (.cpy 0 0 none none) .queued ∧ cpyBad 0 false = true ∧
    Ready1 jobbed (.cpy copyImage 0 none none) .queued ∧ cpyBad copyImage false = false ∧ pkWaitEn copyImage = false ∧
    weightHeld (held jobbed (.cpy copyImage 0 none none) .queued) (engOf jobbed 0 (cmdOf (.cpy copyImage 0 none none) .queued)) copyImage = false ∧
    drivesOf copyImage false = [] ∧
    (let k : CmdKind := .cpy copyImage 0 none (some 15)
     let ph : Phase := .moving { Prog.start with tries := 15 }
     Ready1 jobbed k ph ∧ weightHeld (held jobbed k ph) (engOf (held jobbed k ph) 0 (cmdOf k ph)) copyImage = false) :=
  by decide +kernel
theorem wit_channel_gather :
    let k : CmdKind := .gath gatherImage 1 0 none 15
    let ph : Phase := .stream 0 Prog.start
    let s := fun (x : Word) => held (opers.setMyCore { opers.myCore with addrQ := [(addrQKey 0 0 5, [x])] }) k ph
    Ready1 (opers.setMyCore { opers.myCore with addrQ := [(addrQKey 0 0 5, [0])] }) k ph ∧
    (cmdOf k ph).job = 0 ∧ (cmdOf k ph).owner = 0 ∧ (cmdOf k ph).ch = 5 ∧ 
    Tab.get [] ((s 0).core 0).addrQ (addrQKey 0 0 5) = [0] ∧ Tab.get [] ((s 1).core 0).addrQ (addrQKey 0 0 5) = [1] ∧
    pathOf (gaTable gatherImage) ≠ 7 ∧ rowAt gatherImage 0 % pathUnit (gaTable gatherImage) = 0 ∧
    weightHeldAt (s 0) (rowAt gatherImage 0) (gaRowBytes gatherImage) = false ∧ rowAt gatherImage 1 % pathUnit (gaTable gatherImage) = 0 := by decide +kernel
theorem wit_channel_append :
    let k : CmdKind := .qapp 0x30000 copyImage 0
    let s := held ringed k (.claimed 15 0)
    Ready1 ringed k (.claimed 15 0) ∧ (∃ s1 b, readBlk s (engOf s 0 (cmdOf k .queued)) 0x30000 64 false = (s1, .ok b)) ∧
    (15 + 2 ^ 64 - rdRead (ringAt 1 4 0x40000 0)) % 2 ^ 64 < 2 ^ rdLog2 (ringAt 1 4 0x40000 0) ∧
    (∃ s2 u, writeBlk s (engOf s 0 (cmdOf k .queued)) 0x403C0 (leBytes 64 (setFld copyImage 511 480 15)) false false = (s2, .ok u)) ∧
    allPerformed s 0 (cmdOf k (.claimed 15 0)) = true :=
  ⟨by decide +kernel, went_ok (by decide +kernel), by decide +kernel, went_ok (by decide +kernel), by decide +kernel⟩
theorem wit_channel_words :
    (let k : CmdKind := .atom 0x10000 1 0 0 7 true true
     let s := held jobbed k .queued
     Ready1 jobbed k .queued ∧ (cmdOf k .queued).performed = false ∧
     ∃ s1 v, atomicOp s (engOf s 0 (cmdOf k .queued)) 0x10000 7 true true 1 0 = (s1, .ok v)) ∧
    (let k : CmdKind := .sigadd 0x10000 1
     let s := held jobbed k .queued
     Ready1 jobbed k .queued ∧ ∃ s1 v, rmwWord s (engOf s 0 (cmdOf k .queued)) 0x10000 8 false (· + 1) = (s1, .ok v)) ∧
    (let k : CmdKind := .bmset 0x10000 7
     let s := held jobbed k .queued
     Ready1 jobbed k .queued ∧ ∃ s1 v, rmwWord s (engOf s 0 (cmdOf k .queued)) (0x10000 + 7 / 8) 1 false (fun v => v ||| 2 ^ (7 % 8)) = (s1, .ok v)) ∧
    Ready1 jobbed .sfence .queued ∧ (held jobbed (.kvfree 0 0) (.done 0 0 0 0)).power = .on ∧ (cmdOf (.kvfree 0 0) .queued).hasId = true :=
  ⟨⟨by decide +kernel, by decide +kernel, went_ok (by decide +kernel)⟩, ⟨by decide +kernel, went_ok (by decide +kernel)⟩,
    ⟨by decide +kernel, went_ok (by decide +kernel)⟩, by decide +kernel⟩

/-- AtomicWords: the two widths that atomic operations have. -/
theorem wit_atomic_words : (0 : Nat) < 32 ∧ (0 : Nat) < 64 := by decide

/-- Tenant 1: 4 slots, 1 bucket, 8 pages a handle, lists and tables from 0x200000 on (R316). -/
def tenantBits : Nat := 2 ^ 500 + 12 * 2 ^ 494 + 7 * 2 ^ 480 + 2 * 2 ^ 466 + 0x1000000 * 2 ^ 384 + 16 * 2 ^ 360 + 0x202000 * 2 ^ 320 + 0x202040 * 2 ^ 280 +
  0x202080 * 2 ^ 240 + 0x200000 * 2 ^ 200 + 0x201000 * 2 ^ 160 + 0x203000 * 2 ^ 120 + 0x204000 * 2 ^ 80
/-- An entry of state `st` with `refs` references, under handle class read, write, 8 pages (R320). -/
def entryBits (st refs : Nat) (gz : Bool) : Nat := st * 2 ^ 485 + 0xC007 * 2 ^ 469 + refs * 2 ^ 437 + b2n gz * 2 ^ 329
/-- Handles of slots 0 and 1. -/
def hnd (slot : Nat) : Nat := mkHandle 1 0 slot 0xC007
/-- Job 0 with that tenant: slot 0 valid with a page in device memory and one nowhere, slot 1 shared by a bucket of state `b`, slot 2 retired, slot 3 revoked, and a free slot on the list. -/
def tenanted (b : Nat) : State :=
  let s := { jobbed.setJob 0 (some { job0 with tenants := [1] }) with tenants := [(1, some (BitVec.ofNat 512 tenantBits))] }
  (((((((s.put 0x200000 (leBytes 64 (entryBits 1 1 false + 2 * 2 ^ 422))).put 0x200040 (leBytes 64 (entryBits 1 2 true))).put 0x200080 (leBytes 64 (entryBits 2 0 false))).put
    0x2000C0 (leBytes 64 (entryBits 3 1 false))).put 0x201000 (leBytes 32 (5 * 2 ^ 192 + hnd 1 * 2 ^ 128 + b * 2 ^ 126))).put
    0x202040 (leBytes 64 (ringAt 5 4 0x205000 1))).put 0x205000 (leBytes 8 2)).put 0x203008 (leBytes 8 pdNone)

/-- KeyValuePerforms: a handle that passes its check and is not shared, a shared one whose bucket is pending or published, one entry of an append, a new
handle, a digest, a retired entry and a revoked one. -/
theorem wit_key_value : ∀ b ∈ [1, 2],
    let s := tenanted b
    granted s 0 1 = true ∧ check s (hnd 0) true = some stOk ∧ heRefs (readEntry s tenantBits 0) = 1 ∧ heGz (readEntry s tenantBits 0) = false ∧
    (let k : CmdKind := .kvrej (BitVec.ofNat 64 (hnd 0)) 0 0
     let x := raiseCmd (held s k .queued) 0 (cmdOf k .queued) [hnd 0]
     rejectAsks x.1 (hnd 0) 0 = [] ∧ handleRevoked x.1 (hnd 0) = false ∧ (cmdOf k .queued).atDrive = false) ∧ check s (hnd 1) false = some stOk ∧ heGz (readEntry s tenantBits 1) = true ∧ bucketOfSlot s tenantBits 1 = some 0 ∧
    bkState (readBucket s tenantBits 0) = b ∧ hdTenant (hnd 0) = hdTenant (hnd 1) ∧ hdSlot (hnd 0) = 0 ∧ hdSlot (hnd 1) = 1 ∧ tenantDesc s (hdTenant (hnd 1)) = tenantBits ∧
    (let k : CmdKind := .gzjoin (BitVec.ofNat 64 (hnd 0)) (BitVec.ofNat 64 (hnd 1)) 0
     Ready1 s k .queued ∧ (cmdOf k .queued).performed = false ∧ (cmdOf k .queued).flight = []) := by
  decide +kernel
theorem wit_key_value_new :
    let a := 1 * 2 ^ 16 + 0xC007
    let s := tenanted 2
    fld a 63 28 = 0 ∧ fld a 27 16 = 1 ∧ (fld a 15 0).testBit 14 = true ∧ fld (fld a 15 0) 13 0 < tdMaxPages (tenantDesc s 1) ∧
    (newHandle s 1 (fld a 15 0)).2 = some (mkHandle 1 0 2 0xC007) ∧ (1 : Nat) < 4096 ∧ s.power = .on ∧ 3 < 2 ^ tdTableLog2 tenantBits ∧
    heState (readEntry s tenantBits 2) = 2 ∧ heFlight (readEntry s tenantBits 2) = 0 ∧ heState (readEntry s tenantBits 3) = 3 := by
  decide +kernel
theorem wit_key_value_commands_held :
    Ready1 (tenanted 2) (.kvrej (BitVec.ofNat 64 (hnd 0)) 0 0) .queued ∧ Ready1 (tenanted 2) (.kvcommit (BitVec.ofNat 64 (hnd 0)) 0) .queued ∧
    Ready1 (tenanted 2) (.kvfree (BitVec.ofNat 64 (hnd 0)) 0) .queued ∧ Ready1 (tenanted 2) (.kvapp (hnd 0 + 0x10000 * 2 ^ 64) 1 0 1 true) .queued ∧
    fld (hnd 0 + 0x10000 * 2 ^ 64) 63 0 = hnd 0 ∧ 
    (let k : CmdKind := .kvapp (hnd 0 + 0x10000 * 2 ^ 64) 1 0 1 true
     appendAsks (raiseCmd (held (tenanted 2) k .queued) 0 (cmdOf k .queued) [hnd 0]).1 (hnd 0) 1 = [] ∧ (cmdOf k .queued).prog = Prog.start) ∧ Ready1 (tenanted 2) (.gzclaim 0x1C007 0 0 true) .queued ∧
    Ready1 (tenanted 2) (.gzclaim (BitVec.ofNat 64 (hnd 0)) 5 0 false) .queued ∧ Ready1 (tenanted 2) (.gzfind 1 5 0) .queued := by
  decide +kernel


/-- Job 0 with a key and four launch slots, slot 1 free to be armed under the level at 0x50010. -/
def job1 : Job := { freshJob (BitVec.ofNat 512 (3 * 2 ^ 459)) (some ⟨0, 0, 0, 0⟩) with pool := [(1, BitVec.ofNat 1024 (0x60000 * 2 ^ 624 + 0x50000 * 2 ^ 576 + 0x50010 * 2 ^ 528))] }
def keyed : State := ((paged base).setJob 0 (some job1)).put 0x50010 (leBytes 16 1)

/-- CipherAndScheduler: a key, a slot in the pool that may be armed and patched, the last slot's number. -/
theorem wit_cipher_and_scheduler :
    keyed.errs = [] ∧ keyed.inject = [] ∧ keyed.job 0 = some job1 ∧ job1.key = some ⟨0, 0, 0, 0⟩ ∧
    Ready1 keyed (.seal 0 256 1) .queued ∧ (cmdOf (.seal 0 256 1) .queued).performed = false ∧ Ready1 keyed (.unseal 0 256 1) .queued ∧
    Ready1 keyed (.larm 1 0 none) .queued ∧ slotBad (held keyed (.larm 1 0 none) .queued) 0 1 = false ∧
    (∃ s1 n, armLaunch (held keyed (.larm 1 0 none) .queued) 0 1 (some (ctxIdOf (held keyed (.larm 1 0 none) .queued) 0 0)) = (s1, .ok n)) ∧
    Ready1 keyed (.lpatch 3 0 0 3 none) .queued ∧ slotBad (held keyed (.lpatch 3 0 0 3 none) .queued) 0 3 = false ∧
    lrLive (launchRec (held keyed (.lpatch 3 0 0 3 none) .queued) 0 3) = false ∧ Ready1 keyed (.cancel 0 0 0 true none) .queued :=
  ⟨by decide +kernel, by decide +kernel, by decide +kernel, rfl, by decide +kernel, by decide +kernel, by decide +kernel, by decide +kernel, by decide +kernel,
    went_ok (by decide +kernel), by decide +kernel⟩

/-- OpenUndoesSeal: the first and the last line, their records at the line's edge and at the buffer's end. -/
theorem wit_open_undoes_seal : keyed.errs = [] ∧ keyed.inject = [] ∧ keyed.job 0 = some job1 ∧ job1.key = some ⟨0, 0, 0, 0⟩ ∧
    ∀ x ∈ [(0, 256), (8191, 256 * 8191 - 32), (0, 2 ^ 21 - 32)], keyed.form 0 x.1 = false ∧ x.1 < 8192 ∧ x.2 + 32 ≤ 2 ^ 21 ∧
      (x.2 + 32 ≤ 256 * x.1 ∨ 256 * x.1 + 256 ≤ x.2) := by decide +kernel

/-! Packets. -/

def ring0 : RingRef := ⟨0, 0x30000⟩
/-- The descriptor of a ring of 16 slots at 0x40000 with one packet written. -/
def oneWritten : Nat := ringAt 1 4 0x40000 1
/-- A device with that packet in the ring. -/
def packet (s : State) (p : Nat) : State := (s.put 0x30000 (leBytes 64 oneWritten)).put 0x40000 (leBytes 64 p)
/-- A packet of type `t` with body `b` (R250). -/
def pkt (t b : Nat) : Nat := t * 2 ^ 476 + b
/-- The packet may be taken up. -/
abbrev Up (s : State) (p : Nat) : Prop := serving s = true ∧ findPkt s ring0 0 = none ∧ peekPacket s ring0 0 = some (oneWritten, p, false) ∧
  packetBad p = false ∧ ringHalted s ring0 = false ∧ pkWaitEn p = false ∧ packetHeld s (ringEngine s ring0 oneWritten) (findRing s ring0).pkts p = false
theorem up_ready {s : State} {p : Nat} (h : Up s p) : PacketReady s ring0 0 oneWritten p := h

/-- RingPackets: a packet of every type but type 9, on a ring that runs; a launch with three arguments from the first, a barrier whose object is 0 or above. -/
theorem wit_ring_packets :
    Up (packet keyed (pkt 1 0)) (pkt 1 0) ∧ pkType (pkt 1 0) = 1 ∧ (pkt 1 0).testBit 255 = false ∧
    Up (packet keyed copyImage) copyImage ∧ pkType copyImage = 2 ∧ drivesOf copyImage false = [] ∧ weightHeld (takePacket (packet keyed copyImage) ring0 0 copyImage .queued) (ringEngine (packet keyed copyImage) ring0 oneWritten) copyImage = false := by decide +kernel
theorem wit_ring_indexed :
    (let p := pkt 3 (0x10000 * 2 ^ 192 + 0x20000 * 2 ^ 128 + 2 ^ 56 + 64 * 2 ^ 40 + 64 * 2 ^ 16)
     Up (packet keyed p) p ∧ pkType p = 3 ∧ drivesOf p false = [] ∧ weightHeld (takePacket (packet keyed p) ring0 0 p .queued) (ringEngine (packet keyed p) ring0 oneWritten) p = false) ∧
    (let p := pkt 4 (0x10000 * 2 ^ 192 + 0x20000 * 2 ^ 128 + 2 ^ 56 + 64 * 2 ^ 40 + 64 * 2 ^ 16)
     Up (packet keyed p) p ∧ pkType p = 4 ∧ drivesOf p false = [] ∧ weightHeld (takePacket (packet keyed p) ring0 0 p .queued) (ringEngine (packet keyed p) ring0 oneWritten) p = false) ∧
    (let p := pkt 7 0; Up (packet keyed p) p ∧ pkType p = 7 ∧ p.testBit 255 = false) := by decide +kernel
theorem wit_ring_launch :
    let p := pkt 5 (1 * 2 ^ 240 + 3 * 2 ^ 236 + 1 * 2 ^ 232)
    let u := takePacket (packet keyed p) ring0 0 p .queued
    Up (packet keyed p) p ∧ pkType p = 5 ∧ slotBad u 0 (fld p 255 240) = false ∧ fld p 235 232 + fld p 239 236 ≤ 4 ∧ lrLive (launchRec u 0 (fld p 255 240)) = false ∧
    ∃ s2 k, armLaunch ((List.range (fld p 239 236)).foldl (fun t j => patchArg t 0 (fld p 255 240) (fld p 235 232 + j) (fld p (64 * j + 63) (64 * j))) u) 0
      (fld p 255 240) none = (s2, .ok k) :=
  ⟨by decide +kernel, by decide +kernel, by decide +kernel, by decide +kernel, by decide +kernel, went_ok (by decide +kernel)⟩
theorem wit_ring_barrier_atomic :
    (let p := pkt 6 (0x2000 * 2 ^ 208 + 2 ^ 110)
     Up (packet keyed p) p ∧ pkType p = 6 ∧
     (barrierRound (ringEngine (packet keyed p) ring0 oneWritten) 0 p (fld p 111 110) 0 (takePacket (packet keyed p) ring0 0 p .queued)).2 = some true ∧
     (let s := (packet keyed p).put 0x10000 [1]
      Up s p ∧ (barrierRound (ringEngine s ring0 oneWritten) 0 p (fld p 111 110) 0 (takePacket s ring0 0 p .queued)).2 = none)) ∧
    (let p := pkt 8 (0x10000 * 2 ^ 192 + 7 * 2 ^ 60 + 2 ^ 59 + 2 ^ 58)
     let u := takePacket (packet keyed p) ring0 0 p .queued
     Up (packet keyed p) p ∧ pkType p = 8 ∧ ∃ s1 v, atomicOp u (ringEngine (packet keyed p) ring0 oneWritten) 0x10000 7 true true 0 0 = (s1, .ok v)) :=
  ⟨by decide +kernel, by decide +kernel, by decide +kernel, went_ok (by decide +kernel)⟩

/-- A ring whose one packet is taken up, in a phase. -/
def taken (p : Nat) (ph : Phase) : State := { packet keyed p with rings := [⟨ring0, [⟨0, BitVec.ofNat 512 p, ph, []⟩], false, none, 1⟩] }
/-- A wait for the object at 0x10000 to be above zero (R252). -/
def waitPkt : Nat := pkt 1 0 + 2 ^ 474 + 4 * 2 ^ 471 + 0x2000 * 2 ^ 352

/-- The descriptor that a ring's packet is served under. -/
abbrev Serves (s : State) (d : Nat) : Prop := (match ringDesc s ring0 with | some (_, v) => v | none => 0) = d
/-- PacketsHeldBack: a wait that waits, that is met and that aborts, a barrier's three ways, a malformed packet. -/
theorem wit_packets_held_back :
    (let s := taken waitPkt .waiting
     let e := ringEngine s ring0 oneWritten
     serving s = true ∧ findPkt s ring0 0 = some ⟨0, BitVec.ofNat 512 waitPkt, .waiting, []⟩ ∧ (findRing s ring0).frozen = false ∧ Serves s oneWritten ∧
     packetHeld s e (pktsBefore s ring0 0) waitPkt = false ∧
     (waitTest s e waitPkt 0).2 = none ∧ (waitTest (s.put 0x10000 [1]) e waitPkt 0).2 = some true ∧ pkType waitPkt = 1 ∧ waitPkt.testBit 255 = false ∧
     (waitTest (s.put 0x10007 [0x80]) e waitPkt 0).2 = some false) ∧
    (let p := pkt 6 (0x2000 * 2 ^ 208 + 2 ^ 110)
     let s := taken p (.claimed 0 0)
     let e := ringEngine s ring0 oneWritten
     serving s = true ∧ findPkt s ring0 0 = some ⟨0, BitVec.ofNat 512 p, .claimed 0 0, []⟩ ∧ (findRing s ring0).frozen = false ∧ pkType p = 6 ∧ Serves s oneWritten ∧
     packetHeld s e (pktsBefore s ring0 0) p = false ∧
     (barrierRound e 0 p (fld p 111 110) 0 s).2 = some true ∧ (barrierRound e 0 p (fld p 111 110) 0 (s.put 0x10000 [1])).2 = none ∧
     (barrierRound e 0 p (fld p 111 110) 0 (s.put 0x10007 [0x80])).2 = some false) ∧
    (let s := packet keyed 0
     serving s = true ∧ findPkt s ring0 0 = none ∧ peekPacket s ring0 0 = some (oneWritten, 0, false) ∧ packetBad 0 = true ∧ ringHalted s ring0 = false ∧
     signalHeld (findRing s ring0).pkts (cleanHeader 0) = false) := by decide +kernel
/-- The ring halted, with a packet of each type in it. -/
def haltedWith (p : Nat) : State := (packet keyed p).put 0x30000 (leBytes 64 (oneWritten + 2 ^ 310))
theorem wit_halted_ring : ∀ x ∈ [(1, 0), (2, copyImage), (3, 0x10000 * 2 ^ 192 + 0x20000 * 2 ^ 128 + 2 ^ 56 + 64 * 2 ^ 40 + 64 * 2 ^ 16),
    (4, 0x10000 * 2 ^ 192 + 0x20000 * 2 ^ 128 + 2 ^ 56 + 64 * 2 ^ 40 + 64 * 2 ^ 16), (5, 1 * 2 ^ 240), (6, 0x2000 * 2 ^ 208 + 2 ^ 110), (7, 0),
    (8, 0x10000 * 2 ^ 192 + 7 * 2 ^ 60 + 2 ^ 59 + 2 ^ 58), (9, 2 ^ 76), (9, 2 ^ 124 + 2 ^ 76), (9, 2 * 2 ^ 124 + 2 ^ 76), (9, 3 * 2 ^ 124 + 2 ^ 76)],
    let p := if x.1 = 2 then copyImage else pkt x.1 x.2
    let s := haltedWith p
    serving s = true ∧ findPkt s ring0 0 = none ∧ peekPacket s ring0 0 = some (oneWritten + 2 ^ 310, p, false) ∧ packetBad p = false ∧
    ringHalted s ring0 = true ∧ pkType p = x.1 ∧ isResume p = false ∧
    packetHeld s (ringEngine s ring0 (oneWritten + 2 ^ 310)) (findRing s ring0).pkts p = false := by decide +kernel
theorem wit_halted_resume :
    let p := pkt 1 (2 ^ 255)
    let s := haltedWith p
    serving s = true ∧ findPkt s ring0 0 = none ∧ peekPacket s ring0 0 = some (oneWritten + 2 ^ 310, p, false) ∧ packetBad p = false ∧
    ringHalted s ring0 = true ∧ isResume p = true ∧ pkWaitEn p = false ∧ rdHalted (oneWritten + 2 ^ 310) = true ∧
    ringDesc (takePacket s ring0 0 p .queued) ring0 = some (0x30000, oneWritten + 2 ^ 310) ∧
    packetHeld s (ringEngine s ring0 (oneWritten + 2 ^ 310)) (findRing s ring0).pkts p = false := by decide +kernel

/-- A page packet of operation `op` on one page from `i` on. -/
def pagePkt (op i a : Nat) : Nat := pkt 9 (hnd 0 * 2 ^ 192 + a * 2 ^ 128 + op * 2 ^ 124 + i * 2 ^ 100 + 2 ^ 76)
/-- PagePackets: each operation on a handle in order, with no drive to wait for; the fetch at an address that does not translate, the others going through. -/
theorem wit_page_packets : ∀ x ∈ [(0, 0, 2 ^ 41), (1, 1, 0x70000), (2, 1, 0), (3, 0, 0)],
    let p := pagePkt x.1 x.2.1 x.2.2
    let s := packet (tenanted 2) p
    let u := takePacket s ring0 0 p .queued
    Up s p ∧ pkType p = 9 ∧ kvOp p = x.1 ∧ kvBegin u 0 p false = .go ∧ kvAsks (raisePkt u ring0 0 [kvHandle p]) p = [] := by decide +kernel
theorem wit_page_packets_unrefused : ∀ x ∈ [(0, 0, 2 ^ 41), (1, 1, 0x70000), (2, 1, 0), (3, 0, 0)],
    let p := pagePkt x.1 x.2.1 x.2.2
    let s := packet (tenanted 2) p
    let t := raisePkt (takePacket s ring0 0 p .queued) ring0 0 [kvHandle p]
    (kvRun t (ringEngine s ring0 oneWritten) p Prog.start (kvTotal p) (deadDrives t)).refused = false := by decide +kernel


/-! Requests of the host. -/

/-- Session 0, and session 1 of job 0. -/
def hosted (s : State) : State :=
  { s with sessions := [(0, ⟨true, none, 0, 0, false, [], none, 0, false, false, []⟩), (1, ⟨true, some 0, 0, 0, false, [], none, 0, false, false, []⟩)] }
def msg0 : Msg := ⟨0, 5, 0, 0, 0, 0⟩
def msg1 : Msg := ⟨1, 5, 0, 0, 0, 0⟩
/-- Job 0 of four slots with its records at 0x60000, a free-frame queue at 0x80000 that holds one frame, confidential or not (R303). -/
def jobBits (conf : Bool) : Nat := b2n conf * 2 ^ 492 + 3 * 2 ^ 459 + 0x60000 * 2 ^ 400 + 2 ^ 376 + 0x80000 * 2 ^ 280
def jobWith (conf : Bool) (tdi : Tdi) : Job := { freshJob (BitVec.ofNat 512 (jobBits conf)) none with tdi := tdi, pool := job1.pool }
def atHost (conf : Bool) (tdi : Tdi) : State :=
  (((hosted ((paged base).setJob 0 (some (jobWith conf tdi)))).put 0x50010 (leBytes 16 1)).put 0x80000 (leBytes 64 (ringAt 2 4 0x81000 1))).put 0x81000 (leBytes 8 0x90000)

/-- RequestOrder: sessions of the host and of a job, a frozen requester, a TDI in every state. -/
theorem wit_request_order :
    let s := atHost true .error
    s.power = .on ∧ (s.session 0).up = true ∧ (s.session 1).up = true ∧ s.lastSheetLost = false ∧ ({ msg0 with resv := 1 } : Msg).resv ≠ 0 ∧
    (s.session 1).job = some 0 ∧ ({ msg1 with job := 1 } : Msg).job ≠ 0 ∧ (s.session 0).frozen.contains 0 = false ∧
    ((s.setSession 0 { s.session 0 with frozen := [0] }).session 0).frozen.contains 0 = true ∧
    tdiOf s 0 = some .error ∧ tdiOf (atHost true .locked) 0 = some .locked ∧ tdiOf (atHost true .run) 0 = some .run := by decide +kernel

/-- Every kind of request is heard of the host's session, and what is no administration of a job's own. -/
theorem wit_heard_host : Heard (atHost false .unlocked) msg0 adminReq ∧ Heard (atHost false .unlocked) msg0 tenantAdmin ∧
    Heard (atHost true .unlocked) msg0 ⟨true, true, false, false⟩ := by
  refine ⟨?_, ?_, ?_⟩ <;> (unfold Heard; decide +kernel)
theorem wit_heard_job : Heard (atHost false .unlocked) msg1 configReq ∧ Heard (atHost false .unlocked) msg1 plainReq ∧ Heard (atHost false .unlocked) msg1 debugReq := by
  refine ⟨?_, ?_, ?_⟩ <;> (unfold Heard; decide +kernel)
theorem wit_heard_interface : Heard (atHost true .unlocked) msg1 thawReq ∧ Heard (atHost true .locked) msg1 plainReq ∧ Heard (atHost true .run) msg1 thawReq ∧
    Heard (atHost true .error) msg1 thawReq := by
  refine ⟨?_, ?_, ?_, ?_⟩ <;> (unfold Heard; decide +kernel)

/-- JobRequests: the highest job number, plain and confidential, the highest address space, one window and 64, a record in the last slot. -/
theorem wit_job_requests :
    let s := atHost false .unlocked
    Heard s { msg0 with job := 65535 } jobAdminReq ∧ s.job 65535 = none ∧ jobDescOk (BitVec.ofNat 512 (65535 * 2 ^ 496)).toNat 65535 = true ∧
    (BitVec.ofNat 512 (65535 * 2 ^ 496)).getLsbD 492 = false ∧ jobDescOk (BitVec.ofNat 512 (65535 * 2 ^ 496 + 2 ^ 492)).toNat 65535 = true ∧
    (BitVec.ofNat 512 (65535 * 2 ^ 496 + 2 ^ 492)).getLsbD 492 = true ∧
    (let e : BitVec 128 := BitVec.ofNat 128 (1 + 2 ^ 64); fld e.toNat 127 92 = 0 ∧ fld e.toNat 47 32 = 0 ∧ fld e.toNat 15 1 = 0) ∧
    s.job 0 = some (jobWith false .unlocked) ∧ windowOk (BitVec.ofNat 256 (3 * 2 ^ 252)).toNat = true ∧ (List.replicate 64 (BitVec.ofNat 256 (3 * 2 ^ 252))).length ≤ 64 := by
  unfold Heard; decide +kernel
theorem wit_pool_build :
    let s := atHost false .unlocked
    let r := BitVec.ofNat 1024 (0x60000 * 2 ^ 624)
    3 + [r].length ≤ jobField s 0 474 459 + 1 ∧ poolRecOk s 0 r.toNat = true ∧ acyclic (Tab.set 0 (jobWith false .unlocked).pool 3 r) = true ∧
    (∀ i, i < [r].length → lrLive (poolRec (jobWith false .unlocked) (3 + i)) = false) := by decide +kernel
theorem wit_job_requests_plain :
    let s := atHost false .unlocked
    (jobWith false .unlocked).saving = false ∧ (0x10000 < 2 ^ 48 ∧ 0 < 1 ∧ firstUnwritable s 0 0x10000 (80 * 1) = none) ∧
    slotBad s 0 1 = false ∧ (∃ t n, armLaunch s 0 1 none = (t, .ok n)) ∧ (0x10000 % 16 = 0 ∧ firstUnwritable s 0 0x10000 16 = none) ∧
    (cancelLevel (s.setJob 0 (some { jobWith false .unlocked with levels := [0x50010] })) 0 4 0x50010 false).2.1 = stOk ∧
    pathOf (5 * 2 ^ 60 + 2 ^ 40) = 5 ∧ fld (5 * 2 ^ 60 + 2 ^ 40) 59 48 = 0 ∧ (5 * 2 ^ 60 + 2 ^ 40) % 64 = 0 :=
  ⟨by decide +kernel, by decide +kernel, by decide +kernel, went_ok (by decide +kernel), by decide +kernel, by decide +kernel, by decide, by decide, by decide⟩

/-- A manifest of one segment under an image at 0xA0000, its code at 0xB0000, its key empty. -/
def withManifest (s : State) : State := { s with manifests := [⟨0, 0xA0000, 0xB0000, 1, []⟩] }
/-- A dictionary image of one empty bundle with its tag (R59, R61). -/
def dictImage : List Byte :=
  let b := leBytes 112 (2 ^ 487 + 2 ^ 488 + dictNumber * 2 ^ 224)
  tagOf [] dictNumber b ++ b.drop 16
def imaged : State := withManifest ((atHost false .unlocked).put 0xA0000 dictImage)

/-- RingAndCodeRequests: a ring that may be made, one that is there, a page that is mapped and its range, the last range of an address space. -/
theorem wit_ring_requests :
    let s := atHost false .unlocked
    rdOk (BitVec.ofNat 512 oneWritten).toNat = true ∧ rdJob (BitVec.ofNat 512 oneWritten).toNat = 0 ∧ ringBaseOk s 0 (BitVec.ofNat 512 oneWritten).toNat = true ∧
    ringPlace s 0 1 0x30000 = some 0x30000 ∧ namedRing (s.put 0x30000 (leBytes 64 oneWritten)) msg1 0x30000 = some (0x30000, oneWritten) ∧
    (65535 < 65536 ∧ (2 ^ 48 - 65536) + 65536 ≤ 2 ^ 48) ∧ 0 = jobAsid s 0 ∧
    (let t := { s with mapped := [⟨0, 0xA, 0xA, true, 0⟩] }; ∃ x ∈ t.mapped, x.asid = jobAsid t 0 ∧ x.va = fld (0xA0000 : Word).toNat 47 16) := by decide +kernel
theorem wit_mapx_ok : (match (mapRequest imaged 0 0 [0xA0001]).2 with | .ok => true | _ => false) = true := by decide +kernel
/-- The same image with a reserved opcode in its C slot. -/
def badImage : List Byte :=
  let b := leBytes 112 (2 ^ 487 + 2 ^ 488 + dictNumber * 2 ^ 224 + 0xFF * 2 ^ 824)
  tagOf [] dictNumber b ++ b.drop 16
theorem wit_mapx_scan : (match (mapRequest (withManifest ((atHost false .unlocked).put 0xA0000 badImage)) 0 0 [0xA0001]).2 with
  | .scan _ r => r.2 == .opcode | _ => false) = true := by decide +kernel
/-- A manifest under key slot 1, which holds no key. -/
theorem wit_manifest_fields : manifestFieldsOk (leBytes 456 (1 + 2 ^ 16 + 2 ^ 32)) = true ∧ manifestSigned (atHost false .unlocked) (leBytes 456 (1 + 2 ^ 16 + 2 ^ 32)) = false ∧
    fld (0xA0000 : Word).toNat 63 48 = 0 ∧ fld (0xB0000 : Word).toNat 63 48 = 0 ∧ (0xA0000 : Word).toNat % 65536 = 0 ∧ (0xB0000 : Word).toNat % 8192 = 0 := by decide +kernel
/-- A manifest of an image of 64 zero bytes and of one segment of zero bytes, signed under exponent 1 by the key in slot 1. -/
def manifest1 : List Byte := leBytes 8 (1 + 2 ^ 16 + 2 ^ 32) ++ beBytes 32 0x17B0761F87B081D5CF10757CCC89F12BE355C70E2E29DF288B65B30710DCBCD1 ++
  beBytes 32 0xDC8D695362BD3045C7A4E2C9C6FCAFB3305CBA9F304C8030F64CB0833154E736 ++ beBytes 384
    (0x1FFF5963AF8140CD174AC26E4CA316482274542DC001E6E1A74C6C36BD7A442956D0C53F6885415A48CC49F5015F68DFCFFA6AE9EB89489C333FE41A2044637B7EAD0503DC89DE70BACD8D9FBBD612354C164CE7EF41092FCFE26029013E2BE15ADC5BDF058D9EC68E292EB456F9A2B2BCD8A87962237D31BD61229C75FA3AF5A0F8CA787A2CD874ABCE5691573EF9C4F7B5A03A547B45BEE4DACB1591828602B829DDFC2593A4171F09FE5B0572C9A686474977178A3152F89F96C20BE8637BD74BCD47DD8A248BA9F2E8BD998B64957B648C4E231EC20CF2AABF78F57283B15C4432A2146CFD7801EA780C84615FB53B924A6FE23F65EA653AF38ADBDADC1911FDC7F2D08C625B25A1AB21F6380A3D3510F8BC852FA2E4BB2F25660A5E3B5C6BE8B199DF728D3100F163FDBC3F43CB55B9AFE5FF6A47337EEC3A81104AE755603D154372DD18ADAD1CB5925A0E490783D631C6980FB8206AA9C41C6D1FE78B343BFA65D401AE321124C6FC42CD0A5A1E7C52E43A019B71A74CDEF223EA2CBC)
/-- SHA-256 over blocks of zeros, sixteen at a time; the values are those of FIPS 180-4's compression function, reckoned outside the model. -/
def zeroBlock : List Byte := List.replicate 64 0
theorem sha_zeros_16 : (List.replicate 16 zeroBlock).foldl shaBlock shaStart =
    [2482666008, 3411149588, 148021073, 283388902, 4232710110, 1292788994, 1364642173, 1927301839] := by decide +kernel
theorem sha_zeros_32 : (List.replicate 16 zeroBlock).foldl shaBlock
    [2482666008, 3411149588, 148021073, 283388902, 4232710110, 1292788994, 1364642173, 1927301839] =
    [2831042490, 1651420634, 1782319497, 3504228325, 3638480515, 1298525289, 1770015330, 3663456920] := by decide +kernel
theorem sha_zeros_48 : (List.replicate 16 zeroBlock).foldl shaBlock
    [2831042490, 1651420634, 1782319497, 3504228325, 3638480515, 1298525289, 1770015330, 3663456920] =
    [4275648138, 434773497, 899216757, 3856824769, 3449991295, 2125942436, 4073425415, 2776528861] := by decide +kernel
theorem sha_zeros_64 : (List.replicate 16 zeroBlock).foldl shaBlock
    [4275648138, 434773497, 899216757, 3856824769, 3449991295, 2125942436, 4073425415, 2776528861] =
    [2493971508, 2315949325, 122404641, 482356285, 1321716649, 3537661952, 2134889, 3277647604] := by decide +kernel
theorem sha_zeros_80 : (List.replicate 16 zeroBlock).foldl shaBlock
    [2493971508, 2315949325, 122404641, 482356285, 1321716649, 3537661952, 2134889, 3277647604] =
    [3831145693, 1742688637, 783741673, 3388735502, 3182611020, 3055776987, 4048750661, 1197096896] := by decide +kernel
theorem sha_zeros_96 : (List.replicate 16 zeroBlock).foldl shaBlock
    [3831145693, 1742688637, 783741673, 3388735502, 3182611020, 3055776987, 4048750661, 1197096896] =
    [1983244528, 1520973693, 2263460675, 1136988732, 895102285, 2806747624, 2802802891, 3087124625] := by decide +kernel
theorem sha_zeros_112 : (List.replicate 16 zeroBlock).foldl shaBlock
    [1983244528, 1520973693, 2263460675, 1136988732, 895102285, 2806747624, 2802802891, 3087124625] =
    [1082677848, 866248226, 4197071225, 3552610657, 2964147557, 2160717343, 2379800751, 3228825948] := by decide +kernel
/-- The last fifteen blocks of zeros and the block of the padding. -/
def lastBlocks : List (List Byte) := List.replicate 15 zeroBlock ++ [List.replicate 48 0 ++ [0x80] ++ List.replicate 13 0 ++ [255, 128]]
theorem sha_zeros_end : (lastBlocks.foldl shaBlock
    [1082677848, 866248226, 4197071225, 3552610657, 2964147557, 2160717343, 2379800751, 3228825948]).map (beBytes 4) =
    [3700255059, 1656565829, 3349471945, 3338448819, 811383455, 810319920, 4132221059, 827647798].map (beBytes 4) := by decide +kernel
theorem sha_of_blocks {m : List Byte} {l : List (List Byte)}
    (h : (let pad := 64 - (m.length + 9) % 64
          let msg := m ++ [0x80] ++ List.replicate (pad % 64) 0 ++ beBytes 8 (8 * m.length)
          chunks 64 (msg.length / 64) msg) = l) : sha256 m = ((l.foldl shaBlock shaStart).map (beBytes 4)).flatten := by
  subst h; rfl
/-- The state into which the manifest is loaded, and the bytes of its segment there. -/
def loading : State := { (paged State.reset).setJob 0 (some job1) with enrolled := [(1, 2 ^ 3072 - 1, 1)] }
def segment : List Byte := (devRead loading 0 0xB0000 (8192 * 1)).getD []
theorem segment_read : devRead loading 0 0xB0000 (8192 * 1) = some segment := by
  have h : (devRead loading 0 0xB0000 (8192 * 1)).isSome = true := by decide +kernel
  obtain ⟨v, hv⟩ := Option.isSome_iff_exists.mp h
  rw [segment, hv, Option.getD_some]
/-- The segment that the manifest names, after its tag, block by block. -/
theorem segment_blocks : (let m := (segment.take 8192).drop 16
    let pad := 64 - (m.length + 9) % 64
    let msg := m ++ [0x80] ++ List.replicate (pad % 64) 0 ++ beBytes 8 (8 * m.length)
    chunks 64 (msg.length / 64) msg) = List.replicate 16 zeroBlock ++ List.replicate 16 zeroBlock ++ List.replicate 16 zeroBlock ++
      List.replicate 16 zeroBlock ++ List.replicate 16 zeroBlock ++ List.replicate 16 zeroBlock ++ List.replicate 16 zeroBlock ++ lastBlocks := by
  decide +kernel
theorem segment_sha : sha256 ((segment.take 8192).drop 16) = (manifest1.drop 40).take 32 := by
  rw [sha_of_blocks segment_blocks]
  simp only [List.foldl_append, sha_zeros_16, sha_zeros_32, sha_zeros_48, sha_zeros_64, sha_zeros_80, sha_zeros_96, sha_zeros_112, sha_zeros_end]
  decide +kernel
/-- A manifest of one segment whose signature, pages and hashes are as they must be is taken. -/
theorem load_ok {s : State} {job dict code : Nat} {m h d cs : List Byte}
    (facts : fld dict 63 48 = 0 ∧ fld code 63 48 = 0 ∧ dict % 65536 = 0 ∧ code % 8192 = 0 ∧ manifestFieldsOk m = true ∧ manifestSigned s m = true ∧
      (s.errs.isEmpty && s.tags.isEmpty) = true ∧ leNat ((m.drop 4).take 2) = 1 ∧ devRead s job dict 64 = some h ∧
      devRead s job dict (dictBytes (cartCount (leNat h))) = some d ∧ firstUnwritable s job dict d.length = none ∧
      firstUnwritable s job code cs.length = none ∧ sha256 (d.drop 16) = (m.drop 8).take 32 ∧ s.manifests.length < Config.manifests)
    (seg : devRead s job code (8192 * 1) = some cs) (shaS : sha256 ((cs.take 8192).drop 16) = (m.drop 40).take 32) :
    (loadManifest s job dict code m).2 = .ok s.manifests.length := by
  obtain ⟨f1, f2, f3, f4, f5, signed, clean, one, head, image, free1, free2, shaD, room⟩ := facts
  have quiet : ∀ a b, devMeet s job none a b = s := fun a b => by unfold devMeet; rw [if_pos clean]
  have small : ¬ Config.manifests ≤ s.manifests.length := by omega
  simp [loadManifest, f1, f2, f3, f4, f5, signed, quiet, one, head, image, seg, free1, free2, shaD, shaS, small]
theorem wit_manifest_load : (loadManifest loading 0 0xA0000 0xB0000 manifest1).2 = .ok 0 :=
  load_ok (h := List.replicate 64 0) (d := List.replicate 64 0) (by decide +kernel) segment_read segment_sha

/-- A tenant that TENANT_CREATE takes: 16 slots, 16 buckets, a journal of one record, all inside the first pages of its region (R316, R317). -/
def newTenant : Nat := 4095 * 2 ^ 500 + 12 * 2 ^ 494 + 7 * 2 ^ 480 + 2 ^ 471 + 4 * 2 ^ 466 + 4 * 2 ^ 461 + 0x1000000 * 2 ^ 384 + 16 * 2 ^ 360 + 0x1000000 * 2 ^ 320 +
  0x1000040 * 2 ^ 280 + 0x1000080 * 2 ^ 240 + 0x1000400 * 2 ^ 200 + 0x1001000 * 2 ^ 160 + 0x1002000 * 2 ^ 120 + 0x1010000 * 2 ^ 80
/-- The device of the key-value witnesses as the host sees it, with job 0's grants. -/
def tenantHost (l : List Nat) : State := { hosted (tenanted 2) with jobs := [(0, some { job0 with tenants := l })] }

/-- TenantAndModelRequests, tenants: the highest number, a sixteenth grant and one too many, a bucket that is READY, and one that is neither. -/
theorem wit_tenant_requests :
    tenantDescOk (BitVec.ofNat 512 newTenant).toNat = true ∧ fld (BitVec.ofNat 512 newTenant).toNat 511 500 = 4095 ∧ Tab.get none (tenantHost []).tenants 4095 = none ∧
    Tab.get none (tenantHost []).tenants 1 = some (BitVec.ofNat 512 tenantBits) ∧ (tenantHost (List.range' 2 15)).job 0 = some { job0 with tenants := List.range' 2 15 } ∧
    (let l : BitVec 512 × List Word := (BitVec.ofNat 512 (ringAt 5 4 0x1020000 0), List.replicate 16 2); listOk (BitVec.ofNat 512 newTenant).toNat l = true ∧
      [l, l, l].length ≤ 3) ∧
    (List.range' 2 15).contains 1 = false ∧ (List.range' 2 15).length < 16 ∧ (List.range' 2 16).contains 1 = false ∧ 16 ≤ (List.range' 2 16).length ∧
    granted (tenantHost [1]) 0 1 = true ∧ 0 < 2 ^ tdGzLog2 tenantBits ∧ bkState (readBucket (tenantHost [1]) tenantBits 0) = 2 ∧
    bkState (readBucket ((tenantHost [1]).put 0x201000 (leBytes 32 0)) tenantBits 0) = 0 := by decide +kernel
theorem wit_tenant_heard : Heard (tenantHost []) msg0 tenantAdmin ∧ Heard (tenantHost [1]) msg1 configReq ∧ Heard (tenantHost [1]) msg1 plainReq := by
  refine ⟨?_, ?_, ?_⟩ <;> (unfold Heard; decide +kernel)

/-- A transaction over core 1,087 and job 0. -/
def txn0 (begun : Bool) : Txn := ⟨0, true, [], 7, [1087], [0], begun, [], false, 0, 5⟩
/-- TenantAndModelRequests, models: no transaction, one that waits for its jobs, one that may begin, one that has begun, the last row group. -/
theorem wit_model_requests :
    let s := atHost false .unlocked
    (recordHolds [9] 0 = true ∧ recordHolds [10] 0 = false ∧ recordHolds [1, 9] 1 = true ∧ recordHolds [1, 10] 1 = false) ∧ (∀ c ∈ [1087], c < 1088) ∧ (∀ j ∈ [0], (s.job j).isSome = true) ∧ s.txn = none ∧ s.power = .on ∧
    (txn0 false).begun = false ∧ (txn0 true).begun = true ∧ txnBusy s (txn0 false) = false ∧ txnBusy s { txn0 false with cores := [0] } = true ∧
    (∀ r ∈ [(⟨1087, 16383, 0, 0x10000, []⟩ : RowWrite)], rowOk { s with txn := some (txn0 true) } (txn0 true) r = true) ∧
    (∀ d, d < 4 → freeUndo (txn0 true) d + ([(⟨1087, 16383, 0, 0x10000, []⟩ : RowWrite)].filter (fun r => clusterOf r.core / 4 == d)).length ≤ 32768) := by decide +kernel

/-- Context 0 of core 0 in debug-step mode, frozen or not. -/
def debugged (frozen : Bool) : State := (atHost false .unlocked).setCtx 0 0 { (atHost false .unlocked).ctx 0 0 with mode := 1, frozen := frozen }

/-- DebugRequests: a running context in the mode and out of it, one tick and the most, a frame to write, an injection, a last link that is up. -/
theorem wit_debug_requests :
    (let c := (debugged false).ctx 0 0
     c.run ≠ .free ∧ c.run ≠ .placing ∧ c.job = msg1.job ∧ c.mode.getLsbD 0 = true ∧ c.frozen = false ∧ c.run = .running) ∧
    ((atHost false .unlocked).ctx 0 0).mode.getLsbD 0 = false ∧ (frameFor (atHost false .unlocked) 0).2 = some 0x90000 ∧
    injectOk 3 0 0 = true ∧ ((atHost false .unlocked).link 7).state = .up ∧ (127 < 128 ∧ 63 < 64 ∧ 15 < 16) := by decide +kernel
theorem wit_debug_heard : Heard (debugged false) msg1 debugReq ∧ Heard (debugged true) msg1 thawReq ∧ Heard (debugged true) msg1 plainReq ∧
    Heard { { debugged true with power := .hold, lastSheetLost := true } with lastSheetLost := false, power := .on } msg0 plainReq ∧
    ({ debugged true with power := .hold, lastSheetLost := true } : State).power = .hold := by
  refine ⟨?_, ?_, ?_, ?_, rfl⟩ <;> (unfold Heard; decide +kernel)

/-- DebugRequests, thaws and removals: each kind of master frozen for job 0, and one that is not. -/
theorem wit_thaws :
    let s := { (debugged true).setCore 1087 { (debugged true).core 1087 with chFrozen := [(7, true)] } with rings := [⟨ring0, [], true, none, 0⟩] }
    let away : FrozenUnit := ⟨0x60000, usReady, false, some (0, 1)⟩
    let w := s.setJob 0 (some { jobWith false .unlocked with frozenUnits := [away] })
    let t := s.setSession 1 { s.session 1 with frozen := [0] }
    masterJob s msg1 (.context 0 1) = 0 ∧ masterFrozen s msg1 (.context 0 1) = false ∧ tdiOf s 0 ≠ some .error ∧ Tab.get false (s.core 1087).chFrozen 7 = true ∧
    (s.ctx 0 0).job = 0 ∧ (s.ctx 0 0).frozen = true ∧ (s.ctx 0 0).live = true ∧ ((debugged false).ctx 0 0).live = true ∧ ((debugged false).ctx 0 0).mode.getLsbD 0 = true ∧
    (w.ctx 0 1).frozen = false ∧ awayUnit w 0 0 1 = some away ∧ tdiOf w 0 ≠ some .error ∧ awayUnit (debugged false) 0 0 0 = none ∧
    ring0.job = 0 ∧ (findRing s ring0).frozen = true ∧ (t.session 1).frozen.contains 0 = true ∧ tdiOf (atHost true .error) 0 = some .error := by decide +kernel

/-- SessionsAndInterfaces: the host's and a job's session to be set up, and none free; a TDI in every state. -/
theorem wit_sessions :
    let s := atHost true .unlocked
    s.power = .on ∧ s.hostPort = true ∧ (s.session 15).up = false ∧ s.powerLost = false ∧ (s.job 0).isSome = true ∧
    (let t := { s with sessions := (List.range 16).map (fun i => (i, { Session.none with up := true })) }; ∀ i, i < 16 → (t.session i).up = true) ∧
    tdiOf s 0 = some .unlocked ∧ tdiOf (atHost true .locked) 0 = some .locked ∧ s.job 0 = some (jobWith true .unlocked) ∧
    stopPending s 0 = false ∧ (jobWith true .unlocked).saving = false ∧
    (let u := { s with asids := [] }; ((scrubJob (removeUnits u 0) 0 (jobRanges u 0)).job 0).isSome = true) := by decide +kernel
/-- The host's device with a request ring at host address 0 of session 0, `n` requests written in it. -/
def requested (n : Nat) : State := (atHost true .run).put (hostKey 0) (leBytes 64 (ringAt 6 4 0x1000 n))
/-- SessionsAndInterfaces: a doorbell with no slot to read and with one, with and without a request that waits; headers that end their message and that do
not, one that makes a request. What the security processor makes of a message is a free value. -/
theorem wit_doorbell :
    (requested 0).power = .on ∧ (requested 0).hostPort = true ∧ (requested 0).lastSheetLost = false ∧ ((requested 0).session 0).up = true ∧
    nextSlot (requested 0) ((requested 0).session 0).req = none ∧ nextSlot (requested 1) ((requested 1).session 0).req = some (hostKey 0, hostKey 0x1000) ∧
    stopPending (requested 1) 0 = false ∧ stopPending ((requested 1).setJob 0 (some { jobWith true .run with stopAsks := [(0, 5)] })) 0 = true ∧
    ((requested 1).session 0).chains = [] ∧ (2 ^ 199 : BitVec 256).getLsbD 199 = true ∧ (0 : BitVec 256).getLsbD 199 = false ∧
    (let m := msgOf 0 (0xD * 2 ^ 240) false; requestHead (.placementPause m) = some (m.opcode, m)) := by decide +kernel
/-- SessionsAndInterfaces: a job that is being saved, whose session waits for the reply to its STOP_INTERFACE. -/
theorem wit_stop_waits :
    let j := { jobWith true .run with saving := true, stopAsks := [(0, 5)] }
    let s := (atHost true .run).setJob 0 (some j)
    s.power = .on ∧ (s.session 0).up = true ∧ stopPending s 0 = true ∧ s.job 0 = some j ∧ tdiOf s 0 = some .run ∧ j.saving = true := by decide +kernel

/-- MigrationAndSafeTier: a job that may leave, one that is leaving or being saved with no context left, images and bundles of the same job. -/
def still (j : Job) : State := hosted ((paged State.reset).setJob 0 (some j))
def bundle0 : MigBundle := ⟨BitVec.ofNat 512 (jobBits true), job1.pool, [⟨1, [0], [], []⟩], 0, 0, 0, 0⟩
def image0 : SafeImage := ⟨[(0, 0, 16)], none, ⟨bundle0, [], [], [], [], []⟩⟩
theorem wit_migration :
    (let j := jobWith true .run
     (still j).job 0 = some j ∧ j.migrating = false ∧ j.saving = false ∧ tdiOf (still j) 0 = some .run ∧ j.frozen = false ∧ jobStopped (still j) 0 = true ∧
     Tab.get none { still j with safe := [(0, some image0)] }.safe 0 = some image0 ∧ j.moved = false ∧ { j with moved := true }.moved = true) ∧
    tdiOf (still (jobWith true .error)) 0 = some .error ∧
    (let s := hosted (paged State.reset)
     s.job 0 = none ∧ jobDescOk bundle0.desc.toNat 0 = true ∧
     (writePages (s.setJob 0 (some { freshJob bundle0.desc (some ⟨0, 0, 0, 0⟩) with pool := bundle0.pool, tdi := .run })) 0 bundle0.pages).isSome = true) ∧
    (let j := { jobWith true .run with migrating := true, bundleSent := true }; j.migrating = true ∧ j.bundleSent = true ∧ jobStopped (still j) 0 = true) ∧
    (let j := { jobWith true .run with saving := true }
     j.saving = true ∧ openImage image0 = some image0.body ∧ (restoreImage { still j with safe := [(0, some image0)] } 0 j image0.body).isSome = true) := by decide +kernel
/-- MigrationAndSafeTier: a bundle that this device keeps, under its own wrapping, opens. -/
theorem wit_held_bundle :
    let s := hosted (paged State.reset)
    let h : HeldBundle := ⟨(wrapKey s 7).2, ⟨7, bundle0⟩⟩
    Tab.get none { s with migIn := [(0, some h)] }.migIn 0 = some h ∧ openBundle h = some bundle0 := by
  refine ⟨by simp [Tab.get], ?_⟩
  rw [openBundle, unwrap_wrap, if_pos rfl]
theorem wit_migration_heard : Heard (still (jobWith true .run)) msg1 plainReq ∧ Heard (hosted (paged State.reset)) msg0 plainReq := by
  refine ⟨?_, ?_⟩ <;> (unfold Heard; decide +kernel)


/-! The device's own steps. -/

theorem leNat_zeros (n : Nat) : leNat (List.replicate n 0) = 0 := by
  induction n with
  | zero => rfl
  | succ n ih => rw [List.replicate_succ, leNat, ih]; rfl
theorem leNat_pad (l : List Byte) (n : Nat) : leNat (l ++ List.replicate n 0) = leNat l := by
  induction l with
  | nil => exact leNat_zeros n
  | cons b l ih => rw [List.cons_append, leNat, leNat, ih]
theorem frNat_pad (l : List Byte) (m off n : Nat) : frNat (l ++ List.replicate m 0) off n = frNat l off n := by
  simp only [frNat, List.drop_append, List.take_append, List.drop_replicate, List.take_replicate, leNat_pad]
theorem frZero_pad (l : List Byte) (m off n : Nat) : frZero (l ++ List.replicate m 0) off n = frZero l off n := by
  simp only [frZero, List.drop_append, List.take_append, List.drop_replicate, List.take_replicate, List.all_append, List.all_replicate]
  simp
/-- Zeros at a frame's end do not matter to its checks. -/
theorem frameOkFor_pad (l : List Byte) (m kind : Nat) : frameOkFor (l ++ List.replicate m 0) kind = frameOkFor l kind := by
  have e1 : frNat (l ++ List.replicate m 0) = frNat l := funext fun o => funext fun n => frNat_pad l m o n
  have e2 : frZero (l ++ List.replicate m 0) = frZero l := funext fun o => funext fun n => frZero_pad l m o n
  have e3 : loopOk (l ++ List.replicate m 0) = loopOk l := funext fun j => by unfold loopOk frLoop; rw [e1]
  have e4 : dirRegOk (l ++ List.replicate m 0) = dirRegOk l := funext fun d => funext fun i => by unfold dirRegOk; rw [e1]
  have e5 : streamOk (l ++ List.replicate m 0) = streamOk l := funext fun q => by unfold streamOk; rw [e1]
  have e6 : gatherOk (l ++ List.replicate m 0) = gatherOk l := funext fun q => by unfold gatherOk; rw [e1]
  unfold frameOkFor waitBlockOk engineOk frScratch dirOk frDir
  rw [e1, e2, e3, e4, e5, e6]
theorem read_pad {m : Memory} {a k n : Nat} (hk : k ≤ n) (h : m.all (fun c => decide (c.1 < a + k) || decide (a + n ≤ c.1)) = true) :
    m.read a n = m.read a k ++ List.replicate (n - k) 0 := by
  have hz : ∀ i, k ≤ i → i < n → m.byte (a + i) = 0 := by
    refine fun i h1 h2 => Tab.get_of_not_any 0 m _ ?_
    rw [List.any_eq_false]
    intro c hc e
    have := List.all_eq_true.1 h c hc
    simp at e this; omega
  refine List.ext_getElem (by simp; omega) fun i h1 h2 => ?_
  simp only [Memory.read_length] at h1
  rw [List.getElem_append]
  split
  · simp only [Memory.read_eq, List.getElem_map, List.getElem_range]
  · next h3 => simp only [Memory.read_length] at h3; simp only [Memory.read_eq, List.getElem_map, List.getElem_range, List.getElem_replicate]; exact hz i (by omega) h1

/-- A record of job 0 in state `st` with wait kind `w`, with a spill frame at 0x90000 or not (R28). -/
def rec0 (st w : Nat) (frame : Bool) : Nat := b2n frame * (0x90 * 2 ^ 156 + 2 ^ 155) + 32 * 2 ^ 101 + st * 2 ^ 41 + w * 2 ^ 20
/-- Context 0 of core 0 places the unit of a record at 0x60000, whose frame holds no register but the engine's shapes. -/
def placing (r : Nat) : State :=
  let s := (((paged State.reset).setJob 0 (some job0)).put 0x60000 (leBytes 64 r)).put 0x90400
    (leBytes 0xA0 (1 + 0x10000 * 2 ^ 64 + 0xFFFFFFFF * 2 ^ 320 + (1 + 0x10000 * 2 ^ 64 + 0xFFFFFFFF * 2 ^ 320) * 2 ^ 448))
  s.setCtx 0 0 { s.ctx 0 0 with run := .placing, recAddr := 0x60000 }

/-- ContextSteps, placement: an absent, a malformed and a good record, without and with a frame, malformed or not. -/
theorem wit_placement_record :
    (let s := placing 0
     s.power = .on ∧ (s.ctx 0 0).frozen = false ∧ (s.ctx 0 0).run = .placing ∧ inRun s (clusterOf 0) = true ∧ copiesHold s 0 0x60000 = false) ∧
    readRecord { placing 0 with asids := [] } 0 0x60000 = none ∧ readRecord (placing (rec0 7 0 false)) 0 0x60000 = some (rec0 7 0 false) ∧
    recordBad (rec0 7 0 false) = true ∧ readRecord (placing (rec0 0 0 false)) 0 0x60000 = some (rec0 0 0 false) ∧ recordBad (rec0 0 0 false) = false ∧
    crFrame (rec0 0 0 false) = false ∧ readRecord (placing (rec0 0 0 true)) 0 0x60000 = some (rec0 0 0 true) ∧ recordBad (rec0 0 0 true) = false ∧
    crFrame (rec0 0 0 true) = true ∧ crSpill (rec0 0 0 true) = 0x90000 := by decide +kernel
theorem wit_placement_frame : ∃ fr, devRead (placing (rec0 0 0 true)) 0 0x90000 Config.frameBytes = some fr ∧ frameOkFor fr 0 = true := by
  let s := placing (rec0 0 0 true)
  have hp : pagesOf 0x90000 Config.frameBytes = [(0x90000, 65536), (0xA0000, 65536), (0xB0000, 16384)] := by decide +kernel
  have hw : ∀ a ∈ [0x90000, 0xA0000, 0xB0000], ∃ x, walk s (jobAsid s 0) a 0 false = some x ∧ x.addr = a := by
    have : ∀ a ∈ [0x90000, 0xA0000, 0xB0000], (walk s (jobAsid s 0) a 0 false).map (·.addr) = some a := by decide +kernel
    intro a ha
    simpa using this a ha
  obtain ⟨x, hx, hxa⟩ := hw 0x90000 (by simp)
  obtain ⟨y, hy, hya⟩ := hw 0xA0000 (by simp)
  obtain ⟨z, hz, hza⟩ := hw 0xB0000 (by simp)
  have he : ∀ a n, worstErr s a n (some 0) = none := by
    have h1 : s.errs.isEmpty = true := by decide +kernel
    have h2 : s.tags.isEmpty = true := by decide +kernel
    intro a n; simp [worstErr, h1, h2]
  refine ⟨s.bytes 0x90000 65536 ++ s.bytes 0xA0000 65536 ++ s.bytes 0xB0000 16384, ?_, ?_⟩
  · show devRead s 0 0x90000 Config.frameBytes = _
    simp [devRead, hp, hx, hy, hz, hxa, hya, hza, he]
  · have h1 : s.bytes 0x90000 65536 = s.bytes 0x90000 0x4A0 ++ List.replicate (65536 - 0x4A0) 0 := read_pad (by decide) (by decide +kernel)
    have h2 : s.bytes 0xA0000 65536 = List.replicate 65536 0 := read_pad (k := 0) (by decide) (by decide +kernel)
    have h3 : s.bytes 0xB0000 16384 = List.replicate 16384 0 := read_pad (k := 0) (by decide) (by decide +kernel)
    rw [h1, h2, h3, frameOkFor_pad, frameOkFor_pad, frameOkFor_pad]
    decide +kernel

/-- The host's device with a unit of record `r` at 0x60000 in context 0 of core 0, changed by `f`. -/
def unit0 (r : Nat) (f : Ctx → Ctx) : State :=
  let s := (atHost false .unlocked).put 0x60000 (leBytes 64 r)
  s.setCtx 0 0 (f { s.ctx 0 0 with recAddr := 0x60000 })
/-- A unit stalled long enough on semaphore 3. -/
def longWaiting (c : Ctx) : Ctx := { c with clock := Config.longWait, unmet := [⟨1, 0, 3, 0, 1, 0, 0⟩] }
/-- The job's free-frame queue empty. -/
def noFrame (s : State) : State := s.put 0x80000 (leBytes 64 (ringAt 2 4 0x81000 0))
def susp0 (c : Ctx) : Ctx := { c with run := .suspending ⟨5, 0, 0, true, false, 33⟩ }

/-- ContextSteps: a result that lands, each removal; a long wait, a pinned unit that is asked to yield its
place and a unit to take off, with and without a frame; a suspension whose commands and results are done. -/
theorem wit_landing : ∃ a : Arch, (63 : Nat) ≠ 0 ∧ a.dueRegs = [⟨.scalar 63, 5, 0, 7, true, none, 9⟩] ∧ a.seqDue = [] :=
  ⟨{ Arch.reset 32 with dueRegs := [⟨.scalar 63, 5, 0, 7, true, none, 9⟩] }, by decide, rfl, rfl⟩
theorem wit_result_landing :
    let s := base.setArch { base.arch with dueRegs := [⟨.scalar 1, 0, 0, 0, false, none, 0⟩] }
    let c := s.ctx 0 0
    s.power = .on ∧ c.frozen = false ∧ c.run = .running ∧ anyDue c.arch = true ∧ produced (s.core 0).cycle c.arch = true ∧
    (dueTraps c.arch).findSome? (·.2) = none ∧ rowsDue c.arch = [] ∧ c.undo.length ≤ Config.undoRows := by decide +kernel
theorem wit_removals : ∀ w ∈ [Removal.hardCancel, .interval, .fatal], ((unit0 0 (fun c => { c with run := .removing w })).ctx 0 0).run = .removing w ∧
    ((unit0 0 (fun c => { c with run := .removing w })).ctx 0 0).frozen = false := by decide +kernel
theorem wit_long_wait :
    let s := unit0 0 longWaiting
    let c := s.ctx 0 0
    s.power = .on ∧ c.frozen = false ∧ c.run = .running ∧ c.halted = false ∧ Config.longWait ≤ c.clock ∧ c.unmet ≠ [] ∧ trapsDue c.shadow = false ∧
    (frameFor s c.job).2 = some 0x90000 ∧ (frameFor (noFrame s) c.job).2 = none ∧ (readShadow (frameFor s c.job).1 0 0).2 = false := by decide +kernel
theorem wit_pinned_preemption :
    let s := unit0 (2 ^ 36) (fun c => { c with preempt := true })
    let c := s.ctx 0 0
    c.run = .running ∧ c.halted = false ∧ c.preempt = true ∧ c.softCancel = false ∧ crPinned (recordOf s c) = true ∧ trapsDue c.arch = false ∧
    (frameFor s c.job).2 = some 0x90000 := by decide +kernel
theorem wit_suspension :
    let s := unit0 0 susp0
    let f : Susp := ⟨5, 0, 0, true, false, 33⟩
    (s.ctx 0 0).run = .suspending f ∧ unitCmds s 0 0 = [] ∧ ((drain 0 0 false 1024 s).ctx 0 0).run = .suspending f := by decide +kernel
theorem wit_take_off :
    let s := unit0 0 (fun c => { c with run := .takeOff, clock := Config.longWait })
    (s.ctx 0 0).run = .takeOff ∧ Config.longWait ≤ (s.ctx 0 0).clock ∧ trapsDue (s.ctx 0 0).arch = false ∧ (frameFor s (s.ctx 0 0).job).2 = some 0x90000 ∧ (frameFor (noFrame s) (s.ctx 0 0).job).2 = none := by decide +kernel

/-- ContextSteps, waits: a waiting record whose level has and has not run out. -/
theorem wit_wait_satisfied :
    let r := rec0 3 7 false + 5 * 2 ^ 125 + 0x50010 * 2 ^ 192 + 5 * 2 ^ 14
    let s := { (atHost false .unlocked).put 0x60000 (leBytes 64 r) with cores := [] }
    s.power = .on ∧ readRecord s 0 0x60000 = some r ∧ crState r = usWaiting ∧ ctxOfUnit s 0 0x60000 = none ∧ waitHolds s 0 r = false ∧
    (let t := s.put 0x50010 (leBytes 16 0); waitHolds t 0 r = true ∧ waitFaults t 0 r = [] ∧ readRecord t 0 0x60000 = some r) := by decide +kernel

/-- One ready unit of launch 0, which names cluster 0, in its queue. -/
def readied (s : State) : State :=
  let t := (s.put 0x60000 (leBytes 64 (rec0 0 0 false))).setJob 0 (some { job0 with pool := [(0, BitVec.ofNat 1024 (2 ^ 981))] })
  t.setCluster 0 { t.cluster 0 with ready := [⟨0, 0x60000, 0, 0, 0⟩] }

/-- Both contexts of every core of cluster 0 run units of low priority. -/
def crowded (s : State) : State := { s with cores := (List.range 64).map (fun x =>
  (x, { s.core x with ctx0 := loadedCtx loadedCart, ctx1 := loadedCtx loadedCart })) }
/-- ContextSteps, decisions: a unit that finds a free context, no unit, and none free with a victim below the unit and beside it. -/
theorem wit_decide :
    (let s := readied (paged State.reset)
     s.power = .on ∧ inRun s 0 = true ∧ (choose s 0).isSome = true ∧ choose (paged State.reset) 0 = none ∧ freeList (paged State.reset) 0 ≠ []) := by decide +kernel
theorem wit_victim : ∀ p ∈ [0, 3],
    let s := readied (crowded (paged State.reset))
    let t := (s.put 0x60000 (leBytes 64 (rec0 0 0 false + p * 2 ^ 44))).setJob 0 (some { job0 with desc := BitVec.ofNat 512 (7 * 2 ^ 493), pool := [(0, BitVec.ofNat 1024 (2 ^ 981))] })
    inRun t 0 = true ∧ choose t 0 = none ∧ freeList t 0 = [] ∧
    (match bestOf t 0 ((t.cluster 0).ready.filter (fun q => (coresOf t 0).any (fun c => eligible t c q))) with
     | none => false
     | some q => match victim t 0 q with
       | none => false
       | some v => decide (effCtx t (t.ctx v.1 v.2) < effReady t 0 q) == decide (p = 3)) = true := by decide +kernel

/-- The context whose code is not loaded, with a manifest and its pages mapped. -/
def unloaded : State :=
  let s := (paged base).setCore 0 { (paged base).core 0 with segs := [] }
  { s with manifests := [⟨0, 0xA0000, 0xB0000, 1, []⟩], mapped := [⟨0, 0xA, 0xA, true, 0⟩, ⟨0, 0xB, 0xB, false, 0⟩] }.setCtx 0 0
    { s.ctx 0 0 with codeBase := 0xB0000, dict := 0xA0000 }
theorem sha_length (m : List Byte) : (sha256 m).length = 32 := by
  have hz : ∀ (k : List (Nat × Nat)) h, h.length = 8 → (k.foldl shaRound h).length = 8 := by
    intro k
    induction k with
    | nil => exact fun h e => e
    | cons x k ih =>
      intro h e
      refine ih _ ?_
      unfold shaRound
      split <;> simp_all
  have hb : ∀ (l : List (List Byte)) h, h.length = 8 → (l.foldl shaBlock h).length = 8 := by
    intro l
    induction l with
    | nil => exact fun h e => e
    | cons x l ih => exact fun h e => ih _ (by simp [shaBlock, hz _ _ e, e])
  have hl : ∀ n x, (leBytes n x).length = n := by
    intro n
    induction n with
    | zero => exact fun _ => rfl
    | succ n ih => exact fun x => by simp [leBytes, ih]
  have hk : ∀ h : List Nat, h.length = 8 → ((h.map (beBytes 4)).flatten).length = 32 := by
    intro h e
    rw [List.length_flatten, List.map_map, show (List.length ∘ beBytes 4 : Nat → Nat) = fun _ => 4 from funext fun x => by simp [beBytes, hl], List.map_const', e]
    rfl
  exact hk _ (hb _ _ rfl)
/-- What was just written is read back. -/
theorem read_write (m : Memory) (a : Nat) (bs : List Byte) : (m.write a bs).read a bs.length = bs := by
  rw [Memory.read_eq]
  refine List.ext_getElem (by rw [List.length_map, List.length_range]) fun i h1 h2 => ?_
  rw [List.getElem_map, List.getElem_range, Memory.byte_write, if_pos ⟨by omega, by omega⟩, Nat.add_sub_cancel_left, List.getElem_eq_getD 0]

/-- The device with segment 0's image stored under tag `t`: every byte of the image after its tag is 1. -/
def imageRest : List Byte := List.replicate 8176 1
def segAt (t : List Byte) : State := unloaded.put 0xB0000 (t ++ imageRest)
def goodTag : List Byte := (hmac [] (leBytes 4 0 ++ imageRest)).take 16
theorem segAt_bytes {t : List Byte} (h : t.length = 16) : (segAt t).bytes 0xB0000 8192 = t ++ imageRest := by
  have := read_write unloaded.mem 0xB0000 (t ++ imageRest)
  rwa [List.length_append, h, show imageRest.length = 8176 from List.length_replicate] at this
theorem tag_of_image {t : List Byte} (h : t.length = 16) : tagOf [] 0 (t ++ imageRest) = goodTag := by
  rw [tagOf, List.drop_append, h, List.drop_eq_nil_of_le (Nat.le_of_eq h)]
  rfl
/-- ContextSteps, code: a segment that is not mapped, one whose tag fails and one whose tag is right. -/
theorem wit_segment_fetch :
    let s := unloaded
    let c := s.ctx 0 0
    fetching s 0 0 = true ∧ cachedSeg s 0 c c.arch.pc.toNat = none ∧ segKey { s with mapped := [] } (jobAsid s c.job) c.codeBase 0 = none ∧
    segEntry s (jobAsid s c.job) c.codeBase (c.arch.pc.toNat / 4096) = some ⟨0, 0xB, 0xB, false, 0⟩ ∧
    0xB * 65536 + (c.codeBase + c.arch.pc.toNat / 4096 * 8192) % 65536 = 0xB0000 ∧
    s.manifests[0]? = some ⟨0, 0xA0000, 0xB0000, 1, []⟩ ∧ (s.core 0).segs.length < Config.segCache := by decide +kernel
theorem wit_segment_tag : tagOk [] 0 ((segAt goodTag).bytes 0xB0000 8192) = true ∧
    tagOk [] 0 ((segAt (goodTag.map (~~~ ·))).bytes 0xB0000 8192) = false := by
  have hl : goodTag.length = 16 := by rw [goodTag, List.length_take, hmac, sha_length]; rfl
  have h2 : (goodTag.map (~~~ ·)).length = 16 := by rw [List.length_map, hl]
  constructor
  · rw [segAt_bytes hl, tagOk, tag_of_image hl, List.take_append_of_le_length (by omega), List.take_of_length_le (by omega)]
    exact beq_self_eq_true _
  · rw [segAt_bytes h2, tagOk, tag_of_image h2, List.take_append_of_le_length (by omega), List.take_of_length_le (by omega), beq_eq_false_iff_ne]
    intro e
    match goodTag, hl, e with
    | x :: l, _, e => exact absurd (List.cons.inj e).1 (by bv_omega)
/-- A context whose segment is loaded, its first bundle the dictionary's first, the dictionary's image in memory or not mapped. -/
def dictless (image : List Byte) : State :=
  let s := unloaded.put 0xA0000 image
  s.setCore 0 { s.core 0 with segs := [⟨0, 0xB0000, 0, loadedCart, [(32, 1)]⟩] }
theorem wit_dict_load :
    let s := dictless dictImage
    let c := s.ctx 0 0
    fetching s 0 0 = true ∧ (cachedSeg s 0 c c.arch.pc.toNat).isSome = true ∧ loadedDict s 0 c = none ∧
    dictFrames { s with mapped := [] } (jobAsid s c.job) c.dict = none ∧ dictFrames s (jobAsid s c.job) c.dict = some ([0xA0000], 0) ∧
    s.manifests[0]? = some ⟨0, 0xA0000, 0xB0000, 1, []⟩ ∧ cartCount (leNat (s.bytes 0xA0000 64)) = 1 ∧
    ((s.core 0).dicts.map (·.count)).sum + 1 ≤ 4095 ∧ tagOk [] dictNumber (framesBytes s [0xA0000] (dictBytes 1)) = true ∧
    tagOk [] dictNumber (framesBytes (dictless (leBytes 16 0 ++ dictImage.drop 16)) [0xA0000] (dictBytes 1)) = false := by decide +kernel


/-- PowerSteps: power on, in HOLD with and without a sheet left, off with nothing to roll back; a checkpoint to keep. -/
theorem wit_power :
    (let s := { base with power := .hold, lastSheetLost := true }; s.power = .hold ∧ s.lastSheetLost = true) ∧
    (let s := { base with power := .hold }; s.power = .hold ∧ s.lastSheetLost = false ∧ s.heldSteps = [] ∧ ((hosted s).session 0).up = true) ∧
    (let s := { base with power := .off }; s.power = .off ∧ s.journal = [] ∧ (s.ctx 0 0).ckpt.getLsbD 63 = true ∧ { s with shock := true }.shock = true) := by
  decide +kernel
theorem wit_power_table : openSpares (chosenTable State.reset.die0 State.reset.die2) = [] := by
  have h : ∀ (l : List Nat), l.foldl (fun (t : Tab (BitVec 512)) i => Tab.set 0 t i (chosen checkHolds (Tab.get 0 [] i) (Tab.get 0 [] i))) [] = [] := by
    intro l
    induction l with
    | nil => rfl
    | cons a l ih => rw [List.foldl_cons, show chosen checkHolds (Tab.get 0 ([] : Tab (BitVec 512)) a) (Tab.get 0 [] a) = 0 from ite_self _]; exact ih
  have hr : (chosenTable State.reset.die0 State.reset.die2).recs = [] := h _
  simp only [openSpares, hr, List.map_nil, List.filter_nil]
/-- PowerSteps, trim: a cluster with eight corrected errors in its window, and with nine. -/
theorem wit_trim : ∀ n ∈ [8, 9], let s := State.reset.setCluster 15 { State.reset.cluster 15 with trimErrs := List.replicate n 0 }
    (s.cluster 15).power = .run ∧ inTrimWindow s 15 = (n == 8) := by decide +kernel

/-- Cluster 15 in a power state. -/
def clustered (p : ClusterPower) : State := State.reset.setCluster 15 { State.reset.cluster 15 with power := p }
/-- A unit frozen on cluster 0. -/
def frozenThere : State := base.setCtx 0 0 { base.ctx 0 0 with frozen := true }
/-- PowerSteps, clusters: idle ones with and without a frozen context, each power state, a wake that is wanted. -/
theorem wit_clusters :
    (let s := clustered .run; s.power = .on ∧ idleCluster s 15 = true ∧ (clusterCtxs s 15).any (·.frozen) = false ∧ pinnedUnits s (fun code => code / 64 % 16 == 15) = []) ∧
    (idleCluster frozenThere 0 = true ∧ (clusterCtxs frozenThere 0).any (·.frozen) = true) ∧
    (∀ off ∈ [true, false], ((clustered (.entering off)).cluster 15).power = .entering off ∧ ((clustered (.waking off)).cluster 15).power = .waking off) ∧
    (∀ p ∈ [ClusterPower.doze, .off, .entering true], let s := readied ((paged State.reset).setCluster 0 { State.reset.cluster 0 with power := p })
      wakeWanted s 0 = true ∧ (s.cluster 0).power = p) := by decide +kernel

/-- A device under survey of one component. -/
def surveyed (c : Comp) : State := { State.reset with leases := [c] }
/-- SurveySteps: the last of each kind of component not leased and leased; a core whose contexts run and one whose contexts have stopped, one in a sleeping
cluster, a spare at work. -/
theorem wit_survey_lease :
    let s := State.reset
    s.power = .on ∧ s.leases.contains (.window 47 63) = false ∧ spareUsed s 47 = false ∧ s.leases.contains (.link 7) = false ∧ Tab.get false s.outLinks 7 = false ∧
    s.leases.contains (.segment 3 4) = false ∧ s.sheets.busy = false ∧ s.sheets.live.length = 4 ∧ s.leases.contains (.core 15 67) = false ∧
    (s.cluster 15).retired.getLsbD 67 = false ∧ inRun s 15 = true ∧ inRun (clustered .doze) 15 = false ∧ (s.core (68 * 15 + 67)).leased = false ∧
    stoppedFor (beginCoreLease s 1087) 1087 0 = true ∧ stoppedFor (beginCoreLease s 1087) 1087 1 = true ∧ stoppedFor (beginCoreLease base 0) 0 0 = false := by decide +kernel
theorem wit_survey_verdict :
    (∀ c ∈ [Comp.core 15 67, .window 47 63, .link 7, .segment 3 4], (surveyed c).leases.contains c = true) ∧
    ((surveyed (.core 15 67)).cluster 15).work = none ∧ (surveyed (.segment 3 4)).sheets.busy = false ∧
    (∀ half ∈ [false, true], let w : SpareWork := ⟨67, 63, 64, 0, 4096, 0, half⟩
     let s := State.reset.setCluster 15 { State.reset.cluster 15 with work := some w }
     (s.cluster 15).work = some w ∧ w.half = half) := by decide +kernel
theorem wit_sheets :
    (State.reset.sheets.retired.contains 3 = false ∧ State.reset.sheets.busy = false ∧ State.reset.sheets.retired.length < 3) ∧
    (let s := { State.reset with sheets := ⟨[3], [3], false, [0, 1, 2]⟩ }; s.sheets.retired.contains 3 = false ∧ s.sheets.busy = false ∧ s.sheets.retired.length = 3) ∧
    (let s := { State.reset with sheets := ⟨[0, 1, 2], [0, 1, 2, 3], true, []⟩ }; s.sheets.busy = true) := by decide +kernel

/-- A request of 8 bytes at the end of page 1, and of one byte at its last. -/
def read8 (pasid : Option Nat) : HostReq := ⟨0, 0, pasid, 0x1FFF8, .read 8, false, false⟩
/-- A die's cache holds the leaf that serves an inbound request, if there is one. -/
def leafCached (s : State) (va : Nat) (peer : Option Nat) : State :=
  match (inboundPaths peer).findSome? (fun p => walk s 0 va p false) with
  | some x => fillDie s (inboundDie va) 0 va x
  | none => s
/-- A page on its way to a peer. -/
def leaving (s : State) (va : Nat) : State := { s with moveReqs := [⟨0, va / 65536 * 65536, 1, .asked⟩] }
/-- OutsideSteps, inbound: a read of BAR0's last bytes; of BAR2 one without a PASID, of a frozen requester, one refused because its page moves, and one that
goes through. -/
theorem wit_inbound :
    let s := atHost false .unlocked
    let r := read8 (some 0)
    let f := s.setSession 0 { s.session 0 with frozen := [asidOwner s 0] }
    let b : HostReq := { r with bar0 := true, off := 65528 }
    s.power = .on ∧ s.hostPort = true ∧ (b.acc = .read 8 ∧ 4 ≤ b.off ∧ b.off + 8 ≤ 65536) ∧
    (0 < accBytesOf r.acc ∧ r.off % 2 ^ 48 % 65536 + accBytesOf r.acc ≤ 65536 ∧ atomicServed r.acc (r.off % 2 ^ 48) = true) ∧
    requesterFrozen s r (asidOwner s 0) = false ∧ requesterFrozen f r (asidOwner s 0) = true ∧
    went (inbound (leaving s r.off) 0 (r.off % 2 ^ 48) (accWrites r.acc) none (3 * 2 ^ 60)) = false ∧
    (let u := inbound (leafCached s r.off none) 0 (r.off % 2 ^ 48) (accWrites r.acc) none (3 * 2 ^ 60)
     (match u.2 with
      | .ok x => (performAccess u.1 x.addr ⟨none, asidOwner s 0⟩ r.acc (hostPoison u.1 (asidOwner s 0))).2.isSome
      | .error _ => false) = true) := by decide +kernel
theorem wit_peer :
    let s := atHost false .unlocked
    let r : PeerReq := ⟨7, 1, 0, 2 ^ 41 + 0xFFF8, .read 8⟩
    (s.link 7).state = .up ∧ tdiOf s (asidOwner s 0) = none ∧
    (0 < accBytesOf r.acc ∧ r.va % 2 ^ 48 % 65536 + accBytesOf r.acc ≤ 65536 ∧ atomicServed r.acc (r.va % 2 ^ 48) = true) ∧
    went (inbound (leaving s r.va) 0 (r.va % 2 ^ 48) (accWrites r.acc) (some 1) (4 * 2 ^ 60 + 1)) = false ∧
    (let u := inbound (leafCached s r.va (some 1)) 0 (r.va % 2 ^ 48) (accWrites r.acc) (some 1) (4 * 2 ^ 60 + 1)
     (match u.2 with
      | .ok x => (performAccess (countAccess u.1 (asidOwner s 0) (r.va % 2 ^ 48) x.leafAt (some 1)) x.addr ⟨none, asidOwner s 0⟩ r.acc true).2.isSome
      | .error _ => false) = true) := by decide +kernel
/-- A page's move in each of its phases, its leaf of target 0 or 1, links up or down. -/
theorem wit_page_move : ∀ e ∈ [0x100133, 0x100173], ∀ ph ∈ [MovePhase.due, .asked, .granted, .sent, .arrived],
    let q : Move := ⟨0, 2 ^ 41, 1, ph⟩
    let s := { (paged State.reset).put 0x6000 (leBytes 16 e) with moveReqs := [q] }
    s.moveReqs.find? (fun q => q.asid == 0 && q.va == 2 ^ 41 && q.peer == 1) = some q ∧
    (walk s 0 (2 ^ 41) 6 false).map (fun x => fld x.leaf 7 6) = some (e / 64 % 4) ∧ upLink s = some 0 ∧
    upLink ((List.range 8).foldl (fun t l => linkTo t l .down) s) = none := by decide +kernel
/-- A flit under the right MAC, or not, in or out of sequence, with each of the bodies that the statement names. -/
def flit0 (good : Bool) (seq : Nat) (body : Option PeerMsg) : Flit :=
  ⟨seq, 0, true, [], flitMac 7 false 0 seq [] ++ (if good then [] else [0]), 0, body⟩
theorem wit_links :
    let s := State.reset
    (s.link 7).state = .up ∧ ((linkTo s 7 .halted).link 7).state ≠ .up ∧ ((linkTo s 7 .halted).link 7).state ≠ .down ∧
    (flit0 true 0 none).epoch = (s.link 7).epoch ∧ (flit0 true 0 none).seq = (s.link 7).recvSeq ∧ (flit0 true 1 none).seq ≠ (s.link 7).recvSeq ∧
    { flit0 true 0 none with crcOk := false }.crcOk = false ∧
    (let u := { s with moveReqs := [(⟨0, 2 ^ 41, 1, .asked⟩ : Move)] }
     u.moveReqs.find? (fun q => q.asid == 0 && q.va == 2 ^ 41 && q.peer == 1 && q.phase == .asked) = some ⟨0, 2 ^ 41, 1, .asked⟩) ∧
    s.framesFor = [] := by decide +kernel
theorem wit_flit_mac (seq : Nat) (b : Option PeerMsg) : macHolds 7 (flit0 true seq b) = true ∧ macHolds 7 (flit0 false seq b) = false := by
  constructor
  · simp [macHolds, flit0]
  · rw [macHolds, beq_eq_false_iff_ne]
    intro h
    have := congrArg List.length h
    simp [flit0] at this
/-- A copy of 4,096 bytes from drive 3 to device memory. -/
def driveImage : Nat := 2 * 2 ^ 476 + (7 * 2 ^ 60 + 3 * 2 ^ 48) * 2 ^ 192 + 0x20000 * 2 ^ 128 + 4096 * 2 ^ 104
/-- OutsideSteps, drives: a completion for a command's only entry, for one of two, for a packet, for a transfer that no longer waits, and for no command. -/
theorem wit_drives :
    let k : NvmeCmd := ⟨.cmd 0 1, false, 0, 1⟩
    let r : NvmeCmd := ⟨.pkt ring0 0, false, 0, 1⟩
    let q := queuePair 3 64
    let s := fun (ph : Phase) (l : List NvmeCmd) => { held jobbed (.cpy driveImage 0 none none) ph with nvmeQ := [(q, l)] }
    let t := { taken driveImage (.nvme Prog.start) with nvmeQ := [(q, [r])] }
    let one := s (.nvme Prog.start) [k]
    let two := s (.nvme Prog.start) [k, { k with lba := 1 }]
    Tab.get false one.drives 3 = false ∧ firstCmd one 3 = some (q, k) ∧ waits one k.who = true ∧
    (Tab.set [] one.nvmeQ q ((one.pair q).erase k)).any (fun p => p.2.any (fun v => v.who == k.who)) = false ∧
    firstCmd two 3 = some (q, k) ∧ waits two k.who = true ∧
    (Tab.set [] two.nvmeQ q ((two.pair q).erase k)).any (fun p => p.2.any (fun v => v.who == k.who)) = true ∧
    firstCmd (s .queued [k]) 3 = some (q, k) ∧ waits (s .queued [k]) k.who = false ∧ firstCmd (s .queued []) 3 = none ∧
    firstCmd t 3 = some (q, r) ∧ waits t r.who = true ∧
    State.reset.hostPort = true ∧ ({ State.reset with hostPort := false } : State).hostPort = false := by decide +kernel

/-! The whole machine. -/

/-- Whether a step goes on. -/
def goes : Host.Outcome State Fault Refusal → Bool
  | .next _ => true
  | _ => false
/-- A bundle with one ADD in its scalar slot (R64, R70). -/
def addBundle : Nat := 0x0110518000000000 * 2 ^ 192
/-- StepIssuesDecoded: that bundle as core 0 fetches it, with nothing due and nothing to wait for, to the end of its issue. -/
theorem wit_step :
    let s := { loadBundle State.reset addBundle with agenda := [] }
    let c := s.ctx 0 0
    let b := (scanBundle addBundle).1
    let o : Offer := ⟨b, true, loadedCart, liveSlots c.arch b⟩
    let a := asActing s 0 0 o
    let i : Instr := .add ⟨4, 5, 6, .none, 0⟩
    let w := beginCycle (beginCycle s 0 0) 0 1
    s.power = .on ∧ s.lastSheetLost = false ∧ inRun s (clusterOf 0) = true ∧ s.errs = [] ∧
    (∀ x ∈ [0, 1], (match offerOf w 0 x with | .refused _ => false | _ => true) = true) ∧
    (c.run = .running ∧ c.halted = false ∧ c.frozen = false ∧ c.mode.getLsbD 0 = false ∧ c.bubble = 0 ∧ c.arch.idle = 0 ∧ anyDue c.arch = false) ∧
    ((s.ctx 0 1).run = .free ∧ anyDue (s.ctx 0 1).arch = false ∧ fetch s 0 0 = .ok addBundle true loadedCart ∧ (scanBundle addBundle).2 = [] ∧
      reservedAt s 0 c loadedCart = none) ∧
    (o.live = [(1, i)] ∧ inSlot i = true ∧ unmetWaits a o = [] ∧ busy a o = false ∧ b.ckpt = false ∧ forced s 0 0 o = false) ∧
    (let v := countIssue (a.setCtx 0 0 { c with cart := loadedCart, arch := applyHeader c.arch b, replay := false }) 0 0
     goes (exec i (v.atSlot 1)) = true) := by decide +kernel
/-- A bundle without an instruction, its header all zero. -/
theorem wit_step_empty :
    let s := { loadBundle State.reset 0 with agenda := [] }
    let c := s.ctx 0 0
    let b := (scanBundle 0).1
    s.power = .on ∧ s.lastSheetLost = false ∧ inRun s (clusterOf 0) = true ∧ s.errs = [] ∧
    (c.run = .running ∧ c.halted = false ∧ c.frozen = false ∧ c.mode.getLsbD 0 = false ∧ c.bubble = 0 ∧ c.arch.idle = 0 ∧ anyDue c.arch = false) ∧
    ((s.ctx 0 1).run = .free ∧ anyDue (s.ctx 0 1).arch = false ∧ fetch s 0 0 = .ok 0 true loadedCart ∧ (scanBundle 0).2 = [] ∧
      reservedAt s 0 c loadedCart = none) ∧
    liveSlots c.arch b = [] ∧ b.ckpt = false ∧ c.withhold.length ≤ Config.withholdEntries ∧
    b.waitThreshold ≤ (Tab.get (0 : BitVec 16) c.arch.f b.waitIndex).toNat := by decide +kernel


/-- IssueLeavesRegistersAndMemory, RoundTrip, MemoryCanonicalStep: an instruction that goes on without a trap, one that encodes, a state in order that steps. -/
theorem wit_frame : inSlot (.add ⟨4, 5, 6, .none, 0⟩) = true ∧ base.errs = [] ∧ base.cur.trapped = false ∧
    (match exec (.add ⟨4, 5, 6, .none, 0⟩) base with | .next t => t.cur.trapped == false | _ => false) = true := by decide +kernel
theorem wit_round_trip : (encode (.add ⟨63, 63, 63, .none, 31⟩)).isSome = true ∧ (Instr.add ⟨63, 63, 63, .none, 0⟩).WellFormed := by
  unfold Instr.WellFormed; decide +kernel
theorem wit_ordered : Ordered base ∧ goes (step base) = true ∧ goes (step State.reset) = true := by
  unfold Ordered; decide +kernel

/-! The spec's worked examples. -/

/-- Scalar and vector registers written, every buffer whole. -/
def vregs (s : List (Nat × Nat)) (v : List (Nat × Nat)) : State :=
  base.setArch (v.foldl (fun a x => a.wrV x.1 (BitVec.ofNat 2048 x.2)) (s.foldl (fun a x => a.wrS x.1 (BitVec.ofNat 64 x.2)) base.arch))
/-- The results that an instruction leaves due, with their destinations. -/
def leaves (i : Instr) (s : State) : List (Dest × Nat) := match exec i s with
  | .next t => t.arch.dueRegs.map (fun d => (d.dest, d.val.toNat))
  | _ => []
/-- The same, their low `n` bits. -/
def leavesLow (n : Nat) (i : Instr) (s : State) : List (Dest × Nat) := (leaves i s).map (fun d => (d.1, d.2 % 2 ^ n))

/-- R121's example: −7 by 2, and .n32 by zero. -/
theorem test_div_rem :
    let s := vregs [(5, 2 ^ 64 - 7), (6, 2)] []
    leaves (.div ⟨4, 5, 6, .none, 0⟩) s = [(.scalar 4, 2 ^ 64 - 3)] ∧ leaves (.rem ⟨4, 5, 6, .none, 0⟩) s = [(.scalar 4, 2 ^ 64 - 1)] ∧
    leaves (.div ⟨4, 5, 6, .n32, 0⟩) (vregs [(5, 0xFFFFFFFF00000007)] []) = [(.scalar 4, 0xFFFFFFFF)] := by decide +kernel
/-- R123's example. -/
theorem test_li_lih : leaves (.li ⟨4, 0xDEF0⟩) base = [(.scalar 4, 0xDEF0)] ∧
    leaves (.lih ⟨4, 0x123456789ABC⟩) (vregs [(4, 0xDEF0)] []) = [(.scalar 4, 0x123456789ABCDEF0)] := by decide +kernel
/-- The table of worked conversions after R97. -/
theorem test_conversions :
    convert .bf16 .f32 .rne false 0x3F808000 = 0x3F80 ∧ convert .bf16 .f32 .rup false 0x3F808000 = 0x3F81 ∧ convert .bf16 .f32 .rne false 0x3F818000 = 0x3F82 ∧
    convert .e4m3 .f32 .rne false 0x43960000 = 0x79 ∧ convert .e4m3 .f32 .rne false 0x43E60000 = 0x7E ∧ convert .e4m3 .f32 .rne false 0x43FA0000 = 0x7F ∧
    convert .e4m3 .f32 .rne true 0x43FA0000 = 0x7E ∧ convert .i8 .f32 .rne true 0xC0200000 = 0xFE ∧ convert .i8 .f32 .rdn true 0xC0200000 = 0xFD ∧
    convert .i8 .f32 .rtz true 0x4396599A = 127 := by decide +kernel
/-- The E2M1 block after R97: its scale, and its first two bytes. -/
theorem test_block_scale :
    let xs := [0x40A00000, 0x40266666, 0xBE99999A, 0x3E800000]
    blockScale .e2m1 (xs.map (valueOf .f32)) = 0x7F ∧
    xs.map (fun x => fpRound fmtE2M1 .rne true (fvScale (valueOf .f32 x) (-scaleExp 0x7F))) = [6, 5, 9, 0] := by decide +kernel
/-- The BF16 group after R103. -/
theorem test_group_window :
    let t := fun (a b : Nat) => (⟨fpDecode fmtBF16 a, fpDecode fmtBF16 b, 0x7F, 0x7F⟩ : Term)
    fpRound fmtF32 .rne false (groupSum true true [t 0x4200 0x4200, t 0xC200 0x4200, t 0x2BC0 0x2B00]) = 0x17000000 := by decide +kernel
/-- The sum after R104. -/
theorem test_tree_sum :
    leavesLow 32 (.vrsum ⟨1, 2, 0, 0, .f32, 0, .rne, false, .none, 0⟩) (vregs [] [(2, 0x3F800000 + 0x33800000 * 2 ^ 64 + 0x33800000 * 2 ^ 96)]) =
      [(.vec 1, 0x3F800001)] := by decide +kernel
/-- R133's example: b, k15, the shadow padding count and the offset that issues next. -/
theorem test_bucket_select :
    let s := poked (vregs [(6, 100)] []) 0 (leBytes 64 (3 + (64 + 0x400 * 2 ^ 32) * 2 ^ 128 + (128 + 0x800 * 2 ^ 32) * 2 ^ 256 + (256 + 0xC00 * 2 ^ 32) * 2 ^ 384))
    (leaves (.bsel ⟨4, 5, 6⟩) s).map (fun d => (d.1, if d.1 = .eng 0 then fld d.2 31 16 else d.2)) = [(.scalar 4, 128), (.kreg 15, 2 ^ 36 - 1), (.eng 0, 28)] ∧
    (match exec (.bsel ⟨4, 5, 6⟩) s with | .next t => t.cur.next.map (·.1.toNat) == some 0x800 | _ => false) = true := by decide +kernel
/-- R159's example: the keys of elements 0 to 5, and the digits counted. -/
theorem test_keys_histogram :
    let k := fun (s : State) => s.setArch (s.arch.wrK 4 7)
    leavesLow 96 (.vkey ⟨3, 2, 0, 0, .f16, 4, .rne, false, .none, 0⟩) (k (vregs [] [(2, joinElems 16 [0x3C00, 0xBC00, 0x8000, 0, 0x7C00, 0x7E00])])) =
      [(.vec 3, joinElems 16 [0xBC00, 0x43FF, 0x8000, 0x8000, 0xFC00, 0])] ∧
    leaves (.vhist ⟨5, 3, 0, 0, .n16, 4, .rne, false, .none, 0x8C⟩) (k (vregs [] [(3, joinElems 16 [0xBC00, 0x43FF, 0x8000, 0x8000, 0xFC00, 0])])) =
      [(.vec 5, joinElems 32 [1, 0, 0, 0, 1, 0, 0, 0, 2, 0, 0, 1, 0, 0, 0, 1])] := by decide +kernel
/-- R189's example: lanes 32 and 33 of v40 after DOT. -/
theorem test_dot :
    let s := vregs [(9, 4096)] [(36, joinElems 8 (List.replicate 256 0x38))]
    let s := s.setArch { s.arch with bankC := true, dSh := ⟨64, 0x20000, 0x20⟩ }
    let s := (s.put (wtKey 0 4096) (List.replicate 32 0x22 ++ List.replicate 32 0 ++ List.replicate 32 0x22)).put (wtKey 0 (4096 + 0x20000)) [0x7F, 0x7F, 0x80, 0x7E]
    (leaves (.dot ⟨40, 36, 9, .e4m3, .e2m1⟩) s).map (fun d => (elem d.2 32 32, elem d.2 32 33)) = [(0x42800000, 0x42A00000)] := by decide +kernel
/-- R218's example: the word, and what the operation found. -/
theorem test_atomic_add :
    (match atomicOp (jobbed.put 0x10000 [10]) (engOf jobbed 0 (cmdOf .sfence .queued)) 0x10000 0 true false 5 0 with
     | (t, .ok v) => v == 10 && leNat (t.bytes 0x10000 8) == 15
     | _ => false) = true := by decide +kernel
/-- R289's example: a leaf at level 0 and one at level 1. -/
theorem test_walk :
    let s := { State.reset with asids := [(0, BitVec.ofNat 128 (1 + 0x100 * 2 ^ 64))] }
    let t := ((s.put 0x100120 (leBytes 16 0x200001)).put 0x200340 (leBytes 16 0x300001)).put 0x300560 (leBytes 16 0x400001)
    (walk (t.put 0x400780 (leBytes 16 0x420003_0013)) 0 0x123456789ABC 0 false).map (·.addr) = some 0x4200039ABC ∧
    (walk (t.put 0x300560 (leBytes 16 0x420000_0013)) 0 0x123456789ABC 0 false).map (·.addr) = some 0x4200789ABC := by decide +kernel
/-- R382's example: with every sheet in service, and with sheet 2 failed. -/
theorem test_sheet : sheetIn [0, 1, 2, 3] 0x0042_0003_9ABC = 1 ∧ sheetIn [0, 1, 3] 0x0042_0003_9ABC = 0 := by decide
/-- R135's example: three ticks. -/
theorem test_idle : (match exec (.idle ⟨0, 0, 0, .core, 3⟩) base with | .next t => t.arch.idle == 2 | _ => false) = true := by decide +kernel

end Sys2Proof.Tests
end

section
/-! SUPPORT. What an instruction can answer: every slot's row and every whole step gives a next state, and a bundle issue
gives one too unless a context offers an encoding that the scanner refuses. -/
namespace Sys2Proof.Machine

/-! The control rows whose meaning branches before it answers. -/

theorem execLoop_next (f : CL) (s : State) : ∃ t, execLoop f s = .next t := by
  simp only [execLoop]
  split_ifs <;> exact ⟨_, rfl⟩

theorem execLbrk_next (f : CL) (s : State) : ∃ t, execLbrk f s = .next t := by
  simp only [execLbrk]
  split <;> exact ⟨_, rfl⟩

theorem execBsel_next (f : CB) (s : State) : ∃ t, execBsel f s = .next t := by
  simp only [execBsel]
  split
  · exact ⟨_, rfl⟩
  · split
    · exact ⟨_, rfl⟩
    · split <;> exact ⟨_, rfl⟩

theorem execSysr_next (f : CY) (s : State) : ∃ t, execSysr f s = .next t := by
  rw [execSysr]
  split <;> exact ⟨_, rfl⟩

theorem execSysw_next (f : CY) (s : State) : ∃ t, execSysw f s = .next t := by
  rw [execSysw]
  split <;> exact ⟨_, rfl⟩

/-- Beside BUNDLE_ISSUE every row answers a next state. -/
theorem exec_next_of_ne_bundleIssue (i : Instr) (s : State) (h : ∀ core, i ≠ .bundleIssue core) :
    ∃ t, exec i s = .next t := by
  cases i with
  | bundleIssue core => exact absurd rfl (h core)
  | loop f => exact execLoop_next f s
  | lbrk f => exact execLbrk_next f s
  | bsel f => exact execBsel_next f s
  | sysr f => exact execSysr_next f s
  | sysw f => exact execSysw_next f s
  | _ => exact ⟨_, rfl⟩

/-- A slot's meaning is that of its row, and a whole step, which stands in no slot, leaves the state. -/
theorem slotExec_next (i : Instr) (s : State) : ∃ t, slotExec i s = .next t := by
  cases i with
  | loop f => exact execLoop_next f s
  | lbrk f => exact execLbrk_next f s
  | bsel f => exact execBsel_next f s
  | sysr f => exact execSysr_next f s
  | sysw f => exact execSysw_next f s
  | _ => exact ⟨_, rfl⟩

/-! The issue of a bundle. -/

theorem runSlots_next (l : List (Nat × Instr)) (s : State) : ∃ t, runSlots l s = .next t := by
  induction l generalizing s with
  | nil => exact ⟨s, rfl⟩
  | cons p ps ih =>
    rw [runSlots]
    split
    · exact ⟨s, rfl⟩
    · obtain ⟨t, ht⟩ := slotExec_next p.2 (s.atSlot p.1)
      rw [ht]
      exact ih t

theorem issueBundle_next (s : State) (core x : Nat) (o : Offer) : ∃ t, issueBundle s core x o = .next t := by
  simp only [issueBundle]
  generalize issueState _ core x o = t
  obtain ⟨u, hu⟩ := runSlots_next o.live t
  rw [hu]
  exact ⟨_, rfl⟩

theorem thenRes_next {r : Res} {f : State → Res} (hr : ∃ s, r = .next s) (hf : ∀ s, ∃ t, f s = .next t) :
    ∃ t, thenRes r f = .next t := by
  obtain ⟨s, rfl⟩ := hr
  exact hf s

theorem thenRes_issueBundle_next (s : State) (core x : Nat) (o : Offer) (f : State → State) :
    ∃ t, thenRes (issueBundle s core x o) (fun u => .next (f u)) = .next t :=
  thenRes_next (issueBundle_next s core x o) (fun u => ⟨f u, rfl⟩)

/-- A core's cycle completes where neither context offers an encoding that the scanner refuses. -/
theorem issueOffers_next (s : State) (core : Nat) {a b : Offered} (ha : ∀ r, a ≠ .refused r) (hb : ∀ r, b ≠ .refused r) :
    ∃ t, issueOffers s core a b = .next t := by
  unfold issueOffers
  split
  case h_1 r => exact absurd rfl (ha r)
  case h_2 r _ => exact absurd rfl (hb r)
  case h_3 =>
    -- who is ready to issue: both contexts (merged or colliding), context 0, context 1, neither
    split
    · simp only
      split
      · split <;> exact thenRes_issueBundle_next ..
      · exact thenRes_next (issueBundle_next ..) (fun _ => thenRes_issueBundle_next ..)
    · exact thenRes_issueBundle_next ..
    · exact thenRes_issueBundle_next ..
    · exact ⟨_, rfl⟩

/-- What a core's offers come to: a next state, or the fault of the encoding that one context offers. -/
theorem issueOffers_cases (s : State) (core : Nat) (a b : Offered) :
    (∃ t, issueOffers s core a b = .next t) ∨ ∃ r, (a = .refused r ∨ b = .refused r) ∧
      issueOffers s core a b = .fault (.reservedEncoding r) := by
  by_cases ha : ∃ r, a = .refused r
  · obtain ⟨r, rfl⟩ := ha
    exact .inr ⟨r, .inl rfl, by simp only [issueOffers]⟩
  · have ha' : ∀ r, a ≠ .refused r := not_exists.mp ha
    by_cases hb : ∃ r, b = .refused r
    · obtain ⟨r, rfl⟩ := hb
      exact .inr ⟨r, .inr rfl, by simp only [issueOffers]⟩
    · exact .inl (issueOffers_next s core ha' (not_exists.mp hb))

/-- BUNDLE_ISSUE answers a next state, or stops at an encoding that the scanner refuses. -/
theorem execBundleIssue_cases (core : Nat) (s : State) :
    (∃ t, execBundleIssue core s = .next t) ∨ ∃ r, execBundleIssue core s = .fault (.reservedEncoding r) := by
  rw [execBundleIssue]
  split
  · exact .inl ⟨s, rfl⟩
  · exact (issueOffers_cases _ core _ _).imp_right (fun ⟨r, _, h⟩ => ⟨r, h⟩)

/-- An instruction answers a next state, or it is a bundle issue that stops at a reserved encoding. -/
theorem exec_cases (i : Instr) (s : State) :
    (∃ t, exec i s = .next t) ∨ ∃ core r, i = .bundleIssue core ∧ exec i s = .fault (.reservedEncoding r) := by
  by_cases h : ∃ core, i = .bundleIssue core
  · obtain ⟨core, rfl⟩ := h
    exact (execBundleIssue_cases core s).imp_right (fun ⟨r, hr⟩ => ⟨core, r, rfl, hr⟩)
  · exact .inl (exec_next_of_ne_bundleIssue i s (not_exists.mp h))

/-- Settles O59: of the two answers that an instruction can give, neither is a refusal, and the one that is a fault names the
bundle issue and the encoding. -/
theorem onlyReservedEncodingStops : Obligations.OnlyReservedEncodingStops := by
  unfold Obligations.OnlyReservedEncodingStops
  intro i s
  obtain ⟨t, ht⟩ | ⟨core, r, hi, hr⟩ := exec_cases i s
  · exact ⟨fun _ h => by simp [ht] at h, fun _ h => by simp [ht] at h⟩
  · refine ⟨fun _ h => by simp [hr] at h, fun f h => ⟨core, r, hi, ?_⟩⟩
    rw [hr] at h
    exact (Host.Outcome.fault.inj h).symm

end Sys2Proof.Machine
end

section
/-! SUPPORT. Folds over states and numbers: what a fold keeps, and what a fold that treats each number once leaves at each. -/
namespace Sys2Proof.Machine

/-- A fold over the numbers below `n` whose step changes place `i` alone changes every place below `n` once. -/
theorem foldl_range_read {σ β : Type} (f : σ → Nat → σ) (read : σ → Nat → β) (g : Nat → β → β)
    (same : ∀ t i, read (f t i) i = g i (read t i)) (other : ∀ t i k, k ≠ i → read (f t i) k = read t k) (n : Nat) (s : σ) (k : Nat) :
    read ((List.range n).foldl f s) k = if k < n then g k (read s k) else read s k := by
  induction n with
  | zero => rfl
  | succ n ih =>
    rw [List.range_succ, List.foldl_append, List.foldl_cons, List.foldl_nil]
    by_cases hk : k = n
    · subst hk
      rw [same, ih, if_neg (Nat.lt_irrefl k), if_pos (Nat.lt_succ_self k)]
    · rw [other _ _ _ hk, ih]
      exact if_congr (by omega) rfl rfl

/-- A table written once at every number below `n`. -/
theorem Tab.get_foldl_set {α : Type} [DecidableEq α] (d : α) (g : Nat → α → α) (n : Nat) (t : Tab α) (k : Nat) :
    Tab.get d ((List.range n).foldl (fun t i => Tab.set d t i (g i (Tab.get d t i))) t) k =
      if k < n then g k (Tab.get d t k) else Tab.get d t k :=
  foldl_range_read _ (Tab.get d) g (fun t i => Tab.get_set_same d t i _) (fun t _ _ h => Tab.get_set_other d t h _) n t k

/-- A fold of steps that write clusters alone writes clusters alone. -/
theorem foldl_writes_clusters {ι : Type} (f : State → ι → State) (h : ∀ t i, ∃ cs, f t i = { t with clusters := cs }) (l : List ι)
    (s : State) : ∃ cs, l.foldl f s = { s with clusters := cs } := by
  induction l generalizing s with
  | nil => exact ⟨s.clusters, rfl⟩
  | cons i l ih =>
    obtain ⟨cs, hi⟩ := h s i
    obtain ⟨ds, hl⟩ := ih (f s i)
    exact ⟨ds, by rw [List.foldl_cons, hl, hi]⟩

end Sys2Proof.Machine
end

section
/-! SUPPORT. Power: HOLD and its end, what a power loss keeps, bring-up, cores and clusters that wake, trim. -/
namespace Sys2Proof.Machine

/-! HOLD, its end and the loss of power (R377, R378, R382, R384, R426). -/

theorem exec_holdEntry_of_on {s : State} (h : s.power = .on) : exec .holdEntry s = .next { s with power := .hold } := by
  show execHoldEntry s = _
  simp [execHoldEntry, h]

theorem exec_reserveFloor_in_hold {s : State} (h : s.power = .hold) : exec .reserveFloor s = .next { s with power := .off } := by
  show execReserveFloor s = _
  simp [execReserveFloor, h]

theorem exec_transportShock_of_off {s : State} (h : s.power = .off) : exec .transportShock s = .next { s with shock := true } := by
  show execTransportShock s = _
  simp [execTransportShock, h]

/-- A device without a sheet stays in HOLD. -/
theorem exec_holdExit_of_lost {s : State} (hl : s.lastSheetLost = true) : exec .holdExit s = .next s := by
  show execHoldExit s = _
  simp [execHoldExit, hl]

/-- A STEP of a live session that comes during HOLD is kept for the end of HOLD. -/
theorem exec_step_in_hold {s : State} (hp : s.power = .hold) (hl : s.lastSheetLost = false) (m : Msg) (core x n : Nat)
    (hu : (s.session m.session).up = true) :
    exec (.step m core x n) s = .next { s with heldSteps := s.heldSteps ++ [(m, core, x, n)] } := by
  show execStep m core x n s = _
  simp [execStep, hp, hl, hu]

/-- The end of HOLD where no STEP is kept: the links start again, and nothing else changes. -/
theorem exec_holdExit_of_no_steps {s : State} (hp : s.power = .hold) (hl : s.lastSheetLost = false) (hs : s.heldSteps = []) :
    ∃ t, exec .holdExit s = .next t ∧ t = { s with power := .on, links := t.links } ∧ ∀ l, l < 8 → t.link l = restartLink (s.link l) := by
  refine ⟨{ s with power := .on, links := (List.range 8).foldl (fun t i =>
    Tab.set Link.reset t i (restartLink (Tab.get Link.reset t i))) s.links }, ?_, rfl, fun l h => ?_⟩
  · show execHoldExit s = _
    simp [execHoldExit, hp, hl, hs]
  · exact (Tab.get_foldl_set Link.reset (fun _ => restartLink) 8 s.links l).trans (if_pos h)

/-! What a power loss keeps (R20, R378). -/

@[simp] theorem afterLoss_journal (s : State) : (afterLoss s).journal = s.journal := by simp only [afterLoss]
@[simp] theorem afterLoss_die0 (s : State) : (afterLoss s).die0 = s.die0 := by simp only [afterLoss]
@[simp] theorem afterLoss_die2 (s : State) : (afterLoss s).die2 = s.die2 := by simp only [afterLoss]
@[simp] theorem afterLoss_jobs (s : State) : (afterLoss s).jobs = [] := by simp only [afterLoss, State.reset]
@[simp] theorem afterLoss_sessions (s : State) : (afterLoss s).sessions = [] := by simp only [afterLoss, State.reset]
@[simp] theorem afterLoss_powerLost (s : State) : (afterLoss s).powerLost = true := by simp only [afterLoss]
@[simp] theorem afterLoss_scores (s : State) : (afterLoss s).scores = s.die0.scores := by simp only [afterLoss]
@[simp] theorem afterLoss_wear (s : State) : (afterLoss s).wear = s.wear := by simp only [afterLoss]

@[simp] theorem shadowOnly_run (c : Ctx) : (shadowOnly c).run = .free := by
  unfold shadowOnly
  split <;> rfl

/-- A context that has a checkpoint keeps its shadow, the checkpoint's place and the cause. -/
theorem shadowOnly_of_checkpoint {c : Ctx} (h : c.ckpt.getLsbD 63 = true) :
    (shadowOnly c).shadow = c.shadow ∧ (shadowOnly c).ckpt = c.ckpt ∧ (shadowOnly c).cause = c.cause := by
  rw [shadowOnly, if_pos h]
  exact ⟨rfl, rfl, rfl⟩

theorem lostCore_ctx (c : Core) (x : Nat) : (lostCore c).ctx x = shadowOnly (c.ctx x) := by
  unfold Core.ctx
  split <;> rfl

theorem afterLoss_ctx (s : State) {core : Nat} (h : core < 1088) (x : Nat) :
    (afterLoss s).ctx core x = shadowOnly (s.ctx core x) := by
  have hc : (afterLoss s).core core = lostCore (s.core core) := by
    simp only [State.core, afterLoss]
    rw [Tab.get_foldl_set Core.reset (fun i _ => lostCore (Tab.get Core.reset s.cores i)), if_pos h]
  rw [State.ctx, hc, lostCore_ctx]
  rfl

/-- MRAM and what lies outside the chip keep their bytes. -/
theorem afterLoss_byte (s : State) (a : Nat) :
    (afterLoss s).mem.byte a = if a / 2 ^ 60 = 2 ∨ 5 ≤ a / 2 ^ 60 then s.mem.byte a else 0 := by
  refine (Tab.get_filter (0 : Byte) (fun k => k / 2 ^ 60 == 2 || decide (5 ≤ k / 2 ^ 60)) s.mem a).trans (if_congr ?_ rfl rfl)
  simp only [Bool.or_eq_true, beq_iff_eq, decide_eq_true_eq]

/-! Bring-up (R214, R312, R425, R426). -/

/-- An empty journal has nothing to recover. -/
theorem recoverJournal_of_empty {s : State} (h : s.journal = []) : recoverJournal s = { s with txn := none } := by
  simp [recoverJournal, openTxns, h]

/-- A state at bring-up, the retirement table `d` read: no transaction, both copies of the table and the header's fields in place,
clusters and what is asked of the Surveyor as given. -/
def broughtUp (u : State) (d : RetTable) (cs : Tab Cluster) (due : List Nat) (first port : Bool) : State :=
  { u with txn := none, die0 := d, die2 := d, ret := (d.header.map headerRead).getD State.reset.ret, clusters := cs,
           surveyDue := due, surveyFirst := first, hostPort := port }

section
variable (u : State) (d : RetTable) (cs : Tab Cluster) (due : List Nat) (first port : Bool)

@[simp] theorem broughtUp_mem : (broughtUp u d cs due first port).mem = u.mem := rfl
@[simp] theorem broughtUp_jobs : (broughtUp u d cs due first port).jobs = u.jobs := rfl
@[simp] theorem broughtUp_sessions : (broughtUp u d cs due first port).sessions = u.sessions := rfl
@[simp] theorem broughtUp_powerLost : (broughtUp u d cs due first port).powerLost = u.powerLost := rfl
@[simp] theorem broughtUp_die0 : (broughtUp u d cs due first port).die0 = d := rfl
@[simp] theorem broughtUp_die2 : (broughtUp u d cs due first port).die2 = d := rfl
@[simp] theorem broughtUp_ret : (broughtUp u d cs due first port).ret = (d.header.map headerRead).getD State.reset.ret := rfl
@[simp] theorem broughtUp_scores : (broughtUp u d cs due first port).scores = u.scores := rfl
@[simp] theorem broughtUp_wear : (broughtUp u d cs due first port).wear = u.wear := rfl
@[simp] theorem broughtUp_surveyFirst : (broughtUp u d cs due first port).surveyFirst = first := rfl
@[simp] theorem broughtUp_hostPort : (broughtUp u d cs due first port).hostPort = port := rfl
@[simp] theorem broughtUp_ctx (core x : Nat) : (broughtUp u d cs due first port).ctx core x = u.ctx core x := rfl

end

/-- Reading the retirement table writes its two copies, the header's fields and clusters. -/
theorem tableRead_eq {u : State} (h : u.txn = none) : ∃ cs, tableRead u =
    broughtUp u (chosenTable u.die0 u.die2) cs u.surveyDue u.surveyFirst u.hostPort := by
  have hu : broughtUp u (chosenTable u.die0 u.die2) u.clusters u.surveyDue u.surveyFirst u.hostPort = { u with
      die0 := chosenTable u.die0 u.die2, die2 := chosenTable u.die0 u.die2,
      ret := ((chosenTable u.die0 u.die2).header.map headerRead).getD State.reset.ret } := by
    rw [broughtUp, ← h]
  simp only [tableRead, ← hu]
  refine foldl_writes_clusters _ (fun t c => ?_) _ _
  split
  · exact ⟨_, rfl⟩
  · exact ⟨t.clusters, rfl⟩

/-- With an empty journal, and where no spare was being brought into service, the table is read and nothing else is carried out. -/
theorem recovery_eq {u : State} (hj : u.journal = []) (ho : openSpares (chosenTable u.die0 u.die2) = []) :
    ∃ cs, recoverRetirement (recoverJournal u) =
      broughtUp u (chosenTable u.die0 u.die2) cs u.surveyDue u.surveyFirst u.hostPort := by
  obtain ⟨cs, hr⟩ := tableRead_eq (u := { u with txn := none }) rfl
  refine ⟨cs, ?_⟩
  rw [recoverJournal_of_empty hj, recoverRetirement, hr, broughtUp_die0, ho, List.foldl_nil]
  rfl

/-- POWER_UP with nothing to recover: the device as power left it with the retirement table read, and after a shock a full
survey first, the host port closed. -/
theorem exec_powerUp_true {s : State} (hp : s.power = .off) (hj : s.journal = [])
    (ho : openSpares (chosenTable s.die0 s.die2) = []) : ∃ cs due first port,
    exec (.powerUp true) s = .next (broughtUp (afterLoss s) (chosenTable s.die0 s.die2) cs due first port) ∧
    (s.shock = true → first = true ∧ port = false) := by
  obtain ⟨cs, hr⟩ := recovery_eq (u := afterLoss s) (by rw [afterLoss_journal, hj]) (by rw [afterLoss_die0, afterLoss_die2, ho])
  rw [afterLoss_die0, afterLoss_die2] at hr
  have he : exec (.powerUp true) s = execPowerUp true s := rfl
  cases hs : s.shock with
  | true =>
    refine ⟨cs, everyComponent, true, false, ?_, fun _ => ⟨rfl, rfl⟩⟩
    simp [he, execPowerUp, hp, hr, hs, broughtUp]
  | false =>
    refine ⟨cs, (afterLoss s).surveyDue, (afterLoss s).surveyFirst, (afterLoss s).hostPort, ?_, fun h => absurd h Bool.false_ne_true⟩
    simp [he, execPowerUp, hp, hr, hs, broughtUp]

/-! Cores and clusters (R20 to R24). -/

/-- A core that wakes from OFF has its activation bytes zero. -/
theorem clearCore_act (s : State) (core a : Nat) (h : a < actBytes) : (clearCore s core).mem.byte (actKey core a) = 0 := by
  show ((s.mem.zero (actKey core 0) actBytes).zero (accKey core 0) accBytes).byte (actKey core a) = 0
  have hin : actKey core 0 ≤ actKey core a ∧ actKey core a < actKey core 0 + actBytes := by
    unfold actKey
    omega
  rw [Memory.byte_zero, Memory.byte_zero, if_pos hin, ite_self]

/-- A core that wakes from OFF has its accumulator bytes zero. -/
theorem clearCore_acc (s : State) (core a : Nat) (h : a < accBytes) : (clearCore s core).mem.byte (accKey core a) = 0 := by
  show ((s.mem.zero (actKey core 0) actBytes).zero (accKey core 0) accBytes).byte (accKey core a) = 0
  have hin : accKey core 0 ≤ accKey core a ∧ accKey core a < accKey core 0 + accBytes := by
    unfold accKey
    omega
  rw [Memory.byte_zero, if_pos hin]

theorem exec_clusterEnterDoze_of_idle {s : State} {cl : Nat} (hp : s.power = .on) (hi : idleCluster s cl = true) :
    exec (.clusterEnterDoze cl) s = .next (beginEntry s cl false) := by
  show execClusterEnterDoze cl s = _
  simp [execClusterEnterDoze, hp, hi]

/-- OFF is entered where the cluster may go there, and else nothing happens. -/
theorem exec_clusterEnterOff_of_idle {s : State} {cl : Nat} (hp : s.power = .on) (hi : idleCluster s cl = true) :
    exec (.clusterEnterOff cl) s = .next (if mayGoOff s cl then beginEntry s cl true else s) := by
  show execClusterEnterOff cl s = _
  cases hm : mayGoOff s cl <;> simp [execClusterEnterOff, hp, hi, hm]

theorem mayGoOff_of_clear {s : State} {cl : Nat} (hf : ∀ c ∈ clusterCtxs s cl, c.frozen = false)
    (hu : pinnedUnits s (fun code => code / 64 % 16 == cl) = []) : mayGoOff s cl = true := by
  have hn : (clusterCtxs s cl).any (·.frozen) = false := by simpa using hf
  simp [mayGoOff, hn, hu]

theorem mayGoOff_of_frozen {s : State} {cl : Nat} (hf : (clusterCtxs s cl).any (·.frozen) = true) : mayGoOff s cl = false := by
  simp only [mayGoOff, hf, Bool.not_true, Bool.false_and]

theorem exec_clusterEntryComplete_of_entering {s : State} {cl : Nat} {off : Bool} (hp : s.power = .on)
    (hk : (s.cluster cl).power = .entering off) :
    exec (.clusterEntryComplete cl) s = .next (s.setCluster cl { s.cluster cl with
      power := if (s.cluster cl).wakePending then .waking off else if off then .off else .doze
      tlb := if off then [] else (s.cluster cl).tlb, wakePending := false }) := by
  show execClusterEntryComplete cl s = _
  simp [execClusterEntryComplete, hp, hk]

theorem exec_clusterWake_of_wanted {s : State} {cl : Nat} (hp : s.power = .on) (hc : cl < 16) (hw : wakeWanted s cl = true) :
    exec (.clusterWake cl) s = .next (requestWake s cl) := by
  show execClusterWake cl s = _
  simp [execClusterWake, hp, hw, Nat.not_le.2 hc]

/-- What a wake asks of a cluster, by its power state (R22). -/
theorem requestWake_of_doze {s : State} {cl : Nat} (h : (s.cluster cl).power = .doze) :
    requestWake s cl = s.setCluster cl { s.cluster cl with power := .waking false } := by
  simp only [requestWake, h]

theorem requestWake_of_off {s : State} {cl : Nat} (h : (s.cluster cl).power = .off) :
    requestWake s cl = s.setCluster cl { s.cluster cl with power := .waking true } := by
  simp only [requestWake, h]

theorem requestWake_of_entering {s : State} {cl : Nat} {off : Bool} (h : (s.cluster cl).power = .entering off) :
    requestWake s cl = s.setCluster cl { s.cluster cl with wakePending := true } := by
  simp only [requestWake, h]

theorem exec_clusterWakeDone_of_waking {s : State} {cl : Nat} {off : Bool} (hp : s.power = .on)
    (hk : (s.cluster cl).power = .waking off) :
    let u := (List.range Config.physCores).foldl (fun t x =>
      if off then clearCore t (68 * cl + x) else wakeCore t (68 * cl + x)) s
    exec (.clusterWakeDone cl) s = .next (releaseAll (u.setCluster cl { u.cluster cl with power := .run })) := by
  show execClusterWakeDone cl s = _
  simp only [execClusterWakeDone, hp, hk]
  rfl

/-- A cluster in RUN steps its voltage down inside the trim window, and only there (R376). -/
theorem exec_trimStepDown_of_run {s : State} {cl : Nat} (hp : s.power = .on) (hc : cl < 16) (hk : (s.cluster cl).power = .run) :
    exec (.trimStepDown cl) s = .next (if inTrimWindow s cl then
      s.setCluster cl { s.cluster cl with trimMv := min 60 ((s.cluster cl).trimMv + 5) } else s) := by
  have hr : inRun s cl = true := by rw [inRun, hk]; rfl
  show execTrimStepDown cl s = _
  cases hw : inTrimWindow s cl <;> simp [execTrimStepDown, hp, hr, hw, Nat.not_le.2 hc]

/-- Settles O51: the package's steps one by one, bring-up as the device that power left with the retirement table read, a woken
core's buffers zeroed, and the clusters by their power state. -/
theorem powerSteps : Obligations.PowerSteps := by
  unfold Obligations.PowerSteps
  refine ⟨fun s => ?_, fun s core a => ⟨clearCore_act s core a, clearCore_acc s core a⟩, fun s cl hp hc => ?_⟩
  · refine ⟨rfl, exec_holdEntry_of_on, exec_reserveFloor_in_hold, exec_transportShock_of_off, fun _ => exec_holdExit_of_lost,
      fun h hl m core x n hu => exec_step_in_hold h hl m core x n hu, fun h hl hs => exec_holdExit_of_no_steps h hl hs,
      fun h => ⟨?_, fun hj ho => ?_⟩⟩
    · show execPowerUp false s = _
      simp [execPowerUp]
    · obtain ⟨cs, due, first, port, he, hfirst⟩ := exec_powerUp_true h hj ho
      refine ⟨_, he, ?_⟩
      simp only [broughtUp_mem, broughtUp_jobs, broughtUp_sessions, broughtUp_powerLost, broughtUp_die0, broughtUp_die2, broughtUp_ret,
        broughtUp_scores, broughtUp_wear, broughtUp_surveyFirst, broughtUp_hostPort, broughtUp_ctx, afterLoss_jobs, afterLoss_sessions,
        afterLoss_powerLost, afterLoss_scores, afterLoss_wear, true_and]
      refine ⟨afterLoss_byte s, hfirst, fun core x hcore => ?_⟩
      rw [afterLoss_ctx s hcore x]
      exact ⟨shadowOnly_run _, shadowOnly_of_checkpoint⟩
  · refine ⟨fun hi => ⟨exec_clusterEnterDoze_of_idle hp hi, fun hf hu => ?_, fun hf => ?_⟩,
      fun off hk => exec_clusterEntryComplete_of_entering hp hk, fun hw => ⟨fun hk => ?_, fun hk => ?_, fun off hk => ?_⟩,
      fun off hk => exec_clusterWakeDone_of_waking hp hk, fun hk => ⟨fun hw => ?_, fun hw => ?_⟩⟩
    · rw [exec_clusterEnterOff_of_idle hp hi, if_pos (mayGoOff_of_clear hf hu)]
    · rw [exec_clusterEnterOff_of_idle hp hi, mayGoOff_of_frozen hf]
      rfl
    · rw [exec_clusterWake_of_wanted hp hc hw, requestWake_of_doze hk]
    · rw [exec_clusterWake_of_wanted hp hc hw, requestWake_of_off hk]
    · rw [exec_clusterWake_of_wanted hp hc hw, requestWake_of_entering hk]
    · rw [exec_trimStepDown_of_run hp hc hk, if_pos hw]
    · rw [exec_trimStepDown_of_run hp hc hk, hw]
      rfl

end Sys2Proof.Machine
end

section
/-! SUPPORT. Replies do not depend on the package's power, nor change it: what answers STATUS_READ in HOLD (R382). -/
namespace Sys2Proof.Machine

/-- Where the next entry of a ring that the device produces goes; none where it is dropped (R246, R247, R301). -/
def ringSlot (s : State) (dk asid : Nat) : Option Nat :=
  let d := s.desc dk
  let a := rdBase d + rdWrite d % 2 ^ rdLog2 d * rdEntry (rdKind d)
  if !rdOk d || 2 ^ rdLog2 d ≤ rdCount d || markedFrame s dk then none
  else if pathOf a = 5 then some (hostKey (fld a 47 0))
  else ((walk s asid (fld a 47 0) 0 true).map (·.addr)).filter (fun k => !markedFrame s k)

/-- An entry is written to its slot and the write index goes on, or it is dropped. -/
theorem ringProduce_eq (s : State) (dk asid : Nat) (entry : List Byte) : ringProduce s dk asid entry =
    ((ringSlot s dk asid).elim s (fun k => (s.put k entry).setDesc dk (setFld (s.desc dk) 511 448 (rdWrite (s.desc dk) + 1))),
      (ringSlot s dk asid).isSome) := by
  simp only [ringProduce, ringSlot]
  split_ifs
  · rfl
  · rfl
  · cases walk s asid _ 0 true with
    | none => rfl
    | some x => cases hm : markedFrame s x.addr <;> simp [Option.filter, hm]

/-- The same device with the package's power and the note about the last sheet replaced. -/
def State.underPower (s : State) (p : Power) (l : Bool) : State := { s with power := p, lastSheetLost := l }

section
variable (s : State) (p : Power) (l : Bool)

/-- The power that a device has, put in place again. -/
theorem State.underPower_own : s.underPower s.power s.lastSheetLost = s := rfl
theorem State.underPower_underPower (q : Power) (k : Bool) : (s.underPower p l).underPower q k = s.underPower q k := rfl

@[simp] theorem bytes_underPower (k n : Nat) : (s.underPower p l).bytes k n = s.bytes k n := rfl
@[simp] theorem beyondRepair_underPower (k n : Nat) : beyondRepair (s.underPower p l) k n = beyondRepair s k n := rfl
@[simp] theorem desc_underPower (k : Nat) : (s.underPower p l).desc k = s.desc k := rfl
@[simp] theorem markedFrame_underPower (k : Nat) : markedFrame (s.underPower p l) k = markedFrame s k := rfl
@[simp] theorem session_underPower (n : Nat) : (s.underPower p l).session n = s.session n := rfl
@[simp] theorem setSession_underPower (n : Nat) (v : Session) :
    (s.underPower p l).setSession n v = (s.setSession n v).underPower p l := rfl
@[simp] theorem emit_underPower (m : Sent) : emit (s.underPower p l) m = (emit s m).underPower p l := rfl

theorem walkFrom_underPower (va q : Nat) (wr : Bool) (n node : Nat) :
    walkFrom (s.underPower p l) va q wr n node = walkFrom s va q wr n node := by
  induction n generalizing node with
  | zero => rfl
  | succ n ih => 
    simp only [walkFrom, bytes_underPower, beyondRepair_underPower, ih]
    rfl

@[simp] theorem walk_underPower (asid va q : Nat) (wr : Bool) : walk (s.underPower p l) asid va q wr = walk s asid va q wr := by
  simp only [walk, walkFrom_underPower]
  rfl

/-- A fold of steps that neither read nor change the package's power. -/
theorem foldl_underPower {ι : Type} (f : State → ι → State) (h : ∀ t i, f (t.underPower p l) i = (f t i).underPower p l)
    (xs : List ι) : xs.foldl f (s.underPower p l) = (xs.foldl f s).underPower p l :=
  List.foldl_hom (State.underPower · p l) h

theorem fireInjections_underPower (hit : Nat → Bool) :
    fireInjections (s.underPower p l) hit = (fireInjections s hit).underPower p l := by
  refine foldl_underPower s p l _ (fun t c => ?_) s.inject
  obtain ⟨_, _ | j⟩ := c
  · rfl
  · simp only
    split <;> rfl

@[simp] theorem put_underPower (k : Nat) (bs : List Byte) : (s.underPower p l).put k bs = (s.put k bs).underPower p l := by
  simp only [State.put]
  by_cases he : (s.errs.isEmpty && s.inject.isEmpty) = true
  · rw [if_pos he, if_pos (show ((s.underPower p l).errs.isEmpty && (s.underPower p l).inject.isEmpty) = true from he)]
    rfl
  · rw [if_neg he, if_neg (show ¬ ((s.underPower p l).errs.isEmpty && (s.underPower p l).inject.isEmpty) = true from he),
      ← fireInjections_underPower, ← foldl_underPower]
    · rfl
    · intro t i
      split <;> rfl

@[simp] theorem setDesc_underPower (k d : Nat) : (s.underPower p l).setDesc k d = (s.setDesc k d).underPower p l :=
  put_underPower s p l k _

@[simp] theorem ringSlot_underPower (dk asid : Nat) : ringSlot (s.underPower p l) dk asid = ringSlot s dk asid := by
  simp only [ringSlot, desc_underPower, markedFrame_underPower, walk_underPower]
  rfl

theorem ringProduce_underPower (dk asid : Nat) (entry : List Byte) :
    ringProduce (s.underPower p l) dk asid entry = ((ringProduce s dk asid entry).1.underPower p l, (ringProduce s dk asid entry).2) := by
  rw [ringProduce_eq, ringProduce_eq, ringSlot_underPower]
  cases ringSlot s dk asid with
  | none => rfl
  | some k => simp only [Option.elim, desc_underPower, put_underPower, setDesc_underPower]

theorem sessionEntry_underPower (n : Nat) : sessionEntry (s.underPower p l) n = (sessionEntry s n).underPower p l := by
  have hfree : { s.underPower p l with freeCtr := (s.underPower p l).freeCtr + 16 } =
      ({ s with freeCtr := s.freeCtr + 16 } : State).underPower p l := rfl
  simp only [sessionEntry, hfree, session_underPower, desc_underPower, ringProduce_underPower, setSession_underPower]
  exact (apply_ite (State.underPower · p l) _ _ _).symm

/-- A reply leaves the package's power as it is, and is the same in every power. -/
theorem reply_underPower (m : Msg) (r : Nat) (bs : List Byte) : reply (s.underPower p l) m r bs = (reply s m r bs).underPower p l := by
  refine foldl_underPower s p l _ (fun t q => ?_) _
  simp only [replyPart, emit_underPower, sessionEntry_underPower]

end

end Sys2Proof.Machine
end

section
/-! SUPPORT. Debug requests, THAW and REMOVE, floors and the replacement bit, STATUS_READ. -/
namespace Sys2Proof.Machine

variable {s : State} {m : Msg}

/-! A context that the host debugs (R375). -/

/-- A request about a context that runs a unit of the job named is looked at further. -/
theorem withCtx_of_unit {core x : Nat} (hc : core < 1088) (hx : x ≤ 1) (hf : (s.ctx core x).run ≠ .free)
    (hp : (s.ctx core x).run ≠ .placing) (hj : (s.ctx core x).job = m.job) (f : Ctx → State) : withCtx s m core x f = f (s.ctx core x) := by
  simp [withCtx, Nat.not_le.2 hc, Nat.not_lt.2 hx, hf, hp, hj]

section
variable {core x : Nat} (h : Heard s m debugReq) (hc : core < 1088) (hx : x ≤ 1) (hf : (s.ctx core x).run ≠ .free)
  (hp : (s.ctx core x).run ≠ .placing) (hj : (s.ctx core x).job = m.job)
include h hc hx hf hp hj

theorem exec_step_of_running {n : Nat} (h1 : 1 ≤ n) (hn : n ≤ 65535) (hm : (s.ctx core x).mode.getLsbD 0 = true)
    (hz : (s.ctx core x).frozen = false) (hr : (s.ctx core x).run = .running) :
    exec (.step m core x n) s = performed (s.setCtx core x { s.ctx core x with steps := n, halted := false }) m := by
  obtain ⟨hon, -⟩ := id h
  have hn0 : n ≠ 0 := Nat.one_le_iff_ne_zero.1 h1
  show execStep m core x n s = _
  simp [execStep, hon, stepRequest, request_of_heard h, withCtx_of_unit hc hx hf hp hj, hn0, Nat.not_lt.2 hn, hm, hz, hr, performed]

/-- HALT stops a running context in debug-step mode, and is refused outside it. -/
theorem exec_halt_of_running (hm : (s.ctx core x).mode.getLsbD 0 = true) (hz : (s.ctx core x).frozen = false)
    (hr : (s.ctx core x).run = .running) :
    exec (.halt m core x) s = performed (s.setCtx core x { s.ctx core x with steps := 0, halted := true }) m := by
  show execHalt m core x s = _
  simp [execHalt, request_of_heard h, withCtx_of_unit hc hx hf hp hj, hm, hz, hr, performed]

theorem exec_halt_of_mode_off (hm : (s.ctx core x).mode.getLsbD 0 = false) : exec (.halt m core x) s = .next (answer s m rState) := by
  show execHalt m core x s = _
  simp only [execHalt, request_of_heard h, withCtx_of_unit hc hx hf hp hj, hm]
  rfl

/-- STATE_READ where the job's pool has a frame. -/
theorem exec_stateRead_of_frame {t : State} {fr : Nat} (hfr : frameFor s m.job = (t, some fr)) :
    exec (.stateRead m core x) s = .next (reply (writeFrame t m.job fr (if confJob s m.job then coveredFrame (s.ctx core x)
      else frameBytes (s.ctx core x) ((landAll t core x false).ctx core x).arch [])) m rOk (wordBytes [fr])) := by
  show execStateRead m core x s = _
  simp only [execStateRead, request_of_heard h, withCtx_of_unit hc hx hf hp hj, hfr]

end

/-- INJECT arms the register of the array that it names (R223). -/
theorem exec_inject_of_ok (h : Heard s m ⟨true, true, false, false⟩) {array a kind : Nat} (hok : injectOk array a kind = true)
    (mask : Word) (now : Bool) : exec (.inject m array a mask kind now) s = performed (armInjection s array a mask kind now) m := by
  show execInject m array a mask kind now s = _
  simp [execInject, request_of_heard h, hok, performed]

/-! Masters (R383). -/

theorem masterAway_of_frozen {c x : Nat} (h : (s.ctx c x).frozen = true) : masterAway s m c x = none := if_pos h

theorem masterAway_of_not_frozen {c x : Nat} (h : (s.ctx c x).frozen = false) : masterAway s m c x = awayUnit s m.job c x := by
  simp [masterAway, h]

/-- A context that names its own unit acts for that unit's job, else for the job of the message. -/
theorem masterJob_context_own {c x : Nat} (h : masterAway s m c x = none) : masterJob s m (.context c x) = (s.ctx c x).job := by
  simp [masterJob, h]

theorem masterJob_context_away {c x : Nat} {f : FrozenUnit} (h : masterAway s m c x = some f) :
    masterJob s m (.context c x) = m.job := by
  simp [masterJob, h]

theorem thawUnit_own {c x : Nat} (h : masterAway s m c x = none) : thawUnit s m c x = thawCtx s c x := by
  simp only [thawUnit, h]

theorem thawUnit_away {c x : Nat} {f : FrozenUnit} (h : masterAway s m c x = some f) : thawUnit s m c x = thawAway s m.job f := by
  simp only [thawUnit, h]

theorem heldInError_context (c x : Nat) : heldInError s m (.context c x) = true ↔ tdiOf s m.job = some .error := beq_iff_eq

/-- A master of the message's job that is frozen. -/
def FrozenMaster (s : State) (m : Msg) (who : Master) : Prop := masterJob s m who = m.job ∧ masterFrozen s m who = true

theorem frozen_context_own {c x : Nat} (hj : (s.ctx c x).job = m.job) (hz : (s.ctx c x).frozen = true) : FrozenMaster s m (.context c x) :=
  ⟨(masterJob_context_own (masterAway_of_frozen hz)).trans hj, by simp [masterFrozen, hz]⟩

theorem frozen_context_away {c x : Nat} {f : FrozenUnit} (h : masterAway s m c x = some f) : FrozenMaster s m (.context c x) :=
  ⟨masterJob_context_away h, by simp [masterFrozen, h]⟩

/-- What a frozen master is after its thaw. -/
def thawed (s : State) (m : Msg) : Master → State
  | .context c x => thawUnit s m c x
  | .channel c ch => thawChannel s c ch
  | .ring r => thawRing s r
  | .requester n => s.setSession n { s.session n with frozen := (s.session n).frozen.filter (· != m.job) }

theorem exec_thaw_of_frozen (h : Heard s m thawReq) {who : Master} (hw : FrozenMaster s m who) :
    exec (.thaw m who) s = if heldInError s m who then .next (answer s m rState) else performed (thawed s m who) m := by
  obtain ⟨hj, hz⟩ := hw
  show execThaw m who s = _
  cases he : heldInError s m who with
  | true => simp [execThaw, request_of_heard h, hj, hz, he]
  | false => cases who <;> simp [execThaw, request_of_heard h, hj, hz, he, performed, thawed]

theorem exec_thaw_of_not_frozen (h : Heard s m thawReq) {who : Master} (hj : masterJob s m who = m.job)
    (hz : masterFrozen s m who = false) : exec (.thaw m who) s = .next (answer s m rState) := by
  show execThaw m who s = _
  simp [execThaw, request_of_heard h, hj, hz]

/-- THAW of a master that no TDI holds. -/
theorem exec_thaw_of_free (h : Heard s m thawReq) {who : Master} (hw : FrozenMaster s m who) (he : heldInError s m who = false) :
    exec (.thaw m who) s = performed (thawed s m who) m := by
  rw [exec_thaw_of_frozen h hw, he]
  rfl

/-! REMOVE, by the kind of its master (R374, R383, R416). -/

section
variable (h : Heard s m plainReq)
include h

theorem exec_remove_away {c x : Nat} {f : FrozenUnit} (hz : (s.ctx c x).frozen = false) (hf : awayUnit s m.job c x = some f) :
    exec (.remove m (.context c x)) s = performed (removeAway s m.job f) m := by
  have ha : masterAway s m c x = some f := (masterAway_of_not_frozen hz).trans hf
  show execRemove m (.context c x) s = _
  simp [execRemove, request_of_heard h, masterJob_context_away ha, ha, performed]

theorem exec_remove_own {c x : Nat} (hj : (s.ctx c x).job = m.job) (hl : (s.ctx c x).live = true)
    (hz : (s.ctx c x).frozen = true ∨ ((s.ctx c x).mode.getLsbD 0 = true ∧ awayUnit s m.job c x = none)) :
    exec (.remove m (.context c x)) s =
      performed (removeCtx (s.setCtx c x { s.ctx c x with frozen := false, run := .removing .removed }) c x) m := by
  have ha : masterAway s m c x = none := by
    by_cases hzf : (s.ctx c x).frozen = true
    · exact masterAway_of_frozen hzf
    · exact (masterAway_of_not_frozen (Bool.eq_false_iff.2 hzf)).trans (hz.resolve_left hzf).2
  have hs : ((s.ctx c x).frozen || (s.ctx c x).mode.getLsbD 0) = true := by
    rcases hz with hz | ⟨hz, -⟩ <;> simp [hz]
  show execRemove m (.context c x) s = _
  simp only [execRemove, request_of_heard h, masterJob_context_own ha, hj, ha, hl, hs, ne_eq, not_true_eq_false, if_false,
    Bool.not_true, Bool.or_self, Bool.false_eq_true, performed]

theorem exec_remove_channel {c ch : Nat} (hz : Tab.get false (s.core c).chFrozen ch = true) :
    exec (.remove m (.channel c ch)) s = performed (thawChannel (flushChannel s c ch) c ch) m := by
  show execRemove m (.channel c ch) s = _
  simp [execRemove, request_of_heard h, masterJob, masterFrozen, hz, performed]

theorem exec_remove_ring {r : RingRef} (hj : r.job = m.job) (hz : (findRing s r).frozen = true) :
    exec (.remove m (.ring r)) s = performed (thawRing (abortPackets s r 0x13) r) m := by
  show execRemove m (.ring r) s = _
  simp [execRemove, request_of_heard h, masterJob, hj, masterFrozen, hz, performed]

/-- A frozen requester is removed by the end of its session; one that is not frozen is refused. -/
theorem exec_remove_requester (n : Nat) : exec (.remove m (.requester n)) s =
    .next (if (s.session n).frozen.contains m.job then (answer s m rOk).setSession n Session.none else answer s m rState) := by
  show execRemove m (.requester n) s = _
  cases hz : (s.session n).frozen.contains m.job <;>
    simp only [execRemove, request_of_heard h, masterJob, masterFrozen, hz, ne_eq, not_true_eq_false, Bool.not_true, Bool.not_false,
      Bool.false_eq_true, if_true, if_false]

end

/-! Floors, the replacement bit, a link's key (R313, R422). -/

theorem exec_floorsSet_of_heard (h : Heard s m adminReq) {a b c : Nat} (ha : a < 128) (hb : b < 64) (hc : c < 16) :
    exec (.floorsSet m a b c) s =
      performed (saveHeader { s with ret := { s.ret with floorCores := a, floorChannels := b, floorLinks := c } }) m := by
  show execFloorsSet m a b c s = _
  simp [execFloorsSet, request_of_heard h, Nat.not_le.2 ha, Nat.not_le.2 hb, Nat.not_le.2 hc, performed]

theorem capacityStep_same (t : State) (cl : Nat) (f : Cluster → Cluster) :
    (capacityStep t cl f).cluster cl = { f (t.cluster cl) with changeSeq := (f (t.cluster cl)).changeSeq + 1 } :=
  State.cluster_setCluster_same ..

theorem capacityStep_other (t : State) (cl : Nat) (f : Cluster → Cluster) {k : Nat} (h : k ≠ cl) :
    (capacityStep t cl f).cluster k = t.cluster k :=
  State.cluster_setCluster_other _ _ h

/-- The replacement bit takes its value; where that is a change that no update carries, every cluster counts it. -/
theorem setReplacement_counts (s : State) (v : Bool) : (setReplacement s v none).ret = { s.ret with replacement := v } ∧
    ∀ c, c < 16 → ((setReplacement s v none).cluster c).changeSeq =
      (s.cluster c).changeSeq + (if s.ret.replacement = v then 0 else 1) := by
  by_cases hv : s.ret.replacement = v
  · simp only [setReplacement, if_pos hv]
    exact ⟨by rw [← hv], fun c _ => (BitVec.add_zero _).symm⟩
  · simp only [setReplacement, if_neg hv, reduceCtorEq, if_false]
    refine ⟨?_, fun c hc => ?_⟩
    · obtain ⟨cs, hcs⟩ := foldl_writes_clusters (fun t c => capacityStep t c id) (fun t c => ⟨_, rfl⟩) (List.range 16)
        (saveHeader { s with ret := { s.ret with replacement := v } })
      rw [hcs]
      rfl
    · rw [foldl_range_read (fun t c => capacityStep t c id) State.cluster (fun _ k => { k with changeSeq := k.changeSeq + 1 })
        (fun t c => capacityStep_same t c id) (fun t c _ h => capacityStep_other t c id h), if_pos hc]
      rfl

theorem exec_replacementClear_of_heard (h : Heard s m adminReq) :
    exec (.replacementClear m) s = performed (setReplacement s false none) m := by
  show execReplacementClear m s = _
  rw [execReplacementClear, request_of_heard h, performed]

theorem exec_linkRekey_of_up (h : Heard s m adminReq) {l : Nat} (hl : l < 8) (hu : (s.link l).state = .up) :
    exec (.linkRekey m l) s = performed (newEpoch s l) m := by
  show execLinkRekey m l s = _
  simp [execLinkRekey, request_of_heard h, Nat.not_le.2 hl, hu, performed]

/-! STATUS_READ (R26, R382). -/

/-- STATUS_READ is heard on a device that runs, and in HOLD on one whose last sheet is lost; its reply leaves the power as it is. -/
theorem exec_statusRead_replies (h : Heard s m plainReq ∨
    (Heard { s with lastSheetLost := false, power := .on } m plainReq ∧ s.power = .hold ∧ s.lastSheetLost = true)) :
    ∃ l, exec (.statusRead m) s = .next (reply s m rOk l) := by
  have hback : ∀ p k bs, (reply (s.underPower p k) m rOk bs).underPower s.power s.lastSheetLost = reply s m rOk bs := fun p k bs => by
    rw [← reply_underPower, State.underPower_underPower, State.underPower_own]
  obtain ⟨l, he⟩ : ∃ l, exec (.statusRead m) s =
      .next ((request (if s.lastSheetLost && s.power == .hold then s.underPower .on false else s) m plainReq
        (fun t => reply t m rOk l)).underPower s.power s.lastSheetLost) := ⟨_, rfl⟩
  refine ⟨l, he.trans (congrArg Host.Outcome.next ?_)⟩
  rcases h with h | ⟨h, hp, hl⟩
  · obtain ⟨-, -, hl, -⟩ := id h
    rw [if_neg (by simp [hl]), request_of_heard h]
    exact hback s.power s.lastSheetLost l
  · rw [if_pos (by simp [hp, hl]), request_of_heard (s := s.underPower .on false) h]
    exact hback .on false l

end Sys2Proof.Machine
end

section
/-! SUPPORT. The statement about debug requests, from the lemma of each row. -/
namespace Sys2Proof.Machine

/-- Settles O47: each request is heard, so it is performed, by the lemma of its row; a thaw and a removal by the kind of the master
they name. -/
theorem debugRequests : Obligations.DebugRequests := by
  unfold Obligations.DebugRequests
  refine ⟨fun s m core x h hc hx hf hp hj => ?debug, fun s m h array a mask kind now hok => exec_inject_of_ok h hok mask now,
    fun s m h => ?thaw, fun s m h => ?remove, fun s m h => ?admin, fun s m h => exec_statusRead_replies h⟩
  case debug =>
    exact ⟨fun n h1 hn hm hz hr => ⟨exec_step_of_running h hc hx hf hp hj h1 hn hm hz hr, exec_halt_of_running h hc hx hf hp hj hm hz hr⟩,
      exec_halt_of_mode_off h hc hx hf hp hj, fun t fr hfr => exec_stateRead_of_frame h hc hx hf hp hj hfr⟩
  case thaw =>
    refine ⟨fun who hj hz => exec_thaw_of_not_frozen h hj hz,
      fun c ch hz => exec_thaw_of_free h (who := .channel c ch) ⟨rfl, hz⟩ rfl, fun c x hj hz => ?_, fun c x f hz ha he => ?_,
      fun r hj hz => exec_thaw_of_free h (who := .ring r) ⟨hj, hz⟩ rfl,
      fun n hz => exec_thaw_of_free h (who := .requester n) ⟨rfl, hz⟩ rfl⟩
    · rw [exec_thaw_of_frozen h (frozen_context_own hj hz), thawed, thawUnit_own (masterAway_of_frozen hz)]
      exact if_congr (heldInError_context c x) rfl rfl
    · have hw : masterAway s m c x = some f := (masterAway_of_not_frozen hz).trans ha
      have hn : heldInError s m (.context c x) = false := Bool.eq_false_iff.2 (mt (heldInError_context c x).1 he)
      rw [exec_thaw_of_free h (frozen_context_away hw) hn, thawed, thawUnit_away hw]
  case remove =>
    refine ⟨fun c x f hz ha => exec_remove_away h hz ha, fun c x hj hl hz => exec_remove_own h hj hl hz,
      fun c ch hz => exec_remove_channel h hz, fun r hj hz => exec_remove_ring h hj hz, fun n => ⟨fun hz => ?_, fun hz => ?_⟩⟩
    · rw [exec_remove_requester h, if_pos hz]
    · rw [exec_remove_requester h, if_neg (Bool.eq_false_iff.1 hz)]
  case admin =>
    refine ⟨fun a b c ha hb hc => exec_floorsSet_of_heard h ha hb hc, ?_, fun l hl hu => exec_linkRekey_of_up h hl hu⟩
    obtain ⟨hret, hseq⟩ := setReplacement_counts s false
    refine ⟨_, exec_replacementClear_of_heard h, hret, fun c hc => (hseq c hc).trans ?_⟩
    cases s.ret.replacement <;> rfl

end Sys2Proof.Machine
end

section
/-! SUPPORT. The device right after reset. -/
namespace Sys2Proof.Machine

/-- Every register of a context reads as reset leaves it: zero but for p0 and k0, which are constants. -/
theorem arch_reset_registers (pc : Word) (n : Nat) :
    let a := Arch.reset pc
    a.rdS n = 0 ∧ a.rdV n = 0 ∧ a.rdW n = 0 ∧ a.rdH n = 0 ∧ a.rdF n = 0 ∧ a.rdTb n = 0 ∧ a.rdQ n = none ∧
      a.rdP n = decide (n = 0) ∧ a.rdK n = if n = 0 then BitVec.allOnes 64 else 0 := by
  refine ⟨ite_self _, rfl, rfl, rfl, rfl, rfl, rfl, ?_, rfl⟩
  by_cases h : n = 0
  · rw [h]
    rfl
  · rw [decide_eq_false h, Arch.rdP, if_neg h]
    exact ite_self _

theorem reset_ctx (core x : Nat) : State.reset.ctx core x = Ctx.reset := by
  unfold State.ctx Core.ctx
  split <;> rfl

/-- Settles O54: nothing is listed after reset, so every read gives the reset value of what it reads. -/
theorem resetState : Obligations.ResetState := by
  unfold Obligations.ResetState
  refine ⟨reset_mem_wf, fun core x => ?_, fun core a => ⟨rfl, rfl, rfl⟩, fun c => ⟨rfl, rfl, rfl, rfl⟩, rfl, fun i => ⟨rfl, rfl, rfl⟩⟩
  simp only [reset_ctx]
  exact ⟨rfl, rfl, rfl, rfl, arch_reset_registers 0, rfl, rfl, rfl, rfl⟩

end Sys2Proof.Machine
end

section
/-! SUPPORT. Requests about a job: what a reply leaves unchanged, and each request as it is performed. -/
namespace Sys2Proof.Machine

/-! A reply leaves the jobs and the rings as they are. -/

/-- The same jobs and the same rings in the engines. -/
def SameJobs (s t : State) : Prop := t.jobs = s.jobs ∧ t.rings = s.rings

theorem SameJobs.refl (s : State) : SameJobs s s := ⟨rfl, rfl⟩

theorem SameJobs.trans {s t u : State} (h : SameJobs s t) (g : SameJobs t u) : SameJobs s u :=
  ⟨g.1.trans h.1, g.2.trans h.2⟩

theorem SameJobs.foldl {ι : Type} {f : State → ι → State} (h : ∀ t i, SameJobs t (f t i)) (xs : List ι) (s : State) :
    SameJobs s (xs.foldl f s) := by
  induction xs generalizing s with
  | nil => exact SameJobs.refl s
  | cons i xs ih => exact (h s i).trans (ih _)

theorem sameJobs_fireInjections (s : State) (hit : Nat → Bool) : SameJobs s (fireInjections s hit) := by
  refine SameJobs.foldl (fun t c => ?_) _ s
  split
  · split <;> exact ⟨rfl, rfl⟩
  · exact SameJobs.refl t

theorem sameJobs_put (s : State) (k : Nat) (bs : List Byte) : SameJobs s (s.put k bs) := by
  simp only [State.put]
  split
  · exact ⟨rfl, rfl⟩
  · refine (SameJobs.trans ?_ (sameJobs_fireInjections _ _))
    refine SameJobs.trans (t := { s with mem := s.mem.write k bs }) ⟨rfl, rfl⟩ (SameJobs.foldl (fun t l => ?_) _ _)
    split <;> exact ⟨rfl, rfl⟩

theorem sameJobs_ringProduce (s : State) (dk asid : Nat) (entry : List Byte) : SameJobs s (ringProduce s dk asid entry).1 := by
  rw [ringProduce_eq]
  cases ringSlot s dk asid with
  | none => exact SameJobs.refl s
  | some k => exact (sameJobs_put s k entry).trans (sameJobs_put _ dk _)

theorem sameJobs_sessionEntry (s : State) (n : Nat) : SameJobs s (sessionEntry s n) := by
  simp only [sessionEntry]
  split
  · exact SameJobs.refl s
  · exact SameJobs.trans (t := { s with freeCtr := s.freeCtr + 16 }) ⟨rfl, rfl⟩
      ((sameJobs_ringProduce _ _ _ _).trans ⟨rfl, rfl⟩)

theorem sameJobs_reply (s : State) (m : Msg) (result : Nat) (payload : List Byte) : SameJobs s (reply s m result payload) :=
  SameJobs.foldl (fun t _ => SameJobs.trans (t := emit t _) ⟨rfl, rfl⟩ (sameJobs_sessionEntry _ _)) _ s

theorem sameJobs_answerStops (s : State) (job result : Nat) (l : List (Nat × Nat)) : SameJobs s (answerStops s job result l) :=
  SameJobs.foldl (fun t _ => sameJobs_reply t _ result []) l s

theorem SameJobs.job {s t : State} (h : SameJobs s t) (j : Nat) : t.job j = s.job j := by rw [State.job, State.job, h.1]

/-! A job's entry written twice. -/

theorem Tab.set_set {α : Type} [DecidableEq α] (d : α) (t : Tab α) (a : Nat) (v w : α) :
    Tab.set d (Tab.set d t a v) a w = Tab.set d t a w := by
  have hmid : ∀ p : Nat → Bool, p a = false → (if v = d then ([] : Tab α) else [(a, v)]).filter (fun c => p c.1) = [] := by
    intro p hp
    split <;> simp [hp]
  simp only [Tab.set, List.filter_append, List.filter_filter, hmid (fun k => decide (k < a)) (by simp),
    hmid (fun k => decide (a < k)) (by simp)]
  have h1 : ∀ l : Tab α, l.filter (fun c => decide (c.1 < a) && decide (a < c.1)) = [] := by
    intro l; rw [List.filter_eq_nil_iff]; intro c _; simp; omega
  have h2 : ∀ l : Tab α, l.filter (fun c => decide (a < c.1) && decide (c.1 < a)) = [] := by
    intro l; rw [List.filter_eq_nil_iff]; intro c _; simp; omega
  simp [h1, h2]

theorem State.setJob_setJob (s : State) (j : Nat) (v w : Option Job) : (s.setJob j v).setJob j w = s.setJob j w := by
  simp only [State.setJob, Tab.set_set]

section
variable {s : State} {m : Msg} {j : Job}

/-- A request about a job that exists is looked at further. -/
theorem withJob_of_job (hj : s.job m.job = some j) (f : Job → State) : withJob s m f = f j := by simp only [withJob, hj]

/-! Requests marked A that name a job. -/

theorem exec_jobCreate_plain (h : Heard s m jobAdminReq) {d : BitVec 512} (hn : s.job m.job = none) (hm : m.job < 65536)
    (hok : jobDescOk d.toNat m.job = true) (hc : d.getLsbD 492 = false) :
    exec (.jobCreate m d) s = performed (s.setJob m.job (some (freshJob d none))) m := by
  show execJobCreate m d s = _
  simp only [execJobCreate, request_of_heard h, hn, hok, hc, decide_eq_false (Nat.not_le.2 hm)]
  rfl

theorem exec_jobCreate_confidential (h : Heard s m jobAdminReq) {d : BitVec 512} (hn : s.job m.job = none) (hm : m.job < 65536)
    (hok : jobDescOk d.toNat m.job = true) (hc : d.getLsbD 492 = true) :
    exec (.jobCreate m d) s =
      performed ((newKey s m.job).1.setJob m.job (some (freshJob d (some (newKey s m.job).2)))) m := by
  show execJobCreate m d s = _
  simp only [execJobCreate, request_of_heard h, hn, hok, hc, decide_eq_false (Nat.not_le.2 hm)]
  rfl

/-- A new key counts its job's generation on (R415; that the generation is raised first is log entry 30's choice). -/
theorem newKey_keyGen (s : State) (job : Nat) :
    Tab.get (0 : BitVec 16) (newKey s job).1.keyGen job = Tab.get (0 : BitVec 16) s.keyGen job + 1 := Tab.get_set_same _ _ _ _

theorem newKey_keyId (s : State) (job : Nat) : (newKey s job).2.keyId =
    BitVec.ofNat 32 (job * 65536 + (Tab.get (0 : BitVec 16) (newKey s job).1.keyGen job).toNat) := by
  rw [newKey_keyGen]
  rfl

theorem exec_asidSet_of_heard (h : Heard s m jobAdminReq) {asid : Nat} {e : BitVec 128} (ha : asid < 65536)
    (h1 : fld e.toNat 127 92 = 0) (h2 : fld e.toNat 47 32 = 0) (h3 : fld e.toNat 15 1 = 0) :
    exec (.asidSet m asid e) s = performed { s with asids := Tab.set 0 s.asids asid e } m := by
  show execAsidSet m asid e s = _
  simp [execAsidSet, request_of_heard h, Nat.not_le.2 ha, h1, h2, h3, performed]

theorem exec_jobRemove_of_heard (h : Heard s m jobAdminReq) (hj : s.job m.job = some j) :
    ∃ t, exec (.jobRemove m) s = performed t m ∧ t.job m.job = none ∧ ∀ v ∈ t.rings, v.r.job ≠ m.job := by
  refine ⟨_, show execJobRemove m s = _ by simp only [execJobRemove, request_of_heard h, withJob_of_job hj]; rfl, ?_, fun v hv => ?_⟩
  · rw [(sameJobs_answerStops _ _ _ _).job]
    exact Tab.get_set_same _ _ _ _
  · rw [(sameJobs_answerStops _ _ _ _).2] at hv
    simpa using (List.mem_filter.1 hv).2

theorem exec_sysjobSet_of_heard (h : Heard s m jobAdminReq) (hj : s.job m.job = some j) (on : Bool) :
    exec (.sysjobSet m on) s =
      performed (s.setJob m.job (some { j with desc := BitVec.ofNat 512 (setFld j.desc.toNat 491 491 (b2n on)) })) m := by
  show execSysjobSet m on s = _
  simp only [execSysjobSet, request_of_heard h, withJob_of_job hj]
  rfl

/-! Requests that configure a job. -/

theorem exec_windowsSet_of_heard (h : Heard s m configReq) (hj : s.job m.job = some j) {entries : List (BitVec 256)}
    (h0 : entries ≠ []) (h1 : entries.length ≤ 64) (h2 : ∀ w ∈ entries, windowOk w.toNat = true) :
    exec (.windowsSet m entries) s = performed (s.setJob m.job (some { j with
      windows := entries, desc := BitVec.ofNat 512 (setFld j.desc.toNat 458 453 (entries.length - 1)) })) m := by
  show execWindowsSet m entries s = _
  have hall : entries.all (fun w => windowOk w.toNat) = true := List.all_eq_true.2 h2
  simp [execWindowsSet, request_of_heard h, withJob_of_job hj, h0, Nat.not_lt.2 h1, hall, performed]

/-- A pool with the records of a POOL_BUILD in its slots from `first` on. -/
def builtPool (j : Job) (first : Nat) (recs : List (BitVec 1024)) : Tab (BitVec 1024) :=
  (recs.zipIdx first).foldl (fun t r => Tab.set 0 t r.2 (BitVec.ofNat 1024 (builtRec r.1.toNat))) j.pool

theorem exec_poolBuild_of_heard (h : Heard s m configReq) (hj : s.job m.job = some j) {first : Nat} {recs : List (BitVec 1024)}
    (hroom : first + recs.length ≤ jobField s m.job 474 459 + 1) (hok : ∀ r ∈ recs, poolRecOk s m.job r.toNat = true)
    (hac : acyclic (builtPool j first recs) = true) (hidle : ∀ i, i < recs.length → lrLive (poolRec j (first + i)) = false) :
    exec (.poolBuild m first recs) s = performed (s.setJob m.job (some { j with pool := builtPool j first recs })) m := by
  show execPoolBuild m first recs s = _
  have hall : recs.all (fun r => poolRecOk s m.job r.toNat) = true := List.all_eq_true.2 hok
  have hnone : (List.range recs.length).any (fun i => lrLive (poolRec j (first + i))) = false := by
    simpa using hidle
  rw [builtPool] at hac ⊢
  simp only [execPoolBuild, request_of_heard h, withJob_of_job hj, hall, hnone, hac, decide_eq_false (Nat.not_lt.2 hroom)]
  rfl

/-! Requests that any session of the job may send. -/

theorem exec_placementPause_of_heard (h : Heard s m plainReq) (hj : s.job m.job = some j) : exec (.placementPause m) s =
    performed (holdUnits (s.setJob m.job (some { j with paused := true })) m.job (fun _ => true)) m := by
  show execPlacementPause m s = _
  simp only [execPlacementPause, request_of_heard h, withJob_of_job hj, pauseJob, hj]
  rfl

theorem exec_placementResume_of_heard (h : Heard s m plainReq) (hj : s.job m.job = some j) (hs : j.saving = false) :
    exec (.placementResume m) s = performed (releaseUnits (s.setJob m.job
      (some { j with migrating := false, migKey := none, bundleSent := false, paused := false })) m.job) m := by
  show execPlacementResume m s = _
  simp only [execPlacementResume, request_of_heard h, withJob_of_job hj, hs, resumeJob, State.job_setJob_same, State.setJob_setJob]
  rfl

theorem exec_poisonEnable_of_heard (h : Heard s m plainReq) (hj : s.job m.job = some j) (on : Bool) :
    exec (.poisonEnable m on) s = performed (s.setJob m.job (some { j with poison := on })) m := by
  show execPoisonEnable m on s = _
  simp only [execPoisonEnable, request_of_heard h, withJob_of_job hj]
  rfl

theorem exec_intervalMark_of_heard (h : Heard s m plainReq) (hj : s.job m.job = some j) {base n : Nat} (hb : base < 2 ^ 48)
    (hn : 0 < n) (hw : firstUnwritable s m.job base (80 * n) = none) : exec (.intervalMark m base n) s =
      performed (s.setJob m.job (some { j with marks := j.marks + 1, logBase := base, logCap := n, log := [] })) m := by
  show execIntervalMark m base n s = _
  simp only [execIntervalMark, request_of_heard h, withJob_of_job hj, decide_eq_false (Nat.not_le.2 hb),
    decide_eq_false (Nat.pos_iff_ne_zero.1 hn), hw]
  rfl

theorem exec_arm_of_launch (h : Heard s m plainReq) (hj : s.job m.job = some j) {slot n : Nat} {t : State}
    (hs : slotBad s m.job slot = false) (ha : armLaunch s m.job slot none = (t, .ok n)) :
    exec (.arm m slot) s = .next (reply t m rOk (wordBytes [n])) := by
  show execArm m slot s = _
  simp [execArm, request_of_heard h, withJob_of_job hj, hs, ha]

theorem exec_levelArm_of_heard (h : Heard s m plainReq) (hj : s.job m.job = some j) {a count parent : Nat} (ha : a % 16 = 0)
    (hp : parent % 16 = 0) (hc : count < 2 ^ 23) (ha' : a < 2 ^ 48) (hp' : parent < 2 ^ 48)
    (hw : firstUnwritable s m.job a 16 = none) : exec (.levelArm m a count parent) s = performed (writeCounter
      (s.setJob m.job (some { j with levels := if j.levels.contains a then j.levels else j.levels ++ [a] })) m.job a
      (count + parent * 2 ^ 64)) m := by
  show execLevelArm m a count parent s = _
  simp only [execLevelArm, request_of_heard h, withJob_of_job hj, ha, hp, hw, decide_eq_false (Nat.not_le.2 hc),
    decide_eq_false (Nat.not_le.2 ha'), decide_eq_false (Nat.not_le.2 hp')]
  rfl

theorem exec_hostCancel_of_level (h : Heard s m plainReq) (hj : s.job m.job = some j) {level : Nat} (hl : level ≤ 4) (a : Word)
    (hard : Bool) (hok : (cancelLevel s m.job level a.toNat hard).2.1 = stOk) : exec (.hostCancel m level a hard) s =
      .next (reply (cancelLevel s m.job level a.toNat hard).1 m rOk
        (wordBytes [(cancelLevel s m.job level a.toNat hard).2.2.2])) := by
  show execHostCancel m level a hard s = _
  simp only [execHostCancel, request_of_heard h, withJob_of_job hj, if_neg (Nat.not_lt.2 hl), if_pos hok]

theorem exec_refusalRing_of_heard (h : Heard s m plainReq) {a : Word} (hp : pathOf a.toNat = 5) (hz : fld a.toNat 59 48 = 0)
    (ha : a.toNat % 64 = 0) : exec (.refusalRing m a) s =
      performed (s.setSession m.session { s.session m.session with refusal := some a, refSeq := 0, refOv := false }) m := by
  show execRefusalRing m a s = _
  simp [execRefusalRing, request_of_heard h, hp, hz, ha, performed]

end

/-- Settles O44: each request is heard, its guards hold by the premises, and what is left is its effect. -/
theorem jobRequests : Obligations.JobRequests := by
  unfold Obligations.JobRequests
  refine ⟨fun s m h => ⟨fun d hn hm hok => ⟨exec_jobCreate_plain h hn hm hok, fun hc => ?confidential⟩,
      fun asid e ha h1 h2 h3 => exec_asidSet_of_heard h ha h1 h2 h3,
      fun j hj => ⟨exec_jobRemove_of_heard h hj, exec_sysjobSet_of_heard h hj⟩⟩,
    fun s m j h hj => ⟨fun entries h0 h1 h2 => exec_windowsSet_of_heard h hj h0 h1 h2,
      fun first recs hr hok hac hi => exec_poolBuild_of_heard h hj hr hok hac hi⟩,
    fun s m j h hj => ⟨exec_placementPause_of_heard h hj, exec_placementResume_of_heard h hj, exec_poisonEnable_of_heard h hj,
      fun base n hb hn hw => exec_intervalMark_of_heard h hj hb hn hw, fun slot t n hs ha => exec_arm_of_launch h hj hs ha,
      fun a count parent ha hp hc ha' hp' hw => exec_levelArm_of_heard h hj ha hp hc ha' hp' hw,
      fun level a hard hl hok => exec_hostCancel_of_level h hj hl a hard hok⟩,
    fun s m a h hp hz ha => exec_refusalRing_of_heard h hp hz ha⟩
  case confidential =>
    exact ⟨_, _, exec_jobCreate_confidential h hn hm hok hc, State.job_setJob_same _ _ _, rfl, newKey_keyId s m.job,
      newKey_keyGen s m.job⟩

end Sys2Proof.Machine
end

section
/-! SUPPORT. A core's cycle in which only context 0 issues. -/
namespace Sys2Proof.Machine

theorem exec_bundleIssue_of_run {s : State} {core : Nat} (hp : s.power = .on) (hl : s.lastSheetLost = false)
    (hr : inRun s (clusterOf core) = true) : exec (.bundleIssue core) s = cycle s core := by
  show execBundleIssue core s = _
  simp [execBundleIssue, hp, hl, hr]

/-- Nothing is due to a context in RUN or free, and no error is met: the start of its cycle changes nothing. -/
theorem beginCycle_of_not_due {s : State} {core x : Nat} (he : s.errs = []) (hd : anyDue (s.ctx core x).arch = false)
    (hr : (s.ctx core x).run ≠ .removing .interval) : beginCycle s core x = s := by
  have hland : landing s core x = s := by simp [landing, hd]
  have hread : readArrays s core x = s := by simp [readArrays, he]
  rw [beginCycle, hland, afterTrap, if_neg hr, hread]

theorem offerOf_of_not_running {s : State} {core x : Nat} (hr : (s.ctx core x).run ≠ .running) : offerOf s core x = .stopped := by
  simp [offerOf, hr]

/-- What stands before a running context that nothing stops: its bundle, where no wait of it is unmet. -/
theorem offerOf_of_fetched {s : State} {core x bits : Nat} {lit : Bool} {cart : BitVec 512} {b : Bundle}
    (hr : (s.ctx core x).run = .running) (hh : (s.ctx core x).halted = false) (hf : (s.ctx core x).frozen = false)
    (hm : (s.ctx core x).mode.getLsbD 0 = false) (hb : (s.ctx core x).bubble = 0) (hi : (s.ctx core x).arch.idle = 0)
    (hd : anyDue (s.ctx core x).arch = false) (hok : fetch s core x = .ok bits lit cart) (hscan : scanBundle bits = (b, []))
    (hres : reservedAt s core (s.ctx core x) cart = none)
    (hw : unmetWaits (asActing s core x ⟨b, lit, cart, liveSlots (s.ctx core x).arch b⟩)
      ⟨b, lit, cart, liveSlots (s.ctx core x).arch b⟩ = []) :
    offerOf s core x = .bundle ⟨b, lit, cart, liveSlots (s.ctx core x).arch b⟩ := by
  simp only [offerOf, hr, hh, hf, hm, hb, hi, hd, hok, hscan, hres, hw]
  rfl

/-- A cycle in which context 0 has a bundle whose units are free and context 1 has none. -/
theorem issueOffers_alone {s : State} {core : Nat} {o : Offer} (hb : busy (asActing s core 0 o) o = false) :
    issueOffers s core (.bundle o) .stopped =
      thenRes (issueBundle s core 0 o) (fun u => .next (endCycle (stall u core 1 .stopped) core (noLoser s core))) := by
  have hready : ready s core 0 (.bundle o) = some o := by rw [ready, hb, if_neg Bool.false_ne_true]
  simp only [issueOffers, hready]
  rfl

/-- A bundle that no checkpoint goes before. -/
theorem issueBundle_of_not_forced {s : State} {core x : Nat} {o : Offer} (hc : o.b.ckpt = false) (hf : forced s core x o = false) :
    issueBundle s core x o = thenRes (runSlots o.live (issueState s core x o)) (fun u => .next (bundleDone u core x o.lit)) := by
  simp only [issueBundle, hc, hf, Bool.false_eq_true, if_false]
  cases runSlots o.live (issueState s core x o) <;> rfl

theorem noLoser_of_not_due {s : State} {core : Nat} (h0 : anyDue (s.ctx core 0).arch = false)
    (h1 : anyDue (s.ctx core 1).arch = false) : noLoser s core = none := by
  simp [noLoser, interlocked, h0, h1]

/-- The state in which a bundle's slots run, where no IDLE is passing. -/
theorem issueState_of_not_idle {s : State} {core x : Nat} (o : Offer) (hi : (s.ctx core x).arch.idle = 0) :
    issueState s core x o = countIssue ((asActing s core x o).setCtx core x { s.ctx core x with
      cart := o.cart, arch := applyHeader (s.ctx core x).arch o.b, replay := false }) core x := by
  rw [issueState, hi]
  rfl

/-- No slot of the bundle has run yet. -/
theorem issueState_cur (s : State) (core x : Nat) (o : Offer) : (issueState s core x o).cur = (asActing s core x o).cur := rfl

/-- A slot's instruction runs where nothing has trapped. -/
theorem runSlots_single {s t : State} {k : Nat} {i : Instr} (ht : s.cur.trapped = false) (hi : inSlot i = true)
    (he : exec i (s.atSlot k) = .next t) : runSlots [(k, i)] s = .next t := by
  simp [runSlots, ht, slotExec_eq i _ hi, he]

section
variable {s : State} {core bits : Nat} {lit : Bool} {cart : BitVec 512} {b : Bundle} (hp : s.power = .on)
  (hl : s.lastSheetLost = false) (hrun : inRun s (clusterOf core) = true) (he : s.errs = []) (hr : (s.ctx core 0).run = .running)
  (hh : (s.ctx core 0).halted = false) (hz : (s.ctx core 0).frozen = false) (hm : (s.ctx core 0).mode.getLsbD 0 = false)
  (hb : (s.ctx core 0).bubble = 0) (hi : (s.ctx core 0).arch.idle = 0) (hd : anyDue (s.ctx core 0).arch = false)
  (hf1 : (s.ctx core 1).run = .free) (hd1 : anyDue (s.ctx core 1).arch = false) (hok : fetch s core 0 = .ok bits lit cart)
  (hscan : scanBundle bits = (b, [])) (hres : reservedAt s core (s.ctx core 0) cart = none) (hc : b.ckpt = false)
include hp hl hrun he hr hh hz hm hb hi hd hf1 hd1 hok hscan hres hc

/-- The issue of context 0's bundle beside a free context 1: its slots run, and then the cycle ends. -/
theorem exec_bundleIssue_alone {o : Offer} (ho : o = ⟨b, lit, cart, liveSlots (s.ctx core 0).arch b⟩)
    (hw : unmetWaits (asActing s core 0 o) o = []) (hbusy : busy (asActing s core 0 o) o = false)
    (hforced : forced s core 0 o = false) {u : State} (hu : runSlots o.live (issueState s core 0 o) = .next u) :
    exec (.bundleIssue core) s = .next (endCycle (stall (bundleDone u core 0 lit) core 1 .stopped) core none) := by
  have hb0 : beginCycle s core 0 = s := beginCycle_of_not_due he hd (by simp [hr])
  have hb1 : beginCycle s core 1 = s := beginCycle_of_not_due he hd1 (by simp [hf1])
  have ho0 : offerOf s core 0 = .bundle o := by
    subst ho
    exact offerOf_of_fetched hr hh hz hm hb hi hd hok hscan hres hw
  have ho1 : offerOf s core 1 = .stopped := offerOf_of_not_running (by simp [hf1])
  have hck : o.b.ckpt = false := by rw [ho]; exact hc
  rw [exec_bundleIssue_of_run hp hl hrun, cycle, hb0, hb1, ho0, ho1, issueOffers_alone hbusy, issueBundle_of_not_forced hck hforced,
    hu, noLoser_of_not_due hd hd1, ho]
  rfl

/-- A bundle with no live slot: its header is applied, and the tick passes. -/
theorem exec_bundleIssue_empty (hlive : liveSlots (s.ctx core 0).arch b = [])
    (hroom : (s.ctx core 0).withhold.length ≤ Config.withholdEntries)
    (hmet : b.waitThreshold ≤ (Tab.get (0 : BitVec 16) (s.ctx core 0).arch.f b.waitIndex).toNat) :
    let v := countIssue ((asActing s core 0 ⟨b, lit, cart, []⟩).setCtx core 0
      { s.ctx core 0 with cart := cart, arch := applyHeader (s.ctx core 0).arch b, replay := false }) core 0
    let w := writeArrays v.noBundle core 0
    exec (.bundleIssue core) s =
      .next (endCycle (stall (w.setCtx core 0 (passTick (w.ctx core 0) lit none)) core 1 .stopped) core none) := by
  intro v w
  have hw : unmetWaits (asActing s core 0 ⟨b, lit, cart, []⟩) ⟨b, lit, cart, []⟩ = [] := by
    have htested : ¬ semTested (asActing s core 0 ⟨b, lit, cart, []⟩) b.waitIndex < b.waitThreshold := Nat.not_lt.2 hmet
    simp only [unmetWaits, if_neg htested]
    rfl
  have hforced : forced s core 0 ⟨b, lit, cart, []⟩ = false := by
    simp [forced, Nat.not_lt.2 hroom]
  have hdone : bundleDone v core 0 lit = w.setCtx core 0 (passTick (w.ctx core 0) lit none) := rfl
  rw [← hdone]
  exact exec_bundleIssue_alone hp hl hrun he hr hh hz hm hb hi hd hf1 hd1 hok hscan hres hc (by rw [hlive]) hw rfl hforced
    (congrArg Host.Outcome.next (issueState_of_not_idle _ hi))

/-- A bundle with one live slot: its instruction runs after the header, and then the tick passes. -/
theorem exec_bundleIssue_single {k : Nat} {i : Instr} :
    let o : Offer := ⟨b, lit, cart, liveSlots (s.ctx core 0).arch b⟩
    let a := asActing s core 0 o
    o.live = [(k, i)] → inSlot i = true → unmetWaits a o = [] → busy a o = false → forced s core 0 o = false →
    let v := countIssue (a.setCtx core 0
      { s.ctx core 0 with cart := cart, arch := applyHeader (s.ctx core 0).arch b, replay := false }) core 0
    ∀ t, exec i (v.atSlot k) = .next t →
      let w := writeArrays t.noBundle core 0
      let z := if t.cur.trapped then afterTrap w core 0 else w.setCtx core 0 (passTick (w.ctx core 0) lit t.cur.next)
      exec (.bundleIssue core) s = .next (endCycle (stall z core 1 .stopped) core none) := by
  intro o a hlive hslot hw hbusy hforced v t ht
  have hrun1 : runSlots o.live (issueState s core 0 o) = .next t := by
    rw [hlive, issueState_of_not_idle _ hi]
    exact runSlots_single rfl hslot ht
  exact exec_bundleIssue_alone hp hl hrun he hr hh hz hm hb hi hd hf1 hd1 hok hscan hres hc rfl hw hbusy hforced hrun1

end

/-- Settles O57: with nothing due and no error, the cycle begins in the same state; context 0 offers its bundle, the free context 1
nothing. -/
theorem stepIssuesDecoded : Obligations.StepIssuesDecoded := by
  unfold Obligations.StepIssuesDecoded
  refine ⟨fun s i rest ha hi => ?agenda, fun s ha => ?own, fun s core hp hl hr => ?cycle,
    fun s core bits lit cart b hp hl hrun he => ?empty, fun s core bits lit cart b k i hp hl hrun he => ?single⟩
  case agenda => simp [step, ha, hi]
  case own => simp [step, ha]
  case cycle =>
    intro w hw
    rw [exec_bundleIssue_of_run hp hl hr]
    exact issueOffers_next w core (hw 0) (hw 1)
  case empty =>
    intro c hr hh hz hm hb hi hd hf1 hd1 hok hscan hres hlive hc hroom hmet
    exact exec_bundleIssue_empty hp hl hrun he hr hh hz hm hb hi hd hf1 hd1 hok hscan hres hc hlive hroom hmet
  case single =>
    intro c hr hh hz hm hb hi hd hf1 hd1 hok hscan hres o a hlive hslot hw hbusy hc hforced
    exact exec_bundleIssue_single hp hl hrun he hr hh hz hm hb hi hd hf1 hd1 hok hscan hres hc hlive hslot hw hbusy hforced

end Sys2Proof.Machine
end

section
/-! SUPPORT. What a wait on a bitmap's bit writes where the bitmap's sector carries another tag than the device's 0: the record of
the mismatch goes to the error-log ring of the sector's array at once (R208, R209). -/
namespace Sys2Proof.Machine

/-- A write over memory in which nothing is wrong and no injection is armed. -/
theorem put_of_clean {s : State} (he : s.errs = []) (hi : s.inject = []) (k : Nat) (bs : List Byte) :
    s.put k bs = { s with mem := s.mem.write k bs } := by
  simp [State.put, he, hi]

/-- A record that a ring takes: its descriptor has the next write index, and neither the contexts nor the issue in course change. -/
theorem ringProduce_of_slot {s : State} {dk asid a : Nat} (he : s.errs = []) (hi : s.inject = []) (hs : ringSlot s dk asid = some a)
    (entry : List Byte) : ∃ m : Memory, ringProduce s dk asid entry = ({ s with mem := m }, true) ∧
      ∀ b, b < 64 → m.byte (dk + b) = (leBytes 64 (setFld (s.desc dk) 511 448 (rdWrite (s.desc dk) + 1))).getD b 0 := by
  refine ⟨(s.mem.write a entry).write dk (leBytes 64 (setFld (s.desc dk) 511 448 (rdWrite (s.desc dk) + 1))), ?_, fun b hb => ?_⟩
  · rw [ringProduce_eq, hs]
    simp only [Option.elim, Option.isSome, State.setDesc, put_of_clean he hi]
    exact congrArg (Prod.mk · true) (put_of_clean (s := { s with mem := s.mem.write a entry }) he hi dk _)
  · rw [Memory.byte_write, leBytes_length, if_pos ⟨Nat.le_add_right dk b, Nat.add_lt_add_left hb dk⟩, Nat.add_sub_cancel_left]

/-- The acting context's registers stand in its core. -/
theorem arch_of_cores {s t : State} (hc : t.cores = s.cores) (hcur : t.cur = s.cur) : t.arch = s.arch := by
  simp only [State.arch, State.me, State.ctx, State.core, hc, hcur]

/-- An error of a sector whose array's ring takes the record. -/
theorem reportError_of_slot {s : State} {k dk a : Nat} (he : s.errs = []) (hi : s.inject = []) (hk : k / 2 ^ 60 = 0) (hd : dk ≠ 0)
    (hl : Tab.get ErrLog.reset s.errLogs (arrayOfKey k) = ⟨dk, 0, false⟩)
    (hs : ringSlot (fresh s).2 dk (jobAsid (fresh s).2 (rdJob ((fresh s).2.desc dk))) = some a) (cls st tag : Nat) (who : Consumer) :
    let t := reportError s k cls st tag who
    t.cores = s.cores ∧ t.cur = s.cur ∧ ∀ b, b < 64 →
      t.mem.byte (dk + b) = (leBytes 64 (setFld (s.desc dk) 511 448 (rdWrite (s.desc dk) + 1))).getD b 0 := by
  have hlog : ∀ record : ErrLog → Nat, ∃ (m : Memory) (l : Tab ErrLog),
      logError (fresh s).2 (arrayOfKey k) record = { (fresh s).2 with mem := m, errLogs := l } ∧ ∀ b, b < 64 →
        m.byte (dk + b) = (leBytes 64 (setFld (s.desc dk) 511 448 (rdWrite (s.desc dk) + 1))).getD b 0 := by
    intro record
    obtain ⟨m, hm, hb⟩ := ringProduce_of_slot (s := (fresh s).2) he hi hs (leBytes 32 (record ⟨dk, 0, false⟩))
    refine ⟨m, Tab.set ErrLog.reset (fresh s).2.errLogs (arrayOfKey k) ⟨dk, 1, false⟩, ?_, hb⟩
    have hl' : Tab.get ErrLog.reset (fresh s).2.errLogs (arrayOfKey k) = ⟨dk, 0, false⟩ := hl
    simp only [logError, hl', hd, hm]
    rfl
  intro t
  obtain ⟨m, l, hm, hb⟩ := hlog _
  have ht : t = chargeScore { (fresh s).2 with mem := m, errLogs := l } (scoreOfKey k) (chargeOf cls) := by
    show chargeError (logError (fresh s).2 (arrayOfKey k) _) k cls = _
    rw [hm, chargeError, if_pos hk]
  rw [ht]
  exact ⟨rfl, rfl, hb⟩

/-! A job whose bitmap stands at 2^16 in a sector with allocation tag 1, and the error-log ring, with its descriptor at 0x30000 and
its slots in host memory, of the array that holds the sector. -/

/-- The job: its launch slot 0 has a bitmap of 8 bits at 2^16 (R304). -/
def bitmapJob : Job := { freshJob 0 none with pool := [(0, BitVec.ofNat 1024 (8 * 2 ^ 813 + 2 ^ 16 * 2 ^ 480 + 2 * 2 ^ 1020))] }

/-- An empty error-log ring (kind 4) of 16 slots at the start of host memory (R246). -/
def hostLogRing : Nat := 5 * 2 ^ 60 * 2 ^ 320 + 4 * 2 ^ 316 + 4 * 2 ^ 311

/-- The state in which the wait is issued: the first 2^32 bytes of address space 0 are mapped onto themselves; s20 addresses the
bitmap, and s21 names its bit 0. -/
def mistagged : State :=
  let s := { State.reset with asids := [(0, BitVec.ofNat 128 (1 + 2 ^ 64))], jobs := [(0, some bitmapJob)] }
  let t := ((s.put 0x1000 (leBytes 16 0x2001)).put 0x2000 (leBytes 16 0x33)).put 0x30000 (leBytes 64 hostLogRing)
  { t.setArch (t.arch.wrS 20 0x10000) with
    tags := [(0x400, 1)]
    errLogs := [(arrayOfKey 0x10000, ⟨0x30000, 0, false⟩)] }

/-- The wait's operands. -/
def bitmapWait : EC := ⟨0, 0, 0, 4, 20, 21, .eq, 0⟩

theorem mistagged_errs : mistagged.errs = [] := rfl
theorem mistagged_inject : mistagged.inject = [] := rfl

theorem mistagged_log : Tab.get ErrLog.reset mistagged.errLogs (arrayOfKey 0x10000) = ⟨0x30000, 0, false⟩ := if_pos rfl

/-- The bitmap cannot be read, so that the wait ends with an open value. -/
theorem mistagged_outcome : bmwaitOutcome bitmapWait mistagged = some none := by decide +kernel

theorem mistagged_slot : ringSlot (fresh mistagged).2 0x30000
    (jobAsid (fresh mistagged).2 (rdJob ((fresh mistagged).2.desc 0x30000))) = some (hostKey 0) := by decide +kernel

/-- What reads the bitmap: the device for the acting context. -/
def bitmapReader : Consumer := ⟨some (ctxIdOf mistagged mistagged.cur.core mistagged.cur.ctx), mistagged.me.job⟩

/-- The read of the bitmap meets the sector's tag. -/
theorem mistagged_meets : meetBitmap mistagged mistagged.me.job (some (ctxIdOf mistagged mistagged.cur.core mistagged.cur.ctx))
    (regNat mistagged bitmapWait.sa) (regNat mistagged bitmapWait.sb) = reportError mistagged 0x10000 3 1 0 bitmapReader := by
  have ha : regNat mistagged bitmapWait.sa = 0x10000 := by decide +kernel
  have hb : regNat mistagged bitmapWait.sb = 0 := by decide +kernel
  have hl : (bitmapLaunch mistagged mistagged.me.job 0x10000).isSome = true := by decide +kernel
  have hp : pagesOf (0x10000 + 0 / 8) 1 = [(0x10000, 1)] := by decide +kernel
  obtain ⟨x, hx, hxa⟩ : ∃ x, walk mistagged (jobAsid mistagged mistagged.me.job) 0x10000 0 false = some x ∧ x.addr = 0x10000 :=
    Option.map_eq_some_iff.1 (show (walk mistagged (jobAsid mistagged mistagged.me.job) 0x10000 0 false).map (·.addr) = some 0x10000 by
      decide +kernel)
  have hw : ∀ job asid va, meetWalk mistagged job asid va = mistagged := fun _ _ _ => rfl
  have hlocs : locsOf 0x10000 1 = [0x10000] := by decide +kernel
  have hclass : errClass 0x10000 (mistagged.err 0x10000) true = 3 := by decide +kernel
  have htag : (mistagged.tagAt 0x10000).toNat = 1 := by decide +kernel
  have hread : copyReadErr mistagged 0x10000 (some 0) bitmapReader = (reportError mistagged 0x10000 3 1 0 bitmapReader, some 3) := by
    simp only [copyReadErr, Option.getD, htag, Nat.reduceBNe, hclass]
    rfl
  rw [ha, hb, meetBitmap, if_pos hl, devMeet, if_neg (by decide), hp, List.foldl_cons, List.foldl_nil]
  simp only [hw, hx, hxa, meet, copyReadErrs]
  rw [if_neg (by decide), hlocs]
  show (copyReadErr mistagged 0x10000 (some 0) bitmapReader).1 = _
  rw [hread]

/-- The wait goes through without a trap, and the write index of the error-log ring counts its record. -/
theorem exec_bmwait_mistagged : ∃ t, exec (.bmwait bitmapWait) mistagged = .next t ∧ t.cur.trapped = false ∧
    t.mem.byte 0x30038 = 1 := by
  obtain ⟨hcores, hcur, hmem⟩ := reportError_of_slot mistagged_errs mistagged_inject (by decide) (by decide) mistagged_log
    mistagged_slot 3 1 0 bitmapReader
  generalize hr : reportError mistagged 0x10000 3 1 0 bitmapReader = u at hcores hcur hmem
  have hroom : Room (fresh u).2 1 := by
    rw [Room, arch_of_cores (s := mistagged) (t := (fresh u).2) hcores hcur]
    decide +kernel
  refine ⟨withResult (fresh u).2 (.scalar bitmapWait.sd.val) ((fresh u).1.toNat % 2 ^ 64) 0, ?_, ?_, ?_⟩
  · show execBmwait bitmapWait mistagged = _
    simp only [execBmwait, mistagged_outcome, mistagged_meets, hr]
    rw [pushScalar_of_room _ _ _ hroom]
  · rw [withResult_cur]
    show u.cur.trapped = false
    rw [hcur]
    decide +kernel
  · rw [withResult_mem]
    show u.mem.byte (0x30000 + 56) = 1
    rw [hmem 56 (by decide)]
    decide +kernel

/-- Refutes O58: a BMWAIT whose bitmap stands in a sector with another tag than the device's 0 ends its wait without a trap (R361),
and the record of the mismatch is written to an error-log ring at once, as the notice of a SIGWT is. -/
theorem not_issueLeavesRegistersAndMemory : ¬ Obligations.IssueLeavesRegistersAndMemory := by
  unfold Obligations.IssueLeavesRegistersAndMemory
  intro h
  obtain ⟨t, ht, htrap, hbyte⟩ := exec_bmwait_mistagged
  obtain ⟨-, hsame⟩ := h (.bmwait bitmapWait) mistagged t rfl (fun _ => nofun) (fun _ => nofun) mistagged_errs (by decide +kernel) ht htrap
  have hkept : mistagged.mem.byte 0x30038 = 1 := by rw [← hsame (fun _ => nofun) 0x30038, hbyte]
  exact absurd hkept (by decide +kernel)

end Sys2Proof.Machine
end

section
/-! SUPPORT. A context's own steps: results landing, stops with and without a frame, placement, the fetch of code, and the
decisions of a dispatcher. -/
namespace Sys2Proof.Machine

/-! Results landing (R46). -/

/-- Where one scalar result is due, the landing writes it: latches and the sequencer write no scalar register then. -/
theorem landRegs_s_of_scalar {a : Arch} {n ready off : Nat} {v : Vec} {old : Bool}
    (hd : a.dueRegs = [⟨.scalar n, v, 0, ready, old, none, off⟩]) (hq : a.seqDue = []) :
    (landRegs a).s = (a.wrS n (v.setWidth 64)).s := by
  have hlatch : ∀ (l : List DueLatch) (b : Arch), (l.foldl (fun a d => a.wrW d.w d.val) b).s = b.s := by
    intro l
    induction l with
    | nil => exact fun _ => rfl
    | cons d l ih => exact fun b => (ih _).trans (Arch.wrW_s b _ _)
  simp [landRegs, hd, hq, Arch.land, hlatch]

theorem landRegs_rdS_of_scalar {a : Arch} {n ready off : Nat} {v : Vec} {old : Bool}
    (hd : a.dueRegs = [⟨.scalar n, v, 0, ready, old, none, off⟩]) (hq : a.seqDue = []) (k : Nat) :
    (landRegs a).rdS k = (a.wrS n (v.setWidth 64)).rdS k := by
  rw [Arch.rdS, Arch.rdS, landRegs_s_of_scalar hd hq]

section
variable {s : State} {core x : Nat}

theorem undoFull_of_no_rows {c : Ctx} (hr : rowsDue c.arch = []) (hu : c.undo.length ≤ Config.undoRows) : undoFull c = false := by
  simp [undoFull, hr, Nat.not_lt.2 hu]

theorem landAll_of_no_rows (hr : rowsDue (s.ctx core x).arch = []) (log : Bool) :
    landAll s core x log = s.setCtx core x { s.ctx core x with arch := landRegs (s.ctx core x).arch } := by
  simp [landAll, hr]

/-- No trap leads to an interval rollback while the unit runs. -/
theorem afterTrap_of_running (hr : (s.ctx core x).run = .running) : afterTrap s core x = s := by
  simp [afterTrap, hr]

theorem exec_resultLanding_of_registers (hp : s.power = .on) (hr : (s.ctx core x).run = .running)
    (hd : anyDue (s.ctx core x).arch = true) (hprod : produced (s.core core).cycle (s.ctx core x).arch = true)
    (ht : (dueTraps (s.ctx core x).arch).findSome? (·.2) = none) (hrows : rowsDue (s.ctx core x).arch = [])
    (hu : (s.ctx core x).undo.length ≤ Config.undoRows) :
    exec (.resultLanding core x none) s = .next (s.setCtx core x { s.ctx core x with arch := landRegs (s.ctx core x).arch }) := by
  have hfull : undoFull (s.ctx core x) = false := undoFull_of_no_rows hrows hu
  have hland : landing s core x = s.setCtx core x { s.ctx core x with arch := landRegs (s.ctx core x).arch } := by
    simp only [landing, hd, hprod, ht, hfull, landAll_of_no_rows hrows]
    rfl
  have htick : (s.ctx core x).ticking = true := by rw [Ctx.ticking, hr]
  show execResultLanding core x none s = _
  simp only [execResultLanding, hp, htick, hfull, hland]
  rw [if_neg (by decide), if_neg (by decide), afterTrap_of_running (by rw [ctx_setCtx_same]; exact hr)]

/-! Removal (R374). -/

theorem exec_removal_of_cause (hp : s.power = .on) (hf : (s.ctx core x).frozen = false) {w : Removal}
    (hr : (s.ctx core x).run = .removing w) :
    (w ≠ .interval → w ≠ .fatal → exec (.removal core x) s = .next (endUnit (flushUnit s core x) core x usCancelled 5)) ∧
    (w = .fatal → exec (.removal core x) s = .next (emitEvent (endUnit (flushUnit s core x) core x usCancelled 9) 0x8001
      (some (s.ctx core x).job) [(s.ctx core x).cause.toNat, (s.ctx core x).tval.toNat, (s.ctx core x).recAddr])) ∧
    (w = .interval → exec (.removal core x) s = .next (intervalRollback s core x)) := by
  have hrun : exec (.removal core x) s = execRemoval core x s := rfl
  rw [hrun]
  refine ⟨fun hi hfat => ?_, fun h => ?_, fun h => ?_⟩
  · cases w with
    | interval => exact absurd rfl hi
    | fatal => exact absurd rfl hfat
    | _ => simp [execRemoval, hp, hf, hr]
  · simp [execRemoval, hp, hf, hr, h]
  · simp [execRemoval, hp, hf, hr, h]

/-! Stops (R49, R51, R276, R370). -/

theorem exec_longWaitSuspend_of_clock (hp : s.power = .on) (hf : (s.ctx core x).frozen = false) (hr : (s.ctx core x).run = .running)
    (hh : (s.ctx core x).halted = false) (hc : Config.longWait ≤ (s.ctx core x).clock) (hu : (s.ctx core x).unmet ≠ [])
    (ht : trapsDue (s.ctx core x).shadow = false) :
    (∀ t, frameFor s (s.ctx core x).job = (t, none) →
      exec (.longWaitSuspend core x) s = .next (t.setCtx core x { t.ctx core x with clock := 0 })) ∧
    (∀ t fr, frameFor s (s.ctx core x).job = (t, some fr) →
      let u := rollback (readShadow t core x).1 core x
      (readShadow t core x).2 = false →
      exec (.longWaitSuspend core x) s = .next (saveToFrame u core x fr (u.ctx core x).arch
        (waitBlock (s.ctx core x).arch.pc.toNat (s.ctx core x).unmet) usWaiting 3 ((u.ctx core x).ckpt.toNat % 2 ^ 24) 8)) := by
  have hrun : exec (.longWaitSuspend core x) s = execLongWaitSuspend core x s := rfl
  rw [hrun]
  refine ⟨fun t hfr => ?_, fun t fr hfr => ?_⟩
  · simp [execLongWaitSuspend, hp, hf, hr, hh, Nat.not_lt.2 hc, hu, ht, hfr]
  · intro u hok
    simp [execLongWaitSuspend, hp, hf, hr, hh, Nat.not_lt.2 hc, hu, ht, hfr, hok, u]

/-- Where no result in flight bears a trap, none that is due does. -/
theorem dueTraps_none_of_not_trapsDue {a : Arch} (h : trapsDue a = false) : (dueTraps a).findSome? (·.2) = none := by
  simp only [trapsDue, firstTrap, Option.isSome_eq_false_iff, Option.isNone_iff_eq_none, List.findSome?_eq_none_iff, List.mem_append,
    List.mem_map] at h
  simp only [List.findSome?_eq_none_iff, dueTraps, List.mem_append, List.mem_map, List.mem_filter]
  rintro _ (((⟨d, hd, rfl⟩ | ⟨d, hd, rfl⟩) | ⟨d, hd, rfl⟩) | ⟨d, hd, rfl⟩)
  · exact h _ (.inl (.inl (.inl ⟨d, hd.1, rfl⟩)))
  · exact h _ (.inl (.inl (.inr ⟨d, hd.1, rfl⟩)))
  · exact h _ (.inl (.inr ⟨d, hd.1, rfl⟩))
  · exact h _ (.inr ⟨d, hd.1, rfl⟩)

theorem exec_pinnedPreemption_of_frame (hp : s.power = .on) (hf : (s.ctx core x).frozen = false) (hr : (s.ctx core x).run = .running)
    (hpre : (s.ctx core x).preempt = true) (hs : (s.ctx core x).softCancel = false)
    (hpin : crPinned (recordOf s (s.ctx core x)) = true) (ht : trapsDue (s.ctx core x).arch = false) {t : State} {fr : Nat}
    (hfr : frameFor s (s.ctx core x).job = (t, some fr)) :
    let u := release (checkpoint (landAll t core x false) core x) core
    exec (.pinnedPreemption core x) s =
      .next (saveToFrame u core x fr (u.ctx core x).arch [] usReady 4 ((u.ctx core x).arch.pc.toNat % 2 ^ 24) 0) := by
  intro u
  have hask : saveAsked s (s.ctx core x) = true := by simp [saveAsked, hr, hf, hpre, hpin]
  have hsave : saveAtBoundary s core x =
      saveToFrame u core x fr (u.ctx core x).arch [] usReady 4 ((u.ctx core x).arch.pc.toNat % 2 ^ 24) 0 := by
    simp [saveAtBoundary, hs, ht, hfr, hpre, u]
  show execPinnedPreemption core x s = _
  simp [execPinnedPreemption, hp, hask, dueTraps_none_of_not_trapsDue ht, hsave]

theorem exec_suspensionComplete_of_drained (hp : s.power = .on) (hf : (s.ctx core x).frozen = false) {f : Susp}
    (hr : (s.ctx core x).run = .suspending f) (hc : unitCmds s core x = [])
    (hd : ((drain core x false 1024 s).ctx core x).run = .suspending f) :
    exec (.suspensionComplete core x) s = .next (suspended (drain core x false 1024 s) core x f) := by
  show execSuspensionComplete core x s = _
  simp [execSuspensionComplete, hp, hf, hr, hc, hd]

theorem exec_rollbackTakeOffRetry_of_clock (hp : s.power = .on) (hf : (s.ctx core x).frozen = false)
    (hr : (s.ctx core x).run = .takeOff) (hc : Config.longWait ≤ (s.ctx core x).clock) (ht : trapsDue (s.ctx core x).arch = false) :
    (∀ t, frameFor s (s.ctx core x).job = (t, none) →
      exec (.rollbackTakeOffRetry core x) s = .next (t.setCtx core x { t.ctx core x with clock := 0 })) ∧
    (∀ t fr, frameFor s (s.ctx core x).job = (t, some fr) → exec (.rollbackTakeOffRetry core x) s = .next (keepOff
      (saveToFrame { t.setCore core { t.core core with noPlace := true } with surveyDue := withDueSurvey t.surveyDue core }
        core x fr (s.ctx core x).arch [] usReady 6 ((s.ctx core x).ckpt.toNat % 2 ^ 24) 0) core)) := by
  have hrun : exec (.rollbackTakeOffRetry core x) s = execRollbackTakeOffRetry core x s := rfl
  rw [hrun]
  refine ⟨fun t hfr => ?_, fun t fr hfr => ?_⟩ <;>
    simp [execRollbackTakeOffRetry, hp, hf, hr, Nat.not_lt.2 hc, ht, hfr]

/-! Placement (R33, R35). -/

/-- Elements that have arrived in each stream, and the status word of each channel, as a frame holds them. -/
def frArrived (fr : List Byte) : Tab Nat := (List.range 16).foldl (fun t q => Tab.set 0 t q (frStreamEnt fr q).2) []
def frStatusWords (fr : List Byte) : Tab (BitVec 32) := (List.range 8).foldl (fun t ch =>
  Tab.set 0 t ch (BitVec.ofNat 32 (frNat fr (frCounter + 0x284 + 8 * ch) 4))) []

section
variable (hp : s.power = .on) (hr : (s.ctx core x).run = .placing) (hi : inRun s (clusterOf core) = true)
  (hc : copiesHold s (s.ctx core x).job (s.ctx core x).recAddr = false)
include hp hr hi hc

theorem exec_placement_of_no_record (hn : readRecord s (s.ctx core x).job (s.ctx core x).recAddr = none) :
    exec (.placement core x) s = .next (malformed s core x none) := by
  show execPlacement core x s = _
  simp [execPlacement, hp, hr, hi, hc, hn]

variable {r : Nat} (hrec : readRecord s (s.ctx core x).job (s.ctx core x).recAddr = some r)
include hrec

theorem exec_placement_of_record_bad (hb : recordBad r = true) : exec (.placement core x) s = .next (malformed s core x none) := by
  show execPlacement core x s = _
  simp [execPlacement, hp, hr, hi, hc, hrec, hb]

theorem exec_placement_of_no_frame (hb : recordBad r = false) (hf : crFrame r = false) :
    exec (.placement core x) s = .next (placeOn s core x r (liveArch r) (crSpill r) [] []) := by
  show execPlacement core x s = _
  simp [execPlacement, hp, hr, hi, hc, hrec, hb, hf]

theorem exec_placement_of_frame_unread (hb : recordBad r = false) (hf : crFrame r = true) {v : State}
    (hv : v = devMeet s (s.ctx core x).job none (crSpill r) Config.frameBytes)
    (hn : devRead v (s.ctx core x).job (crSpill r) Config.frameBytes = none) :
    exec (.placement core x) s = .next (malformed v core x (some (crSpill r))) := by
  show execPlacement core x s = _
  simp [execPlacement, hp, hr, hi, hc, hrec, hb, hf, ← hv, hn]

theorem exec_placement_of_frame (hb : recordBad r = false) (hf : crFrame r = true) {v : State}
    (hv : v = devMeet s (s.ctx core x).job none (crSpill r) Config.frameBytes) {fr : List Byte}
    (hfr : devRead v (s.ctx core x).job (crSpill r) Config.frameBytes = some fr) (hok : frameOkFor fr (crWaitKind r) = true) :
    exec (.placement core x) s = .next (returnFrame (placeOn (rehome v core x (s.ctx core x).job (s.ctx core x).recAddr) core x r
      (frArch fr (BitVec.ofNat 64 (crResume r))) (frScratch fr) (frArrived fr) (frStatusWords fr)) (s.ctx core x).job (crSpill r)) := by
  show execPlacement core x s = _
  simp only [execPlacement, hp, hr, hi, hc, hrec, hb, hf, ← hv, hfr, hok]
  rfl

end

/-! The fetch of code (R61, R300). -/

/-- Without errors the copy of code meets none. -/
theorem fetchBytes_of_clean (he : s.errs = []) (k n : Nat) : fetchBytes s core x k n = (s, false) := by
  simp [fetchBytes, copyReadErrs, he]

theorem fetchFrames_of_clean (he : s.errs = []) (n : Nat) (fs : List (Nat × Nat)) :
    fs.foldl (fun (a : State × Bool) f =>
      let q := fetchBytes a.1 core x f.1 (min 65536 (dictBytes n - 65536 * f.2))
      (q.1, a.2 || q.2)) (s, false) = (s, false) := by
  induction fs with
  | nil => rfl
  | cons f fs ih => simpa only [List.foldl_cons, fetchBytes_of_clean he, Bool.or_false] using ih

section
variable (hfetch : fetching s core x = true)
include hfetch

theorem exec_segmentFetch_of_no_entry (hc : cachedSeg s core (s.ctx core x) (s.ctx core x).arch.pc.toNat = none)
    (hk : segKey s (jobAsid s (s.ctx core x).job) (s.ctx core x).codeBase ((s.ctx core x).arch.pc.toNat / 4096) = none) :
    exec (.segmentFetch core x) s = .next (fetchTrap s core x .noexec 1 0) := by
  show execSegmentFetch core x s = _
  simp [execSegmentFetch, hfetch, hc, hk]

/-- The state after a segment whose entry of the mapped-code table is found: the trap of R61, or the segment in the cache. -/
theorem exec_segmentFetch_of_entry (he : s.errs = []) (hc : cachedSeg s core (s.ctx core x) (s.ctx core x).arch.pc.toNat = none)
    {num : Nat} (hnum : num = (s.ctx core x).arch.pc.toNat / 4096) {mp : Mapped} {mf : Manifest}
    (hmp : segEntry s (jobAsid s (s.ctx core x).job) (s.ctx core x).codeBase num = some mp) (hmf : s.manifests[mp.manifest]? = some mf) :
    let bs := s.bytes (mp.frame * 65536 + ((s.ctx core x).codeBase + num * 8192) % 65536) 8192
    let g : Seg := ⟨jobAsid s (s.ctx core x).job, (s.ctx core x).codeBase, num, BitVec.ofNat 512 (leNat (bs.take 64)), segWords bs⟩
    (tagOk mf.key num bs = false →
      exec (.segmentFetch core x) s = .next (fetchTrap s core x .segtag 0 ((s.ctx core x).codeBase + 8192 * num))) ∧
    (tagOk mf.key num bs = true → (s.core core).segs.length < Config.segCache →
      exec (.segmentFetch core x) s = .next ((arrayWritten s (arrKey (coreArray 4 core) (8192 * (s.core core).segs.length)) 8192).setCore
        core { s.core core with segs := (s.core core).segs ++ [g] })) := by
  intro bs g
  subst hnum
  have hkey := congrArg (Option.map (fun m : Mapped => m.frame * 65536 + ((s.ctx core x).codeBase +
    (s.ctx core x).arch.pc.toNat / 4096 * 8192) % 65536)) hmp
  rw [← segKey, Option.map_some] at hkey
  have hrun : exec (.segmentFetch core x) s = execSegmentFetch core x s := rfl
  rw [hrun]
  refine ⟨fun ht => ?_, fun ht hroom => ?_⟩
  · simp [execSegmentFetch, hfetch, hc, hkey, hmp, hmf, fetchBytes_of_clean he, ht, bs]
  · have hkeep : (s.core core).segs.length + 1 - Config.segCache = 0 := by omega
    simp [execSegmentFetch, hfetch, hc, hkey, hmp, hmf, fetchBytes_of_clean he, ht, bs, g, hkeep]

theorem exec_dictLoad_of_no_entry (hc : (cachedSeg s core (s.ctx core x) (s.ctx core x).arch.pc.toNat).isSome = true)
    (hl : loadedDict s core (s.ctx core x) = none)
    (hd : dictFrames s (jobAsid s (s.ctx core x).job) (s.ctx core x).dict = none) :
    exec (.dictLoad core x) s = .next (fetchTrap s core x .noexec 1 0) := by
  obtain ⟨g, hg⟩ := Option.isSome_iff_exists.1 hc
  show execDictLoad core x s = _
  simp [execDictLoad, hfetch, hg, hl, hd]

/-- The state after a dictionary for which the store has room: the trap of R61, or the dictionary in the store. -/
theorem exec_dictLoad_of_room (he : s.errs = []) (hc : (cachedSeg s core (s.ctx core x) (s.ctx core x).arch.pc.toNat).isSome = true)
    (hl : loadedDict s core (s.ctx core x) = none) {fs : List Nat} {n : Nat} {mf : Manifest}
    (hd : dictFrames s (jobAsid s (s.ctx core x).job) (s.ctx core x).dict = some (fs, n)) (hmf : s.manifests[n]? = some mf)
    {count : Nat} (hcount : count = cartCount (leNat (s.bytes (fs.headD 0) 64)))
    (hroom : ((s.core core).dicts.map (·.count)).sum + count ≤ 4095) :
    let bs := framesBytes s fs (dictBytes count)
    (tagOk mf.key dictNumber bs = false → exec (.dictLoad core x) s = .next (fetchTrap s core x .segtag 0 (s.ctx core x).dict)) ∧
    (tagOk mf.key dictNumber bs = true → exec (.dictLoad core x) s = .next ((arrayWritten s
      (arrKey (coreArray 3 core) (48 * (1 + ((s.core core).dicts.map (·.count)).sum))) (48 * count)).setCore core { s.core core with
      dicts := (s.core core).dicts ++ [⟨jobAsid s (s.ctx core x).job, (s.ctx core x).dict, count, dictEnts bs count, x, 0⟩] })) := by
  intro bs
  obtain ⟨g, hg⟩ := Option.isSome_iff_exists.1 hc
  have hkeep : dictRoom count ((s.core core).dicts.length + 1) (s.core core).dicts = some (s.core core).dicts := if_pos hroom
  have hrun : exec (.dictLoad core x) s = execDictLoad core x s := rfl
  rw [hrun]
  refine ⟨fun ht => ?_, fun ht => ?_⟩ <;>
    simp only [execDictLoad, hfetch, hg, hl, hd, ← hcount, hkeep, fetchFrames_of_clean he, hmf, Option.map_some, Option.getD, bs, ht] <;>
    rfl

end

/-! A wait of a unit off its context (R49). -/

theorem testWait_holds (s : State) (job r : Nat) : (testWait s job r).2 = waitHolds s job r := rfl

theorem exec_waitSatisfied_of_waiting {job va r : Nat} (hp : s.power = .on) (hr : readRecord s job va = some r)
    (hs : crState r = usWaiting) (hx : ctxOfUnit s job va = none) :
    (waitHolds s job r = false → exec (.waitSatisfied job va) s = .next s) ∧
    (waitHolds s job r = true → exec (.waitSatisfied job va) s =
      .next (enqueueUnit (writeRecord (testWait s job r).1 job va (crSet r usReady (crReason r))) job va)) := by
  have hrun : exec (.waitSatisfied job va) s = execWaitSatisfied job va s := rfl
  rw [hrun]
  refine ⟨fun h => ?_, fun h => ?_⟩ <;> simp [execWaitSatisfied, hp, hr, hs, hx, testWait_holds, h]

/-! Decisions (R51). -/

/-- What a decision does once it is counted: a placement, else, where no context is free, a pre-emption. -/
def decided (u : State) (cl : Nat) : State := match choose u cl with
  | some (c, y, q, age) => place u cl c y q age
  | none =>
    if !(freeList u cl).isEmpty then u
    else match bestOf u cl ((u.cluster cl).ready.filter (fun q => (coresOf u cl).any (fun c => eligible u c q))) with
      | none => u
      | some q => match victim u cl q with
        | none => u
        | some v => if effCtx u (u.ctx v.1 v.2) < effReady u cl q then u.setCtx v.1 v.2 { u.ctx v.1 v.2 with preempt := true } else u

/-- The state in which a decision is made: its cluster has counted it. -/
def countDecision (s : State) (cl : Nat) : State :=
  s.setCluster cl { s.cluster cl with decisions := (s.cluster cl).decisions + 1, decideDue := (s.cluster cl).decideDue - 1 }

theorem exec_decide_of_run {s : State} {cl : Nat} (hp : s.power = .on) (hcl : cl < 16) (hi : inRun s cl = true) :
    exec (.decide cl) s = .next (decided (countDecision s cl) cl) := by
  show execDecide cl s = _
  rw [execDecide, if_neg (by simp [hp, hi, hcl])]
  rfl

section
variable {u : State} {cl : Nat}

theorem decided_of_choice {c y age : Nat} {q : Ready} (h : choose u cl = some (c, y, q, age)) : decided u cl = place u cl c y q age := by
  simp only [decided, h]

theorem decided_of_free (h : choose u cl = none) (hf : freeList u cl ≠ []) : decided u cl = u := by
  simp [decided, h, hf]

theorem decided_of_victim (h : choose u cl = none) (hf : freeList u cl = []) {q : Ready} {v : Nat × Nat}
    (hq : bestOf u cl ((u.cluster cl).ready.filter (fun q => (coresOf u cl).any (fun c => eligible u c q))) = some q)
    (hv : victim u cl q = some v) : decided u cl =
      if effCtx u (u.ctx v.1 v.2) < effReady u cl q then u.setCtx v.1 v.2 { u.ctx v.1 v.2 with preempt := true } else u := by
  simp [decided, h, hf, hq, hv]

end

end

/-- Settles O50: each step's guards hold by the premises, and what is left is its effect. -/
theorem contextSteps : Obligations.ContextSteps := by
  unfold Obligations.ContextSteps
  refine ⟨fun a n v ready off old hn hd hq => ?landing, fun s core x => ?context,
    fun s job va r hp hr hs hx => exec_waitSatisfied_of_waiting hp hr hs hx, fun s cl hp hcl hi => ?decide⟩
  case landing =>
    refine ⟨?_, fun k hk => ?_⟩
    · rw [landRegs_rdS_of_scalar hd hq, Arch.rdS_wrS_same a hn]
    · rw [landRegs_rdS_of_scalar hd hq, Arch.rdS_wrS_other a hk]
  case context =>
    intro c hp hf
    refine ⟨fun hr hd hprod ht hrows hu => exec_resultLanding_of_registers hp hr hd hprod ht hrows hu,
      fun w hr => exec_removal_of_cause hp hf hr,
      fun hr hh hc hu ht => exec_longWaitSuspend_of_clock hp hf hr hh hc hu ht,
      fun hr hpre hs hpin ht t fr hfr => exec_pinnedPreemption_of_frame hp hf hr hpre hs hpin ht hfr,
      fun f hr hc => exec_suspensionComplete_of_drained hp hf hr hc,
      fun hr hc ht => exec_rollbackTakeOffRetry_of_clock hp hf hr hc ht, fun hr hi hc => ?placement, fun hfetch he => ?fetch⟩
    case placement =>
      refine ⟨exec_placement_of_no_record hp hr hi hc, fun r hrec => ⟨exec_placement_of_record_bad hp hr hi hc hrec,
        exec_placement_of_no_frame hp hr hi hc hrec, fun hb hfr => ?_⟩⟩
      exact ⟨exec_placement_of_frame_unread hp hr hi hc hrec hb hfr rfl,
        fun fr hread hok => ⟨_, _, exec_placement_of_frame hp hr hi hc hrec hb hfr rfl hread hok⟩⟩
    case fetch =>
      refine ⟨fun hc => ⟨exec_segmentFetch_of_no_entry hfetch hc, fun mp mf hmp hmf => exec_segmentFetch_of_entry hfetch he hc rfl hmp hmf⟩,
        fun hc hl => ⟨exec_dictLoad_of_no_entry hfetch hc hl, fun fs n mf hd hmf => ?_⟩⟩
      exact fun hroom => exec_dictLoad_of_room hfetch he hc hl hd hmf rfl hroom
  case decide =>
    rw [exec_decide_of_run hp hcl hi]
    refine ⟨fun core x q age h => congrArg _ (decided_of_choice h), fun h hf => congrArg _ (decided_of_free h hf),
      fun h hf q v hq hv => ?_⟩
    have hv' := decided_of_victim h hf hq hv
    exact ⟨fun hlt => congrArg _ (hv'.trans (if_pos hlt)), fun hle => congrArg _ (hv'.trans (if_neg (Nat.not_lt.2 hle)))⟩

end Sys2Proof.Machine
end

section
/-! SUPPORT. The decoder undoes the encoder: the fields that a format joins come apart again, each format reads back what it
wrote, each opcode leads to its own format, and a bundle that holds one word holds nothing else. -/
namespace Sys2Proof.Machine

/-! Fields of a word (R70). -/

/-- Every field's value fits its width. -/
abbrev Fits (ws vs : List Nat) : Prop := List.Forall₂ (fun w v => v < 2 ^ w) ws vs

theorem packFields_lt {ws vs : List Nat} (h : Fits ws vs) : packFields ws vs < 2 ^ ws.sum := by
  induction h with
  | nil => simp [packFields]
  | @cons w v ws vs hv _ ih =>
    calc v * 2 ^ ws.sum + packFields ws vs < (v + 1) * 2 ^ ws.sum := by rw [Nat.succ_mul]; omega
      _ ≤ 2 ^ w * 2 ^ ws.sum := Nat.mul_le_mul_right _ hv
      _ = 2 ^ (w :: ws).sum := by rw [List.sum_cons, Nat.pow_add]

theorem packFields_cons_div {ws vs : List Nat} (h : Fits ws vs) (w v : Nat) :
    packFields (w :: ws) (v :: vs) / 2 ^ ws.sum = v := by
  rw [packFields, Nat.mul_comm, Nat.mul_add_div (Nat.two_pow_pos _), Nat.div_eq_of_lt (packFields_lt h), Nat.add_zero]

theorem packFields_cons_mod {ws vs : List Nat} (h : Fits ws vs) (w v : Nat) :
    packFields (w :: ws) (v :: vs) % 2 ^ ws.sum = packFields ws vs := by
  rw [packFields, Nat.mul_comm, Nat.mul_add_mod, Nat.mod_eq_of_lt (packFields_lt h)]

theorem unpackFields_packFields {ws vs : List Nat} (h : Fits ws vs) : unpackFields ws (packFields ws vs) = vs := by
  induction h with
  | nil => rfl
  | cons _ ht ih => rw [unpackFields, packFields_cons_div ht, packFields_cons_mod ht, ih]

/-! Codes of the shared fields (R69): each names its value again, and fits its field. -/

@[simp] theorem tyFall_tyCode (t : Ty) : tyFall (tyCode t) = t := by cases t <;> rfl
@[simp] theorem condFall_condCode (c : Cond) : condFall (condCode c) = c := by cases c <;> rfl
@[simp] theorem scopeFall_scopeCode (c : Scope) : scopeFall (scopeCode c) = c := by cases c <;> rfl
@[simp] theorem rndOf_rndCode (r : Rnd) : rndOf (rndCode r) = r := by cases r <;> rfl
@[simp] theorem b2n_beq_one (b : Bool) : (b2n b == 1) = b := by cases b <;> rfl

@[simp] theorem tyCode_le (t : Ty) : tyCode t ≤ 16 := by cases t <;> decide
@[simp] theorem condCode_le (c : Cond) : condCode c ≤ 5 := by cases c <;> decide
@[simp] theorem scopeCode_le (c : Scope) : scopeCode c ≤ 5 := by cases c <;> decide
@[simp] theorem tyCode_lt (t : Ty) : tyCode t < 32 := Nat.lt_of_le_of_lt (tyCode_le t) (by decide)
@[simp] theorem condCode_lt (c : Cond) : condCode c < 8 := Nat.lt_of_le_of_lt (condCode_le c) (by decide)
@[simp] theorem scopeCode_lt (c : Scope) : scopeCode c < 8 := Nat.lt_of_le_of_lt (scopeCode_le c) (by decide)
@[simp] theorem rndCode_lt (r : Rnd) : rndCode r < 4 := by cases r <;> decide
@[simp] theorem b2n_le (b : Bool) : b2n b ≤ 1 := by cases b <;> decide

@[simp] theorem zeroF_zero : zeroF [0] = [] := rfl
@[simp] theorem inR_true : inR true = [] := rfl
@[simp] theorem tyR_true : tyR true = [] := rfl

/-! The formats (R70): a format's reader takes from the word that the format wrote the instruction, and no refusal. -/

/-- A 64-bit word with its opcode on top, from which a format's reader takes the instruction. -/
structure Writes (read : Nat → Slot) (op w : Nat) (i : Instr) : Prop where
  lt : w < 2 ^ 64
  opcode : w / 2 ^ 56 = op
  reads : read w = (some i, [])

theorem writes_of_fits {read : Nat → Slot} {op : Nat} {i : Instr} {ws vs : List Nat} (hsum : ws.sum = 56) (hop : op < 2 ^ 8)
    (hf : Fits ws vs)
    (hr : unpackFields (8 :: ws) (packFields (8 :: ws) (op :: vs)) = op :: vs →
      read (packFields (8 :: ws) (op :: vs)) = (some i, [])) :
    Writes read op (packFields (8 :: ws) (op :: vs)) i := by
  have hall : Fits (8 :: ws) (op :: vs) := .cons hop hf
  refine ⟨?_, ?_, hr (unpackFields_packFields hall)⟩
  · simpa [hsum] using packFields_lt hall
  · simpa only [hsum] using packFields_cons_div hf 8 op

section
variable {op : Nat} (hop : op < 2 ^ 8)
include hop

theorem packCJ_writes (mk : CJ → Instr) (f : CJ) : Writes (readCJ mk) op (packCJ op f) (mk f) :=
  writes_of_fits rfl hop (by simp [f.target.isLt]) fun hu => by simp [readCJ, wCJ, hu]

theorem packCL_writes (mk : CL → Instr) (f : CL) : Writes (readCL mk) op (packCL op f) (mk f) :=
  writes_of_fits rfl hop (by simp [f.lenM1.isLt, f.trip.isLt]) fun hu => by simp [readCL, wCL, hu]

theorem packCB_writes (mk : CB → Instr) (f : CB) : Writes (readCB mk) op (packCB op f) (mk f) :=
  writes_of_fits rfl hop (by simp) fun hu => by simp [readCB, wCB, hu]

theorem packCS_writes (mk : CS → Instr) (f : CS) : Writes (readCS mk) op (packCS op f) (mk f) :=
  writes_of_fits rfl hop (by simp [f.waitOperand.isLt, f.live.isLt]) fun hu => by simp [readCS, wCS, hu]

theorem packCY_writes (mk : CY → Instr) (f : CY) : Writes (readCY mk) op (packCY op f) (mk f) :=
  writes_of_fits rfl hop (by simp [f.sys.isLt, f.imm.isLt]) fun hu => by simp [readCY, wCY, hu]

theorem packLF_writes (mk : LF → Instr) (f : LF) : Writes (readLF mk) op (packLF op f) (mk f) :=
  writes_of_fits rfl hop (by simp) fun hu => by simp [readLF, wLF, hu]

theorem packSR_writes (mk : SR → Instr) (f : SR) : Writes (readSR mk) op (packSR op f) (mk f) :=
  writes_of_fits rfl hop (by simp) fun hu => by simp [readSR, wSR, hu]

theorem packSI_writes (mk : SI → Instr) (f : SI) : Writes (readSI mk) op (packSI op f) (mk f) :=
  writes_of_fits rfl hop (by simp [f.imm.isLt]) fun hu => by simp [readSI, wSI, hu]

theorem packSX_writes (mk : SX → Instr) (f : SX) : Writes (readSX mk) op (packSX op f) (mk f) :=
  writes_of_fits rfl hop (by simp [f.imm.isLt]) fun hu => by simp [readSX, wSX, hu]

theorem packSL_writes (mk : SL → Instr) (f : SL) : Writes (readSL mk) op (packSL op f) (mk f) :=
  writes_of_fits rfl hop (by simp [f.imm.isLt]) fun hu => by simp [readSL, wSL, hu]

theorem packSC_writes (mk : SC → Instr) (f : SC) : Writes (readSC mk) op (packSC op f) (mk f) :=
  writes_of_fits rfl hop (by simp [f.imm.isLt]) fun hu => by simp [readSC, wSC, hu]

theorem packSP_writes (mk : SP → Instr) (f : SP) : Writes (readSP mk) op (packSP op f) (mk f) :=
  writes_of_fits rfl hop (by simp) fun hu => by simp [readSP, wSP, hu]

theorem packVR_writes (mk : VR → Instr) (f : VR) : Writes (readVR mk) op (packVR op f) (mk f) :=
  writes_of_fits rfl hop (by simp [f.ctl.isLt]) fun hu => by simp [readVR, wVR, hu]

theorem packVI_writes (mk : VI → Instr) (f : VI) : Writes (readVI mk) op (packVI op f) (mk f) :=
  writes_of_fits rfl hop (by simp [f.imm.isLt]) fun hu => by simp [readVI, wVI, hu]

theorem packVM_writes (mk : VM → Instr) (f : VM) : Writes (readVM mk) op (packVM op f) (mk f) :=
  writes_of_fits rfl hop (by simp [f.off.isLt]) fun hu => by simp [readVM, wVM, hu]

theorem packVQ_writes (mk : VQ → Instr) (f : VQ) : Writes (readVQ mk) op (packVQ op f) (mk f) :=
  writes_of_fits rfl hop (by simp) fun hu => by simp [readVQ, wVQ, hu]

theorem packVK_writes (mk : VK → Instr) (f : VK) : Writes (readVK mk) op (packVK op f) (mk f) :=
  writes_of_fits rfl hop (by simp) fun hu => by simp [readVK, wVK, hu]

theorem packML_writes (mk : ML → Instr) (f : ML) : Writes (readML mk) op (packML op f) (mk f) :=
  writes_of_fits rfl hop (by simp [f.imm.isLt]) fun hu => by simp [readML, wML, hu]

theorem packMX_writes (mk : MX → Instr) (f : MX) : Writes (readMX mk) op (packMX op f) (mk f) :=
  writes_of_fits rfl hop (by simp) fun hu => by simp [readMX, wMX, hu]

theorem packMS_writes (mk : MS → Instr) (f : MS) : Writes (readMS mk) op (packMS op f) (mk f) :=
  writes_of_fits rfl hop (by simp [f.sel.isLt]) fun hu => by simp [readMS, wMS, hu]

theorem packMD_writes (mk : MD → Instr) (f : MD) : Writes (readMD mk) op (packMD op f) (mk f) :=
  writes_of_fits rfl hop (by simp) fun hu => by simp [readMD, wMD, hu]

theorem packER_writes (mk : ER → Instr) (f : ER) : Writes (readER mk) op (packER op f) (mk f) :=
  writes_of_fits rfl hop (by simp [f.flags.isLt, f.imm.isLt]) fun hu => by simp [readER, wER, hu]

theorem packEC_writes (mk : EC → Instr) (f : EC) : Writes (readEC mk) op (packEC op f) (mk f) :=
  writes_of_fits rfl hop (by simp [f.f.isLt, f.imm.isLt]) fun hu => by simp [readEC, wEC, hu]

end

/-! The opcodes (R72): each leads to its own format. -/

/-- What a slot's class reads from a word that has an opcode. -/
def scanClass : SlotClass → Nat → Slot
  | .c => scanC | .s => scanS | .v => scanV | .m => scanM | .e => scanE

theorem scanSlot_of_scanClass {cl : SlotClass} {w : Nat} {i : Instr} (h0 : w / 2 ^ 56 ≠ 0) (h : scanClass cl w = (some i, [])) :
    scanSlot cl w = (some i, operandChecks i) := by
  have hw : w ≠ 0 := fun hw => h0 (by rw [hw, Nat.zero_div])
  cases cl <;> simp only [scanClass] at h <;> simp only [scanSlot, hw, h0, h, if_false, List.nil_append]

/-- The word that an instruction encodes to has 64 bits, and its slot reads the instruction from it. -/
def ReadsBack (i : Instr) : Prop :=
  ∀ cl w, encode i = some (cl, w) → w < 2 ^ 64 ∧ scanSlot cl w = (some i, operandChecks i)

theorem readsBack_of_writes {i : Instr} {cl : SlotClass} {w op : Nat} {read : Nat → Slot} (he : encode i = some (cl, w))
    (hw : Writes read op w i) (h0 : op ≠ 0) (hs : ∀ w, w / 2 ^ 56 = op → scanClass cl w = read w) : ReadsBack i := by
  intro cl' w' he'
  obtain ⟨rfl, rfl⟩ : cl = cl' ∧ w = w' := by simpa using he.symm.trans he'
  exact ⟨hw.lt, scanSlot_of_scanClass (hw.opcode ▸ h0) ((hs w hw.opcode).trans hw.reads)⟩

/-- Every opcode of a slot leads to the format that its instruction was written in; a whole step has no encoding. -/
theorem instr_readsBack (i : Instr) : ReadsBack i := by
  refine ?row -- a tag, so that the rows named as Lean's commands are (`row.seal`, `row.unseal`) can be named too
  cases i
  case j f | jr f | call f | ret f =>
    exact readsBack_of_writes rfl (packCJ_writes (by decide) _ f) (by decide) fun w h => by rw [scanClass, scanC, h]; rfl
  case loop f | lbrk f =>
    exact readsBack_of_writes rfl (packCL_writes (by decide) _ f) (by decide) fun w h => by rw [scanClass, scanC, h]; rfl
  case bsel f =>
    exact readsBack_of_writes rfl (packCB_writes (by decide) _ f) (by decide) fun w h => by rw [scanClass, scanC, h]; rfl
  case lendC f =>
    exact readsBack_of_writes rfl (packLF_writes (by decide) _ f) (by decide) fun w h => by rw [scanClass, scanC, h]; rfl
  case suspend f | yield f =>
    exact readsBack_of_writes rfl (packCS_writes (by decide) _ f) (by decide) fun w h => by rw [scanClass, scanC, h]; rfl
  case trap f | brk f | sysr f | sysw f | icinv f | tick f | idle f =>
    exact readsBack_of_writes rfl (packCY_writes (by decide) _ f) (by decide) fun w h => by rw [scanClass, scanC, h]; rfl
  case add f | sub f | mul f | mulh f | mulhn f | div f | rem f | and f | or f | xor f | andn f | shl f | shr f | sar f
  | min f | max f | minn f | maxn f | clz f | ctz f | popc f | sext f | zext f | sel f =>
    exact readsBack_of_writes rfl (packSR_writes (by decide) _ f) (by decide) fun w h => by rw [scanClass, scanS, h]; rfl
  case maddr f =>
    exact readsBack_of_writes rfl (packSX_writes (by decide) _ f) (by decide) fun w h => by rw [scanClass, scanS, h]; rfl
  case addi f | andi f | ori f | xori f | shli f | shri f | sari f | lda f | sta f | ldc f | stc f | ldw f =>
    exact readsBack_of_writes rfl (packSI_writes (by decide) _ f) (by decide) fun w h => by rw [scanClass, scanS, h]; rfl
  case li f | lih f =>
    exact readsBack_of_writes rfl (packSL_writes (by decide) _ f) (by decide) fun w h => by rw [scanClass, scanS, h]; rfl
  case cmp f | cmpi f =>
    exact readsBack_of_writes rfl (packSC_writes (by decide) _ f) (by decide) fun w h => by rw [scanClass, scanS, h]; rfl
  case pand f | por f | pxor f | pset f =>
    exact readsBack_of_writes rfl (packSP_writes (by decide) _ f) (by decide) fun w h => by rw [scanClass, scanS, h]; rfl
  case vadd f | vsub f | vmul f | vfma f | vfms f | vmin f | vmax f | vabs f | vneg f | vexp2 f | vlog2 f | vrcp f
  | vrsq f | vcvt f | vpack f | vunpk f | vbscl f | viadd f | visub f | vimul f | vand f | vor f | vxor f | vshl f
  | vshr f | vsar f | vcmp f | vicmp f | vsel f | vperm f | vrsum f | vrmax f | vrmin f | vscan f | vkey f | vhist f =>
    exact readsBack_of_writes rfl (packVR_writes (by decide) _ f) (by decide) fun w h => by rw [scanClass, scanV, h]; rfl
  case vbcst f | vmovs f | vrot f =>
    exact readsBack_of_writes rfl (packVI_writes (by decide) _ f) (by decide) fun w h => by rw [scanClass, scanV, h]; rfl
  case vlda f | vsta f | vldc f | vstc f | vglda f =>
    exact readsBack_of_writes rfl (packVM_writes (by decide) _ f) (by decide) fun w h => by rw [scanClass, scanV, h]; rfl
  case vmovq f =>
    exact readsBack_of_writes rfl (packVQ_writes (by decide) _ f) (by decide) fun w h => by rw [scanClass, scanV, h]; rfl
  case lendV f =>
    exact readsBack_of_writes rfl (packLF_writes (by decide) _ f) (by decide) fun w h => by rw [scanClass, scanV, h]; rfl
  case kand f | kor f | knot f | kset f | kpop f =>
    exact readsBack_of_writes rfl (packVK_writes (by decide) _ f) (by decide) fun w h => by rw [scanClass, scanV, h]; rfl
  case mlat f | mlata f | mlatq f =>
    exact readsBack_of_writes rfl (packML_writes (by decide) _ f) (by decide) fun w h => by rw [scanClass, scanM, h]; rfl
  case mma f | mmav f | mconv f =>
    exact readsBack_of_writes rfl (packMX_writes (by decide) _ f) (by decide) fun w h => by rw [scanClass, scanM, h]; rfl
  case mshape f | mpad f | mset f | mzero f | mdrain f =>
    exact readsBack_of_writes rfl (packMS_writes (by decide) _ f) (by decide) fun w h => by rw [scanClass, scanM, h]; rfl
  case dot f | dotacc f =>
    exact readsBack_of_writes rfl (packMD_writes (by decide) _ f) (by decide) fun w h => by rw [scanClass, scanM, h]; rfl
  case cpy f | sbind f | srel f | gath f | gidx f | qapp f | atom f | fence f | sfence f | larm f | lpatch f | cancel f
  | kvref f | kvapp f | kvrej f | kvcommit f | kvfree f | gzclaim f | gzjoin f | gzfind f | row.seal f | row.unseal f
  | errinj f =>
    exact readsBack_of_writes rfl (packER_writes (by decide) _ f) (by decide) fun w h => by rw [scanClass, scanE, h]; rfl
  case semset f | semadd f | semwt f | tbarm f | tbexp f | tbwait f | xidrd f | xidwt f | sigadd f | sigwt f | bmset f
  | bmwait f =>
    exact readsBack_of_writes rfl (packEC_writes (by decide) _ f) (by decide) fun w h => by rw [scanClass, scanE, h]; rfl
  all_goals exact fun _ _ h => nomatch h

theorem decodeSlot_of_encode {i : Instr} {cl : SlotClass} {w : Nat} (he : encode i = some (cl, w)) (hwf : i.WellFormed) :
    decodeSlot cl w = some i := by
  rw [decodeSlot, (instr_readsBack i cl w he).2, show operandChecks i = [] from hwf]

/-! A bundle that holds one word (R64): the other slots are empty, the header, the flags and the guards are zero, and none of
what the scanner refuses about several slots together can arise. -/

theorem fld_of_lt {b lo : Nat} (h : b < 2 ^ lo) (hi : Nat) : fld b hi lo = 0 := by
  rw [fld, Nat.shiftRight_eq_div_pow, Nat.div_eq_of_lt h, Nat.zero_mod]

theorem shiftLeft_lt_two_pow {w : Nat} (h : w < 2 ^ 64) {n m : Nat} (hm : n + 64 ≤ m) : w <<< n < 2 ^ m := by
  rw [Nat.shiftLeft_eq]
  calc w * 2 ^ n < 2 ^ 64 * 2 ^ n := Nat.mul_lt_mul_of_pos_right h (Nat.two_pow_pos n)
    _ = 2 ^ (n + 64) := by rw [← Nat.pow_add, Nat.add_comm]
    _ ≤ 2 ^ m := Nat.pow_le_pow_right (by decide) hm

theorem fld_shiftLeft_inside {w : Nat} (h : w < 2 ^ 64) {n hi : Nat} (hn : hi = n + 63) : fld (w <<< n) hi n = w := by
  rw [fld, Nat.shiftLeft_shiftRight, show hi + 1 - n = 64 by omega, Nat.mod_eq_of_lt h]

theorem fld_shiftLeft_above {w : Nat} (h : w < 2 ^ 64) {n lo : Nat} (hn : n + 64 ≤ lo) (hi : Nat) : fld (w <<< n) hi lo = 0 :=
  fld_of_lt (shiftLeft_lt_two_pow h hn) hi

theorem fld_shiftLeft_below {n hi : Nat} (h : hi < n) (w lo : Nat) : fld (w <<< n) hi lo = 0 := by
  refine Nat.eq_of_testBit_eq fun j => ?_
  have hj : j < hi + 1 - lo → ¬ n ≤ lo + j := by omega
  simpa [fld] using fun h h' => absurd h' (hj h)

/-- One entry for each slot in the order C, S, V, M, E: `x` in its own, `z` in the others. -/
def soloAt {α : Type} (z x : α) : SlotClass → List α
  | .c => [x, z, z, z, z] | .s => [z, x, z, z, z] | .v => [z, z, x, z, z] | .m => [z, z, z, x, z] | .e => [z, z, z, z, x]

theorem map_soloAt {α β : Type} (g : α → β) (z x : α) (cl : SlotClass) : (soloAt z x cl).map g = soloAt (g z) (g x) cl := by
  cases cl <;> rfl

theorem slotWords_solo {w : Nat} (h : w < 2 ^ 64) (cl : SlotClass) : slotWords (w <<< slotShift cl) = soloAt 0 w cl := by
  cases cl <;> simp [slotWords, slotShift, soloAt, -Nat.shiftLeft_zero, fld_shiftLeft_inside h, fld_shiftLeft_above h, fld_shiftLeft_below]

theorem filterMap_soloAt (i : Instr) (cl : SlotClass) : (soloAt none (some i) cl).filterMap id = [i] := by
  cases cl <;> rfl

theorem length_streamReads_solo (i : Instr) (cl : SlotClass) : (streamReads (soloAt none (some i) cl)).length ≤ 1 :=
  calc (streamReads (soloAt none (some i) cl)).length = (streamReads [some i]).length := by cases cl <;> rfl
    _ ≤ 1 := List.length_filterMap_le ..

section
variable {w : Nat} {i : Instr} {cl : SlotClass} (hlt : w < 2 ^ 64) (hs : scanSlot cl w = (some i, []))
include hlt

theorem fld_solo_header {lo : Nat} (h : 320 ≤ lo) (hi : Nat) : fld (w <<< slotShift cl) hi lo = 0 :=
  fld_shiftLeft_above hlt (Nat.le_trans (by cases cl <;> decide) h) hi

theorem testBit_solo_header {n : Nat} (h : 320 ≤ n) : (w <<< slotShift cl).testBit n = false :=
  Nat.testBit_lt_two_pow (shiftLeft_lt_two_pow hlt (Nat.le_trans (by cases cl <;> decide) h))

include hs

theorem scanSlots_solo :
    let b := w <<< slotShift cl
    [scanSlot .c (fld b 319 256), scanSlot .s (fld b 255 192), scanSlot .v (fld b 191 128),
      scanSlot .m (fld b 127 64), scanSlot .e (fld b 63 0)] = soloAt (none, []) (some i, []) cl := by
  have h0 : ∀ cl, scanSlot cl 0 = (none, []) := fun _ => rfl
  cases cl <;> simp [slotShift, soloAt, h0, hs, -Nat.shiftLeft_zero, fld_shiftLeft_inside hlt, fld_shiftLeft_above hlt, fld_shiftLeft_below]

theorem scanBundle_solo_slots : (scanBundle (w <<< slotShift cl)).1.slots = soloAt none (some i) cl := by
  simp only [scanBundle, scanSlots_solo hlt hs, map_soloAt]

theorem scanBundle_solo_reasons : (scanBundle (w <<< slotShift cl)).2 = [] := by
  have hq : (streamReads (soloAt none (some i) cl)).length ≠ 2 := Nat.ne_of_lt (Nat.lt_succ_of_le (length_streamReads_solo i cl))
  have hsusp : (w <<< slotShift cl).testBit 354 = false := testBit_solo_header hlt (by decide)
  simp only [scanBundle, scanSlots_solo hlt hs, slotWords_solo hlt, map_soloAt, guardFields, hq, hsusp]
  cases cl <;> simp [soloAt, isLend, isStop, fld_solo_header hlt]
end

theorem decodeTableWord_solo (n : Nat) {w : Nat} {i : Instr} {cl : SlotClass} (hlt : w < 2 ^ 64) (hs : scanSlot cl w = (some i, [])) :
    decodeTableWord n (w <<< slotShift cl) = some i := by
  have hmod : w <<< slotShift cl % 2 ^ 384 = w <<< slotShift cl :=
    Nat.mod_eq_of_lt (shiftLeft_lt_two_pow hlt (by cases cl <;> decide))
  rw [decodeTableWord, hmod]
  simp only [scanBundle_solo_reasons hlt hs, scanBundle_solo_slots hlt hs, filterMap_soloAt]

/-- Settles O56: the slot reads its word back (`instr_readsBack`), and the bundle that holds the word holds nothing else. -/
theorem roundTrip : Obligations.RoundTrip := by
  unfold Obligations.RoundTrip
  intro i henc hwf
  obtain ⟨⟨cl, w⟩, he⟩ := Option.isSome_iff_exists.mp henc
  obtain ⟨hlt, hs⟩ := instr_readsBack i cl w he
  rw [show operandChecks i = [] from hwf] at hs
  refine ⟨?_, fun cl' w' he' => ⟨(instr_readsBack i cl' w' he').1, decodeSlot_of_encode he' hwf⟩⟩
  rw [soloBundle, he]
  exact decodeTableWord_solo 384 hlt hs

/-- Settles O55: five of the words are what their instructions encode to, so the round trip reads them; opcode 0xFF is none of
slot S's, and the bundle's fields are taken out of its bits. -/
theorem decodeWorkedWords : Obligations.DecodeWorkedWords := by
  unfold Obligations.DecodeWorkedWords
  refine ⟨decodeSlot_of_encode rfl rfl, decodeSlot_of_encode rfl rfl, decodeSlot_of_encode rfl rfl,
    decodeSlot_of_encode rfl rfl, decodeSlot_of_encode rfl rfl, rfl, by decide +kernel⟩

end Sys2Proof.Machine
end

section
/-! SUPPORT. Vector results: what the elements of a joined or patched register are, and what the operations that all vector
instructions share come to when the registers are the V slot's and the result finds room. -/
namespace Sys2Proof.Machine

/-! Elements of a register (R140). -/

theorem elem_zero (x w : Nat) : elem x w 0 = x % 2 ^ w := rfl

theorem elem_succ (x w i : Nat) : elem x w (i + 1) = elem (x / 2 ^ w) w i := by
  rw [elem, elem, Nat.mul_succ, Nat.add_comm, Nat.shiftRight_add, Nat.shiftRight_eq_div_pow x w]

theorem elem_lt (x w i : Nat) : elem x w i < 2 ^ w := Nat.mod_lt _ (Nat.two_pow_pos w)

/-- What stands above the lowest element. -/
theorem mod_add_mul_div (a b w : Nat) : (a % 2 ^ w + b * 2 ^ w) / 2 ^ w = b := by
  rw [Nat.add_mul_div_right _ _ (Nat.two_pow_pos w), Nat.div_eq_of_lt (Nat.mod_lt _ (Nat.two_pow_pos w)), Nat.zero_add]

theorem elem_joinElems (w : Nat) (l : List Nat) (i : Nat) : elem (joinElems w l) w i = l.getD i 0 % 2 ^ w := by
  induction l generalizing i with
  | nil => simp [joinElems, elem]
  | cons a l ih =>
    cases i with
    | zero => simp [joinElems, elem_zero]
    | succ i =>
      rw [elem_succ, joinElems, mod_add_mul_div, ih, List.getD_cons_succ]

theorem elements_joinElems (w : Nat) (g : Nat → Nat) : Elements (joinElems w ((List.range (2048 / w)).map g)) w g := by
  intro i hi
  rw [elem_joinElems, List.getD_eq_getElem?_getD, List.getElem?_map, List.getElem?_range hi]
  rfl

theorem merged_laneMerge (k : Word) (w : Nat) (old : Vec) (g : Nat → Nat) : Merged (laneMerge k w old g) w k old g :=
  elements_joinElems w _

theorem setFld_low (x w v : Nat) (hw : 0 < w) : setFld x (w - 1) 0 v = v % 2 ^ w + x / 2 ^ w * 2 ^ w := by
  have hx := Nat.div_add_mod' x (2 ^ w)
  simp only [setFld, fld, Nat.sub_add_cancel hw, Nat.sub_zero, Nat.shiftRight_zero, Nat.shiftLeft_zero]
  omega

/-- Replacing the low bits replaces lane 0 alone. -/
theorem elements_setFld_low (x w v : Nat) (hw : 0 < w) :
    Elements (setFld x (w - 1) 0 v) w (fun j => if j = 0 then v else elem x w j) := by
  intro i _
  rw [setFld_low x w v hw]
  cases i with
  | zero => simp [elem_zero]
  | succ i =>
    rw [elem_succ, mod_add_mul_div, ← elem_succ]
    exact (Nat.mod_eq_of_lt (elem_lt x w (i + 1))).symm

/-! Operations that find their registers and room. -/

theorem ownV_of_OwnV {s : State} {l : List Nat} (h : OwnV s l) (f : State → State) : ownV s l f = f s := by
  have hb : ownedV s l = true := by
    simp only [ownedV, Bool.not_eq_true', Bool.and_eq_false_iff, List.any_eq_false]
    by_cases hc : s.arch.bankC = true
    · refine .inr fun n hn => ?_
      have := h hc n hn
      simp only [bankC, Bool.and_eq_true, decide_eq_true_eq]
      omega
    · exact .inl (Bool.eq_false_iff.2 hc)
  rw [ownV, if_pos hb]

theorem pushTwice_of_room {s : State} (h : Room s 1) (n v : Nat) : pushTwice s (.vec n) v = withTwice s n v :=
  pushResult_of_room s _ _ _ _ h

theorem elemVR_of_room {f : VR} {s : State} (hr : Room s 1) (ho : OwnV s (namesVR f)) (cls : Nat) (g : Nat → Nat → Nat → Nat) :
    ∃ v, elemVR f s cls g = withResult s (.vec f.vd.val) v cls ∧
      Merged v (tyWidth f.ty) (rdK s f.km.val) (rdV s f.vd.val) (fun i => g (elem (rdV s f.va.val).toNat (tyWidth f.ty) i)
        (elem (rdV s f.vb.val).toNat (tyWidth f.ty) i) (elem (rdV s f.vc.val).toNat (tyWidth f.ty) i)) :=
  ⟨_, by rw [elemVR, ownV_of_OwnV ho, push_of_room _ _ _ _ hr]; rfl, merged_laneMerge _ _ _ _⟩

/-! Transcendentals (R146). -/

/-- Occupying the transcendental unit leaves the context as it was. -/
theorem occupyXc_arch (s : State) : (occupyXc s).arch = s.arch := by
  simp [occupyXc, State.setMyCore, State.arch, State.me, State.ctx, State.myCore, Core.ctx]

theorem xcVR_of_room {f : VR} {s : State} (hr : Room s 1) (ho : OwnV s (namesVR f)) (g : Fmt → Rnd → Bool → FV → Nat) :
    ∃ v, (.next (xcVR f s g) : Res) = .next (withResult (occupyXc s) (.vec f.vd.val) v 6) ∧
      Merged v (tyWidth f.ty) (rdK s f.km.val) (rdV s f.vd.val)
        (fun j => g (fmtOf f.ty) f.rnd f.sat (valueOf f.ty (elem (rdV s f.va.val).toNat (tyWidth f.ty) j))) := by
  have hr' : Room (occupyXc s) 1 := by rwa [Room, occupyXc_arch]
  have ho' : OwnV (occupyXc s) (namesVR f) := by rwa [OwnV, occupyXc_arch]
  obtain ⟨v, hv, hm⟩ := elemVR_of_room hr' ho' 6 (fun a _ _ => g (fmtOf f.ty) f.rnd f.sat (valueOf f.ty a))
  rw [rdK, rdV, rdV, occupyXc_arch] at hm
  exact ⟨v, congrArg _ hv, hm⟩

/-- Settles O16: each of the four is the shared transcendental form with its own function. -/
theorem transcendentals : Obligations.Transcendentals := by
  unfold Obligations.Transcendentals
  intro f s hr ho w t gives
  exact ⟨xcVR_of_room hr ho _, xcVR_of_room hr ho _, xcVR_of_room hr ho _, xcVR_of_room hr ho _⟩

/-! Reductions (R105, R106, R156). -/

theorem Elements.congr {v w : Nat} {g h : Nat → Nat} (hv : Elements v w g) (hgh : ∀ i, i < 2048 / w → g i = h i) : Elements v w h :=
  fun i hi => by rw [hv i hi, hgh i hi]

theorem Merged.congr {v w : Nat} {k : Word} {old : Vec} {g h : Nat → Nat} (hv : Merged v w k old g)
    (hgh : ∀ i, i < 2048 / w → g i = h i) : Merged v w k old h :=
  Elements.congr hv fun i hi => by rw [hgh i hi]

section
variable {f : VR} {s : State} (hr : Room s 1) (ho : OwnV s (namesVR f))
include hr ho

/-- An instruction that reduces to one number puts it in lane 0. -/
theorem lane0_of_room {x : State → Nat} {r : Nat} (hx : x s = r) :
    ∃ v, (.next (ownV s (namesVR f) fun s => lane0 f s (x s)) : Res) = .next (withTwice s f.vd.val v) ∧
      Elements v 32 (fun j => if j = 0 then r else elem (rdV s f.vd.val).toNat 32 j) :=
  ⟨_, by rw [ownV_of_OwnV ho, lane0, pushTwice_of_room hr, hx], elements_setFld_low _ 32 r (by decide)⟩

/-- An instruction that merges a list of values element by element. -/
theorem mergeList_of_room {l : State → List Nat} {g : Nat → Nat} (hl : ∀ i, i < 2048 / tyWidth f.ty → (l s).getD i 0 = g i) :
    ∃ v, (.next (ownV s (namesVR f) fun s => pushTwice s (.vec f.vd.val) (mergeVR f s fun i => (l s).getD i 0)) : Res) =
        .next (withTwice s f.vd.val v) ∧
      Merged v (tyWidth f.ty) (rdK s f.km.val) (rdV s f.vd.val) g :=
  ⟨_, by rw [ownV_of_OwnV ho, pushTwice_of_room hr]; rfl, Merged.congr (merged_laneMerge _ _ _ _) hl⟩
end

/-! Scans (R105, R157). -/

theorem scanList_getElem? {α : Type} (op : α → α → α) (a : α) (l : List α) {j : Nat} (hj : j ≤ l.length) :
    (scanList op a l)[j]? = some ((l.take j).foldl op a) := by
  induction l generalizing a j with
  | nil => simp only [List.length_nil, Nat.le_zero] at hj; subst hj; rfl
  | cons b l ih =>
    cases j with
    | zero => rfl
    | succ j => simpa [scanList] using ih (op a b) (Nat.le_of_succ_le_succ hj)

/-- What the scan holds at a position is the running value there. -/
theorem runScan_getElem? {α : Type} (op : α → α → α) (d : α) {l : List α} {j : Nat} (hj : j < l.length) :
    (runScan op l)[j]? = some (running op d l j) := by
  cases l with
  | nil => exact absurd hj (Nat.not_lt_zero j)
  | cons a l => simpa [runScan, running] using scanList_getElem? op a l (Nat.le_of_lt_succ hj)

@[simp] theorem length_maskedElems (f : VR) (s : State) (d : Nat) : (maskedElems f s d).length = 2048 / tyWidth f.ty := by
  simp [maskedElems]

theorem runScan_floats (f : VR) (s : State) (op : Nat → Nat → Nat) (d i : Nat) (hi : i < 2048 / tyWidth f.ty) :
    (runScan op ((maskedElems f s d).map (toF32 f.ty))).getD i 0 = running op 0 ((maskedElems f s d).map (toF32 f.ty)) i := by
  rw [List.getD_eq_getElem?_getD, runScan_getElem? op 0 (by simpa using hi), Option.getD_some]

theorem runScan_ints (f : VR) (s : State) (op : Int → Int → Int) (d i : Nat) (hi : i < 2048 / tyWidth f.ty) :
    ((runScan op ((maskedElems f s d).map (intOf f.ty))).map (fitInt f.ty f.sat)).getD i 0 =
      fitInt f.ty f.sat (running op 0 ((maskedElems f s d).map (intOf f.ty)) i) := by
  rw [List.getD_eq_getElem?_getD, List.getElem?_map, runScan_getElem? op 0 (by simpa using hi), Option.map_some, Option.getD_some]

/-- The operation of a scan, chosen once or at each pair. -/
theorem scanOp_int (op : Nat) : (if op = 0 then (· + ·) else if op = 1 then max else min : Int → Int → Int) =
    fun x y => if op = 0 then x + y else if op = 1 then max x y else min x y := by
  split_ifs <;> rfl

theorem scanOp_float (f : VR) (op : Nat) : (if op = 0 then addF32 f.rnd f.sat else pickF32 (if op = 1 then fvMax else fvMin)) =
    fun x y => if op = 0 then addF32 f.rnd f.sat x y else if op = 1 then pickF32 fvMax x y else pickF32 fvMin x y := by
  split_ifs <;> rfl

/-! Histograms (R159). -/

/-- The count of a value is the number of enabled elements that have it. -/
theorem count_map_filter (l : List Nat) (p : Nat → Bool) (g : Nat → Nat) (d : Nat) :
    ((l.filter p).map g).count d = (l.filter fun i => p i && g i == d).length := by
  rw [List.count_eq_countP, List.countP_map, List.countP_filter, List.countP_eq_length_filter]
  congr 2
  funext i
  exact Bool.and_comm ..

/-- Settles O22: a reduction's number stands in lane 0; a scan's list holds the running values; a histogram counts. -/
theorem reductions : Obligations.Reductions := by
  unfold Obligations.Reductions
  intro f s hr ho w k old picked lane0 floats ints
  have isInt (hf : tyFloat f.ty = false) : ¬ tyFloat f.ty = true := by simp [hf]
  refine ⟨fun hf => ⟨lane0_of_room hr ho (if_pos hf), lane0_of_room hr ho (if_pos hf), lane0_of_room hr ho (if_pos hf)⟩,
    fun hf => ⟨lane0_of_room hr ho (if_neg (isInt hf)), lane0_of_room hr ho (if_neg (isInt hf)), lane0_of_room hr ho (if_neg (isInt hf))⟩,
    ⟨fun hf => mergeList_of_room hr ho fun i hi => ?intScan, fun hf => mergeList_of_room hr ho fun i hi => ?floatScan⟩, ?histogram⟩
  case intScan =>
    rw [if_neg (isInt hf), scanOp_int]
    exact runScan_ints f s _ _ i hi
  case floatScan =>
    rw [if_pos hf, scanOp_float]
    exact runScan_floats f s _ _ i hi
  case histogram =>
    refine ⟨_, congrArg _ ((ownV_of_OwnV ho _).trans (pushTwice_of_room hr _ _)), Elements.congr (elements_joinElems 32 _) fun d _ => ?_⟩
    rw [count_map_filter]
    rfl

end Sys2Proof.Machine
end

section
/-! SUPPORT. The formats (R85): what each encoding decodes to, which pairs of a significand and an exponent a format holds, and
that encoding such a pair and decoding it gives it back. -/
namespace Sys2Proof.Machine

/-! The six formats. -/

def formats : List Fmt := [fmtF32, fmtF16, fmtBF16, fmtE5M2, fmtE4M3, fmtE2M1]

/-- An encoding's exponent and fraction fields that stand for an infinity or a NaN. -/
def Fmt.special (f : Fmt) (e m : Nat) : Prop := (f.hasInf = true ∧ e = 2 ^ f.expo - 1) ∨ (f.frac = 3 ∧ e = 15 ∧ m = 7)

/-- The exponents of the last place of the subnormals and of the largest finite number. -/
def Fmt.minQ (f : Fmt) : Int := 1 - f.bias - f.frac
def Fmt.topQ (f : Fmt) : Int := f.topExp - f.bias - f.frac

/-- What the six formats have in common. -/
structure Fmt.Sound (f : Fmt) : Prop where
  frac_pos : 0 < f.frac
  expo_pos : 0 < f.expo
  le_top : 2 ^ f.frac ≤ f.top
  top_lt : f.top < 2 ^ (f.frac + 1)
  topExp_pos : 0 < f.topExp
  topExp_lt : f.topExp < 2 ^ f.expo
  special_iff : ∀ e m, e < 2 ^ f.expo → m < 2 ^ f.frac →
    (f.special e m ↔ f.topExp < e ∨ e = f.topExp ∧ f.top < m + 2 ^ f.frac)

theorem sound_of_mem {f : Fmt} (hf : f ∈ formats) : f.Sound := by
  simp only [formats, List.mem_cons, List.not_mem_nil, or_false] at hf
  rcases hf with rfl | rfl | rfl | rfl | rfl | rfl
  all_goals
    refine ⟨by decide, by decide, by decide, by decide, by decide, by decide, fun e m he hm => ?_⟩
    simp [Fmt.special, Fmt.hasInf, fmtF32, fmtF16, fmtBF16, fmtE5M2, fmtE4M3, fmtE2M1] at he hm ⊢
    omega

/-- The pairs that a format holds: a significand of at most `frac + 1` bits, with its highest bit set above the lowest
exponent, up to the largest finite number. -/
structure Fmt.Holds (f : Fmt) (n : Nat) (q : Int) : Prop where
  lt : n < 2 ^ (f.frac + 1)
  minQ_le : f.minQ ≤ q
  normal : q = f.minQ ∨ 2 ^ f.frac ≤ n
  bound : q < f.topQ ∨ q = f.topQ ∧ n ≤ f.top

/-! Encodings by their fields. -/

/-- An encoding of sign, exponent field and fraction field. -/
def Fmt.pack (f : Fmt) (neg : Bool) (e m : Nat) : Nat := b2n neg * 2 ^ (f.expo + f.frac) + (e * 2 ^ f.frac + m)

section
variable {f : Fmt} {e m : Nat} (he : e < 2 ^ f.expo) (hm : m < 2 ^ f.frac)
include he hm

theorem fields_lt : e * 2 ^ f.frac + m < 2 ^ (f.expo + f.frac) :=
  calc e * 2 ^ f.frac + m < (e + 1) * 2 ^ f.frac := by rw [Nat.succ_mul]; omega
    _ ≤ 2 ^ f.expo * 2 ^ f.frac := Nat.mul_le_mul_right _ he
    _ = 2 ^ (f.expo + f.frac) := (Nat.pow_add ..).symm

theorem pack_lt (neg : Bool) : f.pack neg e m < 2 ^ f.width := by
  have hw : 2 ^ f.width = 2 * 2 ^ (f.expo + f.frac) := by rw [Fmt.width, Nat.add_assoc, Nat.pow_add, Nat.pow_one]
  have := fields_lt he hm
  cases neg <;> simp only [Fmt.pack, b2n, hw] <;> simp <;> omega

theorem testBit_pack (neg : Bool) : (f.pack neg e m).testBit (f.expo + f.frac) = neg := by
  rw [Fmt.pack, Nat.mul_comm, Nat.testBit_two_pow_mul_add _ (fields_lt he hm)]
  cases neg <;> simp [b2n]

end

theorem fld_expo {f : Fmt} (h : 0 < f.expo) (y : Nat) : fld y (f.expo + f.frac - 1) f.frac = y / 2 ^ f.frac % 2 ^ f.expo := by
  rw [fld, Nat.shiftRight_eq_div_pow]
  congr 2
  omega

theorem pack_div {f : Fmt} {m : Nat} (hm : m < 2 ^ f.frac) (neg : Bool) (e : Nat) :
    f.pack neg e m / 2 ^ f.frac = b2n neg * 2 ^ f.expo + e := by
  rw [Fmt.pack, Nat.pow_add, ← Nat.mul_assoc, ← Nat.add_assoc, ← Nat.add_mul, Nat.add_comm, Nat.add_mul_div_right _ _ (Nat.two_pow_pos _),
    Nat.div_eq_of_lt hm, Nat.zero_add]

theorem pack_mod {f : Fmt} {m : Nat} (hm : m < 2 ^ f.frac) (neg : Bool) (e : Nat) : f.pack neg e m % 2 ^ f.frac = m := by
  rw [Fmt.pack, Nat.pow_add, ← Nat.mul_assoc, ← Nat.add_assoc, ← Nat.add_mul, Nat.mul_add_mod_self_right, Nat.mod_eq_of_lt hm]

theorem fld_pack {f : Fmt} (h : 0 < f.expo) {e m : Nat} (he : e < 2 ^ f.expo) (hm : m < 2 ^ f.frac) (neg : Bool) :
    fld (f.pack neg e m) (f.expo + f.frac - 1) f.frac = e := by
  rw [fld_expo h, pack_div hm, Nat.mul_add_mod_self_right, Nat.mod_eq_of_lt he]

/-! Decoding (R85). -/

/-- A value by its fields, where these stand for a finite number. -/
def Fmt.ofFields (f : Fmt) (neg : Bool) (e m : Nat) : FV :=
  if e = 0 then .fin neg m f.minQ else .fin neg (m + 2 ^ f.frac) (e - f.bias - f.frac)

/-- Whether an encoding stands for an infinity or a NaN, and the value it stands for otherwise. -/
def Fmt.isSpecial (f : Fmt) (y : Nat) : Prop := f.special (fld y (f.expo + f.frac - 1) f.frac) (y % 2 ^ f.frac)
def Fmt.value (f : Fmt) (y : Nat) : FV :=
  f.ofFields (y.testBit (f.expo + f.frac)) (fld y (f.expo + f.frac - 1) f.frac) (y % 2 ^ f.frac)

theorem fpDecode_of_not_special {f : Fmt} {y : Nat} (h : ¬ f.isSpecial y) : fpDecode f y = f.value y := by
  simp only [Fmt.isSpecial, Fmt.special, not_or] at h
  obtain ⟨hinf, hnan⟩ := h
  simp only [fpDecode, Fmt.value, Fmt.ofFields, Fmt.minQ, Bool.and_eq_true, decide_eq_true_eq, and_assoc, if_neg hinf, if_neg hnan]

theorem fpDecode_ne_fin_of_special {f : Fmt} {y : Nat} (h : f.isSpecial y) (neg : Bool) (n : Nat) (q : Int) :
    fpDecode f y ≠ .fin neg n q := by
  simp only [fpDecode, Bool.and_eq_true, decide_eq_true_eq, and_assoc]
  rcases h with hinf | hnan
  · rw [if_pos hinf]
    split <;> exact FV.noConfusion
  · rw [if_pos hnan]
    split
    · split <;> exact FV.noConfusion
    · exact FV.noConfusion

/-- The finite encodings are those whose fields are not special. -/
theorem fpDecode_eq_fin_iff (f : Fmt) (y : Nat) (neg : Bool) (n : Nat) (q : Int) :
    fpDecode f y = .fin neg n q ↔ ¬ f.isSpecial y ∧ f.value y = .fin neg n q := by
  by_cases h : f.isSpecial y
  · simp [h, fpDecode_ne_fin_of_special h]
  · simp [h, fpDecode_of_not_special h]

section
variable {f : Fmt} (hf : f.Sound)
include hf

/-- The pair of a significand and an exponent that fields stand for is one of the format's unless they are special. -/
theorem holds_of_ofFields {e m : Nat} (he : e < 2 ^ f.expo) (hm : m < 2 ^ f.frac) (hs : ¬ f.special e m) {neg neg' : Bool} {n : Nat} {q : Int}
    (h : f.ofFields neg e m = .fin neg' n q) : f.Holds n q ∧ neg' = neg := by
  rw [hf.special_iff e m he hm] at hs
  have h2 : 2 ^ (f.frac + 1) = 2 * 2 ^ f.frac := Nat.pow_succ'
  have htop := hf.le_top
  have hpos := hf.topExp_pos
  by_cases h0 : e = 0
  · simp only [Fmt.ofFields, h0, if_true, FV.fin.injEq] at h
    obtain ⟨rfl, rfl, rfl⟩ := h
    exact ⟨⟨by omega, le_refl _, .inl rfl, by simp only [Fmt.minQ, Fmt.topQ]; omega⟩, rfl⟩
  · simp only [Fmt.ofFields, h0, if_false, FV.fin.injEq] at h
    obtain ⟨rfl, rfl, rfl⟩ := h
    exact ⟨⟨by omega, by simp only [Fmt.minQ]; omega, .inr (by omega), by simp only [Fmt.topQ]; omega⟩, rfl⟩

theorem holds_of_fpDecode {y n : Nat} {neg : Bool} {q : Int} (h : fpDecode f y = .fin neg n q) :
    f.Holds n q ∧ neg = y.testBit (f.expo + f.frac) := by
  obtain ⟨hs, hv⟩ := (fpDecode_eq_fin_iff ..).1 h
  refine holds_of_ofFields hf ?_ (Nat.mod_lt _ (Nat.two_pow_pos _)) hs hv
  rw [fld_expo hf.expo_pos]
  exact Nat.mod_lt _ (Nat.two_pow_pos _)

theorem fpDecode_pack {e m : Nat} (he : e < 2 ^ f.expo) (hm : m < 2 ^ f.frac) (hs : ¬ f.special e m) (neg : Bool) :
    fpDecode f (f.pack neg e m) = f.ofFields neg e m := by
  have hv : ¬ f.isSpecial (f.pack neg e m) := by
    rwa [Fmt.isSpecial, fld_pack hf.expo_pos he hm, pack_mod hm]
  rw [fpDecode_of_not_special hv, Fmt.value, testBit_pack he hm, fld_pack hf.expo_pos he hm, pack_mod hm]
end

/-! Encoding. -/

/-- The encoding of a pair that the format holds. -/
def Fmt.enc (f : Fmt) (neg : Bool) (n : Nat) (q : Int) : Nat :=
  if n < 2 ^ f.frac then f.pack neg 0 n else f.pack neg (q + f.frac + f.bias).toNat (n - 2 ^ f.frac)

section
variable {f : Fmt} (hf : f.Sound) {n : Nat} {q : Int} (h : f.Holds n q)
include hf h

/-- The encoding's fields, in either case, and what they stand for. -/
theorem enc_fields : ∃ e m, e < 2 ^ f.expo ∧ m < 2 ^ f.frac ∧ ¬ f.special e m ∧ n % 2 ^ f.frac = m ∧
    ∀ neg, f.enc neg n q = f.pack neg e m ∧ f.ofFields neg e m = .fin neg n q := by
  obtain ⟨hlt, hmin, hnorm, hbound⟩ := h
  have h2 : 2 ^ (f.frac + 1) = 2 * 2 ^ f.frac := Nat.pow_succ'
  have htop := hf.le_top
  have hpos := hf.topExp_pos
  have htl := hf.topExp_lt
  simp only [Fmt.minQ, Fmt.topQ] at hmin hnorm hbound
  by_cases hs : n < 2 ^ f.frac
  · refine ⟨0, n, Nat.two_pow_pos _, hs, ?_, Nat.mod_eq_of_lt hs, fun neg => ⟨if_pos hs, ?_⟩⟩
    · rw [hf.special_iff 0 n (Nat.two_pow_pos _) hs]; omega
    · simp only [Fmt.ofFields, if_true, Fmt.minQ, FV.fin.injEq, true_and]; omega
  · have he : (q + f.frac + f.bias).toNat < 2 ^ f.expo := by omega
    have hm : n - 2 ^ f.frac < 2 ^ f.frac := by omega
    refine ⟨_, _, he, hm, ?_, ?_, fun neg => ⟨if_neg hs, ?_⟩⟩
    · rw [hf.special_iff _ _ he hm]; omega
    · rw [Nat.mod_eq_sub_mod (by omega), Nat.mod_eq_of_lt hm]
    · rw [Fmt.ofFields, if_neg (by omega)]
      simp only [FV.fin.injEq, true_and]; omega

/-- Decoding undoes encoding. -/
theorem fpDecode_enc (neg : Bool) : fpDecode f (f.enc neg n q) = .fin neg n q := by
  obtain ⟨e, m, he, hm, hs, -, henc⟩ := enc_fields hf h
  rw [(henc neg).1, fpDecode_pack hf he hm hs, (henc neg).2]

theorem enc_lt (neg : Bool) : f.enc neg n q < 2 ^ f.width := by
  obtain ⟨e, m, he, hm, -, -, henc⟩ := enc_fields hf h
  exact (henc neg).1 ▸ pack_lt he hm neg

theorem testBit_enc (neg : Bool) : (f.enc neg n q).testBit (f.expo + f.frac) = neg := by
  obtain ⟨e, m, he, hm, -, -, henc⟩ := enc_fields hf h
  rw [(henc neg).1, testBit_pack he hm]

/-- The lowest bit of an encoding is that of its significand. -/
theorem enc_mod_two (neg : Bool) : f.enc neg n q % 2 = n % 2 := by
  obtain ⟨e, m, -, hm, -, hn, henc⟩ := enc_fields hf h
  have h2 : 2 ∣ 2 ^ f.frac := dvd_pow_self 2 hf.frac_pos.ne'
  rw [← Nat.mod_mod_of_dvd _ h2, ← Nat.mod_mod_of_dvd n h2, (henc neg).1, pack_mod hm, hn]
end

/-! The largest finite number. -/

theorem holds_top {f : Fmt} (hf : f.Sound) : f.Holds f.top f.topQ :=
  ⟨hf.top_lt, by have := hf.topExp_pos; simp only [Fmt.minQ, Fmt.topQ]; omega, .inr hf.le_top, .inr ⟨rfl, le_refl _⟩⟩

theorem enc_top {f : Fmt} (hf : f.Sound) (neg : Bool) : f.enc neg f.top f.topQ = f.maxEnc neg := by
  have hmod : f.top % 2 ^ f.frac = f.top - 2 ^ f.frac := by
    have h2 : 2 ^ (f.frac + 1) = 2 * 2 ^ f.frac := Nat.pow_succ'
    have := hf.top_lt
    rw [Nat.mod_eq_sub_mod hf.le_top, Nat.mod_eq_of_lt (by omega)]
  rw [Fmt.enc, if_neg (Nat.not_lt.2 hf.le_top), Fmt.pack, Fmt.maxEnc, hmod, Nat.add_assoc]
  congr 3
  simp only [Fmt.topQ]; omega

end Sys2Proof.Machine
end

section
/-! SUPPORT. ROUND in real numbers (R92): how many places a number lies above the exponent's spacing, the gap between the two
finite numbers around it, and that `roundFin` delivers the one of them that the mode asks for. -/
namespace Sys2Proof.Machine

/-! Real numbers of finite values. -/

/-- −1 or 1. -/
def signOf (neg : Bool) : ℝ := if neg then -1 else 1

@[simp] theorem signOf_true : signOf true = -1 := rfl
@[simp] theorem signOf_false : signOf false = 1 := rfl
theorem abs_signOf (neg : Bool) : |signOf neg| = 1 := by cases neg <;> simp
theorem signOf_mul_self (neg : Bool) : signOf neg * signOf neg = 1 := by cases neg <;> simp

theorem isReal_fin (neg : Bool) (m : Nat) (e : Int) : IsReal (.fin neg m e) (signOf neg * (m * 2 ^ e)) :=
  ⟨neg, m, e, rfl, by rw [signOf, mul_assoc]⟩

theorem isReal_fin_iff {neg : Bool} {m : Nat} {e : Int} {x : ℝ} : IsReal (.fin neg m e) x ↔ x = signOf neg * (m * 2 ^ e) := by
  refine ⟨fun ⟨neg', m', e', h, hx⟩ => ?_, fun h => h ▸ isReal_fin neg m e⟩
  cases h
  rw [hx, signOf, mul_assoc]

theorem exists_fin_of_isReal {a : FV} {x : ℝ} (h : IsReal a x) : ∃ neg m e, a = .fin neg m e ∧ x = signOf neg * (m * 2 ^ e) := by
  obtain ⟨neg, m, e, rfl, -⟩ := id h
  exact ⟨neg, m, e, rfl, isReal_fin_iff.1 h⟩

theorem mul_zpow_pos {m : Nat} (hm : m ≠ 0) (e : Int) : (0 : ℝ) < m * 2 ^ e :=
  mul_pos (Nat.cast_pos.2 (Nat.pos_of_ne_zero hm)) (zpow_pos two_pos e)

/-- The sign of a number other than zero. -/
theorem sign_of_pos {neg : Bool} {m : Nat} {e : Int} (h : 0 < signOf neg * ((m : ℝ) * 2 ^ e)) : neg = false ∧ m ≠ 0 := by
  refine ⟨?_, by rintro rfl; simp at h⟩
  have hm : (0 : ℝ) ≤ m * 2 ^ e := by positivity
  cases neg with
  | false => rfl
  | true => rw [signOf_true] at h; linarith

theorem sign_of_neg {neg : Bool} {m : Nat} {e : Int} (h : signOf neg * ((m : ℝ) * 2 ^ e) < 0) : neg = true := by
  have hm : (0 : ℝ) ≤ m * 2 ^ e := by positivity
  cases neg with
  | false => rw [signOf_false] at h; linarith
  | true => rfl

theorem abs_signOf_mul (neg : Bool) (m : Nat) (e : Int) : |signOf neg * (m * 2 ^ e)| = m * 2 ^ e := by
  rw [abs_mul, abs_signOf, one_mul, abs_of_nonneg (by positivity)]

/-- A power of two is a whole number of a smaller one. -/
theorem zpow_two_mul {q e : Int} (h : q ≤ e) : (2 : ℝ) ^ e = (2 ^ (e - q).toNat : ℕ) * 2 ^ q := by
  rw [Nat.cast_pow, Nat.cast_ofNat, ← zpow_natCast, ← zpow_add₀ two_ne_zero]
  congr 1
  omega

/-- The largest finite number of a format. -/
noncomputable def Fmt.maxVal (f : Fmt) : ℝ := f.top * 2 ^ f.topQ

section
variable {f : Fmt} (hf : f.Sound)
include hf

theorem hasValue_enc {n : Nat} {q : Int} (h : f.Holds n q) (neg : Bool) : HasValue f (f.enc neg n q) (signOf neg * (n * 2 ^ q)) := by
  rw [HasValue, fpDecode_enc hf h]
  exact isReal_fin neg n q

theorem holds_of_hasValue {y : Nat} {v : ℝ} (h : HasValue f y v) : ∃ n q, f.Holds n q ∧ |v| = n * 2 ^ q := by
  obtain ⟨neg, n, q, hd, hv⟩ := h
  refine ⟨n, q, (holds_of_fpDecode hf hd).1, ?_⟩
  rw [hv, mul_assoc]
  exact abs_signOf_mul neg n q

/-- A pair in normal form is the format's unless its number is beyond the largest finite one. -/
theorem bound_iff {n : Nat} {q : Int} (hlt : n < 2 ^ (f.frac + 1)) (hnorm : q = f.minQ ∨ 2 ^ f.frac ≤ n) :
    (q < f.topQ ∨ q = f.topQ ∧ n ≤ f.top) ↔ n * (2 : ℝ) ^ q ≤ f.maxVal := by
  have hq (e : Int) : (0 : ℝ) < 2 ^ e := by positivity
  have h2 : 2 ^ (f.frac + 1) = 2 * 2 ^ f.frac := Nat.pow_succ'
  have := hf.le_top
  have := hf.top_lt
  have hle : f.minQ ≤ f.topQ := (holds_top hf).minQ_le
  rcases lt_trichotomy q f.topQ with h | h | h
  · refine ⟨fun _ => ?_, fun _ => .inl h⟩
    have hk : 2 ≤ 2 ^ (f.topQ - q).toNat := Nat.le_self_pow (by omega) 2
    have : n ≤ f.top * 2 ^ (f.topQ - q).toNat := (show n ≤ f.top * 2 by omega).trans (Nat.mul_le_mul le_rfl hk)
    rw [Fmt.maxVal, zpow_two_mul h.le, ← mul_assoc]
    exact mul_le_mul_of_nonneg_right (by exact_mod_cast this) (hq q).le
  · subst h
    rw [Fmt.maxVal, mul_le_mul_iff_left₀ (hq _), Nat.cast_le]
    simp
  · refine ⟨fun h' => by omega, fun h' => absurd h' (not_le.2 ?_)⟩
    have hk : 2 ≤ 2 ^ (q - f.topQ).toNat := Nat.le_self_pow (by omega) 2
    have : f.top < n * 2 ^ (q - f.topQ).toNat := (show f.top < 2 ^ f.frac * 2 by omega).trans_le (Nat.mul_le_mul (hnorm.resolve_left (by omega)) hk)
    rw [Fmt.maxVal, zpow_two_mul h.le, ← mul_assoc]
    exact mul_lt_mul_of_pos_right (by exact_mod_cast this) (hq _)

theorem Fmt.Holds.le_max {n : Nat} {q : Int} (h : f.Holds n q) : n * (2 : ℝ) ^ q ≤ f.maxVal :=
  (bound_iff hf h.lt h.normal).1 h.bound

theorem abs_le_max {y : Nat} {v : ℝ} (h : HasValue f y v) : |v| ≤ f.maxVal := by
  obtain ⟨n, q, hh, hv⟩ := holds_of_hasValue hf h
  exact hv ▸ hh.le_max hf
end

/-! The spacing of a format at a number (R92). -/

/-- Exponent of the spacing at a positive number. -/
noncomputable def Fmt.spacing (f : Fmt) (a : ℝ) : Int := max (Int.log 2 a) (1 - f.bias) - f.frac

/-- A number in units of its spacing. -/
noncomputable def Fmt.scaled (f : Fmt) (a : ℝ) : ℝ := a / 2 ^ f.spacing a

section
variable (f : Fmt) {a : ℝ} (ha : 0 < a)

theorem minQ_le_spacing : f.minQ ≤ f.spacing a := by
  have := le_max_right (Int.log 2 a) (1 - (f.bias : Int))
  simp only [Fmt.minQ, Fmt.spacing]; omega

theorem scaled_mul : f.scaled a * 2 ^ f.spacing a = a := div_mul_cancel₀ _ (by positivity)

theorem scaled_lt : f.scaled a < (2 ^ (f.frac + 1) : ℕ) := by
  rw [Fmt.scaled, div_lt_iff₀ (by positivity), Nat.cast_pow, Nat.cast_ofNat, ← zpow_natCast, ← zpow_add₀ two_ne_zero]
  refine lt_of_lt_of_le (Int.lt_zpow_succ_log_self (b := 2) (by norm_num) a) (zpow_le_zpow_right₀ (by norm_num) ?_)
  have := le_max_left (Int.log 2 a) (1 - (f.bias : Int))
  simp only [Fmt.spacing]; push_cast; omega

include ha

theorem scaled_pos : 0 < f.scaled a := div_pos ha (by positivity)

/-- Above the lowest exponent the highest bit of the scaled number is set. -/
theorem le_scaled : f.spacing a = f.minQ ∨ (2 ^ f.frac : ℕ) ≤ f.scaled a := by
  rcases le_total (Int.log 2 a) (1 - f.bias) with h | h
  · exact .inl (by simp only [Fmt.spacing, Fmt.minQ, max_eq_right h])
  · refine .inr ?_
    rw [Fmt.scaled, le_div_iff₀ (by positivity), Nat.cast_pow, Nat.cast_ofNat, ← zpow_natCast, ← zpow_add₀ two_ne_zero, Fmt.spacing,
      max_eq_left h, add_sub_cancel]
    exact Int.zpow_log_le_self (by norm_num) ha

/-- No finite number of the format lies strictly between the multiples of the spacing around a number. -/
theorem holds_gap {n : Nat} {q : Int} (h : f.Holds n q) : n * (2 : ℝ) ^ q ≤ ⌊f.scaled a⌋₊ * 2 ^ f.spacing a ∨
    (⌊f.scaled a⌋₊ + 1) * 2 ^ f.spacing a ≤ n * (2 : ℝ) ^ q := by
  have hq : (0 : ℝ) ≤ 2 ^ f.spacing a := by positivity
  rcases le_or_gt (f.spacing a) q with hle | hlt
  · rw [zpow_two_mul hle, ← mul_assoc, ← Nat.cast_mul]
    rcases Nat.lt_or_ge ⌊f.scaled a⌋₊ (n * 2 ^ (q - f.spacing a).toNat) with h' | h'
    · exact .inr (mul_le_mul_of_nonneg_right (by exact_mod_cast h') hq)
    · exact .inl (mul_le_mul_of_nonneg_right (by exact_mod_cast h') hq)
  · have hfl : 2 ^ f.frac ≤ ⌊f.scaled a⌋₊ := Nat.le_floor ((le_scaled f ha).resolve_left (by have := h.minQ_le; omega))
    have hn : n ≤ ⌊f.scaled a⌋₊ * 2 ^ (f.spacing a - q).toNat :=
      calc n ≤ 2 ^ f.frac * 2 := by rw [← Nat.pow_succ]; exact h.lt.le
        _ ≤ ⌊f.scaled a⌋₊ * 2 ^ (f.spacing a - q).toNat := Nat.mul_le_mul hfl (Nat.le_self_pow (by omega) 2)
    rw [zpow_two_mul hlt.le, ← mul_assoc]
    exact .inl (mul_le_mul_of_nonneg_right (by exact_mod_cast hn) (by positivity))
end

/-! The choice between the two neighbours. -/

/-- A mode takes the neighbour `n + 1` of `t`, which lies between `n` and it. -/
def Up (r : Rnd) (neg : Bool) (n : Nat) (t : ℝ) : Prop := match r with
  | .rne => n + 1 / 2 < t ∨ t = n + 1 / 2 ∧ n % 2 = 1
  | .rtz => False
  | .rdn => neg = true ∧ n < t
  | .rup => neg = false ∧ n < t

/-- `n` is `t` rounded to an integer. -/
def Stepped (r : Rnd) (neg : Bool) (t : ℝ) (n : Nat) : Prop :=
  ¬ Up r neg ⌊t⌋₊ t ∧ n = ⌊t⌋₊ ∨ Up r neg ⌊t⌋₊ t ∧ n = ⌊t⌋₊ + 1

/-- The same said of the neighbours `lo` and `hi` of `a`, for an encoding `y` of the one chosen. -/
def Chosen (r : Rnd) (neg : Bool) (lo hi a v : ℝ) (y : Nat) : Prop := match r with
  | .rne => (v = lo ∧ a - lo ≤ hi - a ∨ v = hi ∧ hi - a ≤ a - lo) ∧ (a - lo = hi - a → y % 2 = 0)
  | .rtz => v = lo
  | .rdn => v = if neg = true ∧ lo < a then hi else lo
  | .rup => v = if neg = false ∧ lo < a then hi else lo

theorem chosen_of_stepped {r : Rnd} {neg : Bool} {t c : ℝ} {n y : Nat} (hc : 0 < c) (h : Stepped r neg t n) (hy : y % 2 = n % 2) :
    Chosen r neg (⌊t⌋₊ * c) ((⌊t⌋₊ + 1) * c) (t * c) (n * c) y := by
  have hlt : ⌊t⌋₊ * c < t * c ↔ (⌊t⌋₊ : ℝ) < t := mul_lt_mul_iff_left₀ hc
  cases r with
  | rne =>
    have hle : t * c - ⌊t⌋₊ * c ≤ (⌊t⌋₊ + 1) * c - t * c ↔ t ≤ ⌊t⌋₊ + 1 / 2 := by
      rw [← sub_mul, ← sub_mul, mul_le_mul_iff_left₀ hc]
      constructor <;> intro <;> linarith
    have hge : (⌊t⌋₊ + 1) * c - t * c ≤ t * c - ⌊t⌋₊ * c ↔ ⌊t⌋₊ + 1 / 2 ≤ t := by
      rw [← sub_mul, ← sub_mul, mul_le_mul_iff_left₀ hc]
      constructor <;> intro <;> linarith
    simp only [Stepped, Up, not_or, not_lt, not_and] at h
    simp only [Chosen, hle, hge, le_antisymm_iff (a := t * c - ⌊t⌋₊ * c)]
    obtain ⟨⟨hdown, htie⟩, rfl⟩ | ⟨hup, rfl⟩ := h
    · refine ⟨.inl ⟨rfl, hdown⟩, fun ⟨h1, h2⟩ => ?_⟩
      have := htie (le_antisymm h1 h2)
      omega
    · refine ⟨.inr ⟨by push_cast; rfl, ?_⟩, fun ⟨h1, h2⟩ => ?_⟩
      · exact hup.elim le_of_lt fun h => h.1.ge
      · have := hup.resolve_left (not_lt.2 h1)
        omega
  | rtz =>
    obtain ⟨-, rfl⟩ | ⟨hup, -⟩ := h
    · rfl
    · exact hup.elim
  | rdn | rup =>
    simp only [Chosen, hlt]
    simp only [Stepped, Up] at h
    obtain ⟨hup, rfl⟩ | ⟨hup, rfl⟩ := h
    · rw [if_neg hup]
    · rw [if_pos hup]; push_cast; rfl

section
variable {lo hi a v u : ℝ} (hlo : lo ≤ a) (hhi : a < hi) (hu : u ≤ lo ∨ hi ≤ u)

/-- The lower neighbour is the next number downward. -/
theorem le_lo_of_gap (hhi : a < hi) (hu : u ≤ lo ∨ hi ≤ u) (h : u ≤ a) : u ≤ lo := hu.resolve_right (by linarith)

include hlo hhi hu

/-- The nearer of the two neighbours is the nearest of all numbers outside the gap, the only one at its distance where they are not
equally near. -/
theorem nearest_of_gap {even : Prop} (hv : v = lo ∧ a - lo ≤ hi - a ∨ v = hi ∧ hi - a ≤ a - lo) (htie : a - lo = hi - a → even) :
    |a - v| ≤ |a - u| ∧ (|a - v| = |a - u| → u = v ∨ even) := by
  have hau : |a - u| = if u ≤ lo then a - u else u - a := by
    split_ifs with h
    · exact abs_of_nonneg (by linarith)
    · rw [abs_of_neg (by linarith [hu.resolve_left h]), neg_sub]
  obtain ⟨rfl, hle⟩ | ⟨rfl, hle⟩ := hv
  · rw [hau, abs_of_nonneg (by linarith : 0 ≤ a - v)]
    split_ifs with h
    · exact ⟨by linarith, fun he => .inl (by linarith)⟩
    · have := hu.resolve_left h
      exact ⟨by linarith, fun he => .inr (htie (by linarith))⟩
  · rw [hau, abs_of_neg (by linarith : a - v < 0), neg_sub]
    split_ifs with h
    · exact ⟨by linarith, fun he => .inr (htie (by linarith))⟩
    · have := hu.resolve_left h
      exact ⟨by linarith, fun he => .inl (by linarith)⟩

/-- The upper neighbour, or the number itself, is the next one upward. -/
theorem le_of_gap (hv : v = if lo < a then hi else lo) : a ≤ v ∧ (a ≤ u → v ≤ u) := by
  split_ifs at hv with h
  · exact ⟨hv ▸ hhi.le, fun hau => hv ▸ hu.resolve_left (by linarith)⟩
  · exact ⟨by linarith, fun hau => by linarith⟩
end

/-- The encoding of the neighbour that the mode takes is the one to which the number rounds. -/
theorem roundsTo_of_chosen {f : Fmt} {r : Rnd} {neg : Bool} {y : Nat} {lo hi a v : ℝ} (hsign : y.testBit (f.expo + f.frac) = neg)
    (hy : y < 2 ^ f.width) (hv : HasValue f y (signOf neg * v)) (ha : 0 < a) (h0 : 0 ≤ lo) (hlo : lo ≤ a) (hhi : a < hi)
    (hgap : ∀ z w, HasValue f z w → |w| ≤ lo ∨ hi ≤ |w|) (hc : Chosen r neg lo hi a v y) : RoundsTo f r (signOf neg * a) y := by
  refine ⟨?_, hy, _, hv, fun z w hw => ?_⟩
  · rw [hsign]
    cases neg <;> simp <;> linarith
  obtain ⟨u, rfl⟩ : ∃ u, w = signOf neg * u := ⟨signOf neg * w, by rw [← mul_assoc, signOf_mul_self, one_mul]⟩
  have habs (b : ℝ) : |signOf neg * b| = |b| := by rw [abs_mul, abs_signOf, one_mul]
  have hu := hgap z _ hw
  rw [habs] at hu
  have hgap' : u ≤ lo ∨ hi ≤ u := by
    rcases hu with h | h
    · exact .inl (le_of_abs_le h)
    · rcases le_abs.1 h with h | h
      · exact .inr h
      · exact .inl (by linarith)
  cases r with
  | rne =>
    simp only [← mul_sub, habs]
    obtain ⟨hnear, hsame⟩ := nearest_of_gap hlo hhi hgap' hc.1 hc.2
    exact ⟨hnear, fun h => (hsame h).imp_left (congrArg _)⟩
  | rtz =>
    obtain rfl : v = lo := hc
    simp only [habs, abs_of_pos ha, abs_of_nonneg h0]
    exact ⟨hlo, le_lo_of_gap hhi hu⟩
  | rdn =>
    cases neg with
    | false =>
      obtain rfl : v = lo := by simpa [Chosen] using hc
      simpa using ⟨hlo, le_lo_of_gap hhi hgap'⟩
    | true => simpa using le_of_gap hlo hhi hgap' (by simpa [Chosen] using hc)
  | rup =>
    cases neg with
    | false => simpa using le_of_gap hlo hhi hgap' (by simpa [Chosen] using hc)
    | true =>
      obtain rfl : v = lo := by simpa [Chosen] using hc
      simpa using ⟨hlo, le_lo_of_gap hhi hgap'⟩

end Sys2Proof.Machine
end

section
/-! SUPPORT. `roundFin` in real numbers (R92, R93): the integer arithmetic scales and steps as ROUND does, what it delivers up to
the largest finite number and beyond it, and the statement about ROUND. -/
namespace Sys2Proof.Machine

/-! What the arguments stand for. -/

/-- The arguments of `roundFin` stand for the positive number `a`: it is m × 2^e, or strictly between that and (m + 1) × 2^e, and
then finer than the spacing. -/
structure Brackets (f : Fmt) (m : Nat) (e : Int) (sticky : Bool) (a : ℝ) : Prop where
  pos : 0 < a
  le : m * 2 ^ e ≤ a
  lt : a < (m + 1) * 2 ^ e
  sticky_iff : sticky = true ↔ m * 2 ^ e < a
  fine : sticky = true → e < f.spacing a

theorem brackets_exact (f : Fmt) {m : Nat} (hm : m ≠ 0) (e : Int) : Brackets f m e false (m * 2 ^ e) where
  pos := mul_zpow_pos hm e
  le := le_rfl
  lt := mul_lt_mul_of_pos_right (lt_add_one _) (by positivity)
  sticky_iff := by simp
  fine := by simp

/-- The highest bit gives the logarithm. -/
theorem log_of_bracket {m : Nat} {e : Int} {a : ℝ} (hm : m ≠ 0) (hle : m * 2 ^ e ≤ a) (hlt : a < (m + 1) * 2 ^ e) :
    Int.log 2 a = e + m.log2 := by
  have he : (0 : ℝ) < 2 ^ e := by positivity
  have hpos : 0 < a := lt_of_lt_of_le (mul_zpow_pos hm e) hle
  have h2 (k : Nat) : (2 : ℝ) ^ (e + k) = (2 ^ k : ℕ) * 2 ^ e := by
    rw [zpow_add₀ two_ne_zero, mul_comm, zpow_natCast, Nat.cast_pow, Nat.cast_ofNat]
  refine le_antisymm ?_ ?_
  · rw [← Int.lt_add_one_iff, ← Int.lt_zpow_iff_log_lt (by norm_num) hpos, add_assoc, Nat.cast_ofNat, ← Nat.cast_succ, h2]
    refine hlt.trans_le (mul_le_mul_of_nonneg_right ?_ he.le)
    exact_mod_cast Nat.lt_log2_self (n := m)
  · rw [← Int.zpow_le_iff_le_log (by norm_num) hpos, Nat.cast_ofNat, h2]
    refine le_trans (mul_le_mul_of_nonneg_right ?_ he.le) hle
    exact_mod_cast Nat.log2_self_le hm

section
variable {f : Fmt} {m : Nat} {e : Int} {sticky : Bool} {a : ℝ} (h : Brackets f m e sticky a)
include h

/-- The exponent that `roundFin` takes is the spacing at the number. -/
theorem Brackets.spacing_eq : max (e + (m.log2 : Int)) (1 - f.bias) - f.frac = f.spacing a := by
  by_cases hm : m = 0
  · subst hm
    have hs : sticky = true := h.sticky_iff.2 (by simpa using h.pos)
    have hlog : Int.log 2 a < e := by
      rw [← Int.lt_zpow_iff_log_lt (by norm_num) h.pos]
      simpa using h.lt
    have := h.fine hs
    simp only [Fmt.spacing, Nat.log2_zero] at this ⊢
    omega
  · rw [Fmt.spacing, log_of_bracket hm h.le h.lt]

/-- The number in units of 2^e. -/
theorem Brackets.floor_div : ⌊a / 2 ^ e⌋₊ = m := by
  rw [Nat.floor_eq_iff (div_nonneg h.pos.le (by positivity)), le_div_iff₀ (by positivity), div_lt_iff₀ (by positivity)]
  exact ⟨h.le, h.lt⟩

end

/-! Rounding up or not. -/

theorem natCast_lt_iff {m N : Nat} {sticky : Bool} {u : ℝ} (hle : m ≤ u) (hlt : u < m + 1) (hs : sticky = true ↔ (m : ℝ) < u) :
    (N : ℝ) < u ↔ N < m ∨ N = m ∧ sticky = true := by
  rw [hs]
  constructor
  · intro h
    have : N < m + 1 := by exact_mod_cast h.trans hlt
    rcases Nat.lt_succ_iff_lt_or_eq.1 this with h' | rfl
    · exact .inl h'
    · exact .inr ⟨rfl, h⟩
  · rintro (h | ⟨rfl, h⟩)
    · exact lt_of_lt_of_le (by exact_mod_cast h) hle
    · exact h

theorem eq_natCast_iff {m N : Nat} {sticky : Bool} {u : ℝ} (hle : m ≤ u) (hlt : u < m + 1) (hs : sticky = true ↔ (m : ℝ) < u) :
    u = N ↔ N = m ∧ sticky = false := by
  rw [← Bool.not_eq_true, hs, not_lt]
  constructor
  · rintro rfl
    have h1 : m ≤ N := by exact_mod_cast hle
    have h2 : N < m + 1 := by exact_mod_cast hlt
    obtain rfl : N = m := by omega
    exact ⟨rfl, le_rfl⟩
  · rintro ⟨rfl, h⟩
    exact le_antisymm h hle

/-- The bits below the last place tell what the mode does with the number, `m / 2^sh` and more. -/
theorem roundUp_iff (r : Rnd) (neg : Bool) {m sh : Nat} {sticky : Bool} {u : ℝ} (hle : m ≤ u) (hlt : u < m + 1)
    (hs : sticky = true ↔ (m : ℝ) < u) (hsh : sh = 0 → sticky = false) :
    roundUp r neg m sh sticky = true ↔ Up r neg (m / 2 ^ sh) (u / 2 ^ sh) := by
  have hp : (0 : ℝ) < 2 ^ sh := by positivity
  have hcast (k : Nat) : (k : ℝ) * 2 ^ sh = (k * 2 ^ sh : ℕ) := by push_cast; rfl
  have hm := Nat.div_add_mod' m (2 ^ sh)
  have hinexact : ((m / 2 ^ sh : ℕ) : ℝ) < u / 2 ^ sh ↔ (m % 2 ^ sh ≠ 0 ∨ sticky = true) := by
    rw [lt_div_iff₀ hp, hcast, natCast_lt_iff hle hlt hs]
    generalize m / 2 ^ sh * 2 ^ sh = low, m % 2 ^ sh = rem at hm ⊢
    cases sticky <;> simp <;> omega
  cases r with
  | rne =>
    cases sh with
    | zero =>
      obtain rfl : u = m := (eq_natCast_iff hle hlt hs).2 ⟨rfl, hsh rfl⟩
      simp [roundUp, Up]
    | succ k =>
      have hhalf : (((m / 2 ^ (k + 1) : ℕ) : ℝ) + 1 / 2) * 2 ^ (k + 1) = (m / 2 ^ (k + 1) * 2 ^ (k + 1) + 2 ^ k : ℕ) := by
        push_cast; ring
      simp only [Up, lt_div_iff₀ hp, div_eq_iff hp.ne', hhalf, natCast_lt_iff hle hlt hs, eq_natCast_iff hle hlt hs]
      simp only [roundUp, Nat.add_sub_cancel, Bool.and_eq_true, Bool.or_eq_true, decide_eq_true_eq, Nat.succ_pos, true_and]
      cases sticky <;> simp <;> omega
  | rtz => simp [roundUp, Up]
  | rdn | rup => simp [roundUp, Up, hinexact]

theorem Up.lt {r : Rnd} {neg : Bool} {n : Nat} {t : ℝ} (h : Up r neg n t) : n < t := by
  cases r with
  | rne => rcases h with h | ⟨h, -⟩ <;> linarith
  | rtz => exact h.elim
  | rdn | rup => exact h.2

/-! What is delivered. -/

/-- A significand and an exponent after a carry into the next binade. -/
def carried (f : Fmt) (n : Nat) (q : Int) : Nat × Int := if n = 2 ^ (f.frac + 1) then (2 ^ f.frac, q + 1) else (n, q)

/-- The encoding of n × 2^q, or the result of an overflow. -/
def deliver (f : Fmt) (r : Rnd) (sat neg : Bool) (p : Nat × Int) : Nat :=
  if f.topQ < p.2 ∨ f.topQ = p.2 ∧ f.top < p.1 then overflowRes f neg r sat else f.enc neg p.1 p.2

theorem roundFin_eq (f : Fmt) (r : Rnd) (sat neg : Bool) {m : Nat} {e : Int} {sticky : Bool} (h : m ≠ 0 ∨ sticky = true) {q : Int}
    (hq : max (e + (m.log2 : Int)) (1 - f.bias) - f.frac = q) :
    roundFin f r sat neg m e sticky = deliver f r sat neg (carried f
      ((if q ≤ e then m * 2 ^ (e - q).toNat else m / 2 ^ (q - e).toNat) + b2n (roundUp r neg m (q - e).toNat sticky)) q) := by
  have h0 : ¬ (m = 0 ∧ sticky = false) := by
    rintro ⟨h1, h2⟩
    simp [h1, h2] at h
  simp only [roundFin, Bool.and_eq_true, decide_eq_true_eq, Bool.not_eq_true', if_neg h0, hq]
  generalize (if q ≤ e then m * 2 ^ (e - q).toNat else m / 2 ^ (q - e).toNat) = n0
  have hup : (if roundUp r neg m (q - e).toNat sticky = true then n0 + 1 else n0) = n0 + b2n (roundUp r neg m (q - e).toNat sticky) := by
    cases roundUp r neg m (q - e).toNat sticky <;> rfl
  rw [hup]
  generalize n0 + b2n _ = n
  simp only [carried]
  generalize (if n = 2 ^ (f.frac + 1) then (2 ^ f.frac, q + 1) else (n, q)) = p
  simp only [deliver, Fmt.enc, Fmt.pack, Fmt.topQ, Bool.or_eq_true, Bool.and_eq_true, decide_eq_true_eq, Nat.zero_mul, Nat.zero_add,
    Nat.add_assoc]

theorem stepped_of_iff {r : Rnd} {neg up : Bool} {t : ℝ} {n : Nat} (hn : n = ⌊t⌋₊) (h : up = true ↔ Up r neg n t) :
    Stepped r neg t (n + b2n up) := by
  subst hn
  cases up with
  | false => exact .inl ⟨fun hup => Bool.false_ne_true (h.2 hup), rfl⟩
  | true => exact .inr ⟨h.1 rfl, rfl⟩

section
variable (r : Rnd) (neg : Bool) {f : Fmt} {m : Nat} {e : Int} {sticky : Bool} {a : ℝ} (h : Brackets f m e sticky a)
include h

/-- A number at least as coarse as its spacing is a whole number of it. -/
theorem Brackets.stepped_coarse (hq : f.spacing a ≤ e) : Stepped r neg (f.scaled a)
    (m * 2 ^ (e - f.spacing a).toNat + b2n (roundUp r neg m (f.spacing a - e).toNat sticky)) := by
  have hs : sticky = false := Bool.eq_false_iff.2 fun hs => by have := h.fine hs; omega
  have ha : a = m * 2 ^ e := le_antisymm (not_lt.1 (mt h.sticky_iff.2 (by simp [hs]))) h.le
  have ht : f.scaled a = (m * 2 ^ (e - f.spacing a).toNat : ℕ) := by
    rw [Fmt.scaled, div_eq_iff (by positivity), Nat.cast_mul, mul_assoc, ← zpow_two_mul hq, ← ha]
  rw [ht, hs, show (f.spacing a - e).toNat = 0 by omega]
  refine stepped_of_iff (Nat.floor_natCast _).symm ?_
  cases r <;> simp [roundUp, Up, Nat.mod_one]

/-- A finer one is cut off. -/
theorem Brackets.stepped_fine (hq : e < f.spacing a) : Stepped r neg (f.scaled a)
    (m / 2 ^ (f.spacing a - e).toNat + b2n (roundUp r neg m (f.spacing a - e).toNat sticky)) := by
  have he : (0 : ℝ) < 2 ^ e := by positivity
  have ht : f.scaled a = a / 2 ^ e / 2 ^ (f.spacing a - e).toNat := by
    rw [Fmt.scaled, zpow_two_mul hq.le, div_div, mul_comm, Nat.cast_pow, Nat.cast_ofNat]
  have hup := roundUp_iff r neg (sh := (f.spacing a - e).toNat) ((le_div_iff₀ he).2 h.le) ((div_lt_iff₀ he).2 h.lt)
    (h.sticky_iff.trans (lt_div_iff₀ he).symm) (by omega)
  refine stepped_of_iff ?_ (ht ▸ hup)
  have hfl := Nat.floor_div_natCast (a / 2 ^ e) (2 ^ (f.spacing a - e).toNat)
  rw [ht, ← h.floor_div, ← hfl, Nat.cast_pow, Nat.cast_ofNat]
end

/-- `roundFin` delivers the number that it stands for, rounded to an integer in units of its spacing. -/
theorem roundFin_of_brackets (r : Rnd) (sat neg : Bool) {f : Fmt} {m : Nat} {e : Int} {sticky : Bool} {a : ℝ}
    (h : Brackets f m e sticky a) : ∃ n, Stepped r neg (f.scaled a) n ∧
      roundFin f r sat neg m e sticky = deliver f r sat neg (carried f n (f.spacing a)) := by
  have hne : m ≠ 0 ∨ sticky = true := by
    by_contra hn
    simp only [not_or, not_not] at hn
    exact hn.2 (h.sticky_iff.2 (by simpa [hn.1] using h.pos))
  refine ⟨_, ?_, roundFin_eq f r sat neg hne h.spacing_eq⟩
  split_ifs with hq
  · exact h.stepped_coarse r neg hq
  · exact h.stepped_fine r neg (not_le.1 hq)

/-! Delivering. -/

section
variable {f : Fmt} (hf : f.Sound) (r : Rnd) (sat neg : Bool) {n : Nat} {q : Int} (hle : n ≤ 2 ^ (f.frac + 1)) (hmin : f.minQ ≤ q)
  (hnorm : q = f.minQ ∨ 2 ^ f.frac ≤ n)
include hf hle hnorm

/-- The carry changes neither the number nor whether it is even, and leaves a pair in normal form. -/
theorem carried_spec : (carried f n q).1 < 2 ^ (f.frac + 1) ∧ q ≤ (carried f n q).2 ∧
    ((carried f n q).2 = f.minQ ∨ 2 ^ f.frac ≤ (carried f n q).1) ∧
    (carried f n q).1 * (2 : ℝ) ^ (carried f n q).2 = n * 2 ^ q ∧ (carried f n q).1 % 2 = n % 2 := by
  have h2 : 2 ^ (f.frac + 1) = 2 * 2 ^ f.frac := Nat.pow_succ'
  have hpos := Nat.two_pow_pos f.frac
  by_cases hc : n = 2 ^ (f.frac + 1)
  · rw [carried, if_pos hc]
    refine ⟨by simp only; omega, by simp, .inr le_rfl, ?_, ?_⟩
    · simp only [hc, zpow_add_one₀ (two_ne_zero' ℝ)]; push_cast; ring
    · have := dvd_pow_self 2 hf.frac_pos.ne'
      simp only; omega
  · rw [carried, if_neg hc]
    exact ⟨by simp only; omega, le_rfl, hnorm, rfl, rfl⟩

/-- Beyond the largest finite number. -/
theorem deliver_of_gt (h : f.maxVal < n * 2 ^ q) : deliver f r sat neg (carried f n q) = overflowRes f neg r sat := by
  obtain ⟨hlt, -, hnorm', hval, -⟩ := carried_spec hf hle hnorm
  rw [deliver, if_pos]
  by_contra hb
  refine absurd ((bound_iff hf hlt hnorm').1 ?_) (by rw [hval]; exact not_le.2 h)
  omega

include hmin

/-- Up to the largest finite number. -/
theorem deliver_of_le (h : n * 2 ^ q ≤ f.maxVal) : ∃ n' q', f.Holds n' q' ∧ n' * (2 : ℝ) ^ q' = n * 2 ^ q ∧ n' % 2 = n % 2 ∧
    deliver f r sat neg (carried f n q) = f.enc neg n' q' := by
  obtain ⟨hlt, hq, hnorm', hval, hpar⟩ := carried_spec hf hle hnorm
  have hb := (bound_iff hf hlt hnorm').2 (hval ▸ h)
  exact ⟨_, _, ⟨hlt, hmin.trans hq, hnorm', hb⟩, hval, hpar, if_neg (by omega)⟩
end

/-! ROUND up to the largest finite number and beyond it. -/

theorem floor_scaled_mul_le (f : Fmt) {a : ℝ} (ha : 0 < a) : ⌊f.scaled a⌋₊ * 2 ^ f.spacing a ≤ a := by
  conv_rhs => rw [← scaled_mul f (a := a)]
  exact mul_le_mul_of_nonneg_right (Nat.floor_le (scaled_pos f ha).le) (by positivity)

theorem lt_floor_scaled_mul (f : Fmt) {a : ℝ} : a < (⌊f.scaled a⌋₊ + 1) * 2 ^ f.spacing a := by
  conv_lhs => rw [← scaled_mul f (a := a)]
  exact mul_lt_mul_of_pos_right (Nat.lt_floor_add_one _) (by positivity)

theorem maxVal_pos {f : Fmt} (hf : f.Sound) : 0 < f.maxVal := by
  have : 0 < f.top := lt_of_lt_of_le (Nat.two_pow_pos f.frac) hf.le_top
  rw [Fmt.maxVal]
  positivity

theorem topQ_le_spacing {f : Fmt} (hf : f.Sound) {a : ℝ} (h : f.maxVal < a) : f.topQ ≤ f.spacing a := by
  have hlog : f.frac + f.topQ ≤ Int.log 2 a := by
    rw [← Int.zpow_le_iff_le_log (by norm_num) ((maxVal_pos hf).trans h), Nat.cast_ofNat, zpow_add₀ two_ne_zero, zpow_natCast]
    refine le_trans (mul_le_mul_of_nonneg_right ?_ (by positivity)) h.le
    exact_mod_cast hf.le_top
  have := le_max_left (Int.log 2 a) (1 - (f.bias : Int))
  simp only [Fmt.spacing]; omega

section
variable {f : Fmt} (hf : f.Sound) {r : Rnd} {neg : Bool} {a : ℝ} (ha : 0 < a) {n : Nat} (hn : Stepped r neg (f.scaled a) n)

omit hf ha in
theorem Stepped.le (hn : Stepped r neg (f.scaled a) n) : ⌊f.scaled a⌋₊ ≤ n ∧ n ≤ ⌊f.scaled a⌋₊ + 1 := by
  obtain ⟨-, rfl⟩ | ⟨-, rfl⟩ := hn <;> omega

include ha hn

theorem stepped_le : n ≤ 2 ^ (f.frac + 1) := by
  have : ⌊f.scaled a⌋₊ < 2 ^ (f.frac + 1) := (Nat.floor_lt (scaled_pos f ha).le).2 (scaled_lt f)
  have := hn.le
  omega

theorem stepped_normal : f.spacing a = f.minQ ∨ 2 ^ f.frac ≤ n :=
  (le_scaled f ha).imp_right fun h => (Nat.le_floor h).trans hn.le.1

include hf

/-- Rounding does not pass the largest finite number. -/
theorem stepped_le_max (hmax : a ≤ f.maxVal) : n * 2 ^ f.spacing a ≤ f.maxVal := by
  have hc : (0 : ℝ) < 2 ^ f.spacing a := by positivity
  rcases holds_gap f ha (holds_top hf) with h | h
  · have hlo := (scaled_mul f).trans_le (hmax.trans h)
    rw [mul_le_mul_iff_left₀ hc] at hlo
    obtain ⟨-, rfl⟩ | ⟨hup, -⟩ := hn
    · exact le_trans (floor_scaled_mul_le f ha) hmax
    · exact absurd hup.lt (not_lt.2 hlo)
  · refine le_trans (mul_le_mul_of_nonneg_right ?_ hc.le) h
    exact_mod_cast hn.le.2

/-- Beyond the largest finite number a number is rounded up from it or lies in the next binade, or is cut to it. -/
theorem beyond_cases (hmax : f.maxVal < a) : f.maxVal < n * 2 ^ f.spacing a ∨
    f.spacing a = f.topQ ∧ n = f.top ∧ ⌊f.scaled a⌋₊ = f.top ∧ ¬ Up r neg f.top (f.scaled a) := by
  refine or_iff_not_imp_left.2 fun hle => ?_
  have hq := topQ_le_spacing hf hmax
  have hc : (0 : ℝ) < 2 ^ f.topQ := by positivity
  have hnat : n * 2 ^ (f.spacing a - f.topQ).toNat ≤ f.top := by
    rw [zpow_two_mul hq, ← mul_assoc, Fmt.maxVal, not_lt, mul_le_mul_iff_left₀ hc] at hle
    exact_mod_cast hle
  have hq' : f.spacing a = f.topQ := by
    by_contra hne
    have h2 := hf.top_lt
    have hk : 2 ≤ 2 ^ (f.spacing a - f.topQ).toNat := Nat.le_self_pow (by omega) 2
    have hmin := (holds_top hf).minQ_le
    have := Nat.mul_le_mul ((stepped_normal ha hn).resolve_left (by omega)) hk
    rw [Nat.pow_succ] at h2
    omega
  rw [hq', Int.sub_self, Int.toNat_zero, Nat.pow_zero, Nat.mul_one] at hnat
  have htop : f.top ≤ ⌊f.scaled a⌋₊ := by
    rw [Nat.le_floor_iff (scaled_pos f ha).le, Fmt.scaled, hq', le_div_iff₀ hc]
    exact hmax.le
  obtain ⟨hup, rfl⟩ | ⟨-, rfl⟩ := hn
  · have h : ⌊f.scaled a⌋₊ = f.top := le_antisymm hnat htop
    exact ⟨hq', h, h, h ▸ hup⟩
  · omega
end

/-! The statement about ROUND. -/

section
variable {f : Fmt} (hf : f.Sound) (r : Rnd) (sat neg : Bool) {m : Nat} {e : Int} {sticky : Bool} {a : ℝ} (h : Brackets f m e sticky a)
include hf h

/-- Up to the largest finite number `roundFin` gives the number that the mode asks for. -/
theorem roundFin_roundsTo (hmax : a ≤ f.maxVal) : RoundsTo f r (signOf neg * a) (roundFin f r sat neg m e sticky) := by
  obtain ⟨n, hn, heq⟩ := roundFin_of_brackets r sat neg h
  obtain ⟨n', q', hh, hval, hpar, hd⟩ := deliver_of_le hf r sat neg (stepped_le h.pos hn) (minQ_le_spacing f) (stepped_normal h.pos hn)
    (stepped_le_max hf h.pos hn hmax)
  have hc : (0 : ℝ) < 2 ^ f.spacing a := by positivity
  have hchosen := chosen_of_stepped (y := f.enc neg n' q') hc hn ((enc_mod_two hf hh neg).trans hpar)
  rw [scaled_mul, ← hval] at hchosen
  rw [heq, hd]
  refine roundsTo_of_chosen (testBit_enc hf hh neg) (enc_lt hf hh neg) (hasValue_enc hf hh neg) h.pos (by positivity)
    (floor_scaled_mul_le f h.pos) (lt_floor_scaled_mul f) (fun z w hw => ?_) hchosen
  obtain ⟨k, p, hk, hw⟩ := holds_of_hasValue hf hw
  rw [hw]
  exact holds_gap f h.pos hk
end

/-- ROUND of a value that stands for a number. -/
theorem fpRound_roundsTo {f : Fmt} (hf : f.Sound) (r : Rnd) (sat : Bool) {v : FV} {x : ℝ} (hv : IsReal v x)
    (h0 : x ≠ 0) (hmax : |x| ≤ f.maxVal) :
    RoundsTo f r x (fpRound f r sat v) := by
  obtain ⟨neg, m, e, rfl, rfl⟩ := exists_fin_of_isReal hv
  rw [abs_signOf_mul] at hmax
  refine roundFin_roundsTo hf r sat neg (brackets_exact f ?_ e) hmax
  rintro rfl
  simp at h0

/-- The largest finite number, delivered. -/
theorem deliver_top {f : Fmt} (hf : f.Sound) (r : Rnd) (sat neg : Bool) : deliver f r sat neg (carried f f.top f.topQ) = f.maxEnc neg := by
  rw [carried, if_neg hf.top_lt.ne, deliver, if_neg (by simp), enc_top hf]

/-- A number less than a step beyond the largest finite one has the spacing of that. -/
theorem spacing_eq_topQ {f : Fmt} (hf : f.Sound) {a : ℝ} (h : f.maxVal < a) (hlt : a < (f.top + 1) * 2 ^ f.topQ) : f.spacing a = f.topQ := by
  refine le_antisymm (not_lt.1 fun hq => not_le.2 hlt ?_) (topQ_le_spacing hf h)
  have ha : 0 < a := (maxVal_pos hf).trans h
  have hmin := (holds_top hf).minQ_le
  have hk : 2 ≤ 2 ^ (f.spacing a - f.topQ).toNat := Nat.le_self_pow (by omega) 2
  have hle := (le_scaled f ha).resolve_left (by omega)
  rw [Fmt.scaled, le_div_iff₀ (by positivity), zpow_two_mul hq.le, ← mul_assoc] at hle
  refine le_trans (mul_le_mul_of_nonneg_right ?_ (by positivity)) hle
  have h2 : f.top + 1 ≤ 2 ^ f.frac * 2 := by rw [← Nat.pow_succ]; exact hf.top_lt
  exact_mod_cast h2.trans (Nat.mul_le_mul le_rfl hk)

/-- The mode's half-way mark above the largest finite number. -/
theorem top_add_half (f : Fmt) : (f.top + 1 / 2 : ℝ) * 2 ^ f.topQ = f.maxVal + 2 ^ f.topQ / 2 := by
  rw [Fmt.maxVal]; ring

/-- A directed mode that does not step up from the largest finite number overflows to it (R93). -/
theorem overflowRes_of_not_up {f : Fmt} {r : Rnd} {neg : Bool} {t : ℝ} (sat : Bool) (hr : r ≠ .rne) (hlt : f.top < t)
    (h : ¬ Up r neg f.top t) : overflowRes f neg r sat = f.maxEnc neg := by
  cases r with
  | rne => exact absurd rfl hr
  | rtz => simp [overflowRes]
  | rdn | rup =>
    simp only [Up, hlt, and_true] at h
    simp [overflowRes, h]

section
variable {f : Fmt} (hf : f.Sound) (sat neg : Bool) {m : Nat} {e : Int} {sticky : Bool} {a : ℝ} (h : Brackets f m e sticky a)
include hf h

/-- Beyond the largest finite number, but not as much as half a step, or half a step where it is even: rounding to nearest gives it. -/
theorem roundFin_near_max (hmax : f.maxVal < a)
    (hnear : a < f.maxVal + 2 ^ f.topQ / 2 ∨ a = f.maxVal + 2 ^ f.topQ / 2 ∧ f.top % 2 = 0) :
    roundFin f .rne sat neg m e sticky = f.maxEnc neg := by
  have hc : (0 : ℝ) < 2 ^ f.topQ := by positivity
  have hq : f.spacing a = f.topQ := by
    refine spacing_eq_topQ hf hmax ?_
    have := top_add_half f
    rcases hnear with h | ⟨h, -⟩ <;> linarith
  have hfl : ⌊f.scaled a⌋₊ = f.top := by
    rw [Nat.floor_eq_iff (scaled_pos f h.pos).le, Fmt.scaled, hq, le_div_iff₀ hc, div_lt_iff₀ hc]
    have := top_add_half f
    exact ⟨hmax.le, by rcases hnear with h | ⟨h, -⟩ <;> linarith⟩
  have hup : ¬ Up .rne neg f.top (f.scaled a) := by
    rw [Up, Fmt.scaled, hq, lt_div_iff₀ hc, div_eq_iff hc.ne', top_add_half]
    rintro (hlt | ⟨heq, hodd⟩)
    · rcases hnear with h | ⟨h, -⟩ <;> linarith
    · rcases hnear with h | ⟨-, heven⟩
      · linarith
      · omega
  obtain ⟨n, hn, heq⟩ := roundFin_of_brackets .rne sat neg h
  obtain ⟨-, rfl⟩ | ⟨hup', -⟩ := hn
  · rw [heq, hfl, hq, deliver_top hf]
  · exact absurd (hfl ▸ hup') hup

/-- Further beyond it, or in a directed mode, the result is R93's. -/
theorem roundFin_beyond (r : Rnd) (hmax : f.maxVal < a)
    (hfar : r ≠ .rne ∨ f.maxVal + 2 ^ f.topQ / 2 < a ∨ a = f.maxVal + 2 ^ f.topQ / 2 ∧ f.top % 2 = 1) :
    roundFin f r sat neg m e sticky = overflowRes f neg r sat := by
  have hc : (0 : ℝ) < 2 ^ f.topQ := by positivity
  obtain ⟨n, hn, heq⟩ := roundFin_of_brackets r sat neg h
  rw [heq]
  rcases beyond_cases hf h.pos hn hmax with hgt | ⟨hq, rfl, -, hup⟩
  · exact deliver_of_gt hf r sat neg (stepped_le h.pos hn) (stepped_normal h.pos hn) hgt
  · rw [hq, deliver_top hf]
    refine (overflowRes_of_not_up sat (fun hr => ?_) ?_ hup).symm
    · subst hr
      rw [Up, Fmt.scaled, hq, lt_div_iff₀ hc, div_eq_iff hc.ne', top_add_half] at hup
      exact hup (hfar.resolve_left (not_not.2 rfl))
    · rw [Fmt.scaled, hq, lt_div_iff₀ hc]
      exact hmax
end

/-! The six formats, and R93's results. -/

section
variable {f : Fmt} (hf : f ∈ formats)
include hf

theorem frac_eq_one_iff : f.frac = 1 ↔ f = fmtE2M1 := (by decide : ∀ f ∈ formats, (f.frac = 1 ↔ f = fmtE2M1)) f hf
theorem hasInf_iff : f.hasInf = true ↔ f ≠ fmtE2M1 ∧ f ≠ fmtE4M3 :=
  (by decide : ∀ f ∈ formats, (f.hasInf = true ↔ f ≠ fmtE2M1 ∧ f ≠ fmtE4M3)) f hf
theorem top_even_iff : f.top % 2 = 0 ↔ f = fmtE4M3 := (by decide : ∀ f ∈ formats, (f.top % 2 = 0 ↔ f = fmtE4M3)) f hf
theorem nan_eq : f.nan = if f = fmtE2M1 then 0 else if f = fmtE4M3 then 0x7F else infOf f false + 2 ^ (f.frac - 1) :=
  (by decide : ∀ f ∈ formats, f.nan = if f = fmtE2M1 then 0 else if f = fmtE4M3 then 0x7F else infOf f false + 2 ^ (f.frac - 1)) f hf
theorem infEnc_eq (neg : Bool) : f.infEnc neg = infOf f neg :=
  (by decide : ∀ f ∈ formats, ∀ neg, f.infEnc neg = infOf f neg) f hf neg

/-- The result beyond every finite number where the format has one. -/
theorem infEnc_or_nan_eq (h : f ≠ fmtE2M1) (neg : Bool) :
    (if f.hasInf = true then f.infEnc neg else f.nan) = if f = fmtE4M3 then 0x7F else infOf f neg := by
  rw [infEnc_eq hf, nan_eq hf, if_neg h]
  by_cases h4 : f = fmtE4M3
  · rw [if_pos h4, if_pos h4, if_neg fun hi => ((hasInf_iff hf).1 hi).2 h4]
  · rw [if_neg h4, if_neg h4, if_pos ((hasInf_iff hf).2 ⟨h, h4⟩)]

theorem infRes_eq (neg sat : Bool) :
    infRes f neg sat = if f = fmtE2M1 ∨ sat = true then f.maxEnc neg else if f = fmtE4M3 then 0x7F else infOf f neg := by
  simp only [infRes, Bool.or_eq_true, decide_eq_true_eq, frac_eq_one_iff hf]
  exact ite_congr rfl (fun _ => rfl) fun h => infEnc_or_nan_eq hf (fun he => h (.inl he)) neg

theorem overflowRes_eq (neg : Bool) (r : Rnd) (sat : Bool) : overflowRes f neg r sat = beyond f r sat neg := by
  have hcond : overflowRes f neg r sat =
      if f = fmtE2M1 ∨ sat = true ∨ r = .rtz ∨ (r = .rdn ∧ neg = false) ∨ (r = .rup ∧ neg = true) then f.maxEnc neg
      else if f.hasInf = true then f.infEnc neg else f.nan := by
    simp only [← frac_eq_one_iff hf]
    cases r <;> simp [overflowRes, or_assoc]
  rw [hcond, beyond]
  exact ite_congr rfl (fun _ => rfl) fun h => infEnc_or_nan_eq hf (fun he => h (.inl he)) neg
end

theorem roundFin_zero (f : Fmt) (r : Rnd) (sat neg : Bool) {m : Nat} (hm : m = 0) (e : Int) :
    roundFin f r sat neg m e false = if neg then 2 ^ (f.expo + f.frac) else 0 := by
  subst hm
  cases neg <;> simp [roundFin, b2n]

/-- R85's table: the number of an encoding by its fields. -/
theorem hasValue_fields {f : Fmt} {y : Nat} {v : ℝ} (h : HasValue f y v) :
    v = (if y.testBit (f.expo + f.frac) then -1 else 1) *
      (if fld y (f.expo + f.frac - 1) f.frac = 0 then (2 : ℝ) ^ (1 - (f.bias : ℤ)) * ((y % 2 ^ f.frac : ℕ) / 2 ^ f.frac)
        else 2 ^ ((fld y (f.expo + f.frac - 1) f.frac : ℤ) - f.bias) * (1 + (y % 2 ^ f.frac : ℕ) / 2 ^ f.frac)) := by
  obtain ⟨neg, n, q, hd, rfl⟩ := h
  obtain ⟨-, hv⟩ := (fpDecode_eq_fin_iff ..).1 hd
  have h2 : (2 : ℝ) ^ f.frac ≠ 0 := by positivity
  by_cases h0 : fld y (f.expo + f.frac - 1) f.frac = 0
  · simp only [Fmt.value, Fmt.ofFields, Fmt.minQ, if_pos h0, FV.fin.injEq] at hv
    obtain ⟨rfl, rfl, rfl⟩ := hv
    rw [if_pos h0, zpow_sub₀ two_ne_zero, zpow_natCast]
    ring
  · simp only [Fmt.value, Fmt.ofFields, if_neg h0, FV.fin.injEq] at hv
    obtain ⟨rfl, rfl, rfl⟩ := hv
    rw [if_neg h0, zpow_sub₀ two_ne_zero _ (f.frac : ℤ), zpow_natCast]
    push_cast
    field_simp
    ring

/-- Settles O17: ROUND of a finite value is `roundFin` of its magnitude. -/
theorem roundingIsNearest : Obligations.RoundingIsNearest := by
  unfold Obligations.RoundingIsNearest
  intro f hmem
  have hf : f.Sound := sound_of_mem hmem
  refine ⟨fun y v hv => hasValue_fields hv, f.maxVal, fun neg => ?_, fun y v hv => abs_le_max hf hv, fun r sat neg m e => ?_⟩
  · rw [← enc_top hf]
    have := hasValue_enc hf (holds_top hf) neg
    cases neg <;> simpa [Fmt.maxVal] using this
  · intro y x half
    have hx : x = signOf neg * (m * 2 ^ e) := mul_assoc ..
    have habs : |x| = m * 2 ^ e := hx ▸ abs_signOf_mul neg m e
    have hx0 : x = 0 ↔ m = 0 := by
      rw [← abs_eq_zero, habs, mul_eq_zero, Nat.cast_eq_zero, or_iff_left (zpow_ne_zero e two_ne_zero)]
    have hb (hm : m ≠ 0) : Brackets f m e false |x| := habs ▸ brackets_exact f hm e
    refine ⟨fun hne hle => ?_, fun h0 => ?_, fun hgt => ?_, infRes_eq hmem neg sat, nan_eq hmem⟩
    · exact fpRound_roundsTo hf r sat (isReal_fin_iff.2 hx) hne hle
    · exact roundFin_zero f r sat neg (hx0.1 h0) e
    · have hm : m ≠ 0 := mt hx0.2 fun h0 => by rw [h0, abs_zero] at hgt; exact (maxVal_pos hf).not_gt hgt
      refine ⟨fun ⟨hr, hnear⟩ => ?_, fun hfar => ?_⟩
      · subst hr
        exact roundFin_near_max hf sat neg (hb hm) hgt (hnear.imp_right (.imp_right (top_even_iff hmem).2))
      · have hodd (h4 : f ≠ fmtE4M3) : f.top % 2 = 1 := by
          have := mt (top_even_iff hmem).1 h4
          omega
        exact (roundFin_beyond hf sat neg (hb hm) r hgt (hfar.imp_right (.imp_right (.imp_right hodd)))).trans (overflowRes_eq hmem neg r sat)

end Sys2Proof.Machine
end

section
/-! SUPPORT. Sums, products and comparisons of values in real numbers (R94, R95). -/
namespace Sys2Proof.Machine

/-! Integers at a common exponent. -/

theorem atExp_mul {neg : Bool} {m : Nat} {e lo : Int} (h : lo ≤ e) : (atExp neg m e lo : ℝ) * 2 ^ lo = signOf neg * (m * 2 ^ e) := by
  rw [zpow_two_mul h]
  cases neg <;> simp [atExp] <;> ring

theorem isReal_ofInt (v e : Int) (zeroNeg : Bool) : IsReal (ofInt v e zeroNeg) (v * 2 ^ e) := by
  rw [ofInt]
  split_ifs with h
  · rw [isReal_fin_iff, h]; simp
  · rw [isReal_fin_iff, ← mul_assoc, Nat.cast_natAbs]
    congr 1
    rcases lt_or_gt_of_ne h with h | h
    · simp [signOf, h, abs_of_neg h]
    · simp [signOf, not_lt.2 h.le, abs_of_pos h]

/-! Sums (R94). -/

section
variable (r : Rnd) (a b : Bool) (m n : Nat) (e g : Int)

/-- The numerator of a sum at the lower of the two exponents. -/
def sumNum : Int := atExp a m e (min e g) + atExp b n g (min e g)

theorem sumNum_mul : (sumNum a b m n e g : ℝ) * 2 ^ min e g = signOf a * (m * 2 ^ e) + signOf b * (n * 2 ^ g) := by
  rw [sumNum, Int.cast_add, add_mul, atExp_mul (min_le_left e g), atExp_mul (min_le_right e g)]

theorem fvAdd_fin : fvAdd r (.fin a m e) (.fin b n g) =
    if m = 0 ∧ n = 0 then .fin (if a = b then a else r == .rdn) 0 0 else ofInt (sumNum a b m n e g) (min e g) (r == .rdn) := by
  simp only [fvAdd, sumNum, Bool.and_eq_true, decide_eq_true_eq]
  split_ifs <;> rfl

theorem isReal_fvAdd_fin : IsReal (fvAdd r (.fin a m e) (.fin b n g)) (signOf a * (m * 2 ^ e) + signOf b * (n * 2 ^ g)) := by
  rw [fvAdd_fin]
  by_cases h : m = 0 ∧ n = 0
  · rw [if_pos h, isReal_fin_iff, h.1, h.2]; simp
  · rw [if_neg h, ← sumNum_mul]
    exact isReal_ofInt ..

/-- The sign of a sum that is zero: that of two zeros of the same sign, else the mode's. -/
theorem fvSign_fvAdd_fin (h : signOf a * (m * 2 ^ e) + signOf b * (n * 2 ^ g) = 0) :
    fvSign (fvAdd r (.fin a m e) (.fin b n g)) = if a = b then a else r == .rdn := by
  rw [fvAdd_fin]
  by_cases hz : m = 0 ∧ n = 0
  · rw [if_pos hz, fvSign]
  have hnum : sumNum a b m n e g = 0 := by
    rw [← sumNum_mul, mul_eq_zero, or_iff_left (zpow_ne_zero _ two_ne_zero)] at h
    exact_mod_cast h
  have hab : a ≠ b := by
    rintro rfl
    have hm : (0 : ℝ) ≤ m * 2 ^ e := by positivity
    have hn : (0 : ℝ) ≤ n * 2 ^ g := by positivity
    have hboth : (m : ℝ) * 2 ^ e = 0 ∧ (n : ℝ) * 2 ^ g = 0 := by
      cases a <;> simp only [signOf_true, signOf_false] at h <;> constructor <;> linarith
    simp only [mul_eq_zero, zpow_ne_zero _ (two_ne_zero' ℝ), or_false, Nat.cast_eq_zero] at hboth
    exact hz hboth
  rw [if_neg hz, if_neg hab, hnum, ofInt, if_pos rfl, fvSign]
end

/-! Products and comparisons. -/

theorem isReal_fvMul_fin (a b : Bool) (m n : Nat) (e g : Int) :
    IsReal (fvMul (.fin a m e) (.fin b n g)) (signOf a * (m * 2 ^ e) * (signOf b * (n * 2 ^ g))) := by
  rw [fvMul, isReal_fin_iff, zpow_add₀ two_ne_zero]
  cases a <;> cases b <;> simp <;> ring

/-- A comparison is one of integers at a common exponent. -/
theorem fvCmp_fin (a b : Bool) (m n : Nat) (e g : Int) : ∃ i j : Int, fvCmp (.fin a m e) (.fin b n g) = some (compare i j) ∧
    signOf a * (m * 2 ^ e) = i * (2 : ℝ) ^ min e g ∧ signOf b * (n * 2 ^ g) = j * (2 : ℝ) ^ min e g :=
  ⟨_, _, rfl, (atExp_mul (min_le_left e g)).symm, (atExp_mul (min_le_right e g)).symm⟩

theorem compare_scaled (i j : Int) {c : ℝ} (hc : 0 < c) : (some (compare i j) = some .lt ↔ i * c < j * c) ∧
    (some (compare i j) = some .eq ↔ i * c = j * c) ∧ (some (compare i j) = some .gt ↔ j * c < i * c) := by
  simp only [Option.some.injEq, compare_lt_iff_lt, compare_eq_iff_eq, compare_gt_iff_gt, mul_lt_mul_iff_left₀ hc, mul_left_inj' hc.ne',
    Int.cast_lt, Int.cast_inj, and_self]

/-- R94 and R95 for two values that stand for numbers. -/
theorem operations_exact (r : Rnd) {a b : FV} {x y : ℝ} (ha : IsReal a x) (hb : IsReal b y) :
    IsReal (fvAdd r a b) (x + y) ∧ (x + y = 0 → fvSign (fvAdd r a b) = if fvSign a = fvSign b then fvSign a else r == .rdn) ∧
    IsReal (fvMul a b) (x * y) ∧ fvSign (fvMul a b) = (fvSign a != fvSign b) ∧
    (fvCmp a b = some .lt ↔ x < y) ∧ (fvCmp a b = some .eq ↔ x = y) ∧ (fvCmp a b = some .gt ↔ y < x) := by
  obtain ⟨s, m, e, rfl, rfl⟩ := exists_fin_of_isReal ha
  obtain ⟨t, n, g, rfl, rfl⟩ := exists_fin_of_isReal hb
  obtain ⟨i, j, hcmp, hx, hy⟩ := fvCmp_fin s t m n e g
  refine ⟨isReal_fvAdd_fin .., fvSign_fvAdd_fin r s t m n e g, isReal_fvMul_fin .., rfl, ?_⟩
  rw [hcmp, hx, hy]
  exact compare_scaled i j (by positivity)

end Sys2Proof.Machine
end

section
/-! SUPPORT. Group sums in real numbers (R99, R100): which last place a group is summed at, and what is cut there. -/
namespace Sys2Proof.Machine

/-! Products. -/

/-- A position whose product is finite stands for the product with its scales. -/
theorem termProd_fin {t : Term} {x y : ℝ} (ha : IsReal t.a x) (hb : IsReal t.b y) : ∃ neg m e, termProd t = .fin neg m e ∧
    x * y * 2 ^ ((t.sa : ℤ) - 127) * 2 ^ ((t.sb : ℤ) - 127) = signOf neg * (m * 2 ^ e) := by
  have hprod := (operations_exact .rne ha hb).2.2.1
  obtain ⟨neg, m, e, hmul, hxy⟩ := exists_fin_of_isReal hprod
  refine ⟨neg, m, e + (scaleExp t.sa + scaleExp t.sb), by rw [termProd, hmul, fvScale], ?_⟩
  rw [hxy, scaleExp, scaleExp, zpow_add₀ two_ne_zero, zpow_add₀ two_ne_zero]
  ring

/-! The place a group is summed at. -/

theorem foldl_max_spec {α : Type} (g : α → Int) (l : List α) (a : Int) : let m := l.foldl (fun b p => max b (g p)) a
    a ≤ m ∧ (∀ p ∈ l, g p ≤ m) ∧ (m = a ∨ ∃ p ∈ l, m = g p) := by
  induction l generalizing a with
  | nil => simp
  | cons p l ih =>
    obtain ⟨hle, hall, hmem⟩ := ih (max a (g p))
    refine ⟨(le_max_left ..).trans hle, List.forall_mem_cons.2 ⟨(le_max_right ..).trans hle, hall⟩, ?_⟩
    rcases hmem with h | ⟨q, hq, h⟩
    · rcases max_choice a (g p) with hc | hc
      · exact .inl (h.trans hc)
      · exact .inr ⟨p, List.mem_cons_self, h.trans hc⟩
    · exact .inr ⟨q, List.mem_cons_of_mem p hq, h⟩

theorem foldl_min_spec {α : Type} (g : α → Int) (l : List α) (a : Int) : let m := l.foldl (fun b p => min b (g p)) a
    m ≤ a ∧ ∀ p ∈ l, m ≤ g p := by
  induction l generalizing a with
  | nil => simp
  | cons p l ih =>
    obtain ⟨hle, hall⟩ := ih (min a (g p))
    exact ⟨hle.trans (min_le_left ..), List.forall_mem_cons.2 ⟨hle.trans (min_le_right ..), hall⟩⟩

/-- The place `w` at which products are summed: without a window none of them reaches below it, with one it lies 91 places below the
largest one's leading place. -/
def LastPlace (window : Bool) (ps : List FV) (w : Int) : Prop :=
  (window = false → ∀ neg m e, .fin neg m e ∈ ps → m ≠ 0 → w ≤ e) ∧
  (window = true → (∀ neg m e, .fin neg m e ∈ ps → m ≠ 0 → ilog m e ≤ w + 91) ∧
    ∀ neg m e, .fin neg m e ∈ ps → m ≠ 0 → ∃ neg m e, .fin neg m e ∈ ps ∧ m ≠ 0 ∧ w + 91 = ilog m e)

/-- That place, from the significands and exponents of the products other than zero. -/
def placeOf (window : Bool) : List (Nat × Int) → Int
  | [] => 0
  | (m, e) :: fs => if window then fs.foldl (fun a p => max a (ilog p.1 p.2)) (ilog m e) - 91 else fs.foldl (fun a p => min a p.2) e

theorem lastPlace_placeOf (window : Bool) {ps : List FV} {fins : List (Nat × Int)}
    (hmem : ∀ m e, (m, e) ∈ fins ↔ ∃ neg, .fin neg m e ∈ ps ∧ m ≠ 0) : LastPlace window ps (placeOf window fins) := by
  cases fins with
  | nil =>
    have hnone (neg m e) (hp : FV.fin neg m e ∈ ps) (hm : m ≠ 0) : False := List.not_mem_nil ((hmem m e).2 ⟨neg, hp, hm⟩)
    exact ⟨fun _ neg m e hp hm => (hnone neg m e hp hm).elim,
      fun _ => ⟨fun neg m e hp hm => (hnone neg m e hp hm).elim, fun neg m e hp hm => (hnone neg m e hp hm).elim⟩⟩
  | cons p fs =>
    obtain ⟨m0, e0⟩ := p
    constructor
    · rintro rfl neg m e hp hm
      obtain ⟨hle, hall⟩ := foldl_min_spec (fun p : Nat × Int => p.2) fs e0
      rcases List.mem_cons.1 ((hmem m e).2 ⟨neg, hp, hm⟩) with h | h
      · obtain ⟨rfl, rfl⟩ := Prod.mk.injEq .. ▸ h
        exact hle
      · exact hall _ h
    · rintro rfl
      obtain ⟨hle, hall, heq⟩ := foldl_max_spec (fun p : Nat × Int => ilog p.1 p.2) fs (ilog m0 e0)
      simp only [placeOf, if_true, Int.sub_add_cancel]
      refine ⟨fun neg m e hp hm => ?_, fun _ _ _ _ _ => ?_⟩
      · rcases List.mem_cons.1 ((hmem m e).2 ⟨neg, hp, hm⟩) with h | h
        · obtain ⟨rfl, rfl⟩ := Prod.mk.injEq .. ▸ h
          exact hle
        · exact hall _ h
      · obtain ⟨⟨m, e⟩, hin, h⟩ : ∃ p ∈ (m0, e0) :: fs, _ = ilog p.1 p.2 :=
          heq.elim (fun h => ⟨_, List.mem_cons_self, h⟩) fun ⟨p, hp, h⟩ => ⟨p, List.mem_cons_of_mem _ hp, h⟩
        obtain ⟨neg, hp, hm⟩ := (hmem m e).1 hin
        exact ⟨neg, m, e, hp, hm, h⟩

/-- Where every operand is finite the group sum is the sum at such a place. -/
theorem groupSum_of_fin (window float : Bool) {ts : List Term}
    (h : ∀ t ∈ ts, t.sa ≠ 255 ∧ t.sb ≠ 255 ∧ ∃ x y, IsReal t.a x ∧ IsReal t.b y) :
    ∃ w z, groupSum window float ts = ofInt (sumAt w (ts.map termProd)) w z ∧ LastPlace window (ts.map termProd) w := by
  have hfin : ∀ p ∈ ts.map termProd, ∃ neg m e, p = .fin neg m e := by
    intro p hp
    obtain ⟨t, ht, rfl⟩ := List.mem_map.1 hp
    obtain ⟨-, -, x, y, hx, hy⟩ := h t ht
    obtain ⟨neg, m, e, he, -⟩ := termProd_fin hx hy
    exact ⟨neg, m, e, he⟩
  generalize hps : ts.map termProd = ps at hfin
  have hinf (neg : Bool) : ps.any (· == .inf neg) = false := List.any_eq_false.2 fun p hp => by
    obtain ⟨neg', m, e, rfl⟩ := hfin p hp
    exact Bool.false_ne_true
  unfold groupSum
  rw [if_neg, hps, if_neg]
  · simp only [hinf, Bool.and_false, Bool.false_eq_true, if_false]
    refine ⟨_, _, rfl, lastPlace_placeOf window fun m e => List.mem_filterMap.trans ⟨?_, ?_⟩⟩
    · rintro ⟨p, hp, hpm⟩
      obtain ⟨neg, m', e', rfl⟩ := hfin p hp
      simp only [Option.ite_none_left_eq_some, Option.some.injEq, Prod.mk.injEq] at hpm
      obtain ⟨hm, rfl, rfl⟩ := hpm
      exact ⟨neg, hp, hm⟩
    · rintro ⟨neg, hp, hm⟩
      exact ⟨_, hp, if_neg hm⟩
  · rw [Bool.not_eq_true, List.any_eq_false]
    intro p hp
    obtain ⟨neg, m, e, rfl⟩ := hfin p hp
    exact Bool.false_ne_true
  · rw [Bool.not_eq_true, List.any_eq_false]
    intro t ht
    obtain ⟨hsa, hsb, x, y, ⟨_, _, _, ha, -⟩, _, _, _, hb, -⟩ := h t ht
    simp [ha, hb, hsa, hsb]

/-! What is cut, and the sum. -/

theorem sumAt_cons (w : Int) (neg : Bool) (m : Nat) (e : Int) (ps : List FV) :
    (sumAt w (.fin neg m e :: ps) : ℝ) = signOf neg * truncTo w m e + sumAt w ps := by
  cases neg <;> simp [sumAt]

/-- The sum at a place of values whose cut numbers are known. -/
theorem sumAt_map {ts : List Term} {w : Int} {q : Term → ℝ}
    (h : ∀ t ∈ ts, ∃ neg m e, termProd t = .fin neg m e ∧ q t = signOf neg * truncTo w m e * 2 ^ w) :
    (sumAt w (ts.map termProd) : ℝ) * 2 ^ w = (ts.map q).sum := by
  induction ts with
  | nil => simp [sumAt]
  | cons t ts ih =>
    obtain ⟨⟨neg, m, e, ht, hq⟩, hts⟩ := List.forall_mem_cons.1 h
    rw [List.map_cons, List.map_cons, List.sum_cons, ht, sumAt_cons, add_mul, ih hts, hq]

theorem truncTo_exact {w : Int} {m : Nat} {e : Int} (h : m ≠ 0 → w ≤ e) : truncTo w m e * (2 : ℝ) ^ w = m * 2 ^ e := by
  by_cases hm : m = 0
  · simp [truncTo, hm]
  · rw [truncTo, if_pos (h hm), zpow_two_mul (h hm)]
    push_cast; ring

/-- Cutting is rounding down to a whole number of places. -/
theorem truncTo_eq_floor (w : Int) (m : Nat) (e : Int) : (truncTo w m e : ℤ) = ⌊m * (2 : ℝ) ^ e / 2 ^ w⌋ := by
  have hw : (2 : ℝ) ^ w ≠ 0 := by positivity
  rw [truncTo]
  split_ifs with h
  · rw [zpow_two_mul h, ← mul_assoc, mul_div_cancel_right₀ _ hw, ← Nat.cast_mul, Int.floor_natCast]
  · have hk := zpow_two_mul (not_le.1 h).le
    rw [hk, mul_comm _ ((2 : ℝ) ^ e), mul_comm _ ((2 : ℝ) ^ e), mul_div_mul_left _ _ (zpow_ne_zero e two_ne_zero),
      Int.floor_div_natCast, Int.floor_natCast, Int.natCast_div]

/-- The leading place of a product. -/
theorem log_eq_ilog {m : Nat} (hm : m ≠ 0) (e : Int) : Int.log 2 (m * (2 : ℝ) ^ e) = ilog m e :=
  log_of_bracket hm le_rfl (mul_lt_mul_of_pos_right (lt_add_one _) (by positivity))

section
variable {ts : List Term} {p : Term → ℝ}
  (h : ∀ t ∈ ts, t.sa ≠ 255 ∧ t.sb ≠ 255 ∧ ∃ x y, IsReal t.a x ∧ IsReal t.b y ∧
    p t = x * y * 2 ^ ((t.sa : ℤ) - 127) * 2 ^ ((t.sb : ℤ) - 127))
include h

theorem termProd_of_mem {t : Term} (ht : t ∈ ts) : ∃ neg m e, termProd t = .fin neg m e ∧ p t = signOf neg * (m * 2 ^ e) := by
  obtain ⟨-, -, x, y, hx, hy, hp⟩ := h t ht
  exact hp ▸ termProd_fin hx hy

theorem isReal_groupSum {window : Bool} (float : Bool) {q : Term → ℝ}
    (hq : ∀ w, LastPlace window (ts.map termProd) w → ∀ t ∈ ts, ∀ neg m e, termProd t = .fin neg m e → p t = signOf neg * (m * 2 ^ e) →
      q t = signOf neg * truncTo w m e * 2 ^ w) : IsReal (groupSum window float ts) (ts.map q).sum := by
  obtain ⟨w, z, hsum, hw⟩ := groupSum_of_fin window float fun t ht => by
    obtain ⟨hsa, hsb, x, y, hx, hy, -⟩ := h t ht
    exact ⟨hsa, hsb, x, y, hx, hy⟩
  rw [hsum, ← sumAt_map (w := w) fun t ht => by
    obtain ⟨neg, m, e, hf, hp⟩ := termProd_of_mem h ht
    exact ⟨neg, m, e, hf, hq w hw t ht neg m e hf hp⟩]
  exact isReal_ofInt ..

/-- R99: the exact sum. -/
theorem isReal_groupSum_exact (float : Bool) : IsReal (groupSum false float ts) (ts.map p).sum :=
  isReal_groupSum h float fun w hw t ht neg m e hf hp => by
    rw [hp, mul_assoc, truncTo_exact fun hm => hw.1 rfl neg m e (hf ▸ List.mem_map_of_mem ht) hm]

/-- R100 without a product other than zero. -/
theorem isReal_groupSum_zero (float : Bool) (h0 : ∀ t ∈ ts, p t = 0) : IsReal (groupSum true float ts) 0 := by
  have hsum := isReal_groupSum (window := true) h float (q := fun _ => 0) fun w _ t ht neg m e _ hp => by
    have hm : m = 0 := by
      have := abs_signOf_mul neg m e
      rw [← hp, h0 t ht, abs_zero, eq_comm, mul_eq_zero, or_iff_left (zpow_ne_zero e two_ne_zero)] at this
      exact_mod_cast this
    simp [hm, truncTo]
  simpa using hsum

/-- The window lies below the largest product's leading place. -/
theorem lastPlace_window {E w : ℤ} (hlt : ∀ t ∈ ts, |p t| < 2 ^ (E + 1)) (hle : ∃ t ∈ ts, 2 ^ E ≤ |p t|)
    (hw : LastPlace true (ts.map termProd) w) : w = E - 91 := by
  have hlog {neg m e} (hp : FV.fin neg m e ∈ ts.map termProd) : ∃ t ∈ ts, |p t| = m * 2 ^ e := by
    obtain ⟨t, ht, hf⟩ := List.mem_map.1 hp
    obtain ⟨neg', m', e', hf', hp'⟩ := termProd_of_mem h ht
    cases hf.symm.trans hf'
    exact ⟨t, ht, by rw [hp', abs_signOf_mul]⟩
  obtain ⟨hall, hex⟩ := hw.2 rfl
  obtain ⟨t, ht, hE⟩ := hle
  obtain ⟨neg, m, e, hf, hp⟩ := termProd_of_mem h ht
  have hmem : FV.fin neg m e ∈ ts.map termProd := hf ▸ List.mem_map_of_mem ht
  rw [hp, abs_signOf_mul] at hE
  have hm : m ≠ 0 := by
    rintro rfl
    rw [Nat.cast_zero, zero_mul] at hE
    exact (zpow_pos two_pos E).not_ge hE
  have hlow : E ≤ ilog m e := by
    rw [← log_eq_ilog hm, ← Int.zpow_le_iff_le_log (by norm_num) (mul_zpow_pos hm e)]
    exact_mod_cast hE
  obtain ⟨neg', m', e', hmem', hm', hw'⟩ := hex neg m e hmem hm
  have hhigh : ilog m' e' < E + 1 := by
    obtain ⟨t', ht', hp'⟩ := hlog hmem'
    rw [← log_eq_ilog hm', ← Int.lt_zpow_iff_log_lt (by norm_num) (mul_zpow_pos hm' e'), ← hp']
    exact_mod_cast hlt t' ht'
  have := hall neg m e hmem hm
  omega

/-- R100: the sum in the window below the largest product. -/
theorem isReal_groupSum_window (float : Bool) {E : ℤ} (hlt : ∀ t ∈ ts, |p t| < 2 ^ (E + 1)) (hle : ∃ t ∈ ts, 2 ^ E ≤ |p t|) :
    IsReal (groupSum true float ts)
      (ts.map (fun t => SignType.sign (p t) * (⌊|p t| / 2 ^ (E - 91)⌋ : ℝ) * 2 ^ (E - 91))).sum :=
  isReal_groupSum h float fun w hw t ht neg m e hf hp => by
    obtain rfl := lastPlace_window h hlt hle hw
    rw [hp, abs_signOf_mul, ← truncTo_eq_floor, Int.cast_natCast]
    by_cases hm : m = 0
    · simp [hm, truncTo]
    · have hpos := mul_zpow_pos hm e
      cases neg <;> simp [hpos]
end

end Sys2Proof.Machine
end

section
/-! SUPPORT. The transcendentals in real numbers (R107): reciprocal and reciprocal root as quotients with enough places and a mark
for what is left over, powers of two and their logarithms exactly. -/
namespace Sys2Proof.Machine

/-! The integer square root. -/

theorem isqrtAux_spec {x n r : Nat} (hle : r * r ≤ x) (hlt : x < (r + 2 ^ n) * (r + 2 ^ n)) :
    isqrtAux x n r * isqrtAux x n r ≤ x ∧ x < (isqrtAux x n r + 1) * (isqrtAux x n r + 1) := by
  induction n generalizing r with
  | zero => exact ⟨hle, hlt⟩
  | succ n ih =>
    rw [isqrtAux]
    split_ifs with h
    · exact ih h (by rwa [Nat.add_assoc, ← Nat.two_mul, ← Nat.pow_succ'])
    · exact ih hle (not_le.1 h)

theorem isqrt_eq_sqrt (x : Nat) : isqrt x = x.sqrt := by
  rw [Nat.eq_sqrt]
  refine isqrtAux_spec (Nat.zero_le x) ?_
  rw [Nat.zero_add, ← Nat.pow_add]
  exact lt_of_lt_of_le (Nat.lt_log2_self (n := x)) (Nat.pow_le_pow_right two_pos (by omega))

/-! Whole numbers in comparisons. -/

theorem compare_of_scaled {x y c : ℝ} {S T : Nat} (hc : 0 < c) (hx : x = S * c) (hy : y = T * c) : (x ≤ y ↔ S ≤ T) ∧ (x < y ↔ S < T) := by
  rw [hx, hy, mul_le_mul_iff_left₀ hc, mul_lt_mul_iff_left₀ hc, Nat.cast_le, Nat.cast_lt]
  exact ⟨Iff.rfl, Iff.rfl⟩

theorem two_pow_mul_le {m c d : Nat} (h : c + (m.log2 + 1) ≤ d) : 2 ^ c * m ≤ 2 ^ d :=
  calc 2 ^ c * m ≤ 2 ^ c * 2 ^ (m.log2 + 1) := Nat.mul_le_mul_left _ Nat.lt_log2_self.le
    _ = 2 ^ (c + (m.log2 + 1)) := (Nat.pow_add ..).symm
    _ ≤ 2 ^ d := Nat.pow_le_pow_right two_pos h

/-! What the functions come to for every format. -/

/-- The number of the largest finite encoding. -/
theorem top_eq_maxVal {f : Fmt} (hs : f.Sound) {top : ℝ} (h : HasValue f (f.maxEnc false) top) : top = f.maxVal := by
  rw [← enc_top hs, HasValue, fpDecode_enc hs (holds_top hs), isReal_fin_iff] at h
  simpa [Fmt.maxVal] using h

theorem rsqRound_even (f : Fmt) (r : Rnd) (sat : Bool) (m : Nat) (h : Int) : rsqRound f r sat m (2 * h) =
    roundFin f r sat false (isqrt (2 ^ (2 * (m.log2 + 64)) / m)) (-((m.log2 + 64 : ℕ) : ℤ) - h)
      (isqrt (2 ^ (2 * (m.log2 + 64)) / m) * isqrt (2 ^ (2 * (m.log2 + 64)) / m) * m ≠ 2 ^ (2 * (m.log2 + 64))) := by
  simp [rsqRound]

theorem rsqRound_odd (f : Fmt) (r : Rnd) (sat : Bool) (m : Nat) (h : Int) : rsqRound f r sat m (2 * h + 1) = rsqRound f r sat (2 * m) (2 * h) := by
  simp [rsqRound]

/-- Far below the last place only the mark of what is left over counts. -/
theorem roundFin_tiny (f : Fmt) (r : Rnd) (sat neg : Bool) {e e' : Int} (he : e < f.minQ) (he' : e' < f.minQ) :
    roundFin f r sat neg 0 e true = roundFin f r sat neg 0 e' true := by
  have hq {e : Int} (he : e < f.minQ) : max (e + (Nat.log2 0 : Int)) (1 - f.bias) - f.frac = f.minQ := by
    simp only [Fmt.minQ, Nat.log2_zero] at he ⊢; omega
  have hup {sh : Nat} (h : 0 < sh) : roundUp r neg 0 sh true = roundUp r neg 0 1 true := by
    have : (0 : Nat) ≠ 2 ^ (sh - 1) := (Nat.two_pow_pos _).ne
    cases r <;> simp [roundUp, this]
  rw [roundFin_eq f r sat neg (.inr rfl) (hq he), roundFin_eq f r sat neg (.inr rfl) (hq he'), hup (sh := (f.minQ - e).toNat) (by omega),
    hup (sh := (f.minQ - e').toNat) (by omega), if_neg (by omega), if_neg (by omega), Nat.zero_div, Nat.zero_div]

/-- A whole exponent that is not too large gives its power of two. -/
theorem exp2Round_of_int (f : Fmt) (r : Rnd) (sat : Bool) {neg : Bool} {m : Nat} {e k : Int} (hk : signOf neg * (m * 2 ^ e) = k)
    (hbig : ¬ (m ≠ 0 ∧ 12 ≤ ilog m e)) (he : -(fixP : Int) ≤ e) :
    exp2Round f r sat neg m e = roundFin f r sat false 1 k false := by
  have hP : ((2 ^ fixP : ℕ) : ℤ) ≠ 0 := by exact_mod_cast (Nat.two_pow_pos fixP).ne'
  have hq : (if 0 ≤ e then atExp neg m e 0 * 2 ^ fixP else if -e ≤ (fixP : Int) then atExp neg m (e + fixP) 0 else if neg then -1 else 0) =
      k * ((2 ^ fixP : ℕ) : ℤ) := by
    split_ifs with h0 h1
    · have := atExp_mul (neg := neg) (m := m) h0
      rw [hk, zpow_zero, mul_one] at this
      rw [Int.cast_inj.1 this]; push_cast; rfl
    · have := atExp_mul (neg := neg) (m := m) (show 0 ≤ e + (fixP : Int) by omega)
      rw [zpow_add₀ two_ne_zero, ← mul_assoc (m : ℝ), ← mul_assoc, hk, zpow_zero, mul_one, zpow_natCast] at this
      exact_mod_cast this
    · omega
    · omega
  have hb : (decide (m ≠ 0) && decide (12 ≤ ilog m e)) = false := by simpa using hbig
  simp only [exp2Round, hb, hq, Bool.false_eq_true, if_false, Int.mul_ediv_cancel k hP, Int.mul_emod_left, Int.toNat_zero]
  have hle : -e ≤ (fixP : Int) := by omega
  exact if_pos (by simp [hle])

/-! The formats of the transcendentals (R107). -/

def xcFormats : List Fmt := [fmtF32, fmtF16, fmtBF16]

section
variable {f : Fmt} (hf : f ∈ xcFormats)
include hf

theorem mem_formats_of_xc : f ∈ formats := (by decide : ∀ f ∈ xcFormats, f ∈ formats) f hf
theorem sound_of_xc : f.Sound := sound_of_mem (mem_formats_of_xc hf)

theorem xc_frac_lt : f.frac < 31 := (by decide : ∀ f ∈ xcFormats, f.frac < 31) f hf
theorem xc_le_minQ : -149 ≤ f.minQ := (by decide : ∀ f ∈ xcFormats, -149 ≤ f.minQ) f hf
theorem xc_le_top : 8 ≤ f.topQ + f.frac := (by decide : ∀ f ∈ xcFormats, 8 ≤ f.topQ + f.frac) f hf
theorem xc_top_le : f.topQ + f.frac ≤ 127 := (by decide : ∀ f ∈ xcFormats, f.topQ + f.frac ≤ 127) f hf

theorem pow_le_maxVal : (2 : ℝ) ^ (8 : ℤ) ≤ f.maxVal := by
  have hs := sound_of_xc hf
  calc (2 : ℝ) ^ (8 : ℤ) ≤ 2 ^ (f.topQ + f.frac) := zpow_le_zpow_right₀ one_le_two (xc_le_top hf)
    _ = (2 ^ f.frac : ℕ) * 2 ^ f.topQ := by rw [zpow_add₀ two_ne_zero, zpow_natCast, mul_comm]; push_cast; rfl
    _ ≤ f.maxVal := mul_le_mul_of_nonneg_right (by exact_mod_cast hs.le_top) (by positivity)

theorem maxVal_lt_pow : f.maxVal < (2 : ℝ) ^ (128 : ℤ) := by
  have hs := sound_of_xc hf
  have hb := xc_top_le hf
  calc f.maxVal < (2 ^ (f.frac + 1) : ℕ) * 2 ^ f.topQ := mul_lt_mul_of_pos_right (by exact_mod_cast hs.top_lt) (by positivity)
    _ = 2 ^ (f.topQ + (f.frac + 1 : ℕ)) := by rw [zpow_add₀ two_ne_zero, zpow_natCast, mul_comm]; push_cast; rfl
    _ ≤ 2 ^ (128 : ℤ) := zpow_le_zpow_right₀ one_le_two (by push_cast; omega)

theorem lt_of_pow_le_maxVal {k : ℤ} (h : (2 : ℝ) ^ k ≤ f.maxVal) : k < 128 :=
  (zpow_lt_zpow_iff_right₀ one_lt_two).1 (h.trans_lt (maxVal_lt_pow hf))

/-- More places than the format has. -/
theorem brackets_of_bits {m : Nat} {e : Int} {sticky : Bool} {a : ℝ} (hm : 2 ^ 31 ≤ m) (hle : m * 2 ^ e ≤ a) (hlt : a < (m + 1) * 2 ^ e)
    (hs : sticky = true ↔ m * 2 ^ e < a) : Brackets f m e sticky a where
  pos := lt_of_lt_of_le (by have : 0 < m := lt_of_lt_of_le (by decide) hm; positivity) hle
  le := hle
  lt := hlt
  sticky_iff := hs
  fine := fun _ => by
    have hlog := log_of_bracket (by rintro rfl; exact absurd hm (by decide)) hle hlt
    have h31 : 31 ≤ m.log2 := (Nat.le_log2 (by rintro rfl; exact absurd hm (by decide))).2 hm
    have := xc_frac_lt hf
    have := le_max_left (Int.log 2 a) (1 - (f.bias : Int))
    simp only [Fmt.spacing]
    omega

/-- Places taken from a comparison of whole numbers. -/
theorem brackets_of_compare {q : Nat} {e : Int} {sticky : Bool} {a : ℝ} {S : Nat → Nat} {T : Nat} (hbits : 2 ^ 31 ≤ q)
    (h : ∀ N : Nat, (N * 2 ^ e ≤ a ↔ S N ≤ T) ∧ (N * 2 ^ e < a ↔ S N < T)) (hle : S q ≤ T) (hlt : T < S (q + 1))
    (hs : sticky = true ↔ S q < T) : Brackets f q e sticky a :=
  brackets_of_bits hf hbits ((h q).1.2 hle) (not_le.1 fun hge => not_le.2 hlt ((h (q + 1)).1.1 (by push_cast; exact hge)))
    (hs.trans (h q).2.symm)

/-! 1/x. -/

theorem brackets_rcp {m : Nat} (hm : m ≠ 0) (e : Int) : Brackets f (2 ^ (m.log2 + 64) / m) (-((m.log2 + 64 : ℕ) : ℤ) - e)
    (decide (2 ^ (m.log2 + 64) % m ≠ 0)) (1 / (m * 2 ^ e)) := by
  have hpos : 0 < m := Nat.pos_of_ne_zero hm
  have hdiv := Nat.div_add_mod' (2 ^ (m.log2 + 64)) m
  have hmod := Nat.mod_lt (2 ^ (m.log2 + 64)) hpos
  refine brackets_of_compare hf (S := (· * m)) (T := 2 ^ (m.log2 + 64)) ?_ (fun N => ?_) ?_ ?_ ?_
  · rw [Nat.le_div_iff_mul_le hpos]
    exact two_pow_mul_le (by omega)
  · refine compare_of_scaled (c := 2 ^ (-((m.log2 + 64 : ℕ) : ℤ) - e) / m) (by positivity) ?_ ?_
    · push_cast; field_simp
    · rw [zpow_sub₀ two_ne_zero, zpow_neg, zpow_natCast]
      push_cast; field_simp
  · omega
  · simp only [Nat.add_mul]; omega
  · simp only [decide_eq_true_eq]; omega

/-! 1/√x. -/

theorem brackets_rsq {m : Nat} (hm : m ≠ 0) (h : Int) : Brackets f (isqrt (2 ^ (2 * (m.log2 + 64)) / m)) (-((m.log2 + 64 : ℕ) : ℤ) - h)
    (decide (isqrt (2 ^ (2 * (m.log2 + 64)) / m) * isqrt (2 ^ (2 * (m.log2 + 64)) / m) * m ≠ 2 ^ (2 * (m.log2 + 64))))
    (1 / √(m * 2 ^ (2 * h))) := by
  have hpos : 0 < m := Nat.pos_of_ne_zero hm
  rw [isqrt_eq_sqrt]
  have hle := Nat.sqrt_le (2 ^ (2 * (m.log2 + 64)) / m)
  have hlt := Nat.lt_succ_sqrt (2 ^ (2 * (m.log2 + 64)) / m)
  rw [Nat.le_div_iff_mul_le hpos] at hle
  rw [Nat.div_lt_iff_lt_mul hpos] at hlt
  refine brackets_of_compare hf (S := fun N => N * N * m) (T := 2 ^ (2 * (m.log2 + 64))) ?_ (fun N => ?_) hle hlt ?_
  · rw [Nat.le_sqrt, Nat.le_div_iff_mul_le hpos]
    exact Nat.pow_add 2 31 31 ▸ two_pow_mul_le (by omega)
  · have hN : (0 : ℝ) ≤ N * 2 ^ (-((m.log2 + 64 : ℕ) : ℤ) - h) := mul_nonneg (Nat.cast_nonneg N) (zpow_nonneg two_pos.le _)
    have ha : (0 : ℝ) ≤ 1 / √(m * 2 ^ (2 * h)) := by positivity
    rw [← pow_le_pow_iff_left₀ hN ha two_ne_zero, ← pow_lt_pow_iff_left₀ hN ha two_ne_zero]
    refine compare_of_scaled (c := (2 ^ (-((m.log2 + 64 : ℕ) : ℤ) - h)) ^ 2 / m) (by positivity) ?_ ?_
    · push_cast; field_simp
    · rw [div_pow, Real.sq_sqrt (by positivity), zpow_sub₀ two_ne_zero, zpow_neg, zpow_natCast, mul_comm 2 h, zpow_mul,
        mul_comm 2 (m.log2 + 64), pow_mul]
      push_cast; field_simp
  · simp only [decide_eq_true_eq]; omega

/-- The reciprocal root of a significand with an even exponent. -/
theorem rsqRound_even_roundsTo (r : Rnd) (sat : Bool) {m : Nat} (hm : m ≠ 0) (h : Int) (hmax : 1 / √(m * 2 ^ (2 * h)) ≤ f.maxVal) :
    RoundsTo f r (1 / √(m * 2 ^ (2 * h))) (rsqRound f r sat m (2 * h)) := by
  rw [rsqRound_even]
  simpa using roundFin_roundsTo (sound_of_xc hf) r sat false (brackets_rsq hf hm h) hmax

/-! Powers of two far below the last place. -/

theorem roundFin_tiny_roundsTo (r : Rnd) (sat : Bool) {e k : Int} (he : e < f.minQ) (hk : k + 1 < f.minQ) (hmax : (2 : ℝ) ^ k ≤ f.maxVal) :
    RoundsTo f r (2 ^ k) (roundFin f r sat false 0 e true) := by
  have hpos : (0 : ℝ) < 2 ^ k := zpow_pos two_pos k
  have hb : Brackets f 0 (k + 1) true (2 ^ k) :=
    ⟨hpos, by simpa using hpos.le, by rw [zpow_add_one₀ two_ne_zero]; push_cast; linarith, by simpa using hpos,
      fun _ => hk.trans_le (minQ_le_spacing f)⟩
  rw [roundFin_tiny f r sat false he hk]
  simpa using roundFin_roundsTo (sound_of_xc hf) r sat false hb hmax

/-! What is delivered for an encoding's number. -/

variable (r : Rnd) (sat : Bool) {y : Nat} {x : ℝ} (hx : HasValue f y x)
include hx

theorem exists_fin_of_hasValue : ∃ neg m e, fpDecode f y = .fin neg m e ∧ x = signOf neg * (m * 2 ^ e) ∧ -149 ≤ e := by
  obtain ⟨neg, m, e, hd, hv⟩ := exists_fin_of_isReal hx
  exact ⟨neg, m, e, hd, hv, (xc_le_minQ hf).trans (holds_of_fpDecode (sound_of_xc hf) hd).1.minQ_le⟩

theorem fpRcp_roundsTo (h0 : x ≠ 0) (hmax : |1 / x| ≤ f.maxVal) : RoundsTo f r (1 / x) (fpRcp f r sat (fpDecode f y)) := by
  obtain ⟨neg, m, e, hd, rfl, -⟩ := exists_fin_of_hasValue hf hx
  have hm : m ≠ 0 := by rintro rfl; simp at h0
  have hinv : 1 / (signOf neg * (m * (2 : ℝ) ^ e)) = signOf neg * (1 / (m * 2 ^ e)) := by
    cases neg <;> simp
  have hb := brackets_rcp hf hm e
  rw [hinv, abs_mul, abs_signOf, one_mul, abs_of_pos hb.pos] at hmax
  rw [hd, fpRcp, if_neg hm, rcpRound, hinv]
  exact roundFin_roundsTo (sound_of_xc hf) r sat neg hb hmax

theorem fpRsq_roundsTo (h0 : 0 < x) (hmax : 1 / √x ≤ f.maxVal) : RoundsTo f r (1 / √x) (fpRsq f r sat (fpDecode f y)) := by
  obtain ⟨neg, m, e, hd, rfl, -⟩ := exists_fin_of_hasValue hf hx
  obtain ⟨rfl, hm⟩ := sign_of_pos h0
  rw [signOf_false, one_mul] at hmax ⊢
  rw [hd, fpRsq, if_neg hm, if_neg Bool.false_ne_true]
  rcases Int.even_or_odd' e with ⟨h, rfl | rfl⟩
  · exact rsqRound_even_roundsTo hf r sat hm h hmax
  · have htwice : (m : ℝ) * 2 ^ (2 * h + 1) = (2 * m : ℕ) * 2 ^ (2 * h) := by
      rw [zpow_add_one₀ two_ne_zero]; push_cast; ring
    rw [htwice] at hmax ⊢
    rw [rsqRound_odd]
    exact rsqRound_even_roundsTo hf r sat (by omega) h hmax

/-! Powers of two and their logarithms. -/

/-- The logarithm of a power of two is exact. -/
theorem fpLog2_pow {k : ℤ} (hk : x = 2 ^ k) : fpLog2 f r sat (fpDecode f y) = fpRound f r sat (ofInt k 0 false) ∧ -149 ≤ k ∧ k < 128 := by
  have hmax : k < 128 := lt_of_pow_le_maxVal hf (by
    have := abs_le_max (sound_of_xc hf) hx
    rwa [hk, abs_of_pos (zpow_pos two_pos k)] at this)
  obtain ⟨neg, m, e, hd, hv, he⟩ := exists_fin_of_hasValue hf hx
  have hpos : (0 : ℝ) < 2 ^ k := zpow_pos two_pos k
  obtain ⟨rfl, hm⟩ := sign_of_pos (neg := neg) (m := m) (e := e) (by rwa [← hv, hk])
  have hval : (m : ℝ) * 2 ^ e = 2 ^ k := by rw [← hk, hv, signOf_false, one_mul]
  have hlog : ilog m e = k := by rw [← log_eq_ilog hm, hval]; simpa using Int.log_zpow (R := ℝ) (b := 2) (by norm_num) k
  have hpow : m = 2 ^ m.log2 := by
    rw [← hlog, ilog, zpow_add₀ two_ne_zero, mul_comm, mul_right_inj' (zpow_ne_zero e two_ne_zero), zpow_natCast] at hval
    exact_mod_cast hval
  refine ⟨?_, by rw [← hlog, ilog]; omega, hmax⟩
  rw [hd, fpLog2, if_neg hm, if_neg Bool.false_ne_true, log2Round, if_pos hpow, hlog]

theorem fpLog2_roundsTo {k : ℤ} (hk : x = 2 ^ k) (h0 : k ≠ 0) : RoundsTo f r k (fpLog2 f r sat (fpDecode f y)) := by
  obtain ⟨hlog, hlo, hhi⟩ := fpLog2_pow hf r sat hx hk
  have hreal : IsReal (ofInt k 0 false) k := by simpa using isReal_ofInt k 0 false
  rw [hlog]
  refine fpRound_roundsTo (sound_of_xc hf) r sat hreal (by exact_mod_cast h0) (le_trans ?_ (pow_le_maxVal hf))
  have : |k| ≤ 256 := by rw [abs_le]; omega
  calc |(k : ℝ)| ≤ 256 := by exact_mod_cast this
    _ = 2 ^ (8 : ℤ) := by norm_num

theorem fpLog2_one (h1 : x = 1) : fpLog2 f r sat (fpDecode f y) = 0 := by
  rw [(fpLog2_pow hf r sat hx (k := 0) (by simp [h1])).1]
  exact roundFin_zero f r sat false rfl 0

theorem fpExp2_roundsTo {k : ℤ} (hk : x = k) (hmax : (2 : ℝ) ^ k ≤ f.maxVal) : RoundsTo f r (2 ^ k) (fpExp2 f r sat (fpDecode f y)) := by
  obtain ⟨neg, m, e, hd, hv, he⟩ := exists_fin_of_hasValue hf hx
  rw [hd, fpExp2]
  rw [hk, eq_comm] at hv
  by_cases hbig : m ≠ 0 ∧ 12 ≤ ilog m e
  · obtain ⟨hm, hlog⟩ := hbig
    have habs : (2 : ℝ) ^ (12 : ℤ) ≤ |(k : ℝ)| := by
      rw [← hv, abs_signOf_mul]
      rw [← log_eq_ilog hm, ← Int.zpow_le_iff_le_log (by norm_num) (mul_zpow_pos hm e)] at hlog
      exact_mod_cast hlog
    have hk12 : 2 ^ 12 ≤ |k| := by exact_mod_cast habs
    have hlt := lt_of_pow_le_maxVal hf hmax
    have hneg : k < 0 := by
      rcases abs_choice k with h | h <;> omega
    obtain rfl := sign_of_neg (neg := neg) (m := m) (e := e) (by rw [hv]; exact_mod_cast hneg)
    have hb : (decide (m ≠ 0) && decide (12 ≤ ilog m e)) = true := by simp [hm, hlog]
    have hmin := xc_le_minQ hf
    simp only [exp2Round, hb, if_true]
    exact roundFin_tiny_roundsTo hf r sat (by omega) (by rw [abs_of_neg hneg] at hk12; omega) hmax
  · have := brackets_exact f one_ne_zero k
    rw [Nat.cast_one, one_mul] at this
    rw [exp2Round_of_int f r sat hv hbig (by simp only [fixP]; omega)]
    simpa using roundFin_roundsTo (sound_of_xc hf) r sat false this hmax

end

/-- Settles O18: sums, products and comparisons, then group sums, the accumulation as it stands, and the transcendentals. -/
theorem operationsAreExact : Obligations.OperationsAreExact := by
  unfold Obligations.OperationsAreExact
  refine ⟨fun r a b x y ha hb => operations_exact r ha hb,
    fun float ts p h => ⟨isReal_groupSum_exact h float, isReal_groupSum_zero h float, fun E hlt hle => isReal_groupSum_window h float hlt hle⟩,
    fun c g => rfl, fun f hmem r sat y x top hx htop => ?_⟩
  obtain rfl : top = f.maxVal := top_eq_maxVal (sound_of_xc hmem) htop
  exact ⟨fpRcp_roundsTo hmem r sat hx, fpRsq_roundsTo hmem r sat hx, fun k hk => fpExp2_roundsTo hmem r sat hx hk,
    fun k hk => fpLog2_roundsTo hmem r sat hx hk, fpLog2_one hmem r sat hx⟩

end Sys2Proof.Machine
end

section
/-! SUPPORT. Scalar values: the integers that R117 reads from registers are those of the low bits as bit vectors, and FIT gives
back the bit vector of an integer, widened. -/
namespace Sys2Proof.Machine

/-! Integers of bit vectors. -/

theorem sx_eq_toInt (w x : Nat) : sx w x = (BitVec.ofNat w x).toInt := by
  simp only [sx, BitVec.toInt, BitVec.toNat_ofNat]

theorem wrapInt_eq_toNat (w : Nat) (x : Int) : wrapInt w x = (BitVec.ofInt w x).toNat := by
  rw [wrapInt, BitVec.toNat_ofInt]

theorem tyWidth_le (t : Ty) : tyWidth t ≤ 64 := by cases t <;> decide

theorem toNat_low (t : Ty) (v : Word) : (low t v).toNat = opU v t := BitVec.toNat_setWidth ..

theorem toInt_low (t : Ty) (v : Word) : (low t v).toInt = opS v t := by
  rw [opS, sx_eq_toInt, BitVec.ofNat_toNat, low]

/-- A type's signedness where code 0 is signed. -/
theorem signedTy_true (t : Ty) : signedTy t true = sgnOf t := by
  cases t <;> rfl

theorem opX_eq (v : Word) (t : Ty) : opX v t true = if sgnOf t then (low t v).toInt else ((low t v).toNat : Int) := by
  rw [opX, signedTy_true, toInt_low, toNat_low]
  rfl

/-- The low bits of a register are the bit vector of its integer, whatever the signedness. -/
theorem ofInt_opX (v : Word) (t : Ty) : BitVec.ofInt (tyWidth t) (opX v t true) = low t v := by
  rw [opX_eq]
  split
  · exact BitVec.ofInt_toInt
  · rw [BitVec.ofInt_natCast, BitVec.ofNat_toNat, BitVec.setWidth_eq]

theorem opX_inj (t : Ty) (a b : Word) : opX a t true = opX b t true ↔ low t a = low t b :=
  ⟨fun h => by rw [← ofInt_opX, h, ofInt_opX], fun h => by rw [opX_eq, opX_eq, h]⟩

theorem opX_zero (t : Ty) (b : Word) : opX b t true = 0 ↔ low t b = 0 := by
  rw [show (0 : Int) = opX 0 t true by simp [opX_eq, low], opX_inj]
  simp [low]

/-! FIT. -/

theorem fit_eq (x : Int) (t : Ty) (dflt : Bool) : fit x t dflt = (wide (signedTy t dflt) (BitVec.ofInt (tyWidth t) x)).toNat := by
  simp only [fit, wide, wrapInt_eq_toNat]
  split
  · rw [sx_eq_toInt, BitVec.ofNat_toNat, BitVec.setWidth_eq, BitVec.signExtend]
  · rw [BitVec.toNat_setWidth_of_le (tyWidth_le t)]

/-- At 64 bits both extensions are the same. -/
theorem wide_sgnOf (t : Ty) (x : BitVec (tyWidth t)) : wide (sgnOf t) x = wide (tySigned t) x := by
  cases t
  case none => exact (BitVec.signExtend_eq x).trans (BitVec.setWidth_eq x).symm
  all_goals rfl

theorem fit_of_ofInt {x : Int} {t : Ty} {b : BitVec (tyWidth t)} (h : BitVec.ofInt (tyWidth t) x = b) :
    fit x t true = (wide (tySigned t) b).toNat := by
  rw [fit_eq, signedTy_true, h, wide_sgnOf]

theorem fit_natCast (t : Ty) (n : Nat) : fit (n : Int) t true = (wide (tySigned t) (BitVec.ofNat (tyWidth t) n)).toNat :=
  fit_of_ofInt (BitVec.ofInt_natCast ..)

/-! The results of the S slot. -/

theorem next_push_of_room {s : State} (h : Room s 1) {d : Dest} {v v' cls : Nat} (hv : v = v') :
    (.next (push s d v cls) : Res) = .next (withResult s d v' cls) := by
  rw [push_of_room s d v cls h, hv]

theorem execSR_of_room {f : SR} {s : State} (h : Room s 1) {cls : Nat} {g : Word → Word → Nat} {v : Nat}
    (hv : g (rdS s f.sa.val) (rdS s f.sb.val) = v) :
    (.next (execSR f s cls g) : Res) = .next (withResult s (.scalar f.sd.val) v cls) :=
  next_push_of_room h hv

theorem execSI_of_room {f : SI} {s : State} (h : Room s 1) {g : Word → Word → Nat} {v : Nat}
    (hv : g (rdS s f.sa.val) (f.imm.signExtend 64) = v) :
    (.next (execSI f s g) : Res) = .next (withResult s (.scalar f.sd.val) v 0) :=
  next_push_of_room h hv

section
variable (t : Ty) (a b : Word)

theorem fit_add : fit (opX a t true + opX b t true) t true = (wide (tySigned t) (low t a + low t b)).toNat :=
  fit_of_ofInt (by rw [BitVec.ofInt_add, ofInt_opX, ofInt_opX])

theorem fit_sub : fit (opX a t true - opX b t true) t true = (wide (tySigned t) (low t a - low t b)).toNat :=
  fit_of_ofInt (by rw [Int.sub_eq_add_neg, BitVec.ofInt_add, BitVec.ofInt_neg, ofInt_opX, ofInt_opX, BitVec.sub_eq_add_neg])

theorem fit_mul : fit (opX a t true * opX b t true) t true = (wide (tySigned t) (low t a * low t b)).toNat :=
  fit_of_ofInt (by rw [BitVec.ofInt_mul, ofInt_opX, ofInt_opX])

theorem fit_min (h : sgnOf t = true) : fit (min (opX a t true) (opX b t true)) t true =
    (wide true (if (low t b).slt (low t a) then low t b else low t a)).toNat := by
  rw [fit_eq, signedTy_true, h, min_comm, min_def_lt, apply_ite (BitVec.ofInt _), ofInt_opX, ofInt_opX, opX_eq, opX_eq, if_pos h, if_pos h]
  simp only [BitVec.slt_iff_toInt_lt]

theorem fit_max (h : sgnOf t = true) : fit (max (opX a t true) (opX b t true)) t true =
    (wide true (if (low t a).slt (low t b) then low t b else low t a)).toNat := by
  rw [fit_eq, signedTy_true, h, max_def_lt, apply_ite (BitVec.ofInt _), ofInt_opX, ofInt_opX, opX_eq, opX_eq, if_pos h, if_pos h]
  simp only [BitVec.slt_iff_toInt_lt]

theorem ofNat_opU : BitVec.ofNat (tyWidth t) (opU a t) = low t a := by
  rw [← toNat_low, BitVec.ofNat_toNat, BitVec.setWidth_eq]

theorem fit_minn (h : signedTy t false = false) : fit ((min (opU a t) (opU b t) : Nat) : Int) t false =
    (wide false (if (low t b).ult (low t a) then low t b else low t a)).toNat := by
  rw [fit_eq, h, BitVec.ofInt_natCast, min_comm, min_def_lt, apply_ite (BitVec.ofNat _), ofNat_opU, ofNat_opU, ← toNat_low, ← toNat_low]
  simp only [BitVec.ult_iff_lt, BitVec.lt_def]

theorem fit_maxn (h : signedTy t false = false) : fit ((max (opU a t) (opU b t) : Nat) : Int) t false =
    (wide false (if (low t a).ult (low t b) then low t b else low t a)).toNat := by
  rw [fit_eq, h, BitVec.ofInt_natCast, max_def_lt, apply_ite (BitVec.ofNat _), ofNat_opU, ofNat_opU, ← toNat_low, ← toNat_low]
  simp only [BitVec.ult_iff_lt, BitVec.lt_def]

theorem fitBits_eq : fitBits t a = (wide (tySigned t) (low t a)).toNat := by
  rw [fitBits, fit_natCast]
  exact congrArg (fun x => (wide (tySigned t) x).toNat) (ofNat_opU t a)

theorem shlVal_eq (n : Nat) : shlVal t a n = (wide (tySigned t) (low t a <<< n)).toNat := by
  rw [shlVal, fit_natCast, ← toNat_low, ← Nat.shiftLeft_eq]
  rfl

theorem shrVal_eq (n : Nat) : shrVal t a n = (wide (tySigned t) (low t a >>> n)).toNat := by
  rw [shrVal, fit_natCast, ← toNat_low, ← Nat.shiftRight_eq_div_pow, ← BitVec.toNat_ushiftRight, BitVec.ofNat_toNat, BitVec.setWidth_eq]

theorem sarVal_eq (n : Nat) : sarVal t a n = (wide (tySigned t) ((low t a).sshiftRight n)).toNat :=
  fit_of_ofInt (by rw [← toInt_low, ← Int.shiftRight_eq_div_pow, BitVec.sshiftRight])

end

/-! The high half of a product. -/

theorem extractLsb'_ofInt (w : Nat) (z : Int) : (BitVec.ofInt (2 * w) z).extractLsb' w w = BitVec.ofInt w (z / 2 ^ w) := by
  have hp : (0 : Int) < 2 ^ w := by positivity
  have hpp : (0 : Int) < 2 ^ (2 * w) := by positivity
  apply BitVec.eq_of_toNat_eq
  rw [BitVec.extractLsb'_toNat, Nat.shiftRight_eq_div_pow, BitVec.toNat_ofInt, BitVec.toNat_ofInt, ← Int.toNat_natCast (_ % 2 ^ w)]
  push_cast
  rw [Int.toNat_of_nonneg (Int.emod_nonneg _ hpp.ne'), Int.emod_def z, two_mul, pow_add, mul_assoc, Int.sub_mul_ediv_left _ _ hp.ne',
    Int.sub_mul_emod_self_left]

theorem mulh_eq (t : Ty) (a b : Word) (h : sgnOf t = true) : fit (opX a t true * opX b t true / ((2 ^ tyWidth t : Nat) : Int)) t true =
    (wide true (((low t a).signExtend (2 * tyWidth t) * (low t b).signExtend (2 * tyWidth t)).extractLsb' (tyWidth t) (tyWidth t))).toNat := by
  rw [BitVec.signExtend, BitVec.signExtend, ← BitVec.ofInt_mul, extractLsb'_ofInt, fit_eq, signedTy_true, h, opX_eq, opX_eq, if_pos h, if_pos h]
  push_cast
  rfl

theorem mulhn_eq (t : Ty) (a b : Word) (h : signedTy t false = false) :
    fit ((opU a t * opU b t / 2 ^ tyWidth t : Nat) : Int) t false =
    (wide false (((low t a).setWidth (2 * tyWidth t) * (low t b).setWidth (2 * tyWidth t)).extractLsb' (tyWidth t) (tyWidth t))).toNat := by
  rw [← BitVec.ofNat_toNat, ← BitVec.ofNat_toNat, ← BitVec.ofNat_mul, ← BitVec.ofInt_natCast, extractLsb'_ofInt, fit_eq, h, toNat_low, toNat_low]
  push_cast
  rfl

/-! Division. -/

theorem ofInt_tdiv (t : Ty) (a b : Word) : BitVec.ofInt (tyWidth t) ((opX a t true).tdiv (opX b t true)) =
    if sgnOf t then (low t a).sdiv (low t b) else (low t a).udiv (low t b) := by
  rw [opX_eq, opX_eq]
  split
  · apply BitVec.eq_of_toInt_eq
    rw [BitVec.toInt_ofInt, BitVec.toInt_sdiv]
  · rw [← Int.ofNat_tdiv, BitVec.ofInt_natCast, ← BitVec.toNat_udiv, BitVec.ofNat_toNat, BitVec.setWidth_eq]
    rfl

theorem ofInt_tmod (t : Ty) (a b : Word) : BitVec.ofInt (tyWidth t) ((opX a t true).tmod (opX b t true)) =
    if sgnOf t then (low t a).srem (low t b) else (low t a).umod (low t b) := by
  rw [opX_eq, opX_eq]
  split
  · rw [← BitVec.toInt_srem, BitVec.ofInt_toInt]
  · rw [← Int.ofNat_tmod, BitVec.ofInt_natCast, ← BitVec.toNat_umod, BitVec.ofNat_toNat, BitVec.setWidth_eq]
    rfl

theorem divVal_eq (t : Ty) (a b : Word) : divVal t a b = (wide (sgnOf t) (quotient t (low t a) (low t b))).toNat := by
  simp only [divVal, quotient, opX_zero, fit_eq, signedTy_true, ofInt_tdiv]
  by_cases hb : low t b = 0
  · rw [if_pos hb, if_pos hb]
    cases hs : sgnOf t
    · rw [if_neg Bool.false_ne_true, wide, if_neg Bool.false_ne_true, BitVec.toNat_setWidth_of_le (tyWidth_le t), BitVec.toNat_allOnes]
    · rw [if_pos rfl, BitVec.ofInt_neg, ← Int.natCast_one, BitVec.ofInt_natCast, BitVec.neg_one_eq_allOnes]
  · rw [if_neg hb, if_neg hb]

theorem remVal_eq (t : Ty) (a b : Word) : remVal t a b = (wide (sgnOf t) (remainder t (low t a) (low t b))).toNat := by
  simp only [remVal, remainder, opX_zero, fit_eq, signedTy_true, ← Int.tmod_def, ofInt_tmod, ofInt_opX]
  split <;> rfl

/-! An update of the core's own fields. -/

/-- Replacing the core by one with the same contexts leaves the acting context as it was. -/
theorem me_setMyCore {s : State} {v : Core} (h : v.ctx s.cur.ctx = s.me) : (s.setMyCore v).me = s.me := by
  rw [State.me, State.setMyCore, State.ctx, State.setCore_cur, State.core_setCore_same, h]

theorem occupyDiv_me (s : State) : (occupyDiv s).me = s.me := me_setMyCore rfl
theorem occupyPort_me (s : State) (n : Nat) : (occupyPort s n).me = s.me := me_setMyCore rfl

theorem room_of_me {s t : State} (h : t.me = s.me) {n : Nat} (hr : Room s n) : Room t n := by
  rwa [Room, State.arch, h]

theorem rdS_of_me {s t : State} (h : t.me = s.me) (n : Nat) : rdS t n = rdS s n := by
  rw [rdS, rdS, State.arch, h, ← State.arch]

/-! What the operand checks of the typed forms say. -/

theorem sgnOf_of_ckSR {f : SR} (h : ckSR [.none, .i32] f = []) : sgnOf f.ty = true := by
  obtain ⟨hty, -⟩ := List.append_eq_nil_iff.1 h
  revert hty
  cases f.ty <;> decide

theorem signedTy_of_ckSR {f : SR} (h : ckSR [.none, .n32] f = []) : signedTy f.ty false = false := by
  obtain ⟨hty, -⟩ := List.append_eq_nil_iff.1 h
  revert hty
  cases f.ty <;> decide

/-- Settles O1: each value is FIT of an integer whose bit vector is the one that the statement names. -/
theorem scalarArithmetic : Obligations.ScalarArithmetic := by
  unfold Obligations.ScalarArithmetic
  intro s h
  refine ⟨fun f => execSR_of_room h (fit_add ..), fun f => execSR_of_room h (fit_sub ..), fun f => execSR_of_room h (fit_mul ..),
    fun f => execSI_of_room h (fit_add ..), fun f hf => execSR_of_room h (mulh_eq _ _ _ (sgnOf_of_ckSR hf)),
    fun f hf => execSR_of_room h (mulhn_eq _ _ _ (signedTy_of_ckSR hf)), fun f => ?_⟩
  have hr := room_of_me (occupyDiv_me s) h
  have ha := rdS_of_me (occupyDiv_me s)
  exact ⟨execSR_of_room hr (by rw [divVal_eq, ha, ha]), execSR_of_room hr (by rw [remVal_eq, ha, ha])⟩

/-- Settles O2: a bitwise operation commutes with taking the low bits, and a shift is one of the low bits' integer. -/
theorem scalarBitwiseAndShifts : Obligations.ScalarBitwiseAndShifts := by
  unfold Obligations.ScalarBitwiseAndShifts
  intro s h
  have bits {t : Ty} {v : Word} {x : BitVec (tyWidth t)} (hx : low t v = x) : fitBits t v = (wide (tySigned t) x).toNat := hx ▸ fitBits_eq t v
  exact ⟨fun f => execSR_of_room h (bits BitVec.setWidth_and), fun f => execSR_of_room h (bits BitVec.setWidth_or),
    fun f => execSR_of_room h (bits BitVec.setWidth_xor),
    fun f => execSR_of_room h (bits (BitVec.setWidth_and.trans (congrArg _ (BitVec.setWidth_not (tyWidth_le _))))),
    fun f => execSI_of_room h (bits BitVec.setWidth_and), fun f => execSI_of_room h (bits BitVec.setWidth_or),
    fun f => execSI_of_room h (bits BitVec.setWidth_xor), fun f => execSR_of_room h (shlVal_eq ..), fun f => execSR_of_room h (shrVal_eq ..),
    fun f => execSR_of_room h (sarVal_eq ..), fun f => execSI_of_room h (shlVal_eq ..), fun f => execSI_of_room h (shrVal_eq ..),
    fun f => execSI_of_room h (sarVal_eq ..)⟩

/-! Counts of bits. -/

theorem getLsbD_low (t : Ty) (v : Word) (i : Nat) : (low t v).getLsbD i = (opU v t).testBit i := by
  rw [← toNat_low, BitVec.testBit_toNat]

theorem clzNat_spec (x n : Nat) : clzNat x n ≤ n ∧ (∀ i, n - clzNat x n ≤ i → i < n → x.testBit i = false) ∧
    (clzNat x n < n → x.testBit (n - 1 - clzNat x n) = true) := by
  induction n with
  | zero => simp [clzNat]
  | succ n ih =>
    obtain ⟨hle, hzero, hone⟩ := ih
    rw [clzNat]
    by_cases hx : x.testBit n = true
    · rw [if_pos hx]
      exact ⟨Nat.zero_le _, fun i h1 h2 => by omega, fun _ => hx⟩
    · rw [if_neg hx]
      refine ⟨by omega, fun i h1 h2 => ?_, fun h => ?_⟩
      · rcases Nat.lt_succ_iff_lt_or_eq.1 h2 with h2 | rfl
        · exact hzero i (by omega) h2
        · exact Bool.eq_false_iff.2 hx
      · rw [show n + 1 - 1 - (1 + clzNat x n) = n - 1 - clzNat x n by omega]
        exact hone (by omega)

theorem ctzFrom_spec (x i n : Nat) : ctzFrom x i n ≤ n ∧ (∀ j, j < ctzFrom x i n → x.testBit (i + j) = false) ∧
    (ctzFrom x i n < n → x.testBit (i + ctzFrom x i n) = true) := by
  induction n generalizing i with
  | zero => simp [ctzFrom]
  | succ n ih =>
    obtain ⟨hle, hzero, hone⟩ := ih (i + 1)
    rw [ctzFrom]
    by_cases hx : x.testBit i = true
    · rw [if_pos hx]
      exact ⟨Nat.zero_le _, fun j h => absurd h (Nat.not_lt_zero j), fun _ => hx⟩
    · rw [if_neg hx]
      refine ⟨by omega, fun j hj => ?_, fun h => ?_⟩
      · cases j with
        | zero => exact Bool.eq_false_iff.2 hx
        | succ j => rw [← Nat.add_assoc, Nat.add_right_comm]; exact hzero j (by omega)
      · rw [← Nat.add_assoc]
        exact hone (by omega)

theorem popCount_eq (x n : Nat) : popCount x n = ((List.range n).filter x.testBit).length := by
  induction n with
  | zero => rfl
  | succ n ih =>
    rw [popCount, ih, List.range_succ, List.filter_append, List.length_append, Nat.add_comm, List.filter_singleton, b2n]
    cases x.testBit n <;> rfl

/-! Moves. -/

theorem wrapInt_opS (t : Ty) (a : Word) : wrapInt 64 (opS a t) = (wide true (low t a)).toNat := by
  rw [wrapInt_eq_toNat, ← toInt_low]
  rfl

theorem opU_eq (t : Ty) (a : Word) : opU a t = (wide false (low t a)).toNat := by
  rw [← toNat_low, wide, if_neg Bool.false_ne_true, BitVec.toNat_setWidth_of_le (tyWidth_le t)]

/-- Settles O3: extrema compare the integers of the low bits, counts look at their bits one by one. -/
theorem scalarMoves : Obligations.ScalarMoves := by
  unfold Obligations.ScalarMoves
  intro s h
  refine ⟨fun f hf => execSR_of_room h (fit_min _ _ _ (sgnOf_of_ckSR hf)), fun f hf => execSR_of_room h (fit_max _ _ _ (sgnOf_of_ckSR hf)),
    fun f hf => execSR_of_room h (fit_minn _ _ _ (signedTy_of_ckSR hf)), fun f hf => execSR_of_room h (fit_maxn _ _ _ (signedTy_of_ckSR hf)),
    fun f => execSR_of_room h (wrapInt_opS _ _), fun f => execSR_of_room h (opU_eq _ _), fun f => execSR_of_room h rfl, fun f => ?_,
    fun f => next_push_of_room h rfl, fun f => ?_, fun f => ⟨?_, ?_, ?_⟩⟩
  · refine next_push_of_room h ?_
    rw [BitVec.toNat_add, BitVec.toNat_add, BitVec.toNat_shiftLeft, Nat.shiftLeft_eq, sx32, Nat.add_mod_mod, Nat.mod_add_mod]
  · refine next_push_of_room h ?_
    rw [BitVec.toNat_append, BitVec.toNat_setWidth, ← Nat.shiftLeft_eq, Nat.shiftLeft_add_eq_or_of_lt (Nat.mod_lt _ (by decide))]
  · obtain ⟨hle, hzero, hone⟩ := clzNat_spec (opU (rdS s f.sa.val) f.ty) (tyWidth f.ty)
    refine ⟨_, execSR_of_room h rfl, hle, fun i hi => ?_, fun hn => (getLsbD_low ..).trans (hone hn)⟩
    by_cases hw : i < tyWidth f.ty
    · exact (getLsbD_low ..).trans (hzero i hi hw)
    · exact BitVec.getLsbD_of_ge _ _ (Nat.le_of_not_lt hw)
  · obtain ⟨hle, hzero, hone⟩ := ctzFrom_spec (opU (rdS s f.sa.val) f.ty) 0 (tyWidth f.ty)
    simp only [Nat.zero_add, ← getLsbD_low] at hzero hone
    exact ⟨_, execSR_of_room h rfl, hle, hzero, hone⟩
  · refine execSR_of_room h ((popCount_eq ..).trans ?_)
    simp only [getLsbD_low]

/-! Compares and predicates. -/

theorem less_low (t : Ty) (a b : Word) : less (sgnOf t) (low t a) (low t b) = decide (opX a t true < opX b t true) := by
  rw [opX_eq, opX_eq, less]
  cases sgnOf t
  · simp [BitVec.ult]
  · rfl

/-- A condition on the integers is the one on their bit vectors. -/
theorem condHolds_opX (c : Cond) (t : Ty) (a b : Word) :
    condHolds c (opX a t true) (opX b t true) = holds c (sgnOf t) (low t a) (low t b) := by
  have he : (opX a t true == opX b t true) = (low t a == low t b) := by
    rw [Bool.eq_iff_iff, beq_iff_eq, beq_iff_eq, opX_inj]
  cases c
  case eq => exact he
  case ne => exact congrArg not he
  case lt => exact (less_low t a b).symm
  case le => rw [condHolds, holds, less_low, ← decide_not]; simp only [Int.not_lt]
  case gt => exact (less_low t b a).symm
  case ge => rw [condHolds, holds, less_low, ← decide_not]; simp only [Int.not_lt]

theorem zeroF_eq_nil {l : List Nat} : zeroF l = [] ↔ ∀ n ∈ l, n = 0 := by
  simp [zeroF]

theorem pair_ne_zero_of_pairR {n : Nat} (h : pairR n = []) : n ≠ 0 := by
  rintro rfl
  exact absurd h (by decide)

theorem b2n_eq_zero {b : Bool} (h : b2n b = 0) : b = false := by
  cases b
  · rfl
  · exact absurd h (by decide)

theorem fields_of_ckCmp {f : SC} (h : ckCmp f = []) : f.imm = 0 ∧ f.pair.val ≠ 0 := by
  simp only [ckCmp, List.append_eq_nil_iff, zeroF_eq_nil, List.forall_mem_singleton] at h
  exact ⟨BitVec.eq_of_toNat_eq h.2, pair_ne_zero_of_pairR h.1.1⟩

theorem fields_of_ckCmpi {f : SC} (h : ckCmpi f = []) : f.sb.val = 0 ∧ f.pair.val ≠ 0 := by
  simp only [ckCmpi, List.append_eq_nil_iff, zeroF_eq_nil, List.forall_mem_singleton] at h
  exact ⟨h.2, pair_ne_zero_of_pairR h.1.1⟩

theorem fields_of_ckSP {f : SP} (h : ckSP f = []) : f.val = false ∧ f.pair.val ≠ 0 := by
  simp only [ckSP, List.append_eq_nil_iff, zeroF_eq_nil, List.forall_mem_singleton] at h
  exact ⟨b2n_eq_zero h.2, pair_ne_zero_of_pairR h.1.1⟩

theorem fields_of_ckPset {f : SP} (h : ckPset f = []) :
    f.pa.val = 0 ∧ f.pb.val = 0 ∧ f.na = false ∧ f.nb = false ∧ f.pair.val ≠ 0 := by
  simp only [ckPset, List.append_eq_nil_iff, zeroF_eq_nil, List.forall_mem_cons] at h
  obtain ⟨hp, ha, hb, hna, hnb, -⟩ := h
  exact ⟨ha, hb, b2n_eq_zero hna, b2n_eq_zero hnb, pair_ne_zero_of_pairR hp⟩

/-- Settles O4: the unused fields by the operand checks, the outcomes by the conditions on the low bits. -/
theorem predicatePairs : Obligations.PredicatePairs := by
  unfold Obligations.PredicatePairs
  refine ⟨fun f => ⟨fields_of_ckCmp, fields_of_ckCmpi⟩, ?_, fun f => fields_of_ckPset, fun s h => ?_⟩
  · rintro f i (rfl | rfl | rfl) hw <;> exact fields_of_ckSP hw
  · have pair (n : Fin 16) (c d : Bool) (hcd : c = d) :
        (.next (pushPair s n.val c) : Res) = .next (withResult s (.pair n.val) (if d then 1 else 2) 0) :=
      next_push_of_room h (hcd ▸ rfl)
    exact ⟨fun f => pair _ _ _ (condHolds_opX ..), fun f => pair _ _ _ (condHolds_opX ..), fun f => pair _ _ _ rfl, fun f => pair _ _ _ rfl,
      fun f => pair _ _ _ rfl, fun f => pair _ _ _ rfl⟩

end Sys2Proof.Machine
end

section
/-! SUPPORT. Scalar buffer accesses: what a load takes, what a store withholds and when its bytes show, and the traps of an access
that is not fit. -/
namespace Sys2Proof.Machine

/-! Fit accesses. -/

theorem widen_eq (t : Ty) (x : Nat) : widen t x = (wide (tySigned t) (low t (BitVec.ofNat 64 x))).toNat := by
  have hlow : low t (BitVec.ofNat 64 x) = BitVec.ofNat (tyWidth t) x := BitVec.setWidth_ofNat_of_le (tyWidth_le t) x
  rw [hlow, widen, wide]
  split
  · rw [wrapInt_eq_toNat, sx_eq_toInt, BitVec.signExtend]
  · rw [BitVec.toNat_setWidth_of_le (tyWidth_le t), BitVec.toNat_ofNat]

theorem scalarLoad_of_clear {f : SI} {s : State} {sp : Space} (cls : Nat) (hr : Room s 1) (he : s.errs = [])
    (hc : Clear s sp (addrSI s f) (tyWidth f.ty / 8) (tyWidth f.ty / 8)) :
    scalarLoad f s sp cls = withResult s (.scalar f.sd.val)
      (wide (tySigned f.ty) (low f.ty (BitVec.ofNat 64 (leNat (seen s sp (addrSI s f) (tyWidth f.ty / 8)))))).toNat cls := by
  simp only [scalarLoad, accessFlaw_of_clear s sp _ _ _ hc, readEcc_clean s sp _ _ he, widen_eq]
  exact pushResult_of_room s _ _ _ _ hr

theorem scalarStore_of_clear {f : SI} {s : State} {sp : Space} (hc : Clear s sp (addrSI s f) (tyWidth f.ty / 8) (tyWidth f.ty / 8)) :
    scalarStore f s sp = withStore s sp (addrSI s f) (leBytes (tyWidth f.ty / 8) (rdS s f.sd.val).toNat) := by
  simp only [scalarStore, accessFlaw_of_clear s sp _ _ _ hc]
  rfl

/-! While the weight port is occupied every space is as before. -/

theorem addrSI_occupyPort (s : State) (n : Nat) (f : SI) : addrSI (occupyPort s n) f = addrSI s f := by
  rw [addrSI, addrSI, rdS_of_me (occupyPort_me s n)]

theorem spaceBounds_occupyPort (s : State) (n : Nat) (sp : Space) : spaceBounds (occupyPort s n) sp = spaceBounds s sp := by
  cases sp <;> simp only [spaceBounds, occupyPort_me]

theorem seen_occupyPort (s : State) (m : Nat) (sp : Space) (a n : Nat) : seen (occupyPort s m) sp a n = seen s sp a n := by
  have hb : spaceBase (occupyPort s m) sp = spaceBase s sp := by cases sp <;> rfl
  rw [seen, seen, hb, occupyPort_me]
  rfl

theorem clear_occupyPort {s : State} {sp : Space} {a n align : Nat} (h : Clear s sp a n align) (m : Nat) :
    Clear (occupyPort s m) sp a n align := by
  rwa [Clear, Inside, spaceBounds_occupyPort]

/-- Settles O5: each load is the shared one, LDW's in the state whose weight port is occupied. -/
theorem bufferLoads : Obligations.BufferLoads := by
  unfold Obligations.BufferLoads
  intro f s hr he n a v
  refine ⟨fun _ hc => congrArg _ (scalarLoad_of_clear 3 hr he hc), fun _ hc => congrArg _ (scalarLoad_of_clear 4 hr he hc), fun _ hc => ?_⟩
  have ha := addrSI_occupyPort s 1 f
  have hl := scalarLoad_of_clear 7 (room_of_me (occupyPort_me s 1) hr) he (by rw [ha]; exact clear_occupyPort hc 1)
  rw [ha, seen_occupyPort] at hl
  exact congrArg _ hl

/-- Settles O6: each store is the shared one. -/
theorem bufferStores : Obligations.BufferStores := by
  unfold Obligations.BufferStores
  exact fun f s => ⟨fun _ hc => congrArg _ (scalarStore_of_clear hc), fun _ hc => congrArg _ (scalarStore_of_clear hc)⟩

/-! Accesses that are not fit (R128, R430). -/

section
variable {s : State} {sp : Space} {a n align : Nat}

theorem accessFlaw_misaligned (ha : a % align ≠ 0) : accessFlaw s sp a n align = some (.bound, 2, a) := by
  simp [accessFlaw, firstFlaw, ha]

theorem accessFlaw_of_boundFlaw (ha : a % align = 0) {w : Flaw} (hw : boundFlaw (spaceBounds s sp) a n = some w) :
    accessFlaw s sp a n align = some w := by
  simp [accessFlaw, firstFlaw, ha, hw]

theorem boundFlaw_below {b : Nat × Nat} (hn : n ≠ 0) (h : a < b.1) : boundFlaw b a n = some (.bound, 1, a) := by
  rw [boundFlaw, if_neg hn, if_pos h]

theorem boundFlaw_above {b : Nat × Nat} (hn : n ≠ 0) (hlo : b.1 ≤ a) (hhi : b.2 < a + n) : boundFlaw b a n = some (.bound, 1, max a b.2) := by
  rw [boundFlaw, if_neg hn, if_neg (Nat.not_lt.2 hlo), if_pos hhi]

theorem formFlaw_first (hn : n ≠ 0) (hf : s.form s.cur.core (a / 256) = true) : formFlaw s a n = some (.form, 1, a) := by
  obtain ⟨k, hk⟩ : ∃ k, (a + n - 1) / 256 + 1 - a / 256 = k + 1 := ⟨(a + n - 1) / 256 - a / 256, by omega⟩
  rw [formFlaw, if_neg hn, hk, List.range_succ_eq_map, List.map_cons, Nat.zero_add, List.find?_cons_of_pos hf]
  simp only [max_eq_left (Nat.mul_div_le a 256)]

theorem accessFlaw_cipher (ha : a % align = 0) (hlo : (spaceBounds s .act).1 ≤ a) (hhi : a + n ≤ (spaceBounds s .act).2)
    (hn : n ≠ 0) (hf : s.form s.cur.core (a / 256) = true) : accessFlaw s .act a n align = some (.form, 1, a) := by
  simp [accessFlaw, firstFlaw, ha, boundFlaw_inside _ _ _ hlo hhi, formFlaw_first hn hf]

end

theorem scalarLoad_of_flaw {f : SI} {s : State} {sp : Space} {w : Flaw}
    (h : accessFlaw s sp (addrSI s f) (tyWidth f.ty / 8) (tyWidth f.ty / 8) = some w) (cls : Nat) : scalarLoad f s sp cls = raiseFlaw s w := by
  simp only [scalarLoad, h]

theorem scalarStore_of_flaw {f : SI} {s : State} {sp : Space} {w : Flaw}
    (h : accessFlaw s sp (addrSI s f) (tyWidth f.ty / 8) (tyWidth f.ty / 8) = some w) : scalarStore f s sp = raiseFlaw s w := by
  simp only [scalarStore, h]

/-- A type of memory accesses has at least one byte. -/
theorem bytes_ne_zero_of_tyIn {t : Ty} (h : tyIn t tyMem = [] ∨ tyIn t tyAcc = []) : tyWidth t / 8 ≠ 0 := by
  revert h
  cases t <;> decide

/-- Settles O8: whatever the access, its first flaw is raised; the four kinds of flaw are those of `accessFlaw`. -/
theorem accessTraps : Obligations.AccessTraps := by
  unfold Obligations.AccessTraps
  intro f s n a i sp u hi hw
  have hn : n ≠ 0 := by
    rcases hi with ⟨-, ⟨rfl, -⟩ | ⟨rfl, -⟩ | ⟨rfl, -⟩ | ⟨rfl, -⟩⟩ | ⟨-, rfl, -⟩
    · exact bytes_ne_zero_of_tyIn (.inl hw)
    · exact bytes_ne_zero_of_tyIn (.inl hw)
    · exact bytes_ne_zero_of_tyIn (.inr hw)
    · exact bytes_ne_zero_of_tyIn (.inr hw)
    · exact bytes_ne_zero_of_tyIn (.inl hw)
  have hraise {c : Cause} {code x : Nat} (h : accessFlaw u sp a n n = some (c, code, x)) :
      exec i s = .next (raise u c code (BitVec.ofNat 64 x)) := by
    rcases hi with ⟨rfl, ⟨rfl, rfl⟩ | ⟨rfl, rfl⟩ | ⟨rfl, rfl⟩ | ⟨rfl, rfl⟩⟩ | ⟨rfl, rfl, rfl⟩
    · exact congrArg _ (scalarLoad_of_flaw h 3)
    · exact congrArg _ (scalarStore_of_flaw h)
    · exact congrArg _ (scalarLoad_of_flaw h 4)
    · exact congrArg _ (scalarStore_of_flaw h)
    · have hp := scalarLoad_of_flaw (s := occupyPort s 1) (by rw [addrSI_occupyPort]; exact h) 7
      exact congrArg Host.Outcome.next hp
  have hb : spaceBounds u sp = spaceBounds s sp := by
    rcases hi with ⟨rfl, -⟩ | ⟨rfl, -⟩
    · rfl
    · exact spaceBounds_occupyPort s 1 sp
  rw [← hb]
  refine ⟨fun ha => hraise (accessFlaw_misaligned ha), fun ha hlo => hraise (accessFlaw_of_boundFlaw ha (boundFlaw_below hn hlo)),
    fun ha hlo hhi => hraise (accessFlaw_of_boundFlaw ha (boundFlaw_above hn hlo hhi)), fun ha hlo hhi hsp hf => ?_⟩
  subst hsp
  obtain ⟨rfl, -⟩ | ⟨-, -, hsp⟩ := hi
  · exact hraise (accessFlaw_cipher ha hlo hhi hn hf)
  · exact absurd hsp (by decide)

/-! When a store shows (R127, R198, R227). -/

theorem addressed_append (k : Nat) (bs : List Byte) (b : Byte) : addressed k (bs ++ [b]) = addressed k bs ++ [(k + bs.length, b)] := by
  simp [addressed, List.zipIdx_append]

theorem mem_addressed {k : Nat} {bs : List Byte} {c : Nat × Byte} (h : c ∈ addressed k bs) : k ≤ c.1 ∧ c.1 < k + bs.length := by
  simp only [addressed, List.mem_map, Prod.exists] at h
  obtain ⟨b, i, hm, rfl⟩ := h
  exact ⟨List.le_snd_of_mem_zipIdx hm, List.snd_lt_add_of_mem_zipIdx hm⟩

/-- The latest byte of a store at each of its addresses. -/
theorem find?_reverse_addressed (k : Nat) (bs : List Byte) {i : Nat} (hi : i < bs.length) :
    (addressed k bs).reverse.find? (fun c => c.1 == k + i) = some (k + i, bs[i]) := by
  induction bs using List.reverseRecOn with
  | nil => exact absurd hi (Nat.not_lt_zero i)
  | append_singleton bs b ih =>
    rw [addressed_append, List.reverse_concat]
    by_cases hl : i = bs.length
    · subst hl
      rw [List.find?_cons_of_pos (by simp), List.getElem_concat_length rfl]
    · rw [List.length_append, List.length_singleton] at hi
      have hi' : i < bs.length := by omega
      rw [List.find?_cons_of_neg (by simpa using Ne.symm hl), ih hi', List.getElem_append_left hi']

/-- Bytes that a whole store overlays last are the store's. -/
theorem overlay_addressed {l bs : List Byte} (h : l.length = bs.length) (k : Nat) (old : List (Nat × Byte)) :
    overlay l k (old ++ addressed k bs) = bs := by
  by_cases hbs : bs = []
  · subst hbs
    rw [List.length_nil, List.length_eq_zero_iff] at h
    subst h
    rw [overlay]
    split <;> rfl
  · have hne : (old ++ addressed k bs).isEmpty = false := by simp [addressed, hbs]
    rw [overlay, hne, if_neg Bool.false_ne_true]
    refine List.ext_getElem (by simp [h]) fun i h1 h2 => ?_
    simp only [List.getElem_map, List.getElem_zipIdx, List.reverse_append, List.find?_append, find?_reverse_addressed k bs h2, Option.some_or]

/-- What a further store forwards. -/
theorem forwarded_store (c : Ctx) (t : Word) (bs : List (Nat × Byte)) (k n : Nat) :
    forwarded { c with withhold := c.withhold ++ [.store t bs] } k n =
      forwarded c k n ++ if t = c.arch.tick then [] else bs.filter (fun b => k ≤ b.1 && b.1 < k + n) := by
  simp only [forwarded, ← List.append_assoc, List.map_append, List.flatten_append, List.map_singleton, List.flatten_singleton]

theorem filter_addressed_inside (k : Nat) (bs : List Byte) :
    (addressed k bs).filter (fun b => k ≤ b.1 && b.1 < k + bs.length) = addressed k bs := by
  rw [List.filter_eq_self]
  intro c hc
  simpa using mem_addressed hc

theorem filter_addressed_outside {k j n : Nat} {bs : List Byte} (h : j + n ≤ k ∨ k + bs.length ≤ j) :
    (addressed k bs).filter (fun b => j ≤ b.1 && b.1 < j + n) = [] := by
  rw [List.filter_eq_nil_iff]
  intro c hc
  have := mem_addressed hc
  simp only [Bool.and_eq_true, decide_eq_true_eq]
  omega

/-- The acting context one tick on. -/
def State.nextTick (s : State) : State := s.setArch { s.arch with tick := s.arch.tick + 1 }

section
variable (s : State) (sp : Space) (a : Nat) (bs : List Byte)

theorem withStore_me : (withStore s sp a bs).me =
    { s.me with withhold := s.me.withhold ++ [.store s.arch.tick (addressed (spaceBase s sp + a) bs)] } :=
  State.me_setMe ..

theorem nextTick_withStore_me : (withStore s sp a bs).nextTick.me =
    { s.nextTick.me with withhold := s.nextTick.me.withhold ++ [.store s.arch.tick (addressed (spaceBase s sp + a) bs)] } := by
  rw [State.nextTick, State.nextTick, State.me_setArch, State.me_setArch, State.arch, withStore_me, State.arch]

theorem spaceBase_withStore (sp' : Space) : spaceBase (withStore s sp a bs) sp' = spaceBase s sp' := by cases sp' <;> rfl
theorem spaceBase_nextTick (sp' : Space) : spaceBase s.nextTick sp' = spaceBase s sp' := by cases sp' <;> rfl

theorem forwarded_withStore (k n : Nat) : forwarded (withStore s sp a bs).me k n = forwarded s.me k n := by
  rw [withStore_me, forwarded_store, State.arch, if_pos rfl, List.append_nil]

theorem forwarded_nextTick_withStore (k n : Nat) : forwarded (withStore s sp a bs).nextTick.me k n =
    forwarded s.nextTick.me k n ++ (addressed (spaceBase s sp + a) bs).filter (fun b => k ≤ b.1 && b.1 < k + n) := by
  have htick : s.nextTick.me.arch.tick = s.arch.tick + 1 := by rw [State.nextTick, State.me_setArch]
  rw [nextTick_withStore_me, forwarded_store, htick, if_neg (by bv_omega)]

theorem seen_withStore (b n : Nat) : seen (withStore s sp a bs) sp b n = seen s sp b n := by
  rw [seen, seen, spaceBase_withStore, forwarded_withStore]
  rfl

theorem seen_nextTick_withStore_inside : seen (withStore s sp a bs).nextTick sp a bs.length = bs := by
  rw [seen, spaceBase_nextTick, spaceBase_withStore, forwarded_nextTick_withStore, filter_addressed_inside]
  exact overlay_addressed (Memory.read_length ..) _ _

theorem seen_nextTick_withStore_outside {b n : Nat} (h : b + n ≤ a ∨ a + bs.length ≤ b) :
    seen (withStore s sp a bs).nextTick sp b n = seen s.nextTick sp b n := by
  rw [seen, seen, spaceBase_nextTick, spaceBase_nextTick, spaceBase_withStore, forwarded_nextTick_withStore,
    filter_addressed_outside (by omega), List.append_nil]
  rfl

end

/-! The store's release. -/

theorem runsOf_addressed (k : Nat) (b : Byte) (bs : List Byte) : runsOf (addressed k (b :: bs)) = [(k, b :: bs)] := by
  induction bs generalizing k b with
  | nil => rfl
  | cons c bs ih =>
    rw [show addressed k (b :: c :: bs) = (k, b) :: addressed (k + 1) (c :: bs) from rfl, runsOf, ih]
    exact if_pos rfl

theorem applyStore_byte (s : State) (k : Nat) (bs : List Byte) (a : Nat) : (applyStore s (addressed k bs)).mem.byte a =
    if k ≤ a ∧ a < k + bs.length then bs.getD (a - k) 0 else s.mem.byte a := by
  cases bs with
  | nil => exact (if_neg (by rw [List.length_nil]; omega)).symm
  | cons b bs =>
    rw [applyStore, runsOf_addressed]
    exact put_byte s k (b :: bs) a

/-- A cycle that releases one store performs it. -/
theorem release_mem_of_store {s : State} {core : Nat} {t : Word} {bs : List (Nat × Byte)}
    (h : (s.ctx core 0).releasing ++ (s.ctx core 1).releasing = [.store t bs]) : (release s core).mem = (applyStore s bs).mem := by
  rw [release]
  rcases List.append_eq_singleton_iff.1 h with ⟨h0, h1⟩ | ⟨h0, h1⟩ <;> rw [h0, h1] <;> rfl

/-- Of a core's two contexts an update replaces one. -/
theorem Core.ctx_setCtx (c : Core) (x y : Nat) (v : Ctx) : (c.setCtx x v).ctx y = if x = 0 ↔ y = 0 then v else c.ctx y := by
  by_cases hx : x = 0 <;> by_cases hy : y = 0 <;> simp [Core.ctx, Core.setCtx, hx, hy]

theorem ctx_setCtx (s : State) (core x y : Nat) (v : Ctx) :
    (s.setCtx core x v).ctx core y = if x = 0 ↔ y = 0 then v else s.ctx core y := by
  rw [State.ctx, State.setCtx, State.core_setCore_same, Core.ctx_setCtx, State.ctx]

/-- What a context with nothing in flight hands over for release where no other entry waits. -/
theorem hold_releasing {s : State} {core x : Nat} (hr : ∀ y, (s.ctx core y).releasing = []) {e : WEntry} (hw : (s.ctx core x).withhold = [e]) :
    ((hold s core x).ctx core 0).releasing ++ ((hold s core x).ctx core 1).releasing = [e] := by
  rw [hold, ctx_setCtx, ctx_setCtx]
  by_cases hx : x = 0
  · subst hx
    simp [hr, hw]
  · simp [hx, hr, hw]

/-- Settles O7: the store is the last entry that the context forwards, from the next tick on, and the only one that is released. -/
theorem storeBecomesVisible : Obligations.StoreBecomesVisible := by
  unfold Obligations.StoreBecomesVisible
  intro s sp a bs t u u0
  refine ⟨fun _ => rfl, seen_withStore s sp a bs, seen_nextTick_withStore_inside s sp a bs,
    fun b n => seen_nextTick_withStore_outside s sp a bs, fun hw hr _ _ k => ?_⟩
  have hme : t.ctx s.cur.core s.cur.ctx = t.me := rfl
  have hrt (y : Nat) : (t.ctx s.cur.core y).releasing = [] := by
    rw [show t = s.setCtx s.cur.core s.cur.ctx _ from rfl, ctx_setCtx]
    split
    · exact hr s.cur.ctx
    · exact hr y
  have hwt : (t.ctx s.cur.core s.cur.ctx).withhold = [.store s.arch.tick (addressed (spaceBase s sp + a) bs)] := by
    rw [hme, withStore_me, hw, List.nil_append]
  rw [release_mem_of_store (hold_releasing hrt hwt)]
  exact applyStore_byte ..

end Sys2Proof.Machine
end

section
/-! SUPPORT. Taking a trap over data without errors: what the rollback leaves in the context and in memory, and the stop that
follows a fatal cause. -/
namespace Sys2Proof.Machine

/-! What a rollback leaves unchanged besides its own core. -/

theorem foldl_keeps {σ ι β : Type} (read : σ → β) {f : σ → ι → σ} (h : ∀ t i, read (f t i) = read t) (l : List ι) (s : σ) :
    read (l.foldl f s) = read s := by
  induction l generalizing s with
  | nil => rfl
  | cons i l ih => rw [List.foldl_cons, ih, h]

theorem fireInjections_cur (s : State) (hit : Nat → Bool) : (fireInjections s hit).cur = s.cur := by
  refine foldl_keeps State.cur (fun t c => ?_) _ s
  split
  · split <;> rfl
  · rfl

theorem put_cur (s : State) (k : Nat) (bs : List Byte) : (s.put k bs).cur = s.cur := by
  simp only [State.put]
  split
  · rfl
  · rw [fireInjections_cur, foldl_keeps State.cur (fun t l => by split <;> rfl)]

theorem undoRows_cur (s : State) (core : Nat) (rows : List (Nat × Row)) : (undoRows s core rows).cur = s.cur :=
  foldl_keeps State.cur (fun t _ => put_cur t _ _) rows s

theorem arrayWritten_cur (s : State) (k n : Nat) : (arrayWritten s k n).cur = s.cur := by
  rw [arrayWritten]
  split
  · rfl
  · rw [fireInjections_cur]

theorem arrayWritten_mem (s : State) (k n : Nat) : (arrayWritten s k n).mem = s.mem := by
  rw [arrayWritten]
  split
  · rfl
  · rw [fireInjections_mem]

theorem rollback_cur (s : State) (core x : Nat) : (rollback s core x).cur = s.cur := by
  simp only [rollback, State.setCore_cur, arrayWritten_cur, undoRows_cur]

theorem rollback_mem {s : State} {core x : Nat} (hu : (s.ctx core x).undo = []) : (rollback s core x).mem = s.mem := by
  simp only [rollback, State.setCore_mem, arrayWritten_mem, hu]
  rfl

/-- The context after a rollback (R367): what is not named here are its run, its bounds, its clock and what it has counted. -/
theorem rollback_ctx (s : State) (core x : Nat) : ∃ arrived cart bubble clock unmet replay run, (rollback s core x).ctx core x =
    { s.ctx core x with
      arch := (s.ctx core x).outside.foldl Arch.outside (s.ctx core x).shadow
      withhold := [], undo := [], arrived := arrived, cart := cart, bubble := bubble, clock := clock, unmet := unmet
      replay := replay, run := run } :=
  ⟨_, _, _, _, _, _, _, by rw [rollback, State.ctx, State.core_setCore_same, Core.ctx_setCtx_same]⟩

@[simp] theorem Ctx.recordTrap_undo (c : Ctx) (t : TrapInfo) : (c.recordTrap t).undo = c.undo := by rw [Ctx.recordTrap]
@[simp] theorem Ctx.recordTrap_outside (c : Ctx) (t : TrapInfo) : (c.recordTrap t).outside = c.outside := by rw [Ctx.recordTrap]
@[simp] theorem Ctx.recordTrap_shadow (c : Ctx) (t : TrapInfo) : (c.recordTrap t).shadow = c.shadow := by rw [Ctx.recordTrap]
@[simp] theorem Ctx.recordTrap_mode (c : Ctx) (t : TrapInfo) : (c.recordTrap t).mode = c.mode := by rw [Ctx.recordTrap]

/-! A fatal cause. -/

/-- The causes whose trap ends the unit (R368). -/
def fatal (c : Cause) : Prop := c = .bound ∨ c = .form ∨ c = .shape ∨ c = .noexec ∨ c = .brk ∨ c = .trap

/-- A context that a fatal cause stops. -/
def Ctx.stopped (c : Ctx) : Ctx :=
  if c.mode.getLsbD 0 then { c with halted := true, steps := 0 } else { c with run := .removing .fatal }

theorem Ctx.stopped_keeps (c : Ctx) : c.stopped.tval = c.tval ∧ c.stopped.cause = c.cause ∧ c.stopped.arch = c.arch ∧
    c.stopped.withhold = c.withhold ∧ c.stopped.undo = c.undo := by
  rw [Ctx.stopped]
  split <;> exact ⟨rfl, rfl, rfl, rfl, rfl⟩

theorem afterRollback_of_fatal {t : TrapInfo} (h : fatal t.cause) (s : State) (core x : Nat) (old : Bool) :
    afterRollback s core x t old = s.setCtx core x (s.ctx core x).stopped := by
  rw [afterRollback, Ctx.stopped]
  rcases h with h | h | h | h | h | h <;> rw [h, apply_ite (s.setCtx core x)]

/-- The state after a trap is recorded and the context rolled back. -/
def recordedBack (s : State) (core x : Nat) (t : TrapInfo) : State := rollback (s.setCtx core x ((s.ctx core x).recordTrap t)) core x

theorem recordedBack_cur (s : State) (core x : Nat) (t : TrapInfo) : (recordedBack s core x t).cur = s.cur := by
  rw [recordedBack, rollback_cur, State.setCtx_cur]

theorem recordedBack_mem {s : State} {core x : Nat} (hu : (s.ctx core x).undo = []) (t : TrapInfo) :
    (recordedBack s core x t).mem = s.mem := by
  rw [recordedBack, rollback_mem (by rw [State.ctx_setCtx_same, Ctx.recordTrap_undo, hu]), State.setCtx_mem]

theorem takeTrap_of_clean {s : State} (he : s.errs = []) {t : TrapInfo} (h : fatal t.cause) (core x : Nat) (old : Bool) :
    takeTrap s core x t old = (recordedBack s core x t).setCtx core x ((recordedBack s core x t).ctx core x).stopped := by
  simp only [takeTrap, readShadow, readArray, State.setCtx_errs, he, List.isEmpty_nil, if_true, Option.isSome_none, Bool.false_eq_true,
    if_false, afterRollback_of_fatal h, recordedBack]

/-! A trap of the acting slot. -/

/-- The acting bundle has trapped. -/
def State.bundleTrapped (s : State) : State := { s with cur := { s.cur with trapped := true } }

theorem State.bundleTrapped_me (s : State) : s.bundleTrapped.me = s.me := rfl
theorem State.bundleTrapped_mem (s : State) : s.bundleTrapped.mem = s.mem := rfl

/-- The acting slot's trap as `raise` takes it. -/
def slotTrap (s : State) (c : Cause) (code : Nat) (tval : Word) : TrapInfo := ⟨c, code, s.cur.slot, s.arch.pc.toNat, tval, 0⟩

theorem raise_eq (s : State) (c : Cause) (code : Nat) (tval : Word) :
    raise s c code tval = (takeTrap s s.cur.core s.cur.ctx (slotTrap s c code tval) false).bundleTrapped := rfl

section
variable {s : State} {c : Cause} (he : s.errs = []) (hc : fatal c) (code : Nat) (tval : Word)
include he hc

theorem raise_mem (hu : s.me.undo = []) : (raise s c code tval).mem = s.mem := by
  rw [raise_eq, State.bundleTrapped_mem, takeTrap_of_clean he hc, State.setCtx_mem, recordedBack_mem hu]

/-- The context after the trap is the recorded one, rolled back and stopped. -/
theorem raise_me : ∃ arrived cart bubble clock unmet replay run, (raise s c code tval).me = Ctx.stopped
    { s.me.recordTrap (slotTrap s c code tval) with
      arch := s.me.outside.foldl Arch.outside s.me.shadow
      withhold := [], undo := [], arrived := arrived, cart := cart, bubble := bubble, clock := clock, unmet := unmet
      replay := replay, run := run } := by
  obtain ⟨arrived, cart, bubble, clock, unmet, replay, run, hroll⟩ :=
    rollback_ctx (s.setCtx s.cur.core s.cur.ctx ((s.ctx s.cur.core s.cur.ctx).recordTrap (slotTrap s c code tval))) s.cur.core s.cur.ctx
  refine ⟨arrived, cart, bubble, clock, unmet, replay, run, ?_⟩
  rw [State.ctx_setCtx_same, Ctx.recordTrap_outside, Ctx.recordTrap_shadow] at hroll
  rw [raise_eq, State.bundleTrapped_me, takeTrap_of_clean he hc, State.me, State.setCtx_cur, recordedBack_cur,
    State.ctx_setCtx_same, recordedBack, hroll, State.me]

end

/-- Settles O9: TRAP and BREAK are `raise`, and what a trap leaves is `raise_me` and `raise_mem`. -/
theorem trapEntry : Obligations.TrapEntry := by
  unfold Obligations.TrapEntry
  refine ⟨fun f s => ⟨rfl, rfl⟩, fun s c code tval he hc => ?_⟩
  obtain ⟨arrived, cart, bubble, clock, unmet, replay, run, hme⟩ := raise_me he hc code tval
  intro t
  obtain ⟨htval, hcause, harch, hwithhold, hundo⟩ := Ctx.stopped_keeps _
  rw [← hme] at htval hcause harch hwithhold hundo
  refine ⟨htval, hcause, harch, hwithhold, hundo, rfl, fun hm => ?_, fun hm => ?_, fun hu a => by rw [raise_mem he hc code tval hu]⟩
  · rw [hme, Ctx.stopped, Ctx.recordTrap_mode, hm, if_neg Bool.false_ne_true]
  · rw [hme, Ctx.stopped, Ctx.recordTrap_mode, hm, if_pos rfl]

end Sys2Proof.Machine
end

section
/-! SUPPORT. Transfers of control and the loop sequencer: what each level reads after a write, what entering and leaving a range
do, and the walk over the levels at the end of a range. -/
namespace Sys2Proof.Machine

/-! Loop levels. -/

theorem Arch.rdLoop_wrLoop (a : Arch) (n m : Nat) (v : Loop) : (a.wrLoop n v).rdLoop m = if m = n then v else a.rdLoop m := by
  by_cases h : m = n
  · rw [if_pos h, h]
    exact Tab.get_set_same ..
  · rw [if_neg h]
    exact Tab.get_set_other _ _ h _

/-- Dropping levels writes the table of levels alone. -/
theorem dropLevels_eq (a : Arch) (l : Nat) : dropLevels a l = { a with loops := (dropLevels a l).loops } := by
  have h (js : List Nat) (b : Arch) : js.foldl (fun a j => if l ≤ j then a.wrLoop j Loop.idle else a) b =
      { b with loops := (js.foldl (fun a j => if l ≤ j then a.wrLoop j Loop.idle else a) b).loops } := by
    induction js generalizing b with
    | nil => rfl
    | cons j js ih =>
      rw [List.foldl_cons, ih]
      split <;> rfl
  exact h _ a

theorem rdLoop_dropLevels (a : Arch) (l m : Nat) : (dropLevels a l).rdLoop m = if l ≤ m ∧ m < 6 then Loop.idle else a.rdLoop m := by
  have same (t : Arch) (j : Nat) : (if l ≤ j then t.wrLoop j Loop.idle else t).rdLoop j = if l ≤ j then Loop.idle else t.rdLoop j := by
    split
    · rw [Arch.rdLoop_wrLoop, if_pos rfl]
    · rfl
  have other (t : Arch) (j k : Nat) (hk : k ≠ j) : (if l ≤ j then t.wrLoop j Loop.idle else t).rdLoop k = t.rdLoop k := by
    split
    · rw [Arch.rdLoop_wrLoop, if_neg hk]
    · rfl
  rw [dropLevels, foldl_range_read _ Arch.rdLoop (fun j v => if l ≤ j then Loop.idle else v) same other]
  by_cases hm : m < 6 <;> simp [hm]

/-! Transfers and LOOP. -/

theorem ofNat_bundleLen (s : State) : BitVec.ofNat 64 (bundleLen s) = if s.cur.lit then 25 else 1 := by
  rw [bundleLen]
  split <;> rfl

theorem execCall_of_room {f : CJ} {s : State} (h : Room s 1) (ht : s.cur.trapped = false) : exec (.call f) s =
    .next (goTo (withResult s (.scalar f.sd.val) (s.arch.pc + (if s.cur.lit then 25 else 1)).toNat 0) (f.target.setWidth 64) 1) := by
  have he : exec (.call f) s = execCall f s := rfl
  rw [he, execCall, pushScalar_of_room _ _ _ h, ifOk, withResult_cur, ht, if_neg Bool.false_ne_true, ofNat_bundleLen]
  rfl

/-- LOOP's count: the immediate where sa names s0 (R130). -/
def tripCount (f : CL) (s : State) : Word := if f.sa.val = 0 then f.trip.setWidth 64 else rdS s f.sa.val

/-- The level that LOOP enters. -/
def enteredLoop (f : CL) (s : State) : Loop :=
  ⟨true, s.arch.pc.toNat + bundleLen s, s.arch.pc.toNat + bundleLen s + f.lenM1.toNat, tripCount f s, f.sd.val, rdS s f.sb.val, f.pair.val⟩

theorem execLoop_skips {f : CL} {s : State} (h0 : tripCount f s = 0) :
    execLoop f s = .next (goTo s (BitVec.ofNat 64 (s.arch.pc.toNat + bundleLen s + f.lenM1.toNat + 1)) 1) := if_pos h0

theorem execLoop_enters {f : CL} {s : State} (h0 : tripCount f s ≠ 0) : execLoop f s =
    .next (s.setArch (seqPush ((dropLevels s.arch f.level.val).wrLoop f.level.val (enteredLoop f s)) (.pair f.pair.val)
      (1 + 2 * b2n (tripCount f s == 1)))) := if_neg h0

theorem execLbrk_active {f : CL} {s : State} (h : (s.arch.rdLoop f.level.val).active = true) : execLbrk f s =
    .next (goTo (s.setArch (dropLevels s.arch f.level.val)) (BitVec.ofNat 64 ((s.arch.rdLoop f.level.val).stop + 1)) 1) := if_pos h

theorem execLbrk_inactive {f : CL} {s : State} (h : (s.arch.rdLoop f.level.val).active = false) : execLbrk f s = .next s :=
  if_neg (by rw [h]; exact Bool.false_ne_true)

/-- Settles O10: each transfer is `goTo`; what a level reads after LOOP and LBRK is `rdLoop_wrLoop` over `rdLoop_dropLevels`. -/
theorem jumpsAndLoops : Obligations.JumpsAndLoops := by
  unfold Obligations.JumpsAndLoops
  refine ⟨fun f s => ⟨rfl, rfl, rfl, execCall_of_room⟩, fun c lit pc => ⟨rfl, rfl⟩,
    fun f s => ⟨execLoop_skips, fun h0 hl => ⟨_, execLoop_enters h0, fun l => ?_, ?_⟩,
      fun ha => ⟨_, execLbrk_active ha, rdLoop_dropLevels _ _, dropLevels_eq _ _⟩, execLbrk_inactive⟩⟩
  · exact (Arch.rdLoop_wrLoop ..).trans (if_congr Iff.rfl rfl (rdLoop_dropLevels ..))
  · have hv : 1 + 2 * b2n (tripCount f s == 1) = if tripCount f s = 1 then 3 else 1 := by
      by_cases h1 : tripCount f s = 1
      · rw [if_pos h1, h1]
        rfl
      · rw [if_neg h1, beq_eq_false_iff_ne.2 h1]
        rfl
    rw [hv, dropLevels_eq]
    rfl

/-! The walk over the levels at the end of a range (R132). -/

/-- A level ends at an offset. -/
abbrev Loop.endsAt (v : Loop) (o : Nat) : Prop := v.active = true ∧ v.stop = o

/-- A level ends at an offset with no iteration left. -/
abbrev Loop.spentAt (v : Loop) (o : Nat) : Prop := v.endsAt o ∧ v.left.toNat ≤ 1

section
variable {a : Arch} {o l : Nat}

theorem backEdge_other (h : ¬ (a.rdLoop l).endsAt o) : backEdge a o (l + 1) = backEdge a o l := by
  rw [backEdge, if_neg]
  intro hb
  simp only [Bool.and_eq_true, decide_eq_true_eq] at hb
  exact h ⟨hb.1, hb.2.symm⟩

theorem backEdge_spent (h : (a.rdLoop l).spentAt o) : backEdge a o (l + 1) = backEdge (a.wrLoop l Loop.idle) o l := by
  obtain ⟨⟨hact, hstop⟩, hleft⟩ := h
  rw [backEdge, if_pos (by simp [hact, hstop]), if_neg (by omega)]

/-- The sequencer's updates of a level that branches back: its count, its register and its pair. -/
def branched (a : Arch) (l : Nat) : Arch :=
  let v := a.rdLoop l
  seqPush (seqPush (a.wrLoop l { v with left := v.left - 1 }) (.scalar v.target) (a.rdS v.target + v.stride).toNat) (.pair v.pair)
    (2 * b2n (v.left - 1 == 1))

theorem backEdge_branch (h : (a.rdLoop l).endsAt o) (hl : 1 < (a.rdLoop l).left.toNat) :
    ∃ cost, backEdge a o (l + 1) = (branched a l, some ((a.rdLoop l).start, cost)) := by
  rw [backEdge, if_pos (by simp [h.1, h.2]), if_pos hl]
  exact ⟨_, rfl⟩

/-- Where every level from `k` up that ends has no iteration left, the walk drops these and goes on below `k`. -/
theorem backEdge_sweep {k n : Nat} (hk : k ≤ n) (h : ∀ m, k ≤ m → m < n → (a.rdLoop m).endsAt o → (a.rdLoop m).spentAt o) :
    ∃ b, backEdge a o n = backEdge b o k ∧ b = { a with loops := b.loops } ∧
      ∀ m, b.rdLoop m = if k ≤ m ∧ m < n ∧ (a.rdLoop m).spentAt o then Loop.idle else a.rdLoop m := by
  induction n, hk using Nat.le_induction generalizing a with
  | base => exact ⟨a, rfl, rfl, fun m => (if_neg (by omega)).symm⟩
  | succ n hk ih =>
    by_cases hn : (a.rdLoop n).endsAt o
    · have hlow (m : Nat) (hm : m ≠ n) : (a.wrLoop n Loop.idle).rdLoop m = a.rdLoop m := by rw [Arch.rdLoop_wrLoop, if_neg hm]
      have hs := h n hk (Nat.lt_succ_self n) hn
      obtain ⟨b, hb, harch, hread⟩ := ih (a := a.wrLoop n Loop.idle) fun m h1 h2 => by
        rw [hlow m (Nat.ne_of_lt h2)]
        exact h m h1 (Nat.lt_succ_of_lt h2)
      refine ⟨b, (backEdge_spent hs).trans hb, harch, fun m => ?_⟩
      by_cases hm : m = n
      · subst hm
        rw [hread, if_neg (by omega), Arch.rdLoop_wrLoop, if_pos rfl, if_pos ⟨hk, Nat.lt_succ_self m, hs⟩]
      · rw [hread, hlow m hm]
        exact if_congr (by rw [show m < n ↔ m < n + 1 by omega]) rfl rfl
    · obtain ⟨b, hb, harch, hread⟩ := ih (a := a) fun m h1 h2 => h m h1 (Nat.lt_succ_of_lt h2)
      refine ⟨b, (backEdge_other hn).trans hb, harch, fun m => (hread m).trans ?_⟩
      by_cases hm : m = n
      · subst hm
        rw [if_neg (by omega), if_neg fun hc => hn hc.2.2.1]
      · exact if_congr (by rw [show m < n ↔ m < n + 1 by omega]) rfl rfl

end

/-! What the sequencer's updates land. -/

theorem Arch.rdS_wrP (a : Arch) (n m : Nat) (v : Bool) : (a.wrP n v).rdS m = a.rdS m := by
  rw [Arch.rdS, Arch.rdS, Arch.wrP_s]

theorem Arch.rdP_wrP_same (a : Arch) {n : Nat} (h : 1 < n) (v : Bool) : (a.wrP n v).rdP n = v := by
  rw [Arch.rdP, if_neg (by omega), if_neg (by omega), Arch.wrP, if_neg (by omega), Tab.get_set_same]

theorem Arch.rdP_wrP_other (a : Arch) {n m : Nat} (h : m ≠ n) (v : Bool) : (a.wrP n v).rdP m = a.rdP m := by
  rw [Arch.wrP]
  split
  · rfl
  · rw [Arch.rdP, Arch.rdP, Tab.get_set_other _ _ h]

section
variable (a : Arch) (target pair : Nat) (w : Word) (last : Bool) (off : Nat)

/-- A level's register and pair as the sequencer has them land. -/
def landLevel : Arch :=
  (a.land ⟨.scalar target, BitVec.ofNat 2048 w.toNat, 0, 0, false, none, off⟩).land
    ⟨.pair pair, BitVec.ofNat 2048 (2 * b2n last), 0, 0, false, none, off⟩

theorem landLevel_eq : landLevel a target pair w last off = ((a.wrS target w).wrP (2 * pair) false).wrP (2 * pair + 1) last := by
  have hw : (BitVec.ofNat 2048 w.toNat).setWidth 64 = w := by
    rw [BitVec.setWidth_ofNat_of_le (by decide), BitVec.ofNat_toNat, BitVec.setWidth_eq]
  have h0 : (BitVec.ofNat 2048 (2 * b2n last)).getLsbD 0 = false := by
    rw [BitVec.getLsbD_ofNat]
    cases last <;> rfl
  have h1 : (BitVec.ofNat 2048 (2 * b2n last)).getLsbD 1 = last := by
    rw [BitVec.getLsbD_ofNat]
    cases last <;> rfl
  rw [landLevel, Arch.land, Arch.land]
  simp only [hw, h0, h1]

end

/-- Whatever else is due, the sequencer's updates land last. -/
theorem landRegs_seq (a : Arch) : ∃ b, (∀ n, (landRegs a).rdS n = ((a.seqDue.filter (·.left == 0)).foldl Arch.land b).rdS n) ∧
    ∀ n, (landRegs a).rdP n = ((a.seqDue.filter (·.left == 0)).foldl Arch.land b).rdP n :=
  ⟨_, fun _ => rfl, fun _ => rfl⟩

/-- Of a level that has branched back, the next tick lands the register and the pair. -/
theorem land_branched {b : Arch} (h : b.seqDue = []) (l : Nat) (pc tick : Word) (e : Arch) :
    ((stepDue { branched b l with pc := pc, tick := tick }).seqDue.filter (·.left == 0)).foldl Arch.land e =
      landLevel e (b.rdLoop l).target (b.rdLoop l).pair (b.rdS (b.rdLoop l).target + (b.rdLoop l).stride) ((b.rdLoop l).left - 1 == 1) b.pc.toNat := by
  have hs : (branched b l).seqDue = b.seqDue ++ [_] ++ [_] := rfl
  rw [stepDue, hs, h]
  rfl

/-! The tick after a bundle that took no transfer. -/

section
variable {c : Ctx} (hi : c.arch.idle = 0) (lit : Bool) {b : Arch}
include hi

theorem passTick_branch {start cost : Nat} (h : backEdge c.arch c.arch.pc.toNat 6 = (b, some (start, cost))) :
    (passTick c lit none).arch = stepDue { b with pc := BitVec.ofNat 64 start, tick := b.tick + 1 } := by
  simp only [passTick, hi, h]
  rfl

theorem passTick_onward (h : backEdge c.arch c.arch.pc.toNat 6 = (b, none)) : (passTick c lit none).arch =
    stepDue { b with pc := BitVec.ofNat 64 (fetchNext c.arch.pc.toNat lit (lastSegment c.cart)), tick := b.tick + 1 } := by
  simp only [passTick, hi, h]
  rfl

end

/-- Settles O11: the walk sweeps the spent levels down to the one that branches back, or down to none. -/
theorem loopBackEdge : Obligations.LoopBackEdge := by
  unfold Obligations.LoopBackEdge
  intro c lit hi hd o ending spent t next
  refine ⟨fun l hl hend hleft hinner => ?_, fun hall => ?_⟩
  · obtain ⟨b, hb, harch, hread⟩ := backEdge_sweep (a := c.arch) (o := o) (k := l + 1) hl fun m h1 h2 he => hinner m h1 h2 he
    have hbl : b.rdLoop l = c.arch.rdLoop l := by rw [hread, if_neg (by omega)]
    obtain ⟨cost, hbr⟩ := backEdge_branch (a := b) (o := o) (by rw [hbl]; exact hend) (by rw [hbl]; exact hleft)
    have ht : t.arch = _ := passTick_branch hi lit (hb.trans hbr)
    have hreadt (m : Nat) : t.arch.rdLoop m = if m = l then { b.rdLoop l with left := (b.rdLoop l).left - 1 } else b.rdLoop m := by
      rw [ht]
      exact Arch.rdLoop_wrLoop ..
    have hdue : b.seqDue = [] := by rw [harch, ← hd]
    have hrdS : b.rdS = c.arch.rdS := by rw [harch]; rfl
    obtain ⟨e, hS, hP⟩ := landRegs_seq t.arch
    rw [ht, land_branched hdue, landLevel_eq, ← ht, hbl, hrdS] at hS hP
    refine ⟨by rw [ht, ← hbl]; rfl, by rw [hreadt, if_pos rfl, hbl], fun m h1 h2 hs => ?_, fun m hm hs => ?_, fun hz => ?_, fun hz => ⟨?_, ?_⟩⟩
    · rw [hreadt, if_neg (Nat.ne_of_gt h1), hread, if_pos ⟨h1, h2, hs⟩]
      rfl
    · rw [hreadt, if_neg hm]
      exact (hread m).trans (if_neg hs)
    · rw [hS, Arch.rdS_wrP, Arch.rdS_wrP, Arch.rdS_wrS_same _ hz]
    · rw [hP, Arch.rdP_wrP_other _ (by omega), Arch.rdP_wrP_same _ (by omega)]
    · rw [hP, Arch.rdP_wrP_same _ (by omega), Bool.eq_iff_iff, beq_iff_eq, decide_eq_true_eq]
      bv_omega
  · obtain ⟨b, hb, harch, hread⟩ := backEdge_sweep (a := c.arch) (o := o) (Nat.zero_le 6) fun m _ h2 he => hall m h2 he
    have ht : t.arch = _ := passTick_onward hi lit hb
    rw [ht]
    refine ⟨rfl, ?_, fun m hm hs => ?_, fun m hm => ?_⟩
    · rw [harch, stepDue]
      exact congrArg (List.map _) hd
    · exact congrArg Loop.active ((hread m).trans (if_pos ⟨Nat.zero_le m, hm, hs⟩))
    · exact (hread m).trans (if_neg fun hc => hm hc.2)

end Sys2Proof.Machine
end

section
/-! SUPPORT. The other control rows: bucket select, system registers, the owner of bank C, dropped copies and suspensions. -/
namespace Sys2Proof.Machine

/-! Bucket select (R133, R134). -/

/-- The bucket's size and where the transfer goes; over_target where no bucket is large enough. -/
def chosenBucket (tab n d : Nat) : Nat × Nat := (bucketOf tab n d).elim (d, fld tab 31 8) fun i =>
  (fld tab (128 * (i + 1) + 31) (128 * (i + 1)), fld tab (128 * (i + 1) + 55) (128 * (i + 1) + 32))

/-- BSEL of a table that is fit: its first byte is read, then the whole, and the four effects follow. -/
theorem execBsel_of_clear {f : CB} {s : State} {a d n tab b pc : Nat} (he : s.errs = []) (ha : (rdS s f.sa.val).toNat = a)
    (hd : (rdS s f.sb.val).toNat = d) (hn : leNat (seen s .act a 1) = n) (ht : leNat (seen s .act a (16 * (n + 1))) = tab)
    (hc : Clear s .act a (16 * (n + 1)) 16) (hb : bucketBad tab n = false) (hr : chosenBucket tab n d = (b, pc)) (hp : b - d < 2 ^ 16) :
    execBsel f s = .next (ifOk (push s (.scalar f.sd.val) b 0) fun s => ifOk (push s (.kreg 15) (lanesBelow d) 0) fun s =>
      ifOk (push s (.eng 0) (setFld (pendingRows s.arch) 31 16 (b - d)) 0) fun s => transfer s (BitVec.ofNat 64 pc) 6) := by
  subst ha hd hn ht
  obtain ⟨halign, hin⟩ := hc
  have ⟨hlo, hhi, _⟩ := hin
  have h16 : boundFlaw (spaceBounds s .act) (rdS s f.sa.val).toNat 16 = none := boundFlaw_inside _ _ _ hlo (by omega)
  rw [chosenBucket] at hr
  simp only [execBsel, firstFlaw, halign, h16, hin.bound, hin.form, hb, readEcc_clean s _ _ _ he, padCount]
  cases hk : bucketOf _ _ _
  all_goals
    rw [hk] at hr
    obtain ⟨rfl, rfl⟩ := Prod.mk.inj hr
    simp only [if_pos hp]
    rfl

theorem pendingRows_withResult (s : State) {d : Dest} (hd : d ≠ .eng 0) (v cls : Nat) :
    pendingRows (withResult s d v cls).arch = pendingRows s.arch := by
  have he : (entryOf s d v cls).dest ≠ .eng 0 := hd
  rw [withResult_arch, pendingRows, pendingRows, List.foldl_append, List.foldl_cons, List.foldl_nil, if_neg he]

/-- The three results and the transfer of a BSEL that finds room. -/
theorem bselEffects_of_room {f : CB} {s : State} (h : Room s 3) (ht : s.cur.trapped = false) (b d pad pc : Nat) :
    (ifOk (push s (.scalar f.sd.val) b 0) fun s => ifOk (push s (.kreg 15) (lanesBelow d) 0) fun s =>
      ifOk (push s (.eng 0) (setFld (pendingRows s.arch) 31 16 pad) 0) fun s => transfer s (BitVec.ofNat 64 pc) 6) =
    goTo (withResult (withResult (withResult s (.scalar f.sd.val) b 0) (.kreg 15) (lanesBelow d) 0) (.eng 0)
      (setFld (pendingRows s.arch) 31 16 pad) 0) (BitVec.ofNat 64 pc) 6 := by
  have h2 := room_withResult s (.scalar f.sd.val) b 0 2 h
  have h3 := room_withResult _ (.kreg 15) (lanesBelow d) 0 1 h2
  simp only [ifOk, push_of_room _ _ _ _ (h.mono (by omega : 1 ≤ 3)), push_of_room _ _ _ _ (h2.mono (by omega : 1 ≤ 2)), push_of_room _ _ _ _ h3,
    withResult_cur, ht, Bool.false_eq_true, if_false, pendingRows_withResult, ne_eq, reduceCtorEq, not_false_eq_true]
  rfl

theorem bucketBad_of_wellFormed {tab n : Nat} (h1 : 1 ≤ n) (h64 : n ≤ 64) (hh : fld tab 127 32 = 0)
    (he : ∀ i, i < n → fld tab (128 * (i + 1) + 127) (128 * (i + 1) + 56) = 0) : bucketBad tab n = false := by
  have hn : n ≠ 0 := by omega
  simpa [bucketBad, hn, h64, hh] using he

theorem chosenBucket_of_first {tab n d i : Nat} (hi : i < n) (hd : d ≤ fld tab (128 * (i + 1) + 31) (128 * (i + 1)))
    (hj : ∀ j, j < i → fld tab (128 * (j + 1) + 31) (128 * (j + 1)) < d) : chosenBucket tab n d =
      (fld tab (128 * (i + 1) + 31) (128 * (i + 1)), fld tab (128 * (i + 1) + 55) (128 * (i + 1) + 32)) := by
  have hb : bucketOf tab n d = some i := by
    rw [bucketOf, List.find?_range_eq_some]
    exact ⟨decide_eq_true hd, List.mem_range.2 hi, fun j h => by simpa using hj j h⟩
  rw [chosenBucket, hb, Option.elim_some]

theorem chosenBucket_of_none {tab n d : Nat} (h : ∀ i, i < n → fld tab (128 * (i + 1) + 31) (128 * (i + 1)) < d) :
    chosenBucket tab n d = (d, fld tab 31 8) := by
  have hb : bucketOf tab n d = none := by
    rw [bucketOf, List.find?_range_eq_none]
    exact fun i hi => by simpa using h i hi
  rw [chosenBucket, hb, Option.elim_none]

/-- Settles O12: the table passes every check, and the bucket is the first that is large enough. -/
theorem bucketSelect : Obligations.BucketSelect := by
  unfold Obligations.BucketSelect
  intro f s hroom he ht a d n tab size target out hc h1 h64 hh hres
  have hout {b pc : Nat} (hr : chosenBucket tab n d = (b, pc)) (hp : b - d < 2 ^ 16) : exec (.bsel f) s = out b (b - d) pc :=
    (execBsel_of_clear he rfl rfl rfl rfl hc (bucketBad_of_wellFormed h1 h64 hh hres) hr hp).trans
      (congrArg _ (bselEffects_of_room hroom ht b d (b - d) pc))
  refine ⟨fun i hi hd hp hj => hout (chosenBucket_of_first hi hd hj) hp, fun hnone => ?_⟩
  rw [← Nat.sub_self d]
  exact hout (chosenBucket_of_none hnone) (by omega)

/-! System registers (R113, R114). -/

theorem execSysr_of_room {f : CY} {s : State} (h : Room s 1) {n : BitVec 12} (hf : f.sys = n) {v : Nat} (hv : sysValue s n.toNat = v)
    (hp : n ≠ 0x40 ∨ s.me.mode.getLsbD 3 = true) : exec (.sysr f) s = .next (withResult s (.scalar f.sd.val) v 0) := by
  subst hf hv
  have he : exec (.sysr f) s = execSysr f s := rfl
  have hn : ¬ (f.sys = 0x40 && !s.me.mode.getLsbD 3) = true := by
    rcases hp with hp | hp
    · rw [decide_eq_false hp]
      exact Bool.false_ne_true
    · rw [hp, Bool.not_true, Bool.and_false]
      exact Bool.false_ne_true
  rw [he, execSysr, if_neg hn, pushScalar_of_room _ _ _ h]

/-- Settles O13: every read is the row's value of that number. -/
theorem systemRegisters : Obligations.SystemRegisters := by
  unfold Obligations.SystemRegisters
  intro s k reads
  refine ⟨fun h => ?_, fun hm f hf => if_pos (by rw [hf, hm]; rfl), fun f hf => if_pos hf, fun f hf => if_neg hf, fun f => rfl⟩
  · have rd {n : BitVec 12} {v : Nat} (hp : n ≠ 0x40) (hv : sysValue s n.toNat = v) : reads n v := fun f hf => execSysr_of_room h hf hv (.inl hp)
    refine ⟨rd (by decide) rfl, rd (by decide) rfl, rd (by decide) rfl, rd (by decide) rfl, rd (by decide) rfl, rd (by decide) rfl,
      rd (by decide) rfl, rd (by decide) rfl, rd (by decide) rfl, rd (by decide) rfl, rd (by decide) rfl, fun l => ?_, rd (by decide) rfl,
      rd (by decide) rfl, rd (by decide) rfl, rd (by decide) rfl, rd (by decide) rfl, rd (by decide) rfl, rd (by decide) rfl,
      fun hm f hf => execSysr_of_room h hf rfl (.inr hm), fun f => next_push_of_room h rfl⟩
    fin_cases l <;> exact rd (by decide) rfl

/-! The owner of bank C (R144). -/

theorem bankC_eq_true_iff (n : Nat) : bankC n = true ↔ 32 ≤ n ∧ n ≤ 47 := by
  rw [bankC, Bool.and_eq_true, decide_eq_true_eq, decide_eq_true_eq]

/-- A write of bank C is due or issues in the same bundle. -/
def bankWritten (s : State) : Prop :=
  (∃ d ∈ s.cur.vdests, 32 ≤ d ∧ d ≤ 47) ∨ ∃ e ∈ s.arch.dueRegs, ∃ n, e.dest = .vec n ∧ 32 ≤ n ∧ n ≤ 47

theorem lend_of_owner {s : State} {m : Bool} (h : s.arch.bankC = m) : lend s m = s := if_pos h

/-- LEND of a bank that has another owner. -/
theorem lend_of_other {s : State} {m : Bool} (h : s.arch.bankC ≠ m) : (bankWritten s → lend s m = raiseTrap s 0xFF04) ∧
    (¬ bankWritten s → lend s m = pushResult s .owner (b2n m) (ownLatency 0) (ownLatency 0) none) := by
  have hw : (s.cur.vdests.any bankC || s.arch.dueRegs.any (fun d => match d.dest with
      | .vec n => bankC n
      | _ => false)) = true ↔ bankWritten s := by
    rw [Bool.or_eq_true, List.any_eq_true, List.any_eq_true, bankWritten]
    refine or_congr (by simp only [bankC_eq_true_iff]) (exists_congr fun e => and_congr_right fun _ => ?_)
    cases e.dest <;> simp [bankC_eq_true_iff]
  rw [← hw, lend, if_neg h]
  exact ⟨fun hb => if_pos hb, fun hb => if_neg hb⟩

theorem not_bankWritten {s : State} (hv : ∀ d ∈ s.cur.vdests, d < 32 ∨ 47 < d)
    (hd : ∀ e ∈ s.arch.dueRegs, ∀ n, e.dest = .vec n → n < 32 ∨ 47 < n) : ¬ bankWritten s := by
  rintro (⟨d, hm, h1, h2⟩ | ⟨e, hm, n, he, h1, h2⟩)
  · have := hv d hm
    omega
  · have := hd e hm n he
    omega

/-! Dropped copies (R136). -/

/-- A core after the drop: its copies are gone, or it has the drop recorded for its wake. -/
def Core.withoutCopies (run : Bool) (c : Core) : Core := if run then { c with segs := [], dicts := [] } else { c with dropAtWake := true }

theorem Core.withoutCopies_twice (run : Bool) (c : Core) : (c.withoutCopies run).withoutCopies run = c.withoutCopies run := by
  cases run <;> rfl

/-- A core's cluster is in RUN. -/
def coreRuns (s : State) (core : Nat) : Bool := decide ((s.cluster (clusterOf core)).power = .run)

theorem dropCopies_eq (s : State) (core : Nat) : dropCopies s core = s.setCore core ((s.core core).withoutCopies (coreRuns s core)) := by
  rw [dropCopies, coreRuns]
  cases (s.cluster (clusterOf core)).power <;> rfl

/-- Dropping the copies of some listed cores, any of them more than once, writes these cores alone. -/
theorem foldl_dropCopies (p : Nat → Bool) (l : List Nat) (s : State) : ∃ cs,
    l.foldl (fun t c => if p c then dropCopies t c else t) s = { s with cores := cs } ∧
      ∀ c, ({ s with cores := cs } : State).core c = if c ∈ l ∧ p c = true then (s.core c).withoutCopies (coreRuns s c) else s.core c := by
  induction l generalizing s with
  | nil => exact ⟨s.cores, rfl, fun c => (if_neg fun h => List.not_mem_nil h.1).symm⟩
  | cons i l ih =>
    rw [List.foldl_cons]
    by_cases hp : p i = true
    · rw [if_pos hp, dropCopies_eq]
      obtain ⟨cs, hl, hc⟩ := ih (s.setCore i ((s.core i).withoutCopies (coreRuns s i)))
      refine ⟨cs, hl, fun c => (hc c).trans ?_⟩
      by_cases hi : c = i
      · subst hi
        rw [State.core_setCore_same, if_pos (c := c ∈ c :: l ∧ p c = true) ⟨List.mem_cons_self, hp⟩]
        split
        · exact Core.withoutCopies_twice ..
        · rfl
      · rw [State.core_setCore_other _ _ hi]
        exact if_congr (by rw [List.mem_cons, or_iff_right hi]) rfl rfl
    · rw [if_neg hp]
      obtain ⟨cs, hl, hc⟩ := ih s
      refine ⟨cs, hl, fun c => (hc c).trans (if_congr (and_congr_left fun hpc => ?_) rfl rfl)⟩
      rw [List.mem_cons, or_iff_right]
      rintro rfl
      exact hp hpc

/-! Suspensions (R276). -/

theorem suspendNow_of_pending {s : State} (h : gatherPending s.arch = true) (f : CS) (y : Bool) : suspendNow s f y = raiseTrap s 0xFF0B :=
  if_pos h

theorem suspendNow_of_none_pending {s : State} (h : gatherPending s.arch = false) (f : CS) (y : Bool) : suspendNow s f y =
    hold (s.setMe { s.me with
      undo := []
      run := .suspending ⟨f.waitKind.val, f.waitOperand.toNat, f.live.toNat, f.done, y,
        (s.arch.pc + (if s.cur.lit then 25 else 1)).toNat⟩ }) s.cur.core s.cur.ctx := by
  rw [suspendNow, if_neg (by rw [h]; exact Bool.false_ne_true), ← ofNat_bundleLen]

theorem execYield_cases (f : CS) (s : State) : let asked := s.cur.susp = false ∨ s.me.preempt = true ∨ s.me.softCancel = true ∨ s.me.leaseStop = true
    (asked → execYield f s = .next (suspendNow s f true)) ∧ (¬ asked → execYield f s = .next s) := by
  intro asked
  have ha : (s.cur.susp && !(s.me.preempt || s.me.softCancel || s.me.leaseStop)) = true ↔ ¬ asked := by
    simp [asked, and_assoc]
  exact ⟨fun h => congrArg _ (if_neg fun hb => ha.1 hb h), fun h => congrArg _ (if_pos (ha.2 h))⟩

/-- Settles O14: `lend` by owner and pending writes, ICINV by the fold over the cores, SUSPEND and YIELD by `suspendNow`. -/
theorem ownershipAndStops : Obligations.OwnershipAndStops := by
  unfold Obligations.OwnershipAndStops
  refine ⟨fun f s => ⟨fun h => ?_, fun h hr hv hd => ?_, fun h hw => ?_⟩, fun f s => ?_, fun f s => ?_⟩
  · exact ⟨congrArg _ (lend_of_owner h), congrArg _ (lend_of_owner h)⟩
  · have hl := ((lend_of_other h).2 (not_bankWritten hv hd)).trans (pushResult_of_room s _ _ _ _ hr)
    exact ⟨congrArg _ hl, congrArg _ hl⟩
  · have hl := (lend_of_other h).1 hw
    exact ⟨congrArg _ hl, congrArg _ hl⟩
  · obtain ⟨cs, hl, hc⟩ := foldl_dropCopies (inScope f.scope s.cur.core) (s.cores.map (·.1)) s
    refine ⟨cs, congrArg _ hl, fun c => (hc c).trans ?_⟩
    simp only [Core.withoutCopies, coreRuns, decide_eq_true_eq]
  · obtain ⟨hyes, hno⟩ := execYield_cases f s
    exact ⟨fun h => congrArg _ (suspendNow_of_none_pending h f false),
      fun h ha => (hyes ha).trans (congrArg _ (suspendNow_of_none_pending h f true)), hno,
      fun h => congrArg _ (suspendNow_of_pending h f false), fun h ha => (hyes ha).trans (congrArg _ (suspendNow_of_pending h f true))⟩

end Sys2Proof.Machine
end

section
/-! SUPPORT. Element operations of the V slot: a shared operation whose element function agrees with a stated one in the low
bits of each element delivers the stated elements. -/
namespace Sys2Proof.Machine

/-! Widths of the types. -/

theorem tyWidth_pos (t : Ty) : 0 < tyWidth t := by cases t <;> decide

theorem two_mul_sign_place (t : Ty) : 2 * 2 ^ (tyWidth t - 1) = 2 ^ tyWidth t :=
  mul_pow_sub_one (tyWidth_pos t).ne' 2

/-! Element functions that agree in the low bits. -/

theorem Elements.congr_mod {v w : Nat} {g h : Nat → Nat} (hv : Elements v w g) (hgh : ∀ i, g i % 2 ^ w = h i % 2 ^ w) :
    Elements v w h :=
  fun i hi => (hv i hi).trans (hgh i)

theorem Merged.congr_mod {v w : Nat} {k : Word} {old : Vec} {g h : Nat → Nat} (hv : Merged v w k old g)
    (hgh : ∀ i, g i % 2 ^ w = h i % 2 ^ w) : Merged v w k old h :=
  Elements.congr_mod hv fun i => by rw [apply_ite (· % 2 ^ w), hgh i, ← apply_ite (· % 2 ^ w)]

section
variable {f : VR} {s : State} (hr : Room s 1) (ho : OwnV s (namesVR f))
include hr ho

theorem next_elemVR_of_room {cls : Nat} {g : Nat → Nat → Nat → Nat} {r : Nat → Nat}
    (hg : ∀ j, g (elem (rdV s f.va.val).toNat (tyWidth f.ty) j) (elem (rdV s f.vb.val).toNat (tyWidth f.ty) j)
      (elem (rdV s f.vc.val).toNat (tyWidth f.ty) j) % 2 ^ tyWidth f.ty = r j % 2 ^ tyWidth f.ty) :
    ∃ v, (.next (elemVR f s cls g) : Res) = .next (withResult s (.vec f.vd.val) v cls) ∧
      Merged v (tyWidth f.ty) (rdK s f.km.val) (rdV s f.vd.val) r := by
  obtain ⟨v, hv, hm⟩ := elemVR_of_room hr ho cls g
  exact ⟨v, congrArg _ hv, Merged.congr_mod hm hg⟩

end

/-- Settles O15: nine uses of the shared element operation. VNEG's sum is cut to the element's width in the operation, and by the
register in the statement. -/
theorem vectorFloat : Obligations.VectorFloat := by
  unfold Obligations.VectorFloat
  intro f s hr ho w x a b c gives rounded
  have op {cls g r} := @next_elemVR_of_room f s hr ho cls g r
  refine ⟨op fun _ => rfl, op fun _ => rfl, op fun _ => rfl, op fun _ => rfl, op fun _ => rfl, op fun _ => rfl, op fun _ => rfl,
    op fun _ => rfl, op fun j => ?negated⟩
  case negated =>
    show (if a j = .nan then _ else (x f.va j + 2 ^ (w - 1)) % (2 * 2 ^ (w - 1))) % 2 ^ w = _
    rw [two_mul_sign_place]
    split_ifs
    · rfl
    · exact Nat.mod_mod _ _

/-- An arithmetic right shift of an element's integer, as a bit vector's. -/
theorem wrapInt_sx_div (w x n : Nat) : wrapInt w (sx w x / ((2 ^ n : Nat) : Int)) = ((BitVec.ofNat w x).sshiftRight n).toNat := by
  rw [wrapInt_eq_toNat, sx_eq_toInt, ← Int.shiftRight_eq_div_pow, BitVec.sshiftRight]

/-- Settles O19: ten uses of the shared element operation; shifts as products, quotients and shifts of integers. -/
theorem vectorInteger : Obligations.VectorInteger := by
  unfold Obligations.VectorInteger
  intro f s hr ho w a b gives
  have op {cls g r} := @next_elemVR_of_room f s hr ho cls g r
  refine ⟨op fun _ => rfl, op fun _ => rfl, op fun _ => rfl, op fun _ => rfl, op fun _ => rfl, op fun _ => rfl,
    op fun j => ?shl, op fun j => ?shr, op fun j => ?sar, op fun _ => rfl⟩
  case shl => rw [Nat.shiftLeft_eq]
  case shr => rw [Nat.shiftRight_eq_div_pow]
  case sar => rw [wrapInt_sx_div]

end Sys2Proof.Machine
end

section
/-! SUPPORT. Lane predicates: the operand checks of their instructions, results for k0, and the bits that a compare collects. -/
namespace Sys2Proof.Machine

/-! Instructions on lane predicates (R165). -/

/-- k0 keeps all its bits, whatever is written to it (R141). -/
theorem Arch.wrK_zero (a : Arch) (v : Word) : a.wrK 0 v = a := rfl

theorem land_kreg_zero (a : Arch) {d : DueReg} (h : d.dest = .kreg 0) : a.land d = a := by
  rw [Arch.land, h]
  exact a.wrK_zero _

theorem eq_zero_of_zeroF_one {a : Nat} (h : zeroF [a] = []) : a = 0 :=
  zeroF_eq_nil.1 h a List.mem_cons_self

theorem eq_zero_of_zeroF_two {a b : Nat} (h : zeroF [a, b] = []) : a = 0 ∧ b = 0 :=
  ⟨zeroF_eq_nil.1 h a List.mem_cons_self, zeroF_eq_nil.1 h b (List.mem_cons_of_mem _ List.mem_cons_self)⟩

/-- Settles O24: the unused fields by the operand checks, the results by their bitwise operations. -/
theorem lanePredicates : Obligations.LanePredicates := by
  unfold Obligations.LanePredicates
  refine ⟨fun f i hi hw => ?logic, fun f => ⟨eq_zero_of_zeroF_two, eq_zero_of_zeroF_two, eq_zero_of_zeroF_one⟩,
    fun a d hd n => by rw [land_kreg_zero a hd], fun f s hr => ?results⟩
  case logic =>
    rcases hi with rfl | rfl
    · exact eq_zero_of_zeroF_one hw
    · exact eq_zero_of_zeroF_one hw
  case results =>
    have op {d cls v v'} := @next_push_of_room s hr d v v' cls
    exact ⟨op rfl, op rfl, op rfl, op rfl, op (popCount_eq _ 64)⟩

/-! Compares (R150). -/

/-- Bit `j` of collected lane bits is the test of lane `j`. -/
theorem testBit_laneBits (test : Nat → Bool) {j : Nat} (hj : j < 64) : (laneBits test).testBit j = test j := by
  have he : elem (laneBits test) 1 j = b2n (test j) % 2 := by
    rw [laneBits, elem_joinElems, List.getD_eq_getElem?_getD, List.getElem?_map, List.getElem?_range hj]
    rfl
  rw [elem, Nat.one_mul, Nat.pow_one, Nat.shiftRight_eq_div_pow] at he
  rw [Nat.testBit_eq_decide_div_mod_eq, he]
  cases test j <;> rfl

theorem next_cmpVR_of_room {f : VR} {s : State} (hr : Room s 1) (ho : OwnV s [f.va.val, f.vb.val]) (cls : Nat)
    (test : Nat → Nat → Bool) :
    ∃ v, (.next (cmpVR f s cls test) : Res) = .next (withResult s (.kreg f.vd.val) v cls) ∧ ∀ j, j < 64 →
      let i := if tyWidth f.ty = 32 then j else 2 * j + fld f.ctl.toNat 3 3
      v.testBit j = ((rdK s f.km.val).getLsbD (i * tyWidth f.ty / 32) &&
        test (elem (rdV s f.va.val).toNat (tyWidth f.ty) i) (elem (rdV s f.vb.val).toNat (tyWidth f.ty) i)) :=
  ⟨_, by rw [cmpVR, ownV_of_OwnV ho, push_of_room _ _ _ _ hr]; rfl, fun _ hj => testBit_laneBits _ hj⟩

end Sys2Proof.Machine
end

section
/-! SUPPORT. Moves of vector elements: registers that an instruction owns, an element replaced, a result merged. -/
namespace Sys2Proof.Machine

theorem OwnV.head {s : State} {n : Nat} {l : List Nat} (h : OwnV s (n :: l)) : OwnV s [n] :=
  fun hc m hm => h hc m (List.cons_subset_cons n (List.nil_subset l) hm)

theorem OwnV.tail {s : State} {n : Nat} {l : List Nat} (h : OwnV s (n :: l)) : OwnV s l :=
  fun hc m hm => h hc m (List.mem_cons_of_mem n hm)

/-! One element replaced. -/

/-- Replacing the bits of one element takes that element's share of the number out and puts the new one in. -/
theorem setFld_elem {w : Nat} (hw : 0 < w) (x e v : Nat) :
    setFld x (w * e + w - 1) (w * e) v = x - elem x w e * 2 ^ (w * e) + v % 2 ^ w * 2 ^ (w * e) := by
  rw [setFld, fld, show w * e + w - 1 + 1 - w * e = w by omega, Nat.shiftLeft_eq, Nat.shiftLeft_eq, elem]

theorem elem_mul_le (x w e : Nat) : elem x w e * 2 ^ (w * e) ≤ x := by
  rw [elem, Nat.shiftRight_eq_div_pow]
  exact (Nat.mul_le_mul_right _ (Nat.mod_le ..)).trans (Nat.div_mul_le_self ..)

/-- Replacing an element above the lowest one leaves the lowest one. -/
theorem setFld_elem_succ {w : Nat} (hw : 0 < w) (x e v : Nat) : setFld x (w * (e + 1) + w - 1) (w * (e + 1)) v =
    x % 2 ^ w + setFld (x / 2 ^ w) (w * e + w - 1) (w * e) v * 2 ^ w := by
  have hx := Nat.div_add_mod' x (2 ^ w)
  have hle := Nat.mul_le_mul_right (2 ^ w) (elem_mul_le (x / 2 ^ w) w e)
  rw [setFld_elem hw, setFld_elem hw, elem_succ, Nat.mul_succ, Nat.pow_add, ← Nat.mul_assoc, ← Nat.mul_assoc,
    Nat.add_mul, Nat.sub_mul]
  omega

theorem elem_setFld {w : Nat} (hw : 0 < w) (x e v j : Nat) :
    elem (setFld x (w * e + w - 1) (w * e) v) w j = if j = e then v % 2 ^ w else elem x w j := by
  induction e generalizing x j with
  | zero =>
    rw [Nat.mul_zero, Nat.zero_add, setFld_low x w v hw]
    cases j with
    | zero => simp [elem_zero]
    | succ j => simp [elem_succ, mod_add_mul_div]
  | succ e ih =>
    rw [setFld_elem_succ hw]
    cases j with
    | zero => simp [elem_zero]
    | succ j => simp [elem_succ, mod_add_mul_div, ih]

theorem elements_setFld {w : Nat} (hw : 0 < w) (x e v : Nat) :
    Elements (setFld x (w * e + w - 1) (w * e) v) w (fun j => if j = e then v else elem x w j) := fun j _ => by
  rw [elem_setFld hw]
  show _ = (if j = e then v else elem x w j) % 2 ^ w
  split_ifs
  · rfl
  · exact (Nat.mod_eq_of_lt (elem_lt x w j)).symm

/-! Vector results of every form. -/

/-- An instruction of the V slot whose whole effect is one vector result. -/
theorem next_ownV_push_of_room {s : State} {l : List Nat} {x : State → Nat} {d cls : Nat} {P : Nat → Prop} (hr : Room s 1)
    (ho : OwnV s l) (hP : P (x s)) :
    ∃ v, (.next (ownV s l fun s => push s (.vec d) (x s) cls) : Res) = .next (withResult s (.vec d) v cls) ∧ P v :=
  ⟨_, by rw [ownV_of_OwnV ho, push_of_room _ _ _ _ hr], hP⟩

/-- What VMOVS does with registers that it owns: an extract or an insert. -/
theorem execVmovs_of_room {f : VI} {s : State} (hr : Room s 1) (ho : OwnV s [f.vd.val, f.va.val]) : execVmovs f s =
    let w := tyWidth f.ty
    let e := fld f.imm.toNat 8 0
    .next (if f.imm.getLsbD 15 then withResult s (.scalar f.sa.val) (widen f.ty (elem (rdV s f.va.val).toNat w e)) 0
      else withResult s (.vec f.vd.val) (setFld (rdV s f.vd.val).toNat (w * e + w - 1) (w * e) (rdS s f.sa.val).toNat) 0) := by
  simp only [execVmovs, ownV_of_OwnV ho, push_of_room _ _ _ _ hr]

/-- Settles O20: compares collect their lanes' tests, a selection and the moves merge their elements, an insert replaces one. -/
theorem compareAndSelect : Obligations.CompareAndSelect := by
  unfold Obligations.CompareAndSelect
  refine ⟨fun f s hr ho => ⟨next_cmpVR_of_room hr ho 5 _, next_cmpVR_of_room hr ho 0 _⟩,
    fun f s hr ho => next_ownV_push_of_room hr ho (merged_laneMerge _ _ _ _), fun f s hr ho => ?moves⟩
  case moves =>
    refine ⟨next_ownV_push_of_room hr (OwnV.head ho) (merged_laneMerge _ _ _ _),
      fun _ hx => (execVmovs_of_room hr ho).trans (congrArg _ (if_pos hx)),
      fun _ hx => ⟨_, (execVmovs_of_room hr ho).trans (congrArg _ (if_neg (Bool.eq_false_iff.1 hx))),
        elements_setFld (tyWidth_pos f.ty) _ _ _⟩,
      next_ownV_push_of_room hr ho (Merged.congr (merged_laneMerge _ _ _ _) fun j _ => ?rotation)⟩
    case rotation => rw [Nat.add_mod_mod]

end Sys2Proof.Machine
end

section
/-! SUPPORT. Permutation and conversion: groups of 64 elements, and the two scale bytes of a group. -/
namespace Sys2Proof.Machine

/-- A replaced group: its enabled lanes hold the new elements, all others the old ones. -/
theorem elements_groupMerge (k : Word) (w h : Nat) (old : Vec) (g : Nat → Nat) : Elements (groupMerge k w h old g) w (fun j =>
    if 64 * h ≤ j ∧ j < 64 * h + 64 ∧ k.getLsbD (j - 64 * h) = true then g (j - 64 * h) else elem old.toNat w j) :=
  Elements.congr (elements_joinElems w _) fun j _ => by simp only [Bool.and_eq_true, decide_eq_true_eq, and_assoc]

/-! Block scales (R97, R155). -/

theorem blockScale_lt (t : Ty) (xs : List FV) : blockScale t xs < 256 := by
  unfold blockScale
  split
  · decide
  · dsimp only
    split
    · decide
    · omega

/-- The bytes of an element of 16 bits. -/
theorem elem_byte (x j : Nat) : elem x 8 j = elem x 16 (j / 2) / 2 ^ (8 * (j % 2)) % 2 ^ 8 := by
  have hj : 8 * j = 16 * (j / 2) + 8 * (j % 2) := by omega
  rw [elem, elem, hj, Nat.shiftRight_add]
  obtain h | h := Nat.mod_two_eq_zero_or_one j <;> rw [h] <;> omega

/-- Bytes `2 * h` and `2 * h + 1` replaced together. -/
theorem elements_setFld_bytes (x h : Nat) (r : Nat → Nat) (hr : r 0 < 256) :
    Elements (setFld x (16 * h + 15) (16 * h) (r 0 + 256 * r 1)) 8
      (fun j => if j = 2 * h ∨ j = 2 * h + 1 then r (j - 2 * h) else elem x 8 j) := by
  intro j _
  have he : elem (setFld x (16 * h + 15) (16 * h) (r 0 + 256 * r 1)) 16 (j / 2) = if j / 2 = h then _ else _ :=
    elem_setFld (by decide) x h (r 0 + 256 * r 1) (j / 2)
  show _ = (if j = 2 * h ∨ j = 2 * h + 1 then r (j - 2 * h) else elem x 8 j) % 2 ^ 8
  rw [elem_byte]
  by_cases hj : j / 2 = h
  · rw [if_pos hj] at he
    obtain hm | hm := Nat.mod_two_eq_zero_or_one j
    · rw [he, hm, if_pos (.inl (by omega)), show j - 2 * h = 0 by omega]
      omega
    · rw [he, hm, if_pos (.inr (by omega)), show j - 2 * h = 1 by omega]
      omega
  · rw [if_neg hj] at he
    rw [he, ← elem_byte, if_neg (by omega), Nat.mod_eq_of_lt (elem_lt x 8 j)]

/-- The scale that VBSCL computes for block `b` of 32 FP32 elements; a disabled lane counts as zero. -/
def blockOf (t : Ty) (k : Word) (a b : Nat) : Nat := blockScale t ((List.range 32).map fun i =>
  if k.getLsbD (32 * b + i) then valueOf .f32 (elem a 32 (32 * b + i)) else .fin false 0 0)

section
variable {f : VR} {s : State} (hr : Room s 1) (ho : OwnV s (namesVR f))
include hr ho

/-- VBSCL that scales elements (R155). -/
theorem execVbscl_scaling (hc : f.ctl.getLsbD 4 = true) : execVbscl f s =
    .next (withResult s (.vec f.vd.val) (groupMerge (rdK s f.km.val) (tyWidth f.ty) (fld f.ctl.toNat 2 0) (rdV s f.vd.val) (fun j =>
      let sc := elem (rdV s f.vb.val).toNat 8 (2 * fld f.ctl.toNat 2 0 + j / 32)
      if sc = 255 then convert f.ty .f32 f.rnd false (elem (rdV s f.va.val).toNat 32 j)
      else fpRound (fmtOf f.ty) f.rnd true (fvScale (valueOf .f32 (elem (rdV s f.va.val).toNat 32 j)) (-scaleExp sc)))) 5) := by
  rw [execVbscl, ownV_of_OwnV ho]
  simp only [hc, if_true, push_of_room _ _ _ _ hr]

/-- VBSCL that computes the scales of two blocks (R155). -/
theorem execVbscl_scales (hc : f.ctl.getLsbD 4 = false) : execVbscl f s =
    let scale := blockOf f.ty (rdK s f.km.val) (rdV s f.va.val).toNat
    let h := fld f.ctl.toNat 2 0
    .next (withResult s (.vec f.vd.val) (setFld (rdV s f.vd.val).toNat (16 * h + 15) (16 * h) (scale 0 + 256 * scale 1)) 5) := by
  rw [execVbscl, ownV_of_OwnV ho]
  simp only [hc, Bool.false_eq_true, if_false, push_of_room _ _ _ _ hr, blockOf]

end

/-- Settles O21: each result is a merge of its elements, a merge within a group, or two bytes replaced. -/
theorem permuteAndConvert : Obligations.PermuteAndConvert := by
  unfold Obligations.PermuteAndConvert
  intro f s hr ho w w2 k old a b c n half h grouped
  refine ⟨next_ownV_push_of_room hr ho (Merged.congr (merged_laneMerge _ _ _ _) fun j _ => ?perm),
    next_ownV_push_of_room hr ho (Merged.congr (merged_laneMerge _ _ _ _) fun j _ => ?convert),
    next_ownV_push_of_room hr ho (elements_groupMerge _ _ _ _ _),
    next_ownV_push_of_room hr ho (Merged.congr (merged_laneMerge _ _ _ _) fun j _ => ?unpack),
    fun hc => ⟨_, execVbscl_scaling hr ho hc, Elements.congr (elements_groupMerge _ _ _ _ _) fun j _ => ?scaled⟩,
    fun hc => ⟨_, execVbscl_scales hr ho hc, elements_setFld_bytes _ _ (blockOf f.ty k a) (blockScale_lt _ _)⟩⟩
  case perm =>
    cases f.ctl.getLsbD 0
    · rfl
    · rfl
  case convert => simp only [Bool.and_eq_true, decide_eq_true_eq]; rfl
  case unpack =>
    cases f.ctl.getLsbD 3
    · rfl
    · rfl
  case scaled => simp only [scaleExp, neg_sub]; rfl

end Sys2Proof.Machine
end

section
/-! SUPPORT. The accesses of vector lanes: which flaw of several accesses is raised, and when there is none. -/
namespace Sys2Proof.Machine

/-! The lowest flaw of several accesses (R430). -/

/-- The step of `lowestFlaw`: of two flaws the lower one, of one flaw that one. -/
def lowerFlaw : Option Flaw → Option Flaw → Option Flaw
  | none, y => y
  | some x, none => some x
  | some x, some y => if y.2.2 < x.2.2 then some y else some x

theorem lowestFlaw_eq_foldl (l : List (Option Flaw)) : lowestFlaw l = l.foldl lowerFlaw none := rfl

/-- A flaw that stands in a list of findings, every other one there being of a higher address. -/
def LowestOf (w : Flaw) (l : List (Option Flaw)) : Prop := some w ∈ l ∧ ∀ u, some u ∈ l → u = w ∨ w.2.2 < u.2.2

theorem lowerFlaw_eq_or (x y : Option Flaw) : lowerFlaw x y = x ∨ lowerFlaw x y = y := by
  cases x with
  | none => exact .inr rfl
  | some a =>
    cases y with
    | none => exact .inl rfl
    | some b =>
      rw [lowerFlaw]
      split_ifs
      · exact .inr rfl
      · exact .inl rfl

theorem lowerFlaw_eq_of_lowest {w : Flaw} {x y : Option Flaw} (h : LowestOf w [x, y]) : lowerFlaw x y = some w := by
  obtain ⟨hw, hl⟩ := h
  simp only [List.mem_cons, List.not_mem_nil, or_false] at hw hl
  cases x with
  | none => exact (hw.resolve_left (Option.some_ne_none w)).symm
  | some a =>
    cases y with
    | none => exact (hw.resolve_right (Option.some_ne_none w)).symm
    | some b =>
      have ha := hl a (.inl rfl)
      have hb := hl b (.inr rfl)
      rw [lowerFlaw]
      split_ifs
      · grind
      · grind

theorem lowestOf_lowerFlaw {w : Flaw} {x y : Option Flaw} {l : List (Option Flaw)} (h : LowestOf w (x :: y :: l)) :
    LowestOf w (lowerFlaw x y :: l) := by
  obtain ⟨hw, hl⟩ := h
  have hsub : ∀ z ∈ lowerFlaw x y :: l, z ∈ x :: y :: l := by
    refine fun z hz => (List.mem_cons.1 hz).elim (fun hz => ?_) fun hz => List.mem_cons_of_mem _ (List.mem_cons_of_mem _ hz)
    obtain hxy | hxy := lowerFlaw_eq_or x y
    · exact List.mem_cons.2 (.inl (hz.trans hxy))
    · exact List.mem_cons_of_mem _ (List.mem_cons.2 (.inl (hz.trans hxy)))
  refine ⟨?_, fun u hu => hl u (hsub _ hu)⟩
  obtain hw | hw := List.mem_append.1 (show some w ∈ [x, y] ++ l from hw)
  · rw [lowerFlaw_eq_of_lowest ⟨hw, fun u hu => hl u (List.mem_append_left l hu)⟩]
    exact List.mem_cons_self
  · exact List.mem_cons_of_mem _ hw

theorem foldl_lowerFlaw {w : Flaw} {x : Option Flaw} {l : List (Option Flaw)} (h : LowestOf w (x :: l)) :
    l.foldl lowerFlaw x = some w := by
  induction l generalizing x with
  | nil => exact (List.mem_singleton.1 h.1).symm
  | cons y l ih => exact ih (lowestOf_lowerFlaw h)

theorem lowestFlaw_of_lowest {w : Flaw} {l : List (Option Flaw)} (h : LowestOf w l) : lowestFlaw l = some w := by
  rw [lowestFlaw_eq_foldl]
  exact foldl_lowerFlaw ⟨List.mem_cons_of_mem _ h.1, fun u hu => h.2 u (List.mem_of_ne_of_mem (Option.some_ne_none u) hu)⟩

theorem lowestFlaw_of_none {l : List (Option Flaw)} (h : ∀ x ∈ l, x = none) : lowestFlaw l = none := by
  rw [lowestFlaw_eq_foldl]
  induction l with
  | nil => rfl
  | cons x l ih =>
    rw [List.foldl_cons, h x List.mem_cons_self]
    exact ih fun y hy => h y (List.mem_cons_of_mem _ hy)

/-- Among accesses whose flaws all have one cause and code, the flaw of the lowest address. -/
theorem lowestFlaw_map {ι : Type} {l : List ι} {find : ι → Option Flaw} {bad : ι → Prop} {c : Cause} {code : Nat} {low : ι → Nat}
    (hbad : ∀ j ∈ l, bad j → find j = some (c, code, low j)) (hgood : ∀ j ∈ l, ¬ bad j → find j = none)
    {j : ι} (hj : j ∈ l) (hb : bad j) (hmin : ∀ m ∈ l, bad m → low j ≤ low m) :
    lowestFlaw (l.map find) = some (c, code, low j) := by
  refine lowestFlaw_of_lowest ⟨List.mem_map.2 ⟨j, hj, hbad j hj hb⟩, fun u hu => ?_⟩
  obtain ⟨m, hm, hmu⟩ := List.mem_map.1 hu
  by_cases hbm : bad m
  · rw [hbad m hm hbm, Option.some_inj] at hmu
    subst hmu
    obtain h | h := (hmin m hm hbm).eq_or_lt
    · exact .inl (by rw [h])
    · exact .inr h
  · exact absurd ((hgood m hm hbm).symm.trans hmu) (Option.some_ne_none u).symm

/-! Words of enabled lanes (R160, R161). -/

/-- A word of four bytes that does not lie within bounds, and its first byte outside them. -/
def wordOut (b : Nat × Nat) (x : Nat) : Prop := x < b.1 ∨ b.2 < x + 4
def wordLow (b : Nat × Nat) (x : Nat) : Nat := if x < b.1 then x else max x b.2

theorem boundFlaw_of_wordOut {b : Nat × Nat} {x : Nat} (h : wordOut b x) : boundFlaw b x 4 = some (.bound, 1, wordLow b x) := by
  rw [wordLow]
  split_ifs with hlo
  · exact boundFlaw_below (by decide) hlo
  · exact boundFlaw_above (by decide) (Nat.le_of_not_lt hlo) (h.resolve_left hlo)

theorem boundFlaw_of_not_wordOut {b : Nat × Nat} {x : Nat} (h : ¬ wordOut b x) : boundFlaw b x 4 = none := by
  rw [wordOut, not_or, Nat.not_lt, Nat.not_lt] at h
  exact boundFlaw_inside b x 4 h.1 h.2

/-- An aligned word lies in one line. -/
theorem formFlaw_of_plain_word {s : State} {x : Nat} (hx : x % 4 = 0) (h : s.form s.cur.core (x / 256) ≠ true) :
    formFlaw s x 4 = none :=
  formFlaw_plain s x 4 fun l hl hl' => by rwa [show l = x / 256 by omega, ← Bool.not_eq_true]

/-- Lane `j` is one of the 64 and enabled. -/
def laneOn (k : Word) (j : Nat) : Prop := j < 64 ∧ k.getLsbD j = true

/-- The accesses of the enabled lanes, each to the word at its address. -/
def laneWords (k : Word) (at' : Nat → Nat) : List (Nat × Nat) := ((List.range 64).filter (k.getLsbD ·)).map fun j => (at' j, 4)

theorem mem_lanes {k : Word} {j : Nat} : j ∈ (List.range 64).filter (k.getLsbD ·) ↔ laneOn k j := by
  rw [List.mem_filter, List.mem_range, laneOn]

theorem mem_laneWords {k : Word} {at' : Nat → Nat} {r : Nat × Nat} : r ∈ laneWords k at' ↔ ∃ j, laneOn k j ∧ (at' j, 4) = r := by
  simp only [laneWords, List.mem_map, mem_lanes]

theorem laneWords_eq_nil {k : Word} {at' : Nat → Nat} : laneWords k at' = [] ↔ k = 0 := by
  rw [laneWords, List.map_eq_nil_iff, List.filter_eq_nil_iff]
  refine ⟨fun h => BitVec.eq_of_getLsbD_eq fun j hj => ?_, fun h j _ => by simp [h]⟩
  exact (Bool.eq_false_iff.2 (h j (List.mem_range.2 hj))).trans BitVec.getLsbD_zero.symm

section
variable {s : State} {sp : Space} {k : Word} {at' : Nat → Nat}

theorem rangesFlaw_nil (bad : Option Nat) : rangesFlaw s sp [] bad = none := rfl

/-- Ranges that are all fit, where a misaligned address counts only if something is accessed. -/
theorem rangesFlaw_eq_none {rs : List (Nat × Nat)} {bad : Option Nat} (hb : rs ≠ [] → bad = none)
    (h : ∀ r ∈ rs, Inside s sp r.1 r.2) : rangesFlaw s sp rs bad = none := by
  by_cases hrs : rs = []
  · rw [hrs, rangesFlaw_nil]
  have hbound : lowestFlaw (rs.map fun r => boundFlaw (spaceBounds s sp) r.1 r.2) = none :=
    lowestFlaw_of_none (List.forall_mem_map.2 fun r hr => (h r hr).bound)
  have hform : (if sp = .act then lowestFlaw (rs.map fun r => formFlaw s r.1 r.2) else none) = none := by
    split_ifs with hsp
    · subst hsp
      exact lowestFlaw_of_none (List.forall_mem_map.2 fun r hr => (h r hr).form)
    · rfl
  rw [rangesFlaw, hb hrs, hbound, hform, if_neg (by simpa using hrs)]
  rfl

theorem rangesFlaw_misaligned {rs : List (Nat × Nat)} (hrs : rs ≠ []) (a : Nat) :
    rangesFlaw s sp rs (some a) = some (.bound, 2, a) := by
  rw [rangesFlaw, if_neg (by simpa using hrs)]
  rfl

theorem rangesFlaw_bound {j : Nat} (hj : laneOn k j) (hout : wordOut (spaceBounds s sp) (at' j))
    (hmin : ∀ m, laneOn k m → wordOut (spaceBounds s sp) (at' m) →
      wordLow (spaceBounds s sp) (at' j) ≤ wordLow (spaceBounds s sp) (at' m)) :
    rangesFlaw s sp (laneWords k at') none = some (.bound, 1, wordLow (spaceBounds s sp) (at' j)) := by
  have hne : laneWords k at' ≠ [] := List.ne_nil_of_mem (mem_laneWords.2 ⟨j, hj, rfl⟩)
  have hlow : lowestFlaw ((laneWords k at').map fun r => boundFlaw (spaceBounds s sp) r.1 r.2) =
      some (.bound, 1, wordLow (spaceBounds s sp) (at' j)) := by
    rw [laneWords, List.map_map]
    exact lowestFlaw_map (fun _ _ => boundFlaw_of_wordOut) (fun _ _ => boundFlaw_of_not_wordOut) (mem_lanes.2 hj) hout
      fun m hm => hmin m (mem_lanes.1 hm)
  rw [rangesFlaw, if_neg (by simpa using hne), hlow]
  rfl

theorem rangesFlaw_form (hin : ∀ m, laneOn k m → ¬ wordOut (spaceBounds s .act) (at' m))
    (hal : ∀ m, laneOn k m → at' m % 4 = 0) {j : Nat} (hj : laneOn k j)
    (hf : s.form s.cur.core (at' j / 256) = true)
    (hmin : ∀ m, laneOn k m → s.form s.cur.core (at' m / 256) = true → at' j ≤ at' m) :
    rangesFlaw s .act (laneWords k at') none = some (.form, 1, at' j) := by
  have hne : laneWords k at' ≠ [] := List.ne_nil_of_mem (mem_laneWords.2 ⟨j, hj, rfl⟩)
  have hbound : lowestFlaw ((laneWords k at').map fun r => boundFlaw (spaceBounds s .act) r.1 r.2) = none := by
    refine lowestFlaw_of_none (List.forall_mem_map.2 fun r hr => ?_)
    obtain ⟨m, hm, rfl⟩ := mem_laneWords.1 hr
    exact boundFlaw_of_not_wordOut (hin m hm)
  have hlow : lowestFlaw ((laneWords k at').map fun r => formFlaw s r.1 r.2) = some (.form, 1, at' j) := by
    rw [laneWords, List.map_map]
    exact lowestFlaw_map (bad := fun m => s.form s.cur.core (at' m / 256) = true) (fun _ _ => formFlaw_first (by decide))
      (fun m hm => formFlaw_of_plain_word (hal m (mem_lanes.1 hm))) (mem_lanes.2 hj) hf fun m hm => hmin m (mem_lanes.1 hm)
  rw [rangesFlaw, if_neg (by simpa using hne), hbound, if_pos rfl, hlow]
  rfl

end

end Sys2Proof.Machine
end

section
/-! SUPPORT. Vector buffer accesses: what a fit one delivers or withholds, and the flaw that an unfit one raises. -/
namespace Sys2Proof.Machine

/-! What each access comes to, by the flaw that its lanes meet. -/

/-- The flaw of an access to the enabled words from a base on (R160, R162). -/
def vecFlaw (f : VM) (s : State) (sp : Space) : Option Flaw :=
  rangesFlaw s sp (laneRanges (rdK s f.km.val) (addrVM s f)) (badAlign (addrVM s f) 64)

section
variable {f : VM} {s : State} {sp : Space}

theorem vecLoad_of_flaw {c : Cause} {code x : Nat} (ho : OwnV s [f.vd.val]) (h : vecFlaw f s sp = some (c, code, x)) (cls : Nat) :
    vecLoad f s sp cls = raise s c code (BitVec.ofNat 64 x) := by
  rw [vecLoad, ownV_of_OwnV ho]
  unfold vecFlaw at h
  simp only [h, raiseFlaw]

theorem vecLoad_of_fit (hr : Room s 1) (he : s.errs = []) (ho : OwnV s [f.vd.val]) (h : vecFlaw f s sp = none) (cls : Nat) :
    vecLoad f s sp cls = withResult s (.vec f.vd.val) (laneMerge (rdK s f.km.val) 32 (rdV s f.vd.val)
      (elem (leNat (seen s sp (addrVM s f) 256)) 32 ·)) cls := by
  rw [vecLoad, ownV_of_OwnV ho]
  unfold vecFlaw at h
  simp only [h, readEccMany_clean s sp _ he]
  exact pushResult_of_room s _ _ _ _ hr

theorem vecStore_of_flaw {c : Cause} {code x : Nat} (ho : OwnV s [f.va.val]) (h : vecFlaw f s sp = some (c, code, x)) :
    vecStore f s sp = raise s c code (BitVec.ofNat 64 x) := by
  rw [vecStore, ownV_of_OwnV ho]
  unfold vecFlaw at h
  simp only [h, raiseFlaw]

theorem vecStore_of_fit (ho : OwnV s [f.va.val]) (h : vecFlaw f s sp = none) :
    vecStore f s sp = withEntry s (.store s.arch.tick
      ((addressed (spaceBase s sp + addrVM s f) (leBytes 256 (rdV s f.va.val).toNat)).filter
        (fun b => (rdK s f.km.val).getLsbD ((b.1 - (spaceBase s sp + addrVM s f)) / 4)))) := by
  rw [vecStore, ownV_of_OwnV ho]
  unfold vecFlaw at h
  simp only [h]
  rfl

end

/-- The address of lane `j` of a gather (R161). -/
def gatherAddr (f : VM) (s : State) : Nat → Nat := fun j => (addrVM s f + elem (rdV s f.va.val).toNat 32 j) % 2 ^ 64

/-- The misaligned addresses of the enabled lanes, and the lowest of them (R162). -/
def misalignedLanes (k : Word) (at' : Nat → Nat) : List Nat :=
  (((List.range 64).filter (k.getLsbD ·)).map at').filter (· % 4 ≠ 0)
def lowestMisaligned (k : Word) (at' : Nat → Nat) : Option Nat :=
  if (misalignedLanes k at').isEmpty then none else some ((misalignedLanes k at').foldl min (2 ^ 64))

section
variable {k : Word} {at' : Nat → Nat}

theorem mem_misalignedLanes {x : Nat} : x ∈ misalignedLanes k at' ↔ ∃ j, laneOn k j ∧ at' j % 4 ≠ 0 ∧ at' j = x := by
  rw [misalignedLanes, List.mem_filter, List.mem_map, decide_eq_true_eq]
  constructor
  · rintro ⟨⟨j, hj, rfl⟩, hx⟩
    exact ⟨j, mem_lanes.1 hj, hx, rfl⟩
  · rintro ⟨j, hj, hx, rfl⟩
    exact ⟨⟨j, mem_lanes.2 hj, rfl⟩, hx⟩

theorem lowestMisaligned_eq_none (h : ∀ m, laneOn k m → at' m % 4 = 0) : lowestMisaligned k at' = none := by
  have hnil : misalignedLanes k at' = [] := List.eq_nil_iff_forall_not_mem.2 fun x hx => by
    obtain ⟨m, hm, hbad, -⟩ := mem_misalignedLanes.1 hx
    exact hbad (h m hm)
  rw [lowestMisaligned, hnil]
  rfl

theorem lowestMisaligned_eq_some {j : Nat} (hj : laneOn k j) (hbad : at' j % 4 ≠ 0) (hlt : at' j ≤ 2 ^ 64)
    (hmin : ∀ m, laneOn k m → at' m % 4 ≠ 0 → at' j ≤ at' m) : lowestMisaligned k at' = some (at' j) := by
  have hmem : at' j ∈ misalignedLanes k at' := mem_misalignedLanes.2 ⟨j, hj, hbad, rfl⟩
  have hlow : (misalignedLanes k at').min? = some (at' j) := List.min?_eq_some_iff.2 ⟨hmem, fun x hx => by
    obtain ⟨m, hm, hbad, rfl⟩ := mem_misalignedLanes.1 hx
    exact hmin m hm hbad⟩
  rw [lowestMisaligned, if_neg (by simpa using List.ne_nil_of_mem hmem), List.foldl_min, hlow, Option.getD_some, min_eq_right hlt]

end

/-- The flaw of a gather (R161, R162). -/
def gatherFlaw (f : VM) (s : State) : Option Flaw :=
  rangesFlaw s .act (laneWords (rdK s f.km.val) (gatherAddr f s)) (lowestMisaligned (rdK s f.km.val) (gatherAddr f s))

section
variable {f : VM} {s : State}

theorem execVglda_of_flaw {c : Cause} {code x : Nat} (ho : OwnV s [f.vd.val, f.va.val]) (h : gatherFlaw f s = some (c, code, x)) :
    execVglda f s = .next (raise s c code (BitVec.ofNat 64 x)) := by
  rw [execVglda, ownV_of_OwnV ho]
  unfold gatherFlaw laneWords lowestMisaligned misalignedLanes gatherAddr at h
  simp only [h, raiseFlaw]

theorem execVglda_of_fit (hr : Room s 1) (he : s.errs = []) (ho : OwnV s [f.vd.val, f.va.val]) (h : gatherFlaw f s = none) :
    execVglda f s = .next (withResult s (.vec f.vd.val) (laneMerge (rdK s f.km.val) 32 (rdV s f.vd.val)
      (fun j => leNat (seen s .act (gatherAddr f s j) 4))) 3) := by
  rw [execVglda, ownV_of_OwnV ho]
  unfold gatherFlaw laneWords lowestMisaligned misalignedLanes gatherAddr at h
  simp only [h, readEccMany_clean s .act _ he]
  exact congrArg _ (pushResult_of_room s _ _ _ _ hr)

end

/-! Accesses that are fit. -/

theorem laneWords_inside {s : State} {sp : Space} {k : Word} {at' : Nat → Nat}
    (h : ∀ j, j < 64 → k.getLsbD j = true → Inside s sp (at' j) 4) : ∀ r ∈ laneWords k at', Inside s sp r.1 r.2 := fun r hr => by
  obtain ⟨j, hj, rfl⟩ := mem_laneWords.1 hr
  exact h j hj.1 hj.2

/-- Lanes from a base on that are all fit meet no flaw; the base of an access without lanes need not be aligned. -/
theorem vecFlaw_of_fits {f : VM} {s : State} {sp : Space} (h : (rdK s f.km.val ≠ 0 → addrVM s f % 64 = 0) ∧
    ∀ j, j < 64 → (rdK s f.km.val).getLsbD j = true → Inside s sp (addrVM s f + 4 * j) 4) : vecFlaw f s sp = none :=
  rangesFlaw_eq_none (fun hne => if_neg (not_not.2 (h.1 fun hk => hne (laneWords_eq_nil.2 hk))))
    (laneWords_inside (at' := (addrVM s f + 4 * ·)) h.2)

theorem vecFlaw_misaligned {f : VM} {s : State} {sp : Space} (hk : rdK s f.km.val ≠ 0) (ha : addrVM s f % 64 ≠ 0) :
    vecFlaw f s sp = some (.bound, 2, addrVM s f) := by
  rw [vecFlaw, badAlign, if_pos ha]
  exact rangesFlaw_misaligned (fun hnil => hk (laneWords_eq_nil.1 hnil)) _

theorem vecFlaw_aligned {f : VM} {s : State} {sp : Space} (ha : addrVM s f % 64 = 0) :
    vecFlaw f s sp = rangesFlaw s sp (laneWords (rdK s f.km.val) (addrVM s f + 4 * ·)) none := by
  rw [vecFlaw, badAlign, if_neg (not_not.2 ha)]
  rfl

theorem gatherFlaw_of_clear {f : VM} {s : State}
    (h : ∀ j, j < 64 → (rdK s f.km.val).getLsbD j = true → Clear s .act (gatherAddr f s j) 4 4) : gatherFlaw f s = none :=
  rangesFlaw_eq_none (fun _ => lowestMisaligned_eq_none fun m hm => (h m hm.1 hm.2).1) (laneWords_inside fun j hj hk => (h j hj hk).2)

theorem gatherFlaw_misaligned {f : VM} {s : State} {j : Nat} (hj : laneOn (rdK s f.km.val) j)
    (hbad : gatherAddr f s j % 4 ≠ 0)
    (hmin : ∀ m, laneOn (rdK s f.km.val) m → gatherAddr f s m % 4 ≠ 0 → gatherAddr f s j ≤ gatherAddr f s m) :
    gatherFlaw f s = some (.bound, 2, gatherAddr f s j) := by
  have hlt : gatherAddr f s j ≤ 2 ^ 64 := (Nat.mod_lt _ (Nat.two_pow_pos 64)).le
  rw [gatherFlaw, lowestMisaligned_eq_some hj hbad hlt hmin]
  exact rangesFlaw_misaligned (List.ne_nil_of_mem (mem_laneWords.2 ⟨j, hj, rfl⟩)) _

theorem gatherFlaw_aligned {f : VM} {s : State} (h : ∀ m, laneOn (rdK s f.km.val) m → gatherAddr f s m % 4 = 0) :
    gatherFlaw f s = rangesFlaw s .act (laneWords (rdK s f.km.val) (gatherAddr f s)) none := by
  rw [gatherFlaw, lowestMisaligned_eq_none h]

/-! Streams (R164). -/

theorem pushResult_setArch_of_room {s : State} {a : Arch} (hr : Room s 1) (hd : a.dueRegs = s.arch.dueRegs) (d : Dest) (v cls : Nat) :
    pushResult (s.setArch a) d v (latency s cls) (ownLatency cls) none = withResult (s.setArch a) d v cls := by
  have hr' : Room (s.setArch a) 1 := by rwa [Room, State.arch_setArch, hd]
  have hl : latency (s.setArch a) cls = latency s cls := by rw [latency, State.me_setArch]; rfl
  rw [pushResult_of_room _ _ _ _ _ hr', ← hl]
  rfl

theorem execVmovq_unbound {f : VQ} {s : State} (ho : OwnV s [f.vd.val]) (h : ∀ b, s.arch.rdQ f.q.val = some b → b.units ≠ 4) :
    execVmovq f s = .next (raiseTrap s 0xFF05) := by
  rw [execVmovq, ownV_of_OwnV ho]
  cases hb : s.arch.rdQ f.q.val with
  | none => rfl
  | some b => simp only [ne_eq, h b hb, not_false_eq_true, if_true]

theorem execVmovq_waiting {f : VQ} {s : State} {b : Binding} (ho : OwnV s [f.vd.val]) (hb : s.arch.rdQ f.q.val = some b)
    (hu : b.units = 4) (hs : streamReady s.me f.q.val = false) : execVmovq f s = .next s := by
  rw [execVmovq, ownV_of_OwnV ho]
  simp [hb, hu, hs]

theorem execVmovq_ready {f : VQ} {s : State} {b : Binding} (he : s.errs = []) (hr : Room s 1) (ho : OwnV s [f.vd.val])
    (hb : s.arch.rdQ f.q.val = some b) (hu : b.units = 4) (hs : streamReady s.me f.q.val = true) : execVmovq f s =
      .next (withResult (s.setArch (s.arch.wrQ f.q.val (some { b with consumed := b.consumed + 1 }))) (.vec f.vd.val)
        (laneMerge (rdK s f.km.val) 32 (rdV s f.vd.val) (elem (leNat (seen s .act (elemAddr b) 256)) 32 ·)) 0) := by
  rw [execVmovq, ownV_of_OwnV ho]
  simp only [hb, hu, hs, readEccMany_clean s .act _ he, ne_eq, not_true_eq_false, if_false, Bool.not_true, Bool.false_eq_true]
  exact congrArg _ (pushResult_setArch_of_room (a := s.arch.wrQ f.q.val _) hr rfl _ _ 0)

/-- Settles O23: a fit access takes or withholds its lanes, the lowest flaw of an unfit one is raised, and a stream gives its next
element, waits, or traps. -/
theorem vectorMemory : Obligations.VectorMemory := by
  unfold Obligations.VectorMemory
  refine ⟨fun f s he ho => ?fit, fun f s ho => ?unfit, fun f s ho hb => execVmovq_unbound ho hb, fun f s b he hr ho hb hu => ?stream⟩
  case fit =>
    intro k a fits loads stores
    have hd : OwnV s [f.vd.val] := OwnV.head ho
    have ha : OwnV s [f.va.val] := OwnV.tail ho
    exact ⟨fun hr hf => ⟨_, congrArg _ (vecLoad_of_fit hr he hd (vecFlaw_of_fits hf) 3), merged_laneMerge _ _ _ _⟩,
      fun hr hf => ⟨_, congrArg _ (vecLoad_of_fit hr he hd (vecFlaw_of_fits hf) 4), merged_laneMerge _ _ _ _⟩,
      fun hf => congrArg _ (vecStore_of_fit ha (vecFlaw_of_fits hf)), fun hf => congrArg _ (vecStore_of_fit ha (vecFlaw_of_fits hf)),
      fun hr hc => ⟨_, execVglda_of_fit hr he ho (gatherFlaw_of_clear hc), merged_laneMerge _ _ _ _⟩⟩
  case unfit =>
    intro k a on traps out low lanes
    have hd : OwnV s [f.vd.val] := OwnV.head ho
    have ha : OwnV s [f.va.val] := OwnV.tail ho
    have hlanes {i : Instr} {sp : Space} {at' : Nat → Nat} (hal : ∀ m, on m → at' m % 4 = 0)
        (hraise : ∀ {c code x}, rangesFlaw s sp (laneWords k at') none = some (c, code, x) →
          exec i s = .next (raise s c code (BitVec.ofNat 64 x))) : lanes i sp at' := by
      refine ⟨fun j hj hout hmin => hraise (rangesFlaw_bound hj hout hmin), fun hsp hin j hj hf hmin => ?_⟩
      subst hsp
      exact hraise (rangesFlaw_form hin hal hj hf hmin)
    refine ⟨fun i sp hi => ?_, fun j hj hbad hmin => execVglda_of_flaw ho (gatherFlaw_misaligned hj hbad hmin),
      fun hal => hlanes hal fun h => execVglda_of_flaw ho ((gatherFlaw_aligned hal).trans h)⟩
    have hraise {c code x} (h : vecFlaw f s sp = some (c, code, x)) : exec i s = .next (raise s c code (BitVec.ofNat 64 x)) := by
      obtain ⟨rfl, rfl⟩ | ⟨rfl, rfl⟩ | ⟨rfl, rfl⟩ | ⟨rfl, rfl⟩ := hi
      · exact congrArg _ (vecLoad_of_flaw hd h 3)
      · exact congrArg _ (vecStore_of_flaw ha h)
      · exact congrArg _ (vecLoad_of_flaw hd h 4)
      · exact congrArg _ (vecStore_of_flaw ha h)
    have hal (h : a % 64 = 0) m (_ : on m) : (a + 4 * m) % 4 = 0 := by omega
    exact ⟨fun hk hmis => hraise (vecFlaw_misaligned hk hmis), fun h => hlanes (hal h) fun hw => hraise ((vecFlaw_aligned h).trans hw)⟩
  case stream =>
    have haddr : elemAddr b = b.base + b.consumed % (b.slotsM1 + 1) * 256 := by rw [elemAddr, hu]
    rw [← haddr]
    exact ⟨execVmovq_waiting ho hb hu, fun hs => ⟨_, execVmovq_ready he hr ho hb hu hs, merged_laneMerge _ _ _ _⟩⟩

end Sys2Proof.Machine
end

section
/-! SUPPORT. The M slot's shared operations: the registers that it owns, the start of an engine, room for latches and staged rows. -/
namespace Sys2Proof.Machine

theorem ownM_of_OwnM {s : State} {l : List Nat} (h : OwnM s l) (f : State → State) : ownM s l f = f s := by
  have hb : ownedM s l = true := by
    cases hc : s.arch.bankC with
    | true => rw [ownedM, hc, Bool.true_or]
    | false =>
      rw [ownedM, hc, Bool.false_or, Bool.not_eq_true', List.any_eq_false]
      intro n hn
      have := h hc n hn
      simp only [bankC, Bool.and_eq_true, decide_eq_true_eq]
      omega
  rw [ownM, if_pos hb]

theorem ownM_nil (s : State) (f : State → State) : ownM s [] f = f s :=
  ownM_of_OwnM (fun _ _ hn => absurd hn List.not_mem_nil) f

theorem pushLatch_of_room {s : State} (h : s.arch.dueLatches.length < 8) (w v : Nat) : pushLatch s w v none = withLatch s w v := by
  rw [pushLatch, if_neg (Nat.not_le.2 h)]
  rfl

theorem pushRows_of_room {s : State} {rows : List (Nat × Row)} (hg : s.arch.groups.length < 16)
    (hn : stagedRows s.arch + rows.length ≤ 512) (lat own : Nat) :
    pushRows s rows lat own none = if rows = [] then s else withRows s rows lat own := by
  have hfull : (decide (16 ≤ s.arch.groups.length) || decide (512 < stagedRows s.arch + rows.length)) = false := by
    simpa using ⟨hg, hn⟩
  simp only [pushRows, hfull, Bool.false_eq_true, if_false, List.isEmpty_iff]
  rfl

/-! A change of the captured state that leaves its tick: every space is as before. -/

theorem Core.setCtx_cycle (c : Core) (x : Nat) (v : Ctx) : (c.setCtx x v).cycle = c.cycle := by
  rw [Core.setCtx]
  split <;> rfl

theorem Core.setCtx_latchBusy (c : Core) (x : Nat) (v : Ctx) : (c.setCtx x v).latchBusy = c.latchBusy := by
  rw [Core.setCtx]
  split <;> rfl

section
variable (s : State) (a : Arch)

theorem State.myCore_setArch : (s.setArch a).myCore = s.myCore.setCtx s.cur.ctx { s.me with arch := a } :=
  State.core_setCore_same s s.cur.core _

theorem cycle_setArch : (s.setArch a).myCore.cycle = s.myCore.cycle := by
  rw [State.myCore_setArch, Core.setCtx_cycle]

theorem latchBusy_setArch : (s.setArch a).myCore.latchBusy = s.myCore.latchBusy := by
  rw [State.myCore_setArch, Core.setCtx_latchBusy]

theorem latency_setArch (cls : Nat) : latency (s.setArch a) cls = latency s cls := by
  rw [latency, State.me_setArch, latency]

theorem spaceBounds_setArch (sp : Space) : spaceBounds (s.setArch a) sp = spaceBounds s sp := by
  cases sp <;> simp only [spaceBounds, State.me_setArch]

variable {s a}

theorem seen_setArch (h : a.tick = s.arch.tick) (sp : Space) (b n : Nat) : seen (s.setArch a) sp b n = seen s sp b n := by
  have hb : spaceBase (s.setArch a) sp = spaceBase s sp := by cases sp <;> rfl
  have hf (k : Nat) : forwarded (s.setArch a).me k n = forwarded s.me k n := by
    rw [State.me_setArch, forwarded, forwarded, h]
    rfl
  rw [seen, seen, hb, hf]
  rfl

theorem inside_setArch {sp : Space} {b n : Nat} (h : Inside s sp b n) : Inside (s.setArch a) sp b n := by
  rwa [Inside, spaceBounds_setArch]

end

/-! The start of an engine (R175). -/

theorem arch_startM (s : State) : (startM s).arch = { s.arch with mAct := s.arch.mSh } := State.arch_setArch ..
theorem arch_startD (s : State) : (startD s).arch = { s.arch with dAct := s.arch.dSh } := State.arch_setArch ..

end Sys2Proof.Machine
end

section
/-! SUPPORT. Latch loads, engine words and shape records. -/
namespace Sys2Proof.Machine

/-! Latch loads (R178). -/

theorem latchLoad_of_clear {f : ML} {s : State} {sp : Space} (he : s.errs = []) (hd : s.arch.dueLatches.length < 8)
    (hc : Clear s sp (addrML s f) 2176 64) : latchLoad f s sp = withLatch s f.w.val (leNat (seen s sp (addrML s f) 2176)) := by
  simp only [latchLoad, accessFlaw_of_clear s sp _ _ _ hc, readEcc_clean s sp _ _ he, pushLatch_of_room hd]

theorem latchLoad_of_flaw {f : ML} {s : State} {sp : Space} {w : Flaw} (h : accessFlaw s sp (addrML s f) 2176 64 = some w) :
    latchLoad f s sp = raiseFlaw s w := by
  simp only [latchLoad, h]

theorem addrML_occupyPort (s : State) (n : Nat) (f : ML) : addrML (occupyPort s n) f = addrML s f := by
  rw [addrML, addrML, rdS_of_me (occupyPort_me s n)]

theorem execMlat_of_clear {f : ML} {s : State} (he : s.errs = []) (hd : s.arch.dueLatches.length < 8)
    (hc : Clear s .wt (addrML s f) 2176 64) : execMlat f s =
      .next (withLatch (occupyPort s Config.mlatPort) f.w.val (leNat (seen s .wt (addrML s f) 2176))) := by
  have ha := addrML_occupyPort s Config.mlatPort f
  have hd' : (occupyPort s Config.mlatPort).arch.dueLatches.length < 8 := by rwa [State.arch, occupyPort_me]
  have hl := latchLoad_of_clear (s := occupyPort s Config.mlatPort) he hd' (by rw [ha]; exact clear_occupyPort hc _)
  rw [ha, seen_occupyPort] at hl
  exact congrArg _ hl

section
variable {f : ML} {s : State}

theorem execMlatq_unbound (h : ∀ b, s.arch.rdQ f.q.val = some b → b.units ≠ 34) : execMlatq f s = .next (raiseTrap s 0xFF06) := by
  rw [execMlatq]
  cases hb : s.arch.rdQ f.q.val with
  | none => rfl
  | some b => simp only [ne_eq, h b hb, not_false_eq_true, if_true]

variable {b : Binding} (hb : s.arch.rdQ f.q.val = some b) (hu : b.units = 34)
include hb hu

theorem execMlatq_waiting (hs : streamReady s.me f.q.val = false) : execMlatq f s = .next s := by
  simp [execMlatq, hb, hu, hs]

theorem execMlatq_ready (he : s.errs = []) (hd : s.arch.dueLatches.length < 8) (hs : streamReady s.me f.q.val = true) :
    execMlatq f s = .next (withLatch (s.setArch (s.arch.wrQ f.q.val (some { b with consumed := b.consumed + 1 }))) f.w.val
      (leNat (seen s .act (elemAddr b) 2176))) := by
  simp only [execMlatq, hb, hu, hs, readEcc_clean s .act _ _ he, ne_eq, not_true_eq_false, if_false, Bool.not_true,
    Bool.false_eq_true]
  exact congrArg _ (pushLatch_of_room (by rwa [State.arch_setArch]) _ _)

end

/-! Engine words (R173) and shape records (R183 to R185). -/

section
variable {f : MS} {s : State}

theorem execMset_of_ok (hr : Room s 1) (h : engWordOk f.sel.toNat (rdS s f.sa.val).toNat = true) :
    execMset f s = .next (withResult s (.eng f.sel.toNat) (rdS s f.sa.val).toNat 0) := by
  simp only [execMset, if_pos h, push_of_room _ _ _ _ hr]

theorem execMset_of_not_ok (h : engWordOk f.sel.toNat (rdS s f.sa.val).toNat = false) : execMset f s = .next (raise s .shape 3 0) := by
  simp only [execMset, h, Bool.false_eq_true, if_false]

/-- The record that MSHAPE loads. -/
def shapeImage (f : MS) (s : State) : Nat := leNat (seen s .act (rdS s f.sa.val).toNat 32)

section
variable (hc : Clear s .act (rdS s f.sa.val).toNat 32 32)
include hc

theorem execMshape_of_ok (hr : Room s 1) (he : s.errs = []) (hv : shapeOk (shapeImage f s) = true) (hz : fld (shapeImage f s) 63 32 = 0) :
    execMshape f s = .next (withResult s (.shape f.h.val) (shapeDerive (shapeImage f s)) 3) := by
  unfold shapeImage at hv hz
  simp only [execMshape, accessFlaw_of_clear s .act _ _ _ hc, hv, hz, readEcc_clean s .act _ _ he, Bool.not_true, Bool.false_or,
    ne_eq, not_true_eq_false, decide_false, Bool.false_eq_true, if_false]
  exact congrArg _ (pushResult_of_room s _ _ _ _ hr)

theorem execMshape_of_bad (h : shapeOk (shapeImage f s) = false ∨ fld (shapeImage f s) 63 32 ≠ 0) :
    execMshape f s = .next (raise s .shape 1 0) := by
  have hbad : (!shapeOk (shapeImage f s) || decide (fld (shapeImage f s) 63 32 ≠ 0)) = true := by simpa using h
  unfold shapeImage at hbad
  simp only [execMshape, accessFlaw_of_clear s .act _ _ _ hc, hbad, if_true]

end

/-- The record that MPAD makes of a record `h` and a value `v`. -/
def padded (sel : BitVec 8) (h v : Nat) : Nat :=
  if sel = 0 then
    setFld (setFld (setFld (setFld h 215 208 (fld v 31 24)) 207 200 (fld v 23 16)) 199 192 (fld v 15 8)) 191 184 (fld v 7 0)
  else setFld h 84 64 v

/-- The values that MPAD takes: four bytes of padding, or a base of 21 bits. -/
def padLimit (sel : BitVec 8) : Nat := if sel = 0 then 2 ^ 32 else 2 ^ 21

/-- Bits above a place are zero just when the number is below it. -/
theorem fld_eq_zero_iff {v hi lo : Nat} (hv : v < 2 ^ (hi + 1)) (hl : lo ≤ hi + 1) : fld v hi lo = 0 ↔ v < 2 ^ lo := by
  have hq : v / 2 ^ lo < 2 ^ (hi + 1 - lo) := by
    rw [Nat.div_lt_iff_lt_mul (Nat.two_pow_pos lo), ← Nat.pow_add, Nat.sub_add_cancel hl]
    exact hv
  rw [fld, Nat.shiftRight_eq_div_pow, Nat.mod_eq_of_lt hq, Nat.div_eq_zero_iff_lt (Nat.two_pow_pos lo)]

/-- A field takes the low bits of what is put into it. -/
theorem setFld_fld (h v n lo : Nat) : setFld h (lo + n) lo (fld v n 0) = setFld h (lo + n) lo v := by
  have hlow : fld v n 0 % 2 ^ (n + 1) = v % 2 ^ (n + 1) := Nat.mod_mod _ _
  rw [setFld, setFld, show lo + n + 1 - lo = n + 1 by omega, hlow]

theorem execMpad_eq (f : MS) (s : State) : execMpad f s =
    let h := (s.arch.rdH f.h.val).toNat
    let v := (rdS s f.sa.val).toNat
    .next (if shapeOk h = false ∨ ¬ v < padLimit f.sel ∨ shapeOk (padded f.sel h v) = false then raise s .shape 1 0
      else push s (.shape f.h.val) (shapeDerive (padded f.sel h v)) 0) := by
  have hv : (rdS s f.sa.val).toNat < 2 ^ (63 + 1) := (rdS s f.sa.val).isLt
  by_cases hsel : f.sel = 0
  · simp only [execMpad, padded, padLimit, hsel, if_true, ← fld_eq_zero_iff hv (show 32 ≤ 63 + 1 by decide), Bool.or_eq_true,
      Bool.not_eq_true', decide_eq_true_eq, or_assoc, ne_eq]
  · simp only [execMpad, padded, padLimit, hsel, if_false, ← fld_eq_zero_iff hv (show 21 ≤ 63 + 1 by decide), Bool.or_eq_true,
      Bool.not_eq_true', decide_eq_true_eq, or_assoc, ne_eq, setFld_fld _ _ 20 64]

end

/-- Settles O25: latch loads by their flaws and their streams, engine words and shape records by their checks. -/
theorem latchesAndEngineWords : Obligations.LatchesAndEngineWords := by
  unfold Obligations.LatchesAndEngineWords
  refine ⟨fun f s he hd => ?latches, fun f s hr => ?words⟩
  case latches =>
    intro a
    refine ⟨execMlat_of_clear he hd, fun hc => congrArg _ (latchLoad_of_clear he hd hc), fun i sp u hi => ?unfit,
      execMlatq_unbound, fun b hb hu => ⟨execMlatq_waiting hb hu, ?ready⟩⟩
    case unfit =>
      have hraise {c code x} (h : accessFlaw u sp a 2176 64 = some (c, code, x)) :
          exec i s = .next (raise u c code (BitVec.ofNat 64 x)) := by
        obtain ⟨rfl, rfl, rfl⟩ | ⟨rfl, rfl, rfl⟩ := hi
        · exact congrArg _ (latchLoad_of_flaw h)
        · have hp := latchLoad_of_flaw (f := f) (s := occupyPort s Config.mlatPort) (by rw [addrML_occupyPort]; exact h)
          exact congrArg Host.Outcome.next hp
      have hb : spaceBounds u sp = spaceBounds s sp := by
        obtain ⟨-, -, rfl⟩ | ⟨-, -, rfl⟩ := hi
        · rfl
        · exact spaceBounds_occupyPort s Config.mlatPort sp
      rw [← hb]
      exact ⟨fun ha => hraise (accessFlaw_misaligned ha),
        fun ha hlo => hraise (accessFlaw_of_boundFlaw ha (boundFlaw_below (by decide) hlo)),
        fun ha hlo hhi => hraise (accessFlaw_of_boundFlaw ha (boundFlaw_above (by decide) hlo hhi))⟩
    case ready =>
      have haddr : elemAddr b = b.base + b.consumed % (b.slotsM1 + 1) * 2176 := by rw [elemAddr, hu]
      rw [← haddr]
      exact execMlatq_ready hb hu he hd
  case words =>
    intro v h
    refine ⟨execMset_of_ok hr, execMset_of_not_ok, fun he hc => ⟨execMshape_of_ok hc hr he, execMshape_of_bad hc⟩, ?pad⟩
    case pad =>
      refine ⟨fun hh hin hn => ?_, fun hbad => (execMpad_eq f s).trans (congrArg _ (if_pos hbad))⟩
      have hgood : ¬ (shapeOk h = false ∨ ¬ v < padLimit f.sel ∨ shapeOk (padded f.sel h v) = false) := by
        simpa using ⟨hh, hin, hn⟩
      exact (execMpad_eq f s).trans (congrArg _ ((if_neg hgood).trans (push_of_room _ _ _ _ hr)))

end Sys2Proof.Machine
end

section
/-! SUPPORT. Array starts: a start whose rows are fit stages them and occupies the array and the latch. -/
namespace Sys2Proof.Machine

/-- Tile positions that are not padded, the scale bytes of a row, and the row count, by the engine words (R173, R176, R180). -/
abbrev arrayLive (f : MX) (p : MSet) : Nat := tileDepth f.tya f.tyb - fld p.kpad.toNat 7 0
abbrev arrayScales (f : MX) (p : MSet) : Option Nat :=
  if isScaled f.tya (p.mode.getLsbD 0) then some (liveScales (arrayLive f p)) else none
abbrev arrayCount (p : MSet) : Nat := fld p.rows.toNat 8 0

/-- Live rows that a start of the array can take. -/
def RowsFit (f : MX) (s : State) (rows : List (Nat × ARow × Nat)) : Prop :=
  ArrayFits s rows (arrayScales f s.arch.mSh) (liveBytes f.tya (arrayLive f s.arch.mSh)) (arrayCount s.arch.mSh)

/-- The start of the array: the shadow words in use, array and latch occupied. -/
def arrayStarted (f : MX) (s : State) : State :=
  (startM s).setMyCore { (startM s).myCore with
    busyArray := s.myCore.cycle + arrayCount s.arch.mSh
    latchBusy := Tab.set 0 s.myCore.latchBusy (s.cur.ctx * 8 + f.w.val) (s.myCore.cycle + arrayCount s.arch.mSh) }

/-- The rows as they are staged. -/
def stagedOf (f : MX) (s : State) (rows : List (Nat × ARow × Nat)) : List (Nat × Row) :=
  rows.map fun r => (r.2.2, arrayRow (startM s) s.arch.mSh f (s.arch.rdW f.w.val).toNat (rdV s f.va.val).toNat r)

/-- What a start of the array comes to (R180). -/
def arrayDone (f : MX) (s : State) (rows : List (Nat × ARow × Nat)) : State :=
  if rows = [] then arrayStarted f s
  else withRows (arrayStarted f s) (stagedOf f s rows) (arrayCount s.arch.mSh + latency s 8) (arrayCount s.arch.mSh + ownLatency 8)

theorem occupyArray_startM (f : MX) (s : State) : occupyArray (startM s) f.w.val (arrayCount s.arch.mSh) = arrayStarted f s := by
  have hc : (startM s).myCore.cycle = s.myCore.cycle := cycle_setArch ..
  have hl : (startM s).myCore.latchBusy = s.myCore.latchBusy := latchBusy_setArch ..
  simp only [occupyArray, arrayStarted, hc, hl]
  rfl

theorem occupyArray_me (s : State) (w m : Nat) : (occupyArray s w m).me = s.me := me_setMyCore rfl

theorem arch_arrayStarted (f : MX) (s : State) : (arrayStarted f s).arch = { s.arch with mAct := s.arch.mSh } := by
  rw [← occupyArray_startM, State.arch, occupyArray_me, ← State.arch, arch_startM]

section
variable {f : MX} {s : State} {rows : List (Nat × ARow × Nat)}

/-- Fit rows meet none of the faults of R182 that an access can meet. -/
theorem arrayFlaw_of_fit {scales : Option Nat} {nb m : Nat} (h : ArrayFits s rows scales nb m) {align : Option Nat}
    (ha : ∀ a ∈ align, a % 64 = 0) : firstFlaw [
      lowestFlaw ((arrayReads s.arch.mSh rows nb scales).map (fun r => boundFlaw (spaceBounds (startM s) .act) r.1 r.2) ++
        (rows.map (fun r => r.2.2)).map (fun r => boundFlaw (spaceBounds (startM s) .acc) (128 * r) 128)),
      align.bind (fun a => if a % 64 ≠ 0 then some (.bound, 2, a) else none),
      lowestFlaw ((arrayReads s.arch.mSh rows nb scales).map (fun r => formFlaw (startM s) r.1 r.2))] = none := by
  obtain ⟨-, hreads, htargets, -, -⟩ := h
  have hbound : lowestFlaw ((arrayReads s.arch.mSh rows nb scales).map (fun r => boundFlaw (spaceBounds (startM s) .act) r.1 r.2) ++
      (rows.map (fun r => r.2.2)).map (fun r => boundFlaw (spaceBounds (startM s) .acc) (128 * r) 128)) = none := by
    refine lowestFlaw_of_none (List.forall_mem_append.2 ⟨List.forall_mem_map.2 fun q hq => ?_,
      List.forall_mem_map.2 (List.forall_mem_map.2 fun r hr => ?_)⟩)
    · exact (inside_setArch (hreads q hq)).bound
    · exact (inside_setArch (htargets r hr)).bound
  have halign : align.bind (fun a => if a % 64 ≠ 0 then some ((.bound, 2, a) : Flaw) else none) = none :=
    Option.bind_eq_none_iff.2 fun a h => if_neg (not_not.2 (ha a h))
  have hform : lowestFlaw ((arrayReads s.arch.mSh rows nb scales).map (fun r => formFlaw (startM s) r.1 r.2)) = none :=
    lowestFlaw_of_none (List.forall_mem_map.2 fun q hq => (inside_setArch (hreads q hq)).form)
  rw [hbound, halign, hform]
  rfl

theorem pushRows_arrayStarted (h : RowsFit f s rows) :
    pushRows (arrayStarted f s) (stagedOf f s rows) (arrayCount s.arch.mSh + latency s 8) (arrayCount s.arch.mSh + ownLatency 8) none =
      arrayDone f s rows := by
  obtain ⟨-, -, -, hgroups, hstaged⟩ := h
  rw [pushRows_of_room (by rwa [arch_arrayStarted]) (by rwa [arch_arrayStarted, stagedOf, List.length_map]), arrayDone]
  simp only [stagedOf, List.map_eq_nil_iff]

/-- A start of the array that nothing hinders (R180, R182). -/
theorem arrayOp_of_fit {src : MSet → Nat → ARow} {bad : MSet → Bool} {align : Option Nat} (he : s.errs = [])
    (hk : fld s.arch.mSh.kpad.toNat 7 0 < tileDepth f.tya f.tyb) (hf : RowsFit f s (liveRows s.arch.mSh (src s.arch.mSh)))
    (hbad : bad s.arch.mSh = false) (ha : ∀ a ∈ align, a % 64 = 0) :
    arrayOp f s src bad align = arrayDone f s (liveRows s.arch.mSh (src s.arch.mSh)) := by
  have hact : (startM s).arch.mAct = s.arch.mSh := by rw [arch_startM]
  have hw : (startM s).arch.rdW f.w.val = s.arch.rdW f.w.val := by rw [arch_startM]; rfl
  have hv : rdV (startM s) f.va.val = rdV s f.va.val := by rw [rdV, arch_startM]; rfl
  have hlat : latency (startM s) 8 = latency s 8 := latency_setArch ..
  have hshape : (bad s.arch.mSh || decide (tileDepth f.tya f.tyb ≤ fld s.arch.mSh.kpad.toNat 7 0)) = false := by
    simpa [hbad] using hk
  have hlate : ((liveRows s.arch.mSh (src s.arch.mSh)).map (fun r => r.2.2)).any
      (stagedLate (startM s).arch · (arrayCount s.arch.mSh + latency s 8)) = false := by
    rw [List.any_eq_false, List.forall_mem_map, arch_startM]
    exact fun r hr => Bool.eq_false_iff.1 (hf.1 r hr)
  have hread (rs : List (Nat × Nat)) : readEccMany (startM s) .act rs = (startM s, none) := readEccMany_clean _ _ _ he
  simp only [arrayOp, hact, hw, hv, hlat, hshape, hlate, hread, arrayFlaw_of_fit hf ha, occupyArray_startM, Bool.false_eq_true, if_false]
  exact pushRows_arrayStarted hf

end

/-- Settles O26: the three starts differ in where a row comes from and in what hinders them besides (R182). -/
theorem arrayStarts : Obligations.ArrayStarts := by
  unfold Obligations.ArrayStarts
  intro f s he p u kt live nb m x h scales out hk
  refine ⟨fun hf ha => ?mma, fun hf ho hm => ?mmav, fun hf hb hs => ?mconv⟩
  case mma =>
    exact congrArg _ (arrayOp_of_fit (src := fun p i => .mem ((x + i * fld p.astride.toNat 23 0) % 2 ^ 64)) (bad := fun _ => false)
      (align := some x) he hk hf rfl fun a hx => Option.mem_some_iff.1 hx ▸ ha)
  case mmav =>
    have hop := arrayOp_of_fit (src := fun _ i => .vec (64 * i)) (bad := fun p => decide (4 < fld p.rows.toNat 8 0)) (align := none)
      he hk hf (decide_eq_false (Nat.not_lt.2 hm)) (fun a hx => absurd hx (Option.not_mem_none a))
    exact congrArg _ ((ownM_of_OwnM ho _).trans hop)
  case mconv =>
    have hscaled : isScaled f.tya (p.mode.getLsbD 0) = false := by
      cases hc : isScaled f.tya (p.mode.getLsbD 0) with
      | false => rfl
      | true => exact absurd ((if_pos hc).symm.trans hs) (Option.some_ne_none _)
    have hbad : (convBad h x || isScaled f.tya (p.mode.getLsbD 0)) = false := by rw [hb, hscaled]; rfl
    exact congrArg _ (arrayOp_of_fit (src := fun _ i => convRow h x i)
      (bad := fun p => convBad h x || isScaled f.tya (p.mode.getLsbD 0)) he hk hf hbad fun a hx => absurd hx (Option.not_mem_none a))

end Sys2Proof.Machine
end

section
/-! SUPPORT. Accumulator rows: zero rows staged, and rows drained to a vector register or to the activation buffer. -/
namespace Sys2Proof.Machine

/-- Accumulator rows inside their bounds have no flaw. -/
theorem lowestFlaw_accRows {s : State} {rows : List Nat} (h : ∀ r ∈ rows, Inside s .acc (128 * r) 128) :
    lowestFlaw (rows.map fun r => boundFlaw (spaceBounds s .acc) (128 * r) 128) = none :=
  lowestFlaw_of_none (List.forall_mem_map.2 fun r hr => (h r hr).bound)

/-! MZERO (R187). -/

theorem execMzero_of_fit {f : MS} {s : State} {rows : List Nat}
    (hrows : (List.range (f.sel.toNat + 1)).map ((rdS s f.sb.val).toNat + ·) = rows)
    (hlate : ∀ r ∈ rows, stagedLate s.arch r (latency s 0) = false) (hin : ∀ r ∈ rows, Inside s .acc (128 * r) 128)
    (hg : s.arch.groups.length < 16) (hn : stagedRows s.arch + rows.length ≤ 512) :
    execMzero f s = .next (withRows s (rows.map (fun r => (r, 0))) (latency s 0) (ownLatency 0)) := by
  have hany : rows.any (stagedLate s.arch · (latency s 0)) = false := List.any_eq_false.2 fun r hr => Bool.eq_false_iff.1 (hlate r hr)
  have hne : rows.map (fun r => ((r, 0) : Nat × Row)) ≠ [] := by simp [← hrows]
  simp only [execMzero, hrows, hany, lowestFlaw_accRows hin, Bool.false_eq_true, if_false]
  rw [pushRows_of_room hg (by rwa [List.length_map]), if_neg hne]

/-! MDRAIN (R188). -/

/-- The converted elements of `n` accumulator rows. -/
def drained (f : MS) (s : State) (n : Nat) : Nat :=
  joinElems (32 * tyWidth f.ty) ((List.range n).map fun i =>
    drainRow f.ty s.arch.mSh.mode.toNat (leNat (seen (startM s) .acc (128 * ((rdS s f.sb.val).toNat + i)) 128)))

/-- The accumulator rows that MDRAIN reads lie inside their bounds. -/
def DrainInside (f : MS) (s : State) (n : Nat) : Prop := ∀ i, i < n → Inside s .acc (128 * ((rdS s f.sb.val).toNat + i)) 128

theorem drained_eq (f : MS) (s : State) (n : Nat) : joinElems (32 * tyWidth f.ty)
    (((List.range n).map ((rdS s f.sb.val).toNat + ·)).map fun r =>
      drainRow f.ty s.arch.mSh.mode.toNat (leNat (seen (startM s) .acc (128 * r) 128))) = drained f s n := by
  rw [drained, List.map_map]
  rfl

section
variable {f : MS} {s : State}

/-- A drain meets no flaw where its own access `x` meets none. -/
theorem lowestFlaw_drain {n : Nat} (h : DrainInside f s n) {x : Option Flaw} (hx : x = none) :
    lowestFlaw (x :: ((List.range n).map ((rdS s f.sb.val).toNat + ·)).map
      fun r => boundFlaw (spaceBounds (startM s) .acc) (128 * r) 128) = none :=
  lowestFlaw_of_none (List.forall_mem_cons.2 ⟨hx, List.forall_mem_map.2 (List.forall_mem_map.2 fun i hi =>
    (inside_setArch (h i (List.mem_range.1 hi))).bound)⟩)

variable (he : s.errs = [])
include he

theorem execMdrain_vector (hv : f.sel.getLsbD 7 = true) (hr : Room s 1) (ho : OwnM s [fld f.sel.toNat 5 0])
    (hin : DrainInside f s (2048 / (32 * tyWidth f.ty))) : execMdrain f s =
      .next (withResult (startM s) (.vec (fld f.sel.toNat 5 0)) (drained f s (2048 / (32 * tyWidth f.ty))) 4) := by
  have hact : (startM s).arch.mAct = s.arch.mSh := by rw [arch_startM]
  have hr' : Room (startM s) 1 := by rwa [Room, arch_startM]
  have hread (a n : Nat) : readEcc (startM s) .acc a n = (startM s, none) := readEcc_clean _ _ _ _ he
  simp only [execMdrain, hv, if_true, ownM_of_OwnM ho, hact, lowestFlaw_drain hin rfl, hread, drained_eq, Bool.not_true, Bool.false_and,
    Bool.false_eq_true, if_false]
  exact congrArg _ (pushResult_of_room _ _ _ _ _ hr')

theorem execMdrain_buffer {n : Nat} (hn : fld f.sel.toNat 6 0 + 1 = n) (hv : f.sel.getLsbD 7 = false)
    (hc : Clear s .act (rdS s f.sa.val).toNat (4 * tyWidth f.ty * n) (4 * tyWidth f.ty)) (hin : DrainInside f s n) : execMdrain f s =
      .next (withStore (startM s) .act (rdS s f.sa.val).toNat (leBytes (4 * tyWidth f.ty * n) (drained f s n))) := by
  obtain ⟨halign, hinside⟩ := hc
  have hstore : Inside (startM s) .act (rdS s f.sa.val).toNat (4 * tyWidth f.ty * n) := inside_setArch hinside
  have hact : (startM s).arch.mAct = s.arch.mSh := by rw [arch_startM]
  have hread (a n : Nat) : readEcc (startM s) .acc a n = (startM s, none) := readEcc_clean _ _ _ _ he
  simp only [execMdrain, hn, hv, Bool.false_eq_true, if_false, ownM_nil, hact, lowestFlaw_drain hin hstore.bound, hstore.form, halign,
    hread, drained_eq, ne_eq, not_true_eq_false, decide_false, Bool.and_false]
  rfl

end

/-- Settles O27: zero rows staged as any rows are, and the two forms of the drain. -/
theorem accumulatorRows : Obligations.AccumulatorRows := by
  unfold Obligations.AccumulatorRows
  exact ⟨fun f s hlate hin hg hn => execMzero_of_fit rfl hlate hin hg hn, fun f s he =>
    ⟨fun hv hr ho hin => execMdrain_vector he hv hr ho hin, fun hv hc hin => execMdrain_buffer he rfl hv hc hin⟩⟩

end Sys2Proof.Machine
end

section
/-! SUPPORT. The dot engine: a start whose weight rows and scales are fit delivers its lanes. -/
namespace Sys2Proof.Machine

section
variable (f : MD) (s : State)

/-- Dot positions that are not padded, the weight row of a lane and its scales (R173, R176, R189). -/
abbrev dotLive : Nat := dotDepth f.tya - fld s.arch.dSh.mode.toNat 15 8
abbrev dotRow (l : Nat) : Nat := ((rdS s f.sa.val).toNat + l * fld s.arch.dSh.wstride.toNat 23 0) % 2 ^ 64
abbrev dotScale (l : Nat) : Nat := wrapInt 64 (((rdS s f.sa.val).toNat : Int) + sx 32 s.arch.dSh.wscale.toNat + (2 * l : Nat))
abbrev dotScaled : Bool := isScaled f.tyb (s.arch.dSh.mode.getLsbD 1)

/-- What lane `l` reduces. -/
def dotReduction (l : Nat) : Reduction :=
  ⟨f.tya, f.tyb, (rdV s f.va.val).toNat, leNat (seen s .wt (dotRow f s l) (liveBytes f.tyb (dotLive f s))),
    if isScaled f.tya (s.arch.dSh.mode.getLsbD 0) then some ((rdV s f.va.val).toNat >>> 1024) else none,
    if dotScaled f s then some (leNat (seen s .wt (dotScale f s l) (liveScales (dotLive f s)))) else none,
    dotLive f s, groupSize f.tya f.tyb⟩

/-- The start of the dot engine: the shadow words in use, dot engine and weight port occupied. -/
def dotStarted : State :=
  (startD s).setMyCore { (startD s).myCore with
    busyDot := s.myCore.cycle + if tyWidth f.tyb = 4 then 1 else 2
    busyPort := s.myCore.cycle + if tyWidth f.tyb = 4 then 1 else 2 }

theorem occupyDot_startD : occupyDot (startD s) f.tyb = dotStarted f s := by
  have hc : (startD s).myCore.cycle = s.myCore.cycle := cycle_setArch ..
  simp only [occupyDot, dotStarted, hc]

theorem occupyDot_me (t : Ty) : (occupyDot s t).me = s.me := me_setMyCore rfl

theorem me_dotStarted : (dotStarted f s).me = (startD s).me := by rw [← occupyDot_startD, occupyDot_me]

/-- Weight rows and scales that a start can read (R182, R189). -/
structure DotFits : Prop where
  shallow : fld s.arch.dSh.mode.toNat 15 8 < dotDepth f.tya
  aligned : (rdS s f.sa.val).toNat % 32 = 0
  stride : fld s.arch.dSh.wstride.toNat 23 0 % 32 = 0
  rows : ∀ l, l < 16 → Inside s .wt (dotRow f s l) (liveBytes f.tyb (dotLive f s))
  scales : dotScaled f s = true → ∀ l, l < 16 → Inside s .wt (dotScale f s l) (liveScales (dotLive f s))

/-- Lane `j` of the result: the lanes that the mode word selects accumulate their groups, the others stay (R189). -/
def dotLane (acc : Bool) (j : Nat) : Nat :=
  let o := 16 * fld s.arch.dSh.mode.toNat 5 4
  if o ≤ j ∧ j < o + 16 then
    redRun (dotReduction f s (j - o)) (dotDepth f.tya / groupSize f.tya f.tyb)
      (if acc then elem (rdV s f.vd.val).toNat 32 j else 0x80000000)
  else elem (rdV s f.vd.val).toNat 32 j

variable {f s}

theorem lowestFlaw_dot (h : DotFits f s) : lowestFlaw (((List.range 16).map (fun l => (dotRow f s l, liveBytes f.tyb (dotLive f s))) ++
    if dotScaled f s then (List.range 16).map (fun l => (dotScale f s l, liveScales (dotLive f s))) else []).map
      fun r => boundFlaw (spaceBounds (startD s) .wt) r.1 r.2) = none := by
  refine lowestFlaw_of_none (List.forall_mem_map.2 (List.forall_mem_append.2 ⟨List.forall_mem_map.2 fun l hl => ?_, ?_⟩))
  · exact (inside_setArch (h.rows l (List.mem_range.1 hl))).bound
  · split_ifs with hs
    · exact List.forall_mem_map.2 fun l hl => (inside_setArch (h.scales hs l (List.mem_range.1 hl))).bound
    · exact fun _ hx => absurd hx List.not_mem_nil

theorem dotOp_of_fit (he : s.errs = []) (hr : Room s 1) (ho : OwnM s [f.vd.val, f.va.val]) (h : DotFits f s) (acc : Bool) :
    dotOp f s acc = withResult (dotStarted f s) (.vec f.vd.val) (joinElems 32 ((List.range 64).map (dotLane f s acc))) 9 := by
  have hact : (startD s).arch.dAct = s.arch.dSh := by rw [arch_startD]
  have hs (n : Nat) : rdS (startD s) n = rdS s n := by rw [rdS, arch_startD]; rfl
  have hv (n : Nat) : rdV (startD s) n = rdV s n := by rw [rdV, arch_startD]; rfl
  have hseen (sp : Space) (a n : Nat) : seen (startD s) sp a n = seen s sp a n :=
    seen_setArch (a := { s.arch with dAct := s.arch.dSh }) rfl sp a n
  have hread (rs : List (Nat × Nat)) : readEccMany (startD s) .wt rs = (startD s, none) := readEccMany_clean _ _ _ he
  have hlat : latency (startD s) 9 = latency (dotStarted f s) 9 := by rw [latency, latency, me_dotStarted]
  have hr' : Room (dotStarted f s) 1 := room_of_me (me_dotStarted f s) (by rwa [Room, arch_startD])
  simp only [dotOp, ownM_of_OwnM ho, hact, hs, hv, hseen, hread, hlat, lowestFlaw_dot h, h.aligned, h.stride, Nat.not_le.2 h.shallow,
    occupyDot_startD, ne_eq, not_true_eq_false, if_false, Bool.and_eq_true, decide_eq_true_eq]
  exact pushResult_of_room _ _ _ _ _ hr'

theorem next_dotOp_of_fit (he : s.errs = []) (hr : Room s 1) (ho : OwnM s [f.vd.val, f.va.val]) (h : DotFits f s) (acc : Bool) :
    ∃ v, (.next (dotOp f s acc) : Res) = .next (withResult (dotStarted f s) (.vec f.vd.val) v 9) ∧ Elements v 32 (dotLane f s acc) :=
  ⟨_, congrArg _ (dotOp_of_fit he hr ho h acc), elements_joinElems 32 _⟩

end

/-- Settles O28: both are the one operation, which differ in the value on which a lane starts. -/
theorem dotProducts : Obligations.DotProducts := by
  unfold Obligations.DotProducts
  intro f s he hr ho p u n t k g live nb a row scale scaled va old red o hk ha hw hrows hscales i start hi
  have hfit : DotFits f s := ⟨hk, ha, hw, hrows, hscales⟩
  obtain ⟨rfl, rfl⟩ | ⟨rfl, rfl⟩ := hi
  · exact next_dotOp_of_fit he hr ho hfit false
  · exact next_dotOp_of_fit he hr ho hfit true

end Sys2Proof.Machine
end

section
/-! SUPPORT. The outside: what a store and an event leave unchanged of what goes outward, inbound requests, page moves, flits and
links, drives and the host port. -/
namespace Sys2Proof.Machine

/-! Stores and events. -/

/-- What the device has sent, the page moves and the links. -/
def State.outward (s : State) : List Sent × List Move × Tab Link := (s.sent, s.moveReqs, s.links)

theorem State.outward_eq_iff {s t : State} : t.outward = s.outward ↔ t.sent = s.sent ∧ t.moveReqs = s.moveReqs ∧ t.links = s.links := by
  simp only [State.outward, Prod.mk.injEq]

theorem fireInjections_outward (s : State) (hit : Nat → Bool) : (fireInjections s hit).outward = s.outward := by
  refine foldl_keeps State.outward (fun t c => ?_) _ s
  split
  · split <;> rfl
  · rfl

theorem put_outward (s : State) (k : Nat) (bs : List Byte) : (s.put k bs).outward = s.outward := by
  simp only [State.put]
  split
  · rfl
  · rw [fireInjections_outward, foldl_keeps State.outward (fun t l => by split <;> rfl)]
    rfl

theorem pageIn_outward (s : State) (k : Nat) (p : MovedPage) : (pageIn s k p).outward = s.outward := by
  rw [pageIn, foldl_keeps State.outward (fun t i => (rfl : (t.poisonAt (k + 64 * i)).outward = t.outward)),
    foldl_keeps State.outward (fun t (g : Nat × Nat) => (rfl : (t.setTags (k + 64 * g.2) 64 g.1).outward = t.outward)), put_outward]

theorem ringProduce_outward (s : State) (dk asid : Nat) (entry : List Byte) : (ringProduce s dk asid entry).1.outward = s.outward := by
  rw [ringProduce_eq]
  cases ringSlot s dk asid with
  | none => rfl
  | some k => exact (put_outward _ dk _).trans (put_outward s k entry)

theorem sessionEntry_outward (s : State) (n : Nat) : (sessionEntry s n).outward = s.outward := by
  simp only [sessionEntry]
  split
  · rfl
  · exact ringProduce_outward { s with freeCtr := s.freeCtr + 16 } ..

/-- An event is the last of what is sent: the entries of the event rings are no messages of their own. -/
theorem postEvent_sent (s : State) (opcode : Nat) (job : Option Nat) (payload : List Nat) :
    (postEvent s opcode job payload).sent = s.sent ++ [.event opcode job payload] := by
  refine (State.outward_eq_iff.1 (foldl_keeps State.outward (fun t v => ?_) _ (emit s (.event opcode job payload)))).1
  split
  · exact foldl_keeps State.outward (fun u _ => sessionEntry_outward u v.1) _ t
  · rfl

/-! Inbound requests (R294, R404, R405). -/

theorem readBar0_of_read {r : HostReq} {n : Nat} (ha : r.acc = .read n) (hoff : 4 ≤ r.off) (hend : r.off + n ≤ 65536) (s : State) :
    readBar0 s r = emit (fresh s).2 (.completion r.requester 0 false (List.replicate n 0)) := by
  have hzero : (List.range n).map (fun i => if r.off + i < 4 then (fresh s).1.extractLsb' (8 * (r.off + i)) 8 else (0 : Byte)) =
      List.replicate n 0 := by
    rw [List.eq_replicate_iff]
    refine ⟨by simp, List.forall_mem_map.2 fun i _ => if_neg (by omega)⟩
  simp only [readBar0, complete, ha, if_neg (Nat.not_lt.2 hend), hzero]

section
variable {s : State} {r : HostReq} (hp : s.power = .on) (hh : s.hostPort = true)
include hp hh

theorem exec_hostInboundRequest_bar0 (hb : r.bar0 = true) : exec (.hostInboundRequest r) s = .next (readBar0 s r) := by
  show execHostInboundRequest r s = _
  simp [execHostInboundRequest, hp, hh, hb]

theorem exec_hostInboundRequest_no_pasid (hb : r.bar0 = false) (ha : r.pasid = none) :
    exec (.hostInboundRequest r) s = .next (complete s r 1 (false, [])) := by
  show execHostInboundRequest r s = _
  simp [execHostInboundRequest, hp, hh, hb, ha]

section
variable {asid : Nat} (hb : r.bar0 = false) (ha : r.pasid = some asid) (hlt : asid < 65536) (h0 : 0 < accBytesOf r.acc)
  (hfit : r.off % 2 ^ 48 % 65536 + accBytesOf r.acc ≤ 65536) (hat : atomicServed r.acc (r.off % 2 ^ 48) = true)
include hb ha hlt h0 hfit hat

theorem exec_hostInboundRequest_frozen (hz : requesterFrozen s r (asidOwner s asid) = true) :
    exec (.hostInboundRequest r) s = .next (refusalRecord (complete s r 2 (false, [])) r asid rfFrozen 255) := by
  show execHostInboundRequest r s = _
  simp only [execHostInboundRequest, hp, hh, hb, ha, hat, hz, Nat.not_le.2 hlt, Nat.not_lt.2 hfit, h0.ne']
  rfl

variable (hz : requesterFrozen s r (asidOwner s asid) = false)
include hz

theorem exec_hostInboundRequest_refused {u : State} {e : Nat × Nat}
    (ht : inbound s asid (r.off % 2 ^ 48) (accWrites r.acc) none (3 * 2 ^ 60 + r.requester % 2 ^ 16) = (u, .error e)) :
    exec (.hostInboundRequest r) s = .next (refusalRecord (complete u r 2 (false, [])) r asid e.1 e.2) := by
  show execHostInboundRequest r s = _
  simp only [execHostInboundRequest, hp, hh, hb, ha, hat, hz, ht, Nat.not_le.2 hlt, Nat.not_lt.2 hfit, h0.ne']
  rfl

theorem exec_hostInboundRequest_served {u v : State} {x : Xl} {d : Bool × List Byte}
    (ht : inbound s asid (r.off % 2 ^ 48) (accWrites r.acc) none (3 * 2 ^ 60 + r.requester % 2 ^ 16) = (u, .ok x))
    (hd : performAccess u x.addr ⟨none, asidOwner s asid⟩ r.acc (hostPoison u (asidOwner s asid)) = (v, some d)) :
    exec (.hostInboundRequest r) s = .next (complete v r 0 d) := by
  show execHostInboundRequest r s = _
  simp only [execHostInboundRequest, hp, hh, hb, ha, hat, hz, ht, hd, Nat.not_le.2 hlt, Nat.not_lt.2 hfit, h0.ne']
  rfl

end
end

section
variable {s : State} {r : PeerReq} (hp : s.power = .on) (hl : (s.link r.link).state = .up) (h0 : 0 < accBytesOf r.acc)
  (hfit : r.va % 2 ^ 48 % 65536 + accBytesOf r.acc ≤ 65536)
  (hrun : tdiOf s (asidOwner s r.asid) = none ∨ tdiOf s (asidOwner s r.asid) = some .run)
include hp hl h0 hfit hrun

theorem exec_peerInboundRequest_refused {u : State} {e : Nat × Nat}
    (ht : inbound s r.asid (r.va % 2 ^ 48) (accWrites r.acc) (some r.peer) (4 * 2 ^ 60 + r.peer % 256) = (u, .error e)) :
    exec (.peerInboundRequest r) s = .next (answerPeer u r.link (.hint r.peer e.2 e.1) (leBytes 8 e.2)) := by
  show execPeerInboundRequest r s = _
  rcases hrun with hrun | hrun <;>
    simp only [execPeerInboundRequest, peerRequest, hp, hl, ht, hrun, Nat.not_lt.2 hfit, h0.ne'] <;> rfl

theorem exec_peerInboundRequest_served {u v : State} {x : Xl} {d : Bool × List Byte}
    (ht : inbound s r.asid (r.va % 2 ^ 48) (accWrites r.acc) (some r.peer) (4 * 2 ^ 60 + r.peer % 256) = (u, .ok x))
    (hd : performAccess (countAccess u r.asid (r.va % 2 ^ 48) x.leafAt (some r.peer)) x.addr ⟨none, asidOwner s r.asid⟩ r.acc true =
      (v, some d)) :
    exec (.peerInboundRequest r) s = .next (answerPeer v r.link
      (.peerDone r.peer d.2 (if d.1 then poisonedIn v x.addr (accBytesOf r.acc) else [])) d.2) := by
  show execPeerInboundRequest r s = _
  rcases hrun with hrun | hrun <;>
    simp only [execPeerInboundRequest, peerRequest, hp, hl, ht, hd, hrun, Nat.not_lt.2 hfit, h0.ne'] <;> rfl

end

/-! Page moves (R299). -/

/-- What the next step of a page's move leaves, by its phase. -/
def moved (s : State) (q : Move) (x : Xl) : State := match q.phase with
  | .due => askFrame s q x
  | .granted => sendPage s q x
  | .arrived => leavePage s q x
  | .asked | .sent => s

theorem exec_pageMove_of_found {s : State} (hp : s.power = .on) {asid va peer : Nat} {q : Move} {x : Xl}
    (hq : s.moveReqs.find? (fun q => q.asid == asid && q.va == va && q.peer == peer) = some q) (hx : walk s asid va 6 false = some x) :
    exec (.pageMove asid va peer) s = .next (moved s q x) := by
  show execPageMove asid va peer s = _
  simp only [execPageMove, hp, hq, hx, ne_eq, not_true_eq_false, if_false]
  rfl

section
variable {s : State} {q : Move} {x : Xl}

theorem tellPeer_of_upLink {l : Nat} (h : upLink s = some l) (m : Sent) (plain : List Byte) : tellPeer s m plain = answerPeer s l m plain := by
  simp only [tellPeer, h]

theorem answerPeer_moveReqs (s : State) (l : Nat) (m : Sent) (plain : List Byte) : (answerPeer s l m plain).moveReqs = s.moveReqs := rfl

theorem mem_sent_answerPeer (s : State) (l : Nat) (m : Sent) (plain : List Byte) : m ∈ (answerPeer s l m plain).sent :=
  List.mem_append_left _ (List.mem_append_right s.sent (List.mem_singleton_self m))

theorem upLink_of_links {t : State} (h : t.links = s.links) : upLink t = upLink s := by
  simp only [upLink, State.link, h]

theorem askFrame_declined (h : fld x.leaf 7 6 ≠ 0 ∨ upLink s = none) : askFrame s q x = moveTo s q none := by
  simp only [askFrame, Option.isNone_iff_eq_none, Bool.or_eq_true, decide_eq_true_eq, if_pos h]

theorem askFrame_asked (h : fld x.leaf 7 6 = 0) {l : Nat} (hl : upLink s = some l) : askFrame s q x =
    answerPeer (moveTo s q (some .asked)) l (.askFrame q.peer q.asid q.va) (leBytes 8 q.va) := by
  rw [askFrame, if_neg (by simp [h, hl]), tellPeer_of_upLink]
  exact (upLink_of_links rfl).trans hl

theorem sendPage_sends {l : Nat} (hl : upLink s = some l) : (sendPage s q x).moveReqs = (moveTo s q (some .sent)).moveReqs ∧
    .page q.peer (pageOut s q.peer q.asid q.va x.addr (leNat (s.bytes x.leafAt 16))) ∈ (sendPage s q x).sent := by
  rw [sendPage]
  generalize pageOut s q.peer q.asid q.va x.addr _ = page
  obtain ⟨-, hmoves, hlinks⟩ :=
    State.outward_eq_iff.1 (pageIn_outward (moveTo s q (some .sent)) (peerKey q.peer (q.va % 2 ^ 48)) page)
  rw [tellPeer_of_upLink ((upLink_of_links hlinks).trans hl), answerPeer_moveReqs]
  exact ⟨hmoves, mem_sent_answerPeer ..⟩

end

/-! Flits and links (R421 to R423). -/

section
variable {s : State} {l : Nat} {f : Flit} (hp : s.power = .on) (hl : (s.link l).state = .up)
include hp hl

theorem exec_flitReceive_crc (hc : f.crcOk = false) :
    exec (.flitReceive l f) s = .next (chargeScore (emit s (.replay l (s.link l).recvSeq)) (5248 + l) 1) := by
  show execFlitReceive l f s = _
  simp [execFlitReceive, hp, hl, hc]

theorem exec_flitReceive_forged (hc : f.crcOk = true) (hm : macHolds l f = false) :
    exec (.flitReceive l f) s = .next (linkTo s l .halted) := by
  show execFlitReceive l f s = _
  simp [execFlitReceive, haltLink, hp, hl, hc, hm]

theorem exec_flitReceive_discarded (hc : f.crcOk = true) (hm : macHolds l f = true)
    (h : f.epoch ≠ (s.link l).epoch ∨ f.seq ≠ (s.link l).recvSeq) : exec (.flitReceive l f) s = .next s := by
  show execFlitReceive l f s = _
  simp [execFlitReceive, hp, hl, hc, hm, h]

theorem exec_linkMacFailure_of_up : exec (.linkMacFailure l) s = .next (linkTo s l .halted) := by
  show execLinkMacFailure l s = _
  simp [execLinkMacFailure, haltLink, hp, hl]

end

/-- A flit in order is counted and acknowledges what its sender has; then what it carries takes effect. -/
def flitTaken (s : State) (l : Nat) (f : Flit) : State :=
  s.setLink l { s.link l with
    recvSeq := (s.link l).recvSeq + 1
    unacked := (s.link l).unacked.filter (fun u => f.ack ≤ u.1) }

theorem exec_flitReceive_in_order {s : State} {l : Nat} {f : Flit} (hp : s.power = .on) (hl : (s.link l).state = .up)
    (hc : f.crcOk = true) (hm : macHolds l f = true) (he : f.epoch = (s.link l).epoch) (hs : f.seq = (s.link l).recvSeq) :
    exec (.flitReceive l f) s = .next (f.body.elim (flitTaken s l f) (peerMsg (flitTaken s l f) l)) := by
  show execFlitReceive l f s = _
  cases hb : f.body <;> simp [execFlitReceive, flitTaken, hp, hl, hc, hm, he, hs, hb]

theorem moveHeard_of_found {s : State} {asid va peer : Nat} {p : MovePhase} {q : Move}
    (hq : s.moveReqs.find? (fun q => q.asid == asid && q.va == va && q.peer == peer && q.phase == p) = some q) (next : Option MovePhase) :
    moveHeard s asid va peer p next = moveTo s q next := by
  simp only [moveHeard, hq]

theorem receivePage_of_no_frame {s : State} {m : MovedPage} (h : ∀ q ∈ s.framesFor, q.1 ≠ m.asid) (l : Nat) : receivePage s l m = s := by
  have hnone : s.framesFor.find? (fun q => q.1 == m.asid && q.2.1 == m.va % 2 ^ 48 / 65536 * 65536 && q.2.2.1 == m.peer) = none :=
    List.find?_eq_none.2 fun q hq => by simp [h q hq]
  simp only [receivePage, hnone]

section
variable {s : State} {l : Nat} (hp : s.power = .on) (h8 : l < 8)
include hp h8

theorem exec_linkDown_of_up (hl : (s.link l).state = .up) :
    exec (.linkDown l) s = .next (abandonMoves (linkTo (s.setLink l (s.link l)) l .down)) := by
  show execLinkDown l s = _
  simp only [execLinkDown, if_pos hl]
  rw [if_neg (by simp [hp, hl, Nat.not_le.2 h8])]

variable (hu : (s.link l).state ≠ .up) (hd : (s.link l).state ≠ .down)
include hu hd

theorem exec_linkDown_of_training :
    exec (.linkDown l) s = .next (abandonMoves (linkTo (s.setLink l { s.link l with fails := 16 }) l .down)) := by
  show execLinkDown l s = _
  simp [execLinkDown, hp, hu, hd, Nat.not_le.2 h8]

theorem exec_linkRetrainComplete_of_training : exec (.linkRetrainComplete l) s =
    .next (sendBundles (linkTo (newEpoch (s.setLink l { s.link l with fails := 0 }) l) l .up)) := by
  show execLinkRetrainComplete l s = _
  simp [execLinkRetrainComplete, hp, hu, hd, Nat.not_le.2 h8]

end

/-! Drives and the host port (R241, R253, R419). -/

section
variable {s : State} {drive : Nat} (hp : s.power = .on) (hd : Tab.get false s.drives drive = false)
include hp hd

theorem exec_nvmeCompletion_of_none (sct sc : Nat) (hf : firstCmd s drive = none) : exec (.nvmeCompletion drive sct sc) s = .next s := by
  show execNvmeCompletion drive sct sc s = _
  simp [execNvmeCompletion, hp, hd, hf]

/-- The answer to a drive's oldest command, which has left its queue pair: nothing for a transfer that no longer waits, the end at an
error, and after a success nothing while another command of the transfer is queued. -/
theorem exec_nvmeCompletion_of_first {sct sc q : Nat} {k : NvmeCmd} (hf : firstCmd s drive = some (q, k)) {u : State}
    (hu : u = { s with nvmeQ := Tab.set [] s.nvmeQ q ((s.pair q).erase k) }) : exec (.nvmeCompletion drive sct sc) s =
      .next (if waits s k.who = false then u
        else if sct % 8 * 256 + sc % 256 ≠ 0 then nvmeAnswer (withdraw u k.who) k.who [drive] (sct % 8 * 256 + sc % 256)
        else if u.nvmeQ.any (fun p => p.2.any (fun v => v.who == k.who)) = true then u
        else nvmeAnswer u k.who [] 0) := by
  subst hu
  show execNvmeCompletion drive sct sc s = _
  simp only [execNvmeCompletion, hp, hd, hf, Bool.not_eq_true']
  rfl

theorem exec_driveUnresponsive_of_live (h4 : drive < 4) : ∃ u, exec (.driveUnresponsive drive) s =
    .next (postEvent u 0x800B none [8 + drive, 0]) := by
  show ∃ u, execDriveUnresponsive drive s = _
  simp only [execDriveUnresponsive, hp, hd, Nat.not_le.2 h4]
  exact ⟨_, rfl⟩

end

section
variable {s : State}

theorem exec_hostPortNotDelivering_of_open (hp : s.power = .on) (hh : s.hostPort = true) :
    exec .hostPortNotDelivering s = .next (endHostTransfers { s with hostPort := false }) := by
  show execHostPortNotDelivering s = _
  simp [execHostPortNotDelivering, hp, hh]

theorem exec_hostPortNotDelivering_of_closed (hh : s.hostPort = false) : exec .hostPortNotDelivering s = .next s := by
  show execHostPortNotDelivering s = _
  simp [execHostPortNotDelivering, hh]

end

/-- Settles O53: each happening by the lemma of its row; a page's move by its phase, a flit by what it carries. -/
theorem outsideSteps : Obligations.OutsideSteps := by
  unfold Obligations.OutsideSteps
  intro s hp
  refine ⟨fun r hh hb n ha hoff hend => ?bar0, fun r hh hb => ?host, fun r hl => ?peer,
    fun asid va peer q x hq hx => ?move, fun l f hl => ?flit, fun l h8 => ?link, fun drive sct sc hd => ?drive,
    fun drive h4 hd => ?unresponsive, exec_hostPortNotDelivering_of_open hp, exec_hostPortNotDelivering_of_closed⟩
  case bar0 => exact ⟨_, exec_hostInboundRequest_bar0 hp hh hb, congrArg State.sent (readBar0_of_read ha hoff hend s)⟩
  case host =>
    refine ⟨exec_hostInboundRequest_no_pasid hp hh hb, fun asid ha hlt => ?_⟩
    intro va job h0 hfit hat
    exact ⟨exec_hostInboundRequest_frozen hp hh hb ha hlt h0 hfit hat, fun hz =>
      ⟨fun u e ht => exec_hostInboundRequest_refused hp hh hb ha hlt h0 hfit hat hz ht,
        fun u x v d ht hd => exec_hostInboundRequest_served hp hh hb ha hlt h0 hfit hat hz ht hd⟩⟩
  case peer =>
    intro va job h0 hfit hrun
    exact ⟨fun u e ht => exec_peerInboundRequest_refused hp hl h0 hfit hrun ht,
      fun u x v d ht hd => exec_peerInboundRequest_served hp hl h0 hfit hrun ht hd⟩
  case move =>
    intro step page
    have hstep : step = .next (moved s q x) := exec_pageMove_of_found hp hq hx
    rw [hstep, moved]
    refine ⟨fun h hno => ?_, fun h h0 l hl => ?_, fun h l hl => ?_, fun h => ?_, fun h => ?_⟩
    · rw [h, askFrame_declined hno]
    · rw [h, askFrame_asked h0 hl]
    · rw [h]
      exact ⟨_, rfl, sendPage_sends hl⟩
    · rw [h]
    · rcases h with h | h <;> rw [h]
  case flit =>
    refine ⟨exec_flitReceive_crc hp hl, exec_flitReceive_forged hp hl, exec_flitReceive_discarded hp hl, fun hc hm he hs => ?_⟩
    intro u
    have heard : exec (.flitReceive l f) s = .next (f.body.elim u (peerMsg u l)) := exec_flitReceive_in_order hp hl hc hm he hs
    have carried : ∀ b, f.body = some b → exec (.flitReceive l f) s = .next (peerMsg u l b) := fun b hb => by rw [heard, hb]; rfl
    refine ⟨fun hb => by rw [heard, hb]; rfl, carried, fun asid va peer q hb hq => ?_, fun m hb hno => ?_, fun seq hb => carried _ hb⟩
    · exact (carried _ hb).trans (congrArg _ (moveHeard_of_found hq none))
    · exact (carried _ hb).trans (congrArg _ (receivePage_of_no_frame (s := u) hno l))
  case link =>
    exact ⟨fun hu => ⟨exec_linkMacFailure_of_up hp hu, exec_linkDown_of_up hp h8 hu⟩,
      fun hu hd => ⟨exec_linkDown_of_training hp h8 hu hd, exec_linkRetrainComplete_of_training hp h8 hu hd⟩⟩
  case drive =>
    refine ⟨fun q k hf => ?_, exec_nvmeCompletion_of_none hp hd sct sc⟩
    intro u
    rw [exec_nvmeCompletion_of_first hp hd hf (rfl : u = _)]
    refine ⟨fun hw => ?_, fun hw hc => ?_, fun hw hc => ⟨fun ha => ?_, fun ha => ?_⟩⟩
    · rw [if_pos hw]
    · rw [if_neg (by simp [hw]), if_pos hc]
    · rw [if_neg (by simp [hw]), if_neg (not_not.2 hc), if_pos ha]
    · rw [if_neg (by simp [hw]), if_neg (not_not.2 hc), if_neg (by simp [ha])]
  case unresponsive =>
    obtain ⟨u, hu⟩ := exec_driveUnresponsive_of_live hp hd h4
    exact ⟨_, hu, by rw [postEvent_sent, List.getLast?_concat]⟩

end Sys2Proof.Machine
end

section
/-! SUPPORT. Packets of a ring: what the engines' reads leave of the rings they serve, a packet that is taken up or tested again,
and the effect that its type has. -/
namespace Sys2Proof.Machine

/-! Errors that a read meets leave the engines' rings as they are. -/

theorem put_rings (s : State) (k : Nat) (bs : List Byte) : (s.put k bs).rings = s.rings := (sameJobs_put s k bs).2

theorem ringProduce_rings (s : State) (dk asid : Nat) (entry : List Byte) : (ringProduce s dk asid entry).1.rings = s.rings :=
  (sameJobs_ringProduce s dk asid entry).2

theorem postNotice_rings (s : State) (job kind addr detail : Nat) : (postNotice s job kind addr detail).rings = s.rings := by
  simp only [postNotice]
  split
  · rfl
  · split
    · rfl
    · exact ringProduce_rings ..

theorem emitEvent_rings (s : State) (opcode : Nat) (job : Option Nat) (payload : List Nat) :
    (emitEvent s opcode job payload).rings = s.rings := by
  refine foldl_keeps State.rings (fun t v => ?_) _ (emit s (.event opcode job payload))
  split
  · exact foldl_keeps State.rings (fun u _ => (sameJobs_sessionEntry u v.1).2) _ t
  · rfl

theorem chargeCore_rings (s : State) (cl i n : Nat) : (chargeCore s cl i n).rings = s.rings := by
  simp only [chargeCore]
  split <;> rfl

theorem trimError_rings (s : State) (cl i : Nat) (hard : Bool) : (trimError s cl i hard).rings = s.rings := by
  simp only [trimError]
  split_ifs <;> rfl

theorem chargeError_rings (s : State) (k cls : Nat) : (chargeError s k cls).rings = s.rings := by
  simp only [chargeError]
  split_ifs
  · rfl
  all_goals simp only [trimError_rings, chargeCore_rings]

theorem logError_rings (s : State) (arr : Nat) (record : ErrLog → Nat) : (logError s arr record).rings = s.rings := by
  simp only [logError]
  split
  · rfl
  · split
    · exact ringProduce_rings s ..
    · refine (postNotice_rings ..).trans ?_
      exact ringProduce_rings s ..

theorem reportError_rings (s : State) (k cls storedTag accessTag : Nat) (who : Consumer) :
    (reportError s k cls storedTag accessTag who).rings = s.rings :=
  (chargeError_rings ..).trans (logError_rings (fresh s).2 ..)

theorem weightLost_rings (s : State) (l : Nat) : (weightLost s l).rings = s.rings := by
  simp only [weightLost]
  split
  · rfl
  · exact emitEvent_rings (s.poisonAt l) ..

theorem copyReadErr_rings (s : State) (l : Nat) (tag : Option Nat) (w : Consumer) : (copyReadErr s l tag w).1.rings = s.rings := by
  simp only [copyReadErr]
  split_ifs
  · rfl
  · exact reportError_rings ..
  · exact reportError_rings ..
  · exact (weightLost_rings ..).trans (reportError_rings ..)
  · exact reportError_rings ..

theorem meet_rings (s : State) (k n : Nat) (tag : Option Nat) (w : Consumer) : (meet s k n tag w).rings = s.rings := by
  simp only [meet, copyReadErrs]
  split
  · rfl
  · refine foldl_keeps (fun p : State × Bool × Bool => p.1.rings) (fun p l => ?_) _ (s, false, false)
    have hone := copyReadErr_rings p.1 l tag w
    revert hone
    rcases copyReadErr p.1 l tag w with ⟨s1, _ | c⟩ <;> exact id

theorem meetWalk_rings (s : State) (job asid va : Nat) : (meetWalk s job asid va).rings = s.rings := by
  simp only [meetWalk]
  split
  · rfl
  · exact foldl_keeps State.rings (fun t a => meet_rings t a ..) _ s

theorem meetRing_rings (s : State) (r : RingRef) (index : Nat) : (meetRing s r index).rings = s.rings := by
  simp only [meetRing]
  split
  · rfl
  · split
    · exact meetWalk_rings ..
    · split <;> simp only [meet_rings, meetWalk_rings]

/-! A packet that joins those taken up. -/

theorem findRing_r (s : State) (r : RingRef) : (findRing s r).r = r := by
  simp only [findRing]
  cases h : s.rings.find? (·.r == r) with
  | none => rfl
  | some v => simpa using List.find?_some h

theorem findRing_setRing (s : State) (v : RingRun) : findRing (setRing s v) v.r = v := by
  have hnone : (s.rings.filter (fun x => x.r != v.r)).find? (·.r == v.r) = none := by
    rw [List.find?_eq_none]
    intro x hx
    simpa using (List.mem_filter.1 hx).2
  simp [findRing, setRing, List.find?_append, hnone]

/-- The packets of a ring once one more is taken up. -/
theorem findRing_takePacket_pkts (s : State) (r : RingRef) (index p : Nat) (ph : Phase) :
    (findRing (takePacket s r index p ph) r).pkts =
      (findRing s r).pkts ++ [⟨BitVec.ofNat 64 index, BitVec.ofNat 512 p, ph, []⟩] := by
  have hsame : findRing (meetRing s r index) r = findRing s r := by rw [findRing, meetRing_rings, findRing]
  have hset := findRing_setRing (meetRing s r index) { findRing s r with
    pkts := (findRing s r).pkts ++ [⟨BitVec.ofNat 64 index, BitVec.ofNat 512 p, ph, []⟩], next := BitVec.ofNat 64 (index + 1) }
  rw [findRing_r] at hset
  simp only [takePacket, hsame, hset]

/-- A packet just taken up is the one that stands at its index. -/
theorem findPkt_takePacket {s : State} {r : RingRef} {index : Word} (h : findPkt s r index.toNat = none) (p : Nat) :
    findPkt (takePacket s r index.toNat p .queued) r index.toNat = some ⟨index, BitVec.ofNat 512 p, .queued, []⟩ := by
  rw [findPkt, findRing_takePacket_pkts, List.find?_append, ← findPkt, h]
  simp [Pkt.open]

theorem pktProg_takePacket {s : State} {r : RingRef} {index : Word} (h : findPkt s r index.toNat = none) (p : Nat) :
    pktProg (takePacket s r index.toNat p .queued) r index.toNat = Prog.start := by
  rw [pktProg, findPkt_takePacket h]
  rfl

/-! The step of a packet's row. -/

section
variable {s : State} {r : RingRef} {index d p : Nat}

theorem packetStep_of_next {ours : Nat → Bool} (hs : serving s = true) (hf : findPkt s r index = none)
    (hp : peekPacket s r index = some (d, p, false)) (hb : packetBad p = false) (ho : ours p = true)
    (hh : packetHeld s (ringEngine s r d) (findRing s r).pkts p = false) :
    packetStep ours r index s = beginPacket s (ringEngine s r d) r index p := by
  simp [packetStep, hs, hf, hp, hb, ho, hh]

theorem beginPacket_of_halted (hh : ringHalted s r = true) (hr : isResume p = false) (e : Eng) : beginPacket s e r index p =
    finishPacket (takePacket s r index p .queued) r index p stAborted 0x11 0 0 := by
  simp [beginPacket, hh, hr]

theorem beginPacket_of_malformed (hh : ringHalted s r = false) (hb : packetBad p = true) (e : Eng) : beginPacket s e r index p =
    finishPacket (takePacket s r index p .queued) r index p stBound 2 0 0 := by
  simp [beginPacket, hh, hb]

theorem beginPacket_of_wellFormed (hh : ringHalted s r = false ∨ isResume p = true) (hb : packetBad p = false) (e : Eng) :
    beginPacket s e r index p = waitPacket (takePacket s r index p .queued) e r index p := by
  rcases hh with hh | hh <;> simp [beginPacket, hh, hb]

theorem waitPacket_of_unmet {e : Eng} {s1 : State} (h : waitTest s e p (index % 2 ^ 60) = (s1, none)) :
    waitPacket s e r index p = setPkt s1 r index .waiting := by
  simp only [waitPacket, h]

theorem waitPacket_of_failed {e : Eng} {s1 : State} (h : waitTest s e p (index % 2 ^ 60) = (s1, some false)) :
    waitPacket s e r index p = finishPacket s1 r index p stAborted 0x10 0 0 := by
  simp only [waitPacket, h]

theorem waitPacket_of_met {e : Eng} {s1 : State} (h : waitTest s e p (index % 2 ^ 60) = (s1, some true)) :
    waitPacket s e r index p = runPacket s1 e r index p := by
  simp only [waitPacket, h]

theorem waitPacket_of_no_wait (h : pkWaitEn p = false) (e : Eng) : waitPacket s e r index p = runPacket s e r index p :=
  waitPacket_of_met (by simp [waitTest, h])

/-- A ready packet of the row's own has its type's effect in this step. -/
theorem packetStep_of_ready {ours : Nat → Bool} (h : PacketReady s r index d p) (ho : ours p = true) : packetStep ours r index s =
    runPacket (takePacket s r index p .queued) (ringEngine s r d) r index p := by
  obtain ⟨hs, hf, hp, hb, hh, hw, hheld⟩ := h
  rw [packetStep_of_next hs hf hp hb ho hheld, beginPacket_of_wellFormed (.inl hh) hb, waitPacket_of_no_wait hw]

/-- The engine that serves a ring as its descriptor stands. -/
def ringServer (s : State) (r : RingRef) : Eng := ringEngine s r (match ringDesc s r with | some (_, d) => d | none => 0)

theorem retest_of_found {wanted : Phase → Nat → Bool} {q : Pkt} (run : State → Eng → RingRef → Nat → Nat → State)
    (hs : serving s = true) (hq : findPkt s r index = some q) (hz : (findRing s r).frozen = false)
    (hw : wanted q.phase q.bits.toNat = true) (hh : packetHeld s (ringServer s r) (pktsBefore s r index) q.bits.toNat = false) :
    retest wanted run r index s = run s (ringServer s r) r index q.bits.toNat := by
  simp only [retest, hq, hs, hz, hw]
  exact if_pos (show (!packetHeld s (ringServer s r) (pktsBefore s r index) q.bits.toNat) = true by rw [hh]; rfl)

/-! The effect of a packet, by its type. -/

section
variable {e : Eng}

theorem runPacket_of_transfer (ht : pkType p = 2 ∨ pkType p = 3 ∨ pkType p = 4) :
    runPacket s e r index p = runTransfer s e r index p := by
  rcases ht with ht | ht | ht <;> simp only [runPacket, ht]

theorem runPacket_of_launch (ht : pkType p = 5) : runPacket s e r index p = runLaunch s r index p := by simp only [runPacket, ht]
theorem runPacket_of_barrier (ht : pkType p = 6) : runPacket s e r index p = runBarrier s e r index p := by simp only [runPacket, ht]

/-- A NOP that resumes nothing completes. -/
theorem runPacket_of_nop (ht : pkType p = 1) (hr : p.testBit 255 = false) :
    runPacket s e r index p = finishPacket s r index p stOk 0 0 0 := by
  simp only [runPacket, ht, runNop, hr, Bool.false_eq_true, if_false]

/-- A NOP with resume ends the halted state of a ring that can be read. -/
theorem runPacket_of_resume {k v : Nat} (ht : pkType p = 1) (hr : p.testBit 255 = true) (hd : ringDesc s r = some (k, v))
    (hv : rdHalted v = true) : runPacket s e r index p =
      finishPacket (putDesc s r.job r.desc.toNat k (setFld v 310 310 0)) r index p stOk 0 0 0 := by
  simp only [runPacket, ht, runNop, hr, hd, hv, if_true]

theorem runPacket_of_signal (ht : pkType p = 7) (hd : p.testBit 255 = false) :
    runPacket s e r index p = finishPacket s r index p stOk 0 0 0 := by
  simp only [runPacket, ht, runSignal, hd, Bool.false_eq_true, if_false]

theorem runPacket_of_atomic {s1 : State} {old : Nat} (ht : pkType p = 8)
    (ha : atomicOp s e (fld p 255 192) (fld p 63 60) (p.testBit 59) (p.testBit 58) (fld p 191 128) (fld p 127 64) = (s1, .ok old)) :
    runPacket s e r index p = finishPacket s1 r index p stOk 0 0 old := by
  simp only [runPacket, ht, runAtomic, ha]

/-- A transfer that no drive is asked for moves its bytes from where it stands. -/
theorem runTransfer_of_no_drive (hw : weightHeld s e p = false) (hd : drivesOf p false = []) : runTransfer s e r index p =
    settlePacket s r index p (transferMem s e p (index % 2 ^ 60) (pktProg s r index)) := by
  simp [runTransfer, hw, driveNext, hd]

end

/-- LAUNCH patches the arguments that it names and arms (R309). -/
theorem runLaunch_of_armed {s2 : State} {k : Nat} (hs : slotBad s r.job (fld p 255 240) = false)
    (hn : fld p 235 232 + fld p 239 236 ≤ 4) (hl : lrLive (launchRec s r.job (fld p 255 240)) = false)
    (ha : armLaunch ((List.range (fld p 239 236)).foldl (fun t j =>
      patchArg t r.job (fld p 255 240) (fld p 235 232 + j) (fld p (64 * j + 63) (64 * j))) s) r.job (fld p 255 240) none = (s2, .ok k)) :
    runLaunch s r index p = finishPacket s2 r index p stOk 0 0 0 := by
  simp [runLaunch, hs, Nat.not_lt.2 hn, hl, ha]

section
variable {e : Eng} {s1 : State}

theorem runBarrier_of_passed (h : barrierRound e index p (fld p 111 110) 0 s = (s1, some true)) :
    runBarrier s e r index p = finishPacket s1 r index p stOk 0 0 0 := by
  simp only [runBarrier, h]

theorem runBarrier_of_waiting (h : barrierRound e index p (fld p 111 110) 0 s = (s1, none)) :
    runBarrier s e r index p = setPkt s1 r index (.claimed 0 0) := by
  simp only [runBarrier, h]

theorem runBarrier_of_failed (h : barrierRound e index p (fld p 111 110) 0 s = (s1, some false)) :
    runBarrier s e r index p = finishPacket s1 r index p stAborted 0x10 0 0 := by
  simp only [runBarrier, h]

end

/-! The rows of packets that wait, and of malformed ones. -/

section
variable {i : Word} {q : Pkt} (hs : serving s = true) (hq : findPkt s r i.toNat = some q) (hz : (findRing s r).frozen = false)
  (hh : packetHeld s (ringServer s r) (pktsBefore s r i.toNat) q.bits.toNat = false)
include hs hq hz hh

theorem exec_packetWaitRetest_of_waiting (hw : q.phase = .waiting) : exec (.packetWaitRetest r i) s =
    .next (waitPacket s (ringServer s r) r i.toNat q.bits.toNat) :=
  congrArg Host.Outcome.next (retest_of_found waitPacket hs hq hz (by simp [hw]) hh)

theorem exec_barrierRound_of_claimed (hw : q.phase = .claimed 0 0) (ht : pkType q.bits.toNat = 6) : exec (.barrierRound r i) s =
    .next (runBarrier s (ringServer s r) r i.toNat q.bits.toNat) :=
  congrArg Host.Outcome.next (retest_of_found runBarrier hs hq hz (by simp [hw, ht]) hh)

end

theorem exec_malformedPacket_of_readable {i : Word} (hs : serving s = true) (hp : peekPacket s r i.toNat = some (d, p, false))
    (hb : packetBad p = true) (hh : signalHeld (findRing s r).pkts (cleanHeader p) = false) :
    exec (.malformedPacket r i) s = .next (beginPacket s (ringEngine s r d) r i.toNat p) := by
  show execMalformedPacket r i s = _
  simp [execMalformedPacket, hs, hp, hb, hh]

theorem isResume_iff : isResume p = true ↔ pkType p = 1 ∧ p.testBit 255 = true ∧ packetBad p = false := by
  simp [isResume, and_assoc]

end

/-- Settles O40: a ready packet has its type's effect, and each type's effect is that of its lemma. -/
theorem ringPackets : Obligations.RingPackets := by
  unfold Obligations.RingPackets
  intro r index s d p h i u e
  obtain ⟨-, hf, -⟩ := id h
  have run (ours : Nat → Bool) (ho : ours p = true) : (.next (packetStep ours r i s) : Res) = .next (runPacket u e r i p) :=
    congrArg _ (packetStep_of_ready h ho)
  refine ⟨fun ht hr => ?nop, fun x hx hw hd => ?transfer, fun s2 k ht => ?launch, fun s1 ht => ?barrier, fun ht hd => ?signal,
    fun s1 old ht ha => ?atomic⟩
  case nop => exact (run _ (by simp [ht])).trans (congrArg _ (runPacket_of_nop ht hr))
  case transfer =>
    have hmoves (ht : pkType p = 2 ∨ pkType p = 3 ∨ pkType p = 4) :
        runPacket u e r i p = settlePacket u r i p (transferMem u e p (i % 2 ^ 60) Prog.start) := by
      rw [runPacket_of_transfer ht, runTransfer_of_no_drive hw hd, pktProg_takePacket hf]
    obtain ⟨rfl, ht⟩ | ⟨rfl, ht⟩ | ⟨rfl, ht⟩ := hx
    · exact (run _ (by simp [ht])).trans (congrArg _ (hmoves (.inl ht)))
    · exact (run _ (by simp [ht])).trans (congrArg _ (hmoves (.inr (.inl ht))))
    · exact (run _ (by simp [ht])).trans (congrArg _ (hmoves (.inr (.inr ht))))
  case launch =>
    intro slot n first hs hn hl ha
    exact (run _ (by simp [ht])).trans (congrArg _ ((runPacket_of_launch ht).trans (runLaunch_of_armed hs hn hl ha)))
  case barrier =>
    have hfirst : exec (.barrier r index) s = .next (runBarrier u e r i p) :=
      (run _ (by simp [ht])).trans (congrArg _ (runPacket_of_barrier ht))
    exact ⟨fun hr => hfirst.trans (congrArg _ (runBarrier_of_passed hr)), fun hr => hfirst.trans (congrArg _ (runBarrier_of_waiting hr))⟩
  case signal => exact (run _ (by simp [ht])).trans (congrArg _ (runPacket_of_signal ht hd))
  case atomic => exact (run _ (by simp [ht])).trans (congrArg _ (runPacket_of_atomic ht ha))

/-- Settles O41: a wait by what its test finds, a barrier by its round; on a halted ring every row but MALFORMED_PACKET takes its
packet up to end it, and the resuming NOP goes on to its effect. -/
theorem packetsHeldBack : Obligations.PacketsHeldBack := by
  unfold Obligations.PacketsHeldBack
  refine ⟨fun r index s q hs hq hz => ?waits, fun r index s d p hs hf hp => ?begins⟩
  case waits =>
    intro i p e hh
    refine ⟨fun s1 hw => ?_, fun s1 hw ht => ?_⟩
    · have htest : exec (.packetWaitRetest r index) s = .next (waitPacket s e r i p) := exec_packetWaitRetest_of_waiting hs hq hz hh hw
      exact ⟨fun h => htest.trans (congrArg _ (waitPacket_of_unmet h)), fun h => htest.trans (congrArg _ (waitPacket_of_failed h)),
        fun h ht hr => htest.trans (congrArg _ ((waitPacket_of_met h).trans (runPacket_of_nop ht hr)))⟩
    · have hround : exec (.barrierRound r index) s = .next (runBarrier s e r i p) := exec_barrierRound_of_claimed hs hq hz hh hw ht
      exact ⟨fun h => hround.trans (congrArg _ (runBarrier_of_passed h)), fun h => hround.trans (congrArg _ (runBarrier_of_waiting h)),
        fun h => hround.trans (congrArg _ (runBarrier_of_failed h))⟩
  case begins =>
    intro u
    refine ⟨fun hb hh hsig => ?_, fun hb hh hheld => ⟨fun hr x hx => ?_, fun hr hw k v hd hv => ?_⟩⟩
    · exact (exec_malformedPacket_of_readable hs hp hb hsig).trans (congrArg _ (beginPacket_of_malformed hh hb _))
    · -- each row is the one step with its own test of the packet
      obtain ⟨ours, hrow, ho⟩ : ∃ ours : Nat → Bool, exec x s = .next (packetStep ours r index.toNat s) ∧ ours p = true := by
        rcases hx with ⟨rfl, ht⟩ | ⟨rfl, ht⟩ | ⟨rfl, ht⟩ | ⟨rfl, ht⟩ | ⟨rfl, ht⟩ | ⟨rfl, ht⟩ | ⟨rfl, ht⟩ | ⟨rfl, ht⟩ |
          ⟨ht, ⟨rfl, hop⟩ | ⟨rfl, hop⟩ | ⟨rfl, hop⟩ | ⟨rfl, hop⟩⟩
        all_goals exact ⟨_, rfl, by simp [*]⟩
      rw [hrow, packetStep_of_next hs hf hp hb ho hheld, beginPacket_of_halted hh hr]
    · obtain ⟨ht, hbit, -⟩ := isResume_iff.1 hr
      have hstep : exec (.nop r index) s = .next (beginPacket s (ringEngine s r d) r index.toNat p) :=
        congrArg Host.Outcome.next (packetStep_of_next hs hf hp hb (by simp [ht]) hheld)
      rw [hstep, beginPacket_of_wellFormed (.inr hr) hb, waitPacket_of_no_wait hw, runPacket_of_resume ht hbit hd hv]

end Sys2Proof.Machine
end

section
/-! SUPPORT. Requests about rings, translations and code: a descriptor that is cleared, what an invalidation leaves in the caches,
and each request as it is performed. -/
namespace Sys2Proof.Machine

section
variable {s : State} {m : Msg}

/-! Descriptors in memory. -/

theorem bytes_put (s : State) (k : Nat) (bs : List Byte) : (s.put k bs).bytes k bs.length = bs := by
  rw [State.bytes, Memory.read_eq]
  refine List.ext_getElem (by simp) (fun i h1 h2 => ?_)
  simp [put_byte, h2]

/-- A descriptor that is cleared reads as nothing. -/
theorem desc_setDesc_zero (s : State) (k : Nat) : (s.setDesc k 0).desc k = 0 := by
  have hread : (s.setDesc k 0).bytes k 64 = leBytes 64 0 := by
    have h := bytes_put s k (leBytes 64 0)
    rwa [leBytes_length] at h
  rw [State.desc, hread, leNat_leBytes 64 0 (by positivity), ite_self]

theorem putDesc_of_unmarked {k : Nat} (h : markedFrame s k = false) (job va d : Nat) : putDesc s job va k d = s.setDesc k d := by
  simp [putDesc, h]

/-! Cached leaves (R290, R291). -/

/-- A cached leaf that serves no address of a range of an address space. -/
def leafOutside (asid va len : Nat) (t : TlbEnt) : Bool :=
  !(t.asid == asid && t.base * 2 ^ t.log2 < va + len && va < (t.base + 1) * 2 ^ t.log2)

theorem leafOutside_iff {asid va len : Nat} {t : TlbEnt} : leafOutside asid va len t = true ↔
    (t.asid = asid → va + len ≤ t.base * 2 ^ t.log2 ∨ (t.base + 1) * 2 ^ t.log2 ≤ va) := by
  simp only [leafOutside, Bool.not_eq_true', Bool.and_eq_false_iff, beq_eq_false_iff_ne, decide_eq_false_iff_not, not_lt, or_assoc,
    imp_iff_not_or]

theorem dropCached_faultPages (s : State) (asid va len : Nat) : (dropCached s asid va len).faultPages = s.faultPages := by
  simp only [dropCached]

theorem dropCached_dieCache (asid va len : Nat) {die : Nat} (h : die < 4) :
    (dropCached s asid va len).dieCache die = (s.dieCache die).filter (leafOutside asid va len) := by
  refine (Tab.get_foldl_set [] (fun _ l => l.filter (leafOutside asid va len)) 4 s.dieTlb die).trans ?_
  rw [if_pos h]
  rfl

theorem dropCached_engineTlb (asid va len : Nat) {cl e : Nat} (hc : cl < 16) (he : e < 8) :
    (dropCached s asid va len).engineTlb cl e = (s.engineTlb cl e).filter (leafOutside asid va len) := by
  have hcl : (dropCached s asid va len).cluster cl = { s.cluster cl with
      tlb := (List.range 8).foldl (fun t e => Tab.set [] t e ((Tab.get [] t e).filter (leafOutside asid va len))) (s.cluster cl).tlb } := by
    refine (Tab.get_foldl_set Cluster.reset (fun _ (v : Cluster) => { v with
      tlb := (List.range 8).foldl (fun t e => Tab.set [] t e ((Tab.get [] t e).filter (leafOutside asid va len))) v.tlb })
      16 s.clusters cl).trans ?_
    rw [if_pos hc]
    rfl
  rw [State.engineTlb, hcl, Tab.get_foldl_set [] (fun _ l => l.filter (leafOutside asid va len)), if_pos he]
  rfl

/-! Rings. -/

section
variable (h : Heard s m configReq)
include h

theorem exec_ringCreate_of_fit {j : Job} (hj : s.job m.job = some j) {a : Word} {d : BitVec 512} {k : Nat} (hd : rdOk d.toNat = true)
    (hm : rdJob d.toNat = m.job) (hb : ringBaseOk s m.job d.toNat = true)
    (hp : ringPlace s m.job (rdKind d.toNat) a.toNat = some k) : exec (.ringCreate m a d) s =
      performed (if rdKind d.toNat = 1 then clearRing ((s.setDesc k (freshRing d.toNat)).setTags k 64 0) ⟨m.job, a⟩
        else bindErrorLog ((s.setDesc k (freshRing d.toNat)).setTags k 64 0) d.toNat k) m := by
  show execRingCreate m a d s = _
  simp [execRingCreate, request_of_heard h, withJob_of_job hj, hd, hm, hb, hp, performed]

section
variable {a : Word} {k d : Nat} (hn : namedRing s m a = some (k, d))
include hn

/-- RING_RESET of a ring whose packets, ended and dropped, leave the state `u`: both its indices stand at its write index. -/
theorem exec_ringReset_of_named {t u : State} (ht : t = clearRing (abortPackets s ⟨m.job, a⟩ 0x14) ⟨m.job, a⟩)
    (hu : u = setRing t { findRing t ⟨m.job, a⟩ with next := BitVec.ofNat 64 (rdWrite (t.desc k)) }) :
    exec (.ringReset m a) s = performed (putDesc u m.job a.toNat k (setFld (u.desc k) 447 384 (rdWrite (u.desc k)))) m := by
  subst ht hu
  show execRingReset m a s = _
  simp only [execRingReset, request_of_heard h, hn]
  rfl

theorem exec_ringRemove_of_named {t u : State} (ht : t = abortPackets s ⟨m.job, a⟩ 0x14)
    (hu : u = { t with rings := t.rings.filter (fun v => v.r != (⟨m.job, a⟩ : RingRef)) }) :
    exec (.ringRemove m a) s = performed (dropErrorLog (putDesc u m.job a.toNat k 0) k) m := by
  subst ht hu
  show execRingRemove m a s = _
  simp only [execRingRemove, request_of_heard h, hn]
  rfl

end

/-- INVALIDATE leaves the caches as `t` and forgets the faults of the pages that the range meets, which is `u`; then every ring is
read again. -/
theorem exec_invalidate_of_allowed {asid va len : Nat} (ha : asid < 65536) (hv : va + len ≤ 2 ^ 48)
    (hj : (s.session m.session).job = none ∨ asid = jobAsid s m.job) {t u : State} (ht : dropCached s asid va len = t)
    (hu : u = { t with faultPages := s.faultPages.filter (fun p =>
      !(p.1 == asid && va < (p.2 + 1) * 65536 && p.2 * 65536 < va + len)) }) :
    exec (.invalidate m asid va len) s = performed (u.rings.foldl (rereadRing asid va len) u) m := by
  have hmine : ((s.session m.session).job.isSome && decide (asid ≠ jobAsid s m.job)) = false := by
    rcases hj with hj | hj <;> simp [hj]
  have hpages : t.faultPages = s.faultPages := ht ▸ dropCached_faultPages s asid va len
  have hrings : u.rings = t.rings := by rw [hu]
  show execInvalidate m asid va len s = _
  simp only [execInvalidate, request_of_heard h, decide_eq_false (Nat.not_le.2 ha), decide_eq_false (Nat.not_lt.2 hv), hmine, ht,
    hpages, ← hu, hrings, Bool.or_self, Bool.false_eq_true, if_false, performed]

end

/-! Code. -/

section
variable (h : Heard s m plainReq) {j : Job} (hj : s.job m.job = some j)
include h hj

theorem exec_manifestLoad_of_ok {dict code : Word} {mf : List Byte} {t : State} {n : Nat}
    (hl : loadManifest s m.job dict.toNat code.toNat mf = (t, .ok n)) :
    exec (.manifestLoad m dict code mf) s = .next (reply t m rOk (leBytes 2 n)) := by
  show execManifestLoad m dict code mf s = _
  simp only [execManifestLoad, request_of_heard h, withJob_of_job hj, hl]

theorem exec_manifestLoad_of_denied {dict code : Word} {mf : List Byte} {t : State}
    (hl : loadManifest s m.job dict.toNat code.toNat mf = (t, .denied)) :
    exec (.manifestLoad m dict code mf) s = .next (answer t m rDenied) := by
  show execManifestLoad m dict code mf s = _
  simp only [execManifestLoad, request_of_heard h, withJob_of_job hj, hl]

theorem exec_mapx_of_ok {n : Nat} {pages : List Word} {t : State} (hr : mapRequest s m.job n pages = (t, .ok)) :
    exec (.mapx m n pages) s = performed t m := by
  show execMapx m n pages s = _
  simp only [execMapx, request_of_heard h, withJob_of_job hj, hr, performed]

/-- A refusal of the scanner that is no SIGNATURE is answered and leaves the requester as it is. -/
theorem exec_mapx_of_scan {n p : Nat} {pages : List Word} {t : State} {r : Refused}
    (hr : mapRequest s m.job n pages = (t, .scan p r)) (hs : r.2 ≠ .signature) :
    exec (.mapx m n pages) s = .next (reply t m rScan (scanPayload (scanCode r.2) p r.1)) := by
  show execMapx m n pages s = _
  simp only [execMapx, request_of_heard h, withJob_of_job hj, hr, if_neg hs]

end

/-- A manifest whose signature does not verify is refused before anything is read. -/
theorem loadManifest_unsigned {job dict code : Nat} {mf : List Byte} (hd : fld dict 63 48 = 0) (hc : fld code 63 48 = 0)
    (hd' : dict % 65536 = 0) (hc' : code % 8192 = 0) (hf : manifestFieldsOk mf = true) (hs : manifestSigned s mf = false) :
    loadManifest s job dict code mf = (s, .denied) := by
  simp [loadManifest, hd, hc, hd', hc', hf, hs]

/-- A mapping that an UNMAP of the pages takes away. -/
def unmapped (asid : Nat) (pages : List Word) (x : Mapped) : Bool := x.asid == asid && pages.any (fun p => fld p.toNat 47 16 == x.va)

theorem unmapped_iff {asid : Nat} {pages : List Word} {x : Mapped} :
    unmapped asid pages x = true ↔ x.asid = asid ∧ ∃ p ∈ pages, fld p.toNat 47 16 = x.va := by
  simp [unmapped]

theorem exec_unmap_of_mapped (h : Heard s m plainReq) {j : Job} (hj : s.job m.job = some j) {pages : List Word}
    (hp : ∀ p ∈ pages, fld p.toNat 63 48 = 0 ∧ ∃ x ∈ s.mapped, x.asid = jobAsid s m.job ∧ x.va = fld p.toNat 47 16) :
    exec (.unmap m pages) s = performed { s with mapped := s.mapped.filter (fun x => !unmapped (jobAsid s m.job) pages x) } m := by
  have hall : pages.any (fun p => fld p.toNat 63 48 != 0 ||
      !s.mapped.any (fun x => x.asid == jobAsid s m.job && x.va == fld p.toNat 47 16)) = false := by
    refine List.any_eq_false.2 fun p hmem => ?_
    obtain ⟨hz, x, hx, ha, hv⟩ := hp p hmem
    have hfound : s.mapped.any (fun x => x.asid == jobAsid s m.job && x.va == fld p.toNat 47 16) = true :=
      List.any_eq_true.2 ⟨x, hx, by simp [ha, hv]⟩
    simp [hz, hfound]
  show execUnmap m pages s = _
  simp only [execUnmap, request_of_heard h, withJob_of_job hj, hall]
  rfl

end

/-- Settles O45: each request is heard, its guards hold by the premises; what goes from caches, rings and mappings is what a filter
takes out. -/
theorem ringAndCodeRequests : Obligations.RingAndCodeRequests := by
  unfold Obligations.RingAndCodeRequests
  refine ⟨fun s m h => ⟨fun j a d k hj hd hm hb hp => exec_ringCreate_of_fit h hj hd hm hb hp, fun a k d hn => ⟨?reset, ?remove⟩,
      fun asid va len ha hv hj => ?invalidate⟩,
    fun s m j h hj => ⟨fun dict code mf t n hl => exec_manifestLoad_of_ok h hj hl,
      fun dict code mf hd hc hd' hc' hf hs => exec_manifestLoad_of_denied h hj (loadManifest_unsigned hd hc hd' hc' hf hs),
      fun n pages t hr => exec_mapx_of_ok h hj hr, fun n pages t p r hr hs => exec_mapx_of_scan h hj hr hs,
      fun pages hp => ⟨_, exec_unmap_of_mapped h hj hp, fun x => ?mapped⟩⟩⟩
  case reset => exact exec_ringReset_of_named h hn rfl rfl
  case remove =>
    intro t u
    refine ⟨exec_ringRemove_of_named h hn rfl rfl, fun v hv => ?_, fun hk => ?_⟩
    · simpa using (List.mem_filter.1 hv).2
    · rw [putDesc_of_unmarked hk, desc_setDesc_zero]
  case invalidate =>
    -- what holds of the caches is known of `t` by the lemmas about it, and nothing below looks inside
    intro t
    have ht : dropCached s asid va len = t := rfl
    clear_value t
    intro u leavesClear
    have hclear (l : List TlbEnt) : leavesClear (l.filter (leafOutside asid va len)) :=
      fun x hx => leafOutside_iff.1 (List.mem_filter.1 hx).2
    refine ⟨exec_invalidate_of_allowed h ha hv hj ht rfl, fun cl e hc he => ?_, fun die hd => ?_⟩
    · rw [show u.engineTlb cl e = t.engineTlb cl e from rfl, ← ht, dropCached_engineTlb asid va len hc he]
      exact hclear _
    · rw [show u.dieCache die = t.dieCache die from rfl, ← ht, dropCached_dieCache asid va len hd]
      exact hclear _
  case mapped => rw [List.mem_filter, Bool.not_eq_true', ← Bool.not_eq_true, unmapped_iff]

end Sys2Proof.Machine
end

section
/-! SUPPORT. Counters: conditions on unsigned values, a barrier word taken apart, and the instructions on semaphores, barriers
and transfer IDs. -/
namespace Sys2Proof.Machine

/-- A condition on the integers of unsigned values is the one on their bit vectors. -/
theorem condHolds_toNat (c : Cond) {w : Nat} (a b : BitVec w) : condHolds c a.toNat b.toNat = holds c false a b := by
  have he : ((a.toNat : Int) == b.toNat) = (a == b) := by
    rw [Bool.eq_iff_iff, beq_iff_eq, beq_iff_eq, Int.natCast_inj, BitVec.toNat_inj]
  have hlt (x y : BitVec w) : decide ((x.toNat : Int) < y.toNat) = less false x y := by simp [less, BitVec.ult]
  cases c
  case eq => exact he
  case ne => exact congrArg not he
  case lt => exact hlt a b
  case le => rw [condHolds, holds, ← hlt, ← decide_not, decide_eq_decide, not_lt]
  case gt => exact hlt b a
  case ge => rw [condHolds, holds, ← hlt, ← decide_not, decide_eq_decide, not_lt]

/-! Barrier words (R345, R353). -/

section
variable (err armed phase : Bool) (c : Int)

theorem tbMake_toNat : (tbMake err armed phase c).toNat =
    2 ^ 24 * (b2n err * 4 + b2n armed * 2 + b2n phase) + (BitVec.ofInt 24 c).toNat := by
  have hc := (BitVec.ofInt 24 c).isLt
  rw [tbMake, BitVec.toNat_ofNat, wrapInt_eq_toNat, Nat.mod_eq_of_lt]
  · ring
  · have h (b : Bool) : b2n b ≤ 1 := by cases b <;> decide
    have := h err
    have := h armed
    have := h phase
    omega

/-- The bits above the count. -/
theorem tbMake_flag (i : Nat) (hi : i < 3) : (tbMake err armed phase c).getLsbD (24 + i) =
    (b2n err * 4 + b2n armed * 2 + b2n phase).testBit i := by
  rw [BitVec.getLsbD, tbMake_toNat, Nat.testBit_two_pow_mul_add _ (BitVec.ofInt 24 c).isLt, if_neg (by omega), Nat.add_sub_cancel_left]

@[simp] theorem tbPhase_tbMake : tbPhase (tbMake err armed phase c) = phase :=
  (tbMake_flag err armed phase c 0 (by decide)).trans (by cases err <;> cases armed <;> cases phase <;> rfl)
@[simp] theorem tbArmed_tbMake : tbArmed (tbMake err armed phase c) = armed :=
  (tbMake_flag err armed phase c 1 (by decide)).trans (by cases err <;> cases armed <;> cases phase <;> rfl)
@[simp] theorem tbErr_tbMake : tbErr (tbMake err armed phase c) = err :=
  (tbMake_flag err armed phase c 2 (by decide)).trans (by cases err <;> cases armed <;> cases phase <;> rfl)

end

/-- A count that a barrier's field holds is kept. -/
theorem tbCount_tbMake (err armed phase : Bool) {c : Int} (hlo : -2 ^ 23 ≤ c) (hhi : c < 2 ^ 23) :
    tbCount (tbMake err armed phase c) = c := by
  have hbits : BitVec.ofNat 24 (tbMake err armed phase c).toNat = BitVec.ofInt 24 c := by
    rw [tbMake_toNat]
    apply BitVec.eq_of_toNat_eq
    rw [BitVec.toNat_ofNat, Nat.mul_add_mod, Nat.mod_eq_of_lt (BitVec.ofInt 24 c).isLt]
  rw [tbCount, sx_eq_toInt, hbits, BitVec.toInt_ofInt_eq_self (by decide) (by simpa using hlo) (by simpa using hhi)]

theorem tbCount_mem (b : BitVec 27) : -2 ^ 23 ≤ tbCount b ∧ tbCount b < 2 ^ 23 := by
  rw [tbCount, sx_eq_toInt]
  exact ⟨BitVec.le_toInt _, BitVec.toInt_lt⟩

/-- What an armed barrier is once its count has become `c`: past its range it reports an error, at zero its phase ends. -/
def tbReached (err phase : Bool) (c : Int) : BitVec 27 :=
  if 2 ^ 23 ≤ c then tbMake true false (!phase) 0 else if c = 0 then tbMake err false (!phase) 0 else tbMake err true phase c

theorem tbAdd_of_armed {b : BitVec 27} (h : tbArmed b = true) (n : Nat) :
    tbAdd b n = tbReached (tbErr b) (tbPhase b) (tbCount b + n) := by
  have hover : tbCount b + n > 2 ^ 23 - 1 ↔ 2 ^ 23 ≤ tbCount b + n := by omega
  simp only [tbAdd, tbReached, h, Bool.true_and, beq_iff_eq, hover]
  split_ifs with _ hz
  · rfl
  · rw [hz]
  · rfl

/-! The instructions (R351 to R355). -/

section
variable {f : EC} {s : State}

theorem semwtMet_eq : semwtMet f s = holds f.cond false (Tab.get (0 : BitVec 16) s.cur.sems f.f.toNat) f.imm := condHolds_toNat ..

theorem exec_tbarm_of_fit (ha : tbArmed (s.arch.rdTb f.tb.val) = false) (hn : (twoForm f s).toNat < 2 ^ 23) : exec (.tbarm f) s =
    .next (s.setArch (s.arch.wrTb f.tb.val (tbReached false (tbPhase (s.arch.rdTb f.tb.val))
      (tbCount (s.arch.rdTb f.tb.val) + (twoForm f s).toNat)))) := by
  obtain ⟨hlo, hhi⟩ := tbCount_mem (s.arch.rdTb f.tb.val)
  show execTbarm f s = _
  simp only [execTbarm, ha, decide_eq_false (Nat.not_le.2 hn), Bool.or_self, Bool.false_eq_true, if_false]
  rw [tbAdd_of_armed (tbArmed_tbMake ..), tbErr_tbMake, tbPhase_tbMake, tbCount_tbMake _ _ _ hlo hhi]

theorem exec_tbexp_of_fit (ha : tbArmed (s.arch.rdTb f.tb.val) = true) (hn : (twoForm f s).toNat < 2 ^ 23) : exec (.tbexp f) s =
    .next (s.setArch (s.arch.wrTb f.tb.val (tbReached (tbErr (s.arch.rdTb f.tb.val)) (tbPhase (s.arch.rdTb f.tb.val))
      (tbCount (s.arch.rdTb f.tb.val) + (twoForm f s).toNat)))) := by
  show execTbexp f s = _
  simp only [execTbexp, ha, decide_eq_false (Nat.not_le.2 hn), Bool.not_true, Bool.or_self, Bool.false_eq_true, if_false,
    tbAdd_of_armed ha]

theorem exec_tbarm_of_unfit (h : tbArmed (s.arch.rdTb f.tb.val) = true ∨ 2 ^ 23 ≤ (twoForm f s).toNat) :
    exec (.tbarm f) s = .next (raise s .trap 0xFF0E 0) := by
  show execTbarm f s = _
  rw [execTbarm, if_pos (by simpa using h), raiseTrap]

theorem exec_tbexp_of_unfit (h : tbArmed (s.arch.rdTb f.tb.val) = false ∨ 2 ^ 23 ≤ (twoForm f s).toNat) :
    exec (.tbexp f) s = .next (raise s .trap 0xFF0E 0) := by
  show execTbexp f s = _
  rw [execTbexp, if_pos (by simpa using h), raiseTrap]

theorem tbwaitMet_iff : tbwaitMet f s = true ↔ f.imm.toNat = b2n (tbPhase (s.arch.rdTb f.tb.val)) := beq_iff_eq.trans eq_comm

theorem exec_xidwt_of_unknown (h : xidUnknown f s = true) : exec (.xidwt f) s = .next (raise s .trap 0xFF0F 0) := by
  show execXidwt f s = _
  rw [execXidwt, if_pos h, raiseTrap]

theorem exec_xidwt_of_known (h : xidUnknown f s = false) : exec (.xidwt f) s = .next s := by
  show execXidwt f s = _
  rw [execXidwt, h]
  rfl

end

/-- Settles O29: tests by their conditions on the bit vectors, TBARM and TBEXP by what a changed count makes of the barrier. -/
theorem counters : Obligations.Counters := by
  unfold Obligations.Counters
  intro f s v n sem b x
  refine ⟨rfl, rfl, fun hr hc => ?semaphore, fun hc => ?unmet, fun i e hi hv => ?count, exec_tbarm_of_unfit, exec_tbexp_of_unfit,
    fun hr hp => ?phase, fun hp => ?otherPhase, fun hr => ?read, fun hx => ?known, fun hx => ?unknown⟩
  case semaphore => exact congrArg Host.Outcome.next ((if_pos (semwtMet_eq.trans hc)).trans (pushScalar_of_room s _ _ hr))
  case unmet => exact congrArg Host.Outcome.next (if_neg (by rw [semwtMet_eq]; exact Bool.not_eq_true _ ▸ hc))
  case count =>
    obtain ⟨rfl, ha, rfl⟩ | ⟨rfl, ha, rfl⟩ := hi
    · exact exec_tbarm_of_fit ha hv
    · exact exec_tbexp_of_fit ha hv
  case phase => exact congrArg Host.Outcome.next ((if_pos (tbwaitMet_iff.2 hp)).trans (pushScalar_of_room s _ _ hr))
  case otherPhase => exact congrArg Host.Outcome.next (if_neg (mt tbwaitMet_iff.1 hp))
  case read => exact congrArg Host.Outcome.next (pushScalar_of_room s _ _ hr)
  case known => exact exec_xidwt_of_known (decide_eq_false (Nat.not_lt.2 hx))
  case unknown => exact exec_xidwt_of_unknown (decide_eq_true hx)

end Sys2Proof.Machine
end

section
/-! SUPPORT. Commands with a transfer ID as they are issued: fit images, and the entry that is withheld. -/
namespace Sys2Proof.Machine

/-- Ranges that are all aligned, in bounds and plain have no flaw. -/
theorem imageFlaw_of_clear {s : State} {l : List (Nat × Nat × Nat)} (h : ∀ r ∈ l, Clear s .act r.1 r.2.1 r.2.2) :
    imageFlaw s l = none := by
  have hnone (g : Nat × Nat × Nat → Option Flaw) (hg : ∀ r ∈ l, g r = none) : lowestFlaw (l.map g) = none :=
    lowestFlaw_of_none fun x hx => by
      obtain ⟨r, hr, rfl⟩ := List.mem_map.1 hx
      exact hg r hr
  rw [imageFlaw, hnone _ fun r hr => if_neg (not_not.2 (h r hr).1), hnone _ fun r hr => (h r hr).2.bound,
    hnone _ fun r hr => (h r hr).2.form]
  rfl

theorem recordRange_clear {s : State} {sc : Fin 64} {n : Nat} (h : RecordFits s sc n) :
    ∀ r ∈ recordRange s sc n, Clear s .act r.1 r.2.1 r.2.2 := by
  intro r hr
  rw [recordRange] at hr
  split_ifs at hr with h0
  · cases hr
  · obtain rfl := List.mem_singleton.1 hr
    exact h.resolve_left h0

/-- A command that takes a transfer ID, where the due queue has room for it. -/
theorem issueWithId_of_room {f : ER} {s : State} (hr : Room s 1) (ht : s.cur.trapped = false) (k : CmdKind) :
    issueWithId f s k = withTransfer s f.ch.val f.sd.val (erFl f 13 11) k := by
  have hr1 : Room (takeId s f.ch.val).2 1 := by
    rw [takeId, Room, State.arch_setArch]
    exact hr
  have hpush := pushResult_of_room _ (.scalar f.sd.val) (takeId s f.ch.val).1.toNat (latency (takeId s f.ch.val).2 0) (ownLatency 0) hr1
  have htrapped : ¬ (takeId s f.ch.val).2.cur.trapped = true := by simpa [takeId] using ht
  simp only [issueWithId, issueTrapped]
  rw [hpush]
  exact if_neg htrapped

theorem kvIssue_of_clear {f : ER} {s : State} (hr : Room s 1) (ht : s.cur.trapped = false) {ranges : List (Nat × Nat × Nat)} {block : Nat}
    (hc : ∀ r ∈ ranges, Clear s .act r.1 r.2.1 r.2.2) (hb : RecordFits s f.sc block) (k : CmdKind) :
    kvIssue f s ranges block k = withTransfer s f.ch.val f.sd.val (erFl f 13 11) k := by
  have hflaw : imageFlaw s (ranges ++ recordRange s f.sc block) = none :=
    imageFlaw_of_clear fun r hmem => (List.mem_append.1 hmem).elim (hc r) (recordRange_clear hb r)
  rw [kvIssue, hflaw]
  exact issueWithId_of_room hr ht k

/-- Settles O32: each command is the shared issue with its own image, block and operands. -/
theorem keyValueCommands : Obligations.KeyValueCommands := by
  unfold Obligations.KeyValueCommands
  intro f s hr ht x y n rec' gives
  have image (i : Instr) {a m align block : Nat} (k : CmdKind) (hi : exec i s = .next (kvIssue f s [(a, m, align)] block k))
      (hc : Clear s .act a m align) : gives i block k := fun hb =>
    hi.trans (congrArg _ (kvIssue_of_clear hr ht (by simpa using hc) hb k))
  have plain (i : Instr) {block : Nat} (k : CmdKind) (hi : exec i s = .next (kvIssue f s [] block k)) : gives i block k := fun hb =>
    hi.trans (congrArg _ (kvIssue_of_clear hr ht (by simp) hb k))
  refine ⟨image _ _ rfl, fun h1 h2 => image _ _ ?append, fun hn => ?count, plain _ _ rfl, plain _ _ rfl, plain _ _ rfl, plain _ _ rfl,
    plain _ _ rfl, plain _ _ rfl⟩
  case append =>
    have hn : ¬ (regNat s f.sb = 0 ∨ 4096 < regNat s f.sb) := not_or.2 ⟨Nat.one_le_iff_ne_zero.1 h1, Nat.not_lt.2 h2⟩
    show execKvapp f s = _
    rw [execKvapp, if_neg (by simpa using hn)]
    rfl
  case count =>
    have hn' : regNat s f.sb = 0 ∨ 4096 < regNat s f.sb := hn
    show execKvapp f s = _
    rw [execKvapp, if_pos (by simpa using hn'), raiseTrap]

end Sys2Proof.Machine
end

section
/-! SUPPORT. What stores, notices and events leave unchanged. -/
namespace Sys2Proof.Machine

/-- The same device but for memory, its errors and the armed injections. -/
def Stores (s t : State) : Prop := ∃ mem errs inject, t = { s with mem := mem, errs := errs, inject := inject }

namespace Stores

theorem refl (s : State) : Stores s s := ⟨_, _, _, rfl⟩

theorem trans {s t u : State} (h : Stores s t) (g : Stores t u) : Stores s u := by
  obtain ⟨_, _, _, rfl⟩ := h
  obtain ⟨_, _, _, rfl⟩ := g
  exact ⟨_, _, _, rfl⟩

theorem foldl {ι : Type} {f : State → ι → State} (h : ∀ t i, Stores t (f t i)) (l : List ι) (s : State) : Stores s (l.foldl f s) :=
  l.foldlRecOn f (refl s) fun t ht i _ => ht.trans (h t i)

theorem put (s : State) (k : Nat) (bs : List Byte) : Stores s (s.put k bs) := by
  have hfire (t : State) (hit : Nat → Bool) : Stores t (fireInjections t hit) := foldl (fun u c => by
    split
    · split
      · exact ⟨_, _, _, rfl⟩
      · exact refl u
    · exact refl u) _ t
  have hwrite : Stores s { s with mem := s.mem.write k bs } := ⟨_, _, _, rfl⟩
  simp only [State.put]
  split
  · exact hwrite
  · refine (hwrite.trans (foldl (fun t l => ?_) _ _)).trans (hfire _ _)
    split
    · exact ⟨_, _, _, rfl⟩
    · exact refl t

theorem ringProduce (s : State) (dk asid : Nat) (entry : List Byte) : Stores s (ringProduce s dk asid entry).1 := by
  rw [ringProduce_eq]
  cases ringSlot s dk asid with
  | none => exact refl s
  | some k => exact (put s k entry).trans (put _ dk _)

/-- A reading of the state that looks at nothing of this is the same. -/
theorem keeps {s t : State} (h : Stores s t) {β : Type} (read : State → β)
    (hread : ∀ mem errs inject, read { s with mem := mem, errs := errs, inject := inject } = read s) : read t = read s := by
  obtain ⟨_, _, _, rfl⟩ := h
  exact hread ..

end Stores

/-- The same device but for what is stored, what the jobs and the host are told, and the free values used. -/
def Reports (s t : State) : Prop := ∃ mem errs inject freeCtr jobs sessions sent, t = { s with
  mem := mem, errs := errs, inject := inject, freeCtr := freeCtr, jobs := jobs, sessions := sessions, sent := sent }

theorem Stores.reports {s t : State} (h : Stores s t) : Reports s t := by
  obtain ⟨_, _, _, rfl⟩ := h
  exact ⟨_, _, _, _, _, _, _, rfl⟩

namespace Reports

theorem refl (s : State) : Reports s s := (Stores.refl s).reports

theorem trans {s t u : State} (h : Reports s t) (g : Reports t u) : Reports s u := by
  obtain ⟨_, _, _, _, _, _, _, rfl⟩ := h
  obtain ⟨_, _, _, _, _, _, _, rfl⟩ := g
  exact ⟨_, _, _, _, _, _, _, rfl⟩

theorem foldl {ι : Type} {f : State → ι → State} (h : ∀ t i, Reports t (f t i)) (l : List ι) (s : State) : Reports s (l.foldl f s) :=
  l.foldlRecOn f (refl s) fun t ht i _ => ht.trans (h t i)

theorem postNotice (s : State) (job kind addr detail : Nat) : Reports s (postNotice s job kind addr detail) := by
  simp only [Machine.postNotice]
  split
  · exact refl s
  · split
    · exact refl s
    · exact (Stores.ringProduce s ..).reports.trans ⟨_, _, _, _, _, _, _, rfl⟩

theorem sessionEntry (s : State) (n : Nat) : Reports s (sessionEntry s n) := by
  simp only [Machine.sessionEntry]
  split
  · exact refl s
  · have hfree : Reports s { s with freeCtr := s.freeCtr + 16 } := ⟨_, _, _, _, _, _, _, rfl⟩
    exact (hfree.trans (Stores.ringProduce _ ..).reports).trans ⟨_, _, _, _, _, _, _, rfl⟩

theorem postEvent (s : State) (opcode : Nat) (job : Option Nat) (payload : List Nat) : Reports s (postEvent s opcode job payload) := by
  have hemit : Reports s (emit s (.event opcode job payload)) := ⟨_, _, _, _, _, _, _, rfl⟩
  refine hemit.trans (foldl (fun t v => ?_) _ _)
  split
  · exact foldl (fun u _ => sessionEntry u v.1) _ t
  · exact refl t

/-- A reading of the state that looks at nothing of this is the same. -/
theorem keeps {s t : State} (h : Reports s t) {β : Type} (read : State → β)
    (hread : ∀ mem errs inject freeCtr jobs sessions sent, read { s with
      mem := mem, errs := errs, inject := inject, freeCtr := freeCtr, jobs := jobs, sessions := sessions, sent := sent } = read s) :
    read t = read s := by
  obtain ⟨_, _, _, _, _, _, _, rfl⟩ := h
  exact hread ..

end Reports

end Sys2Proof.Machine
end

section
/-! SUPPORT. Key-value commands as their channel performs them, on handles that pass their check. -/
namespace Sys2Proof.Machine

theorem Stores.raiseAll (s : State) (l : List Nat) : Stores s (raiseAll s l) := Stores.foldl (fun t _ => Stores.put t _ _) l s

theorem tenantDesc_raiseCmd (s : State) (core : Nat) (c : Cmd) (l : List Nat) (t : Nat) :
    tenantDesc (raiseCmd s core c l).1 t = tenantDesc s t :=
  (Stores.raiseAll s l).keeps (tenantDesc · t) fun _ _ _ => rfl

/-- No drive of those that answer is asked for anything. -/
theorem liveAsks_nil (s : State) : liveAsks s [] = [] := rfl

section
variable {s : State} {core : Nat} {c : Cmd}

theorem kvOn_of_checked {h sc : Nat} (hg : granted s c.job (hdTenant h) = true) (hc : check s h true = some stOk)
    (f : State → Nat → Nat → State × Nat × Nat) {r : State × Nat × Nat}
    (hf : f (raiseCmd s core c [h]).1 (tenantDesc s (hdTenant h)) (hdSlot h) = r) :
    kvOn s core c h sc f = kvBlock r.1 core (raiseCmd s core c [h]).2 sc r.2.1 r.2.2 0 [] := by
  simp [kvOn, hg, hc, hf]

/-- KVREJ without drives, its handle in flight and not revoked, restores what was above `keep`. -/
theorem kvrejGo_of_no_drive {h keep : Nat} (ha : rejectAsks s h keep = []) (hr : handleRevoked s h = false) (sc : Nat) :
    kvrejGo s core c h keep sc = kvBlock (rejectAbove s (tenantDesc s (hdTenant h)) (hdSlot h) keep) core c sc stOk 0 0 [] := by
  simp [kvrejGo, kvrejRun, ha, liveAsks_nil, hr]

/-- The single entry of a KVAPP that has not begun, whose handle passes its check and whose pages stand in no drive. -/
theorem kvappGo_of_one {ents sc k : Nat} {spec : Bool} (hs : c.prog = Prog.start)
    (hg : granted s c.job (hdTenant (fld ents 63 0)) = true) (hc : check s (fld ents 63 0) true = some stOk)
    {y : State × Cmd} (hy : raiseCmd s core c [fld ents 63 0] = y) (ha : appendAsks y.1 (fld ents 63 0) k = [])
    {r : State × Nat} (hr : appendOne y.1 (engOf y.1 core y.2) (fld ents 63 0) (fld ents 127 64) k spec (deadDrives y.1) = r) :
    kvappGo s core c ents 1 sc k spec none = kvappEnd r.1 core y.2 sc [r.2] := by
  have hents : kvappEntries ents 1 = [(fld ents 63 0, fld ents 127 64)] := rfl
  simp [kvappGo, hents, hg, hs, Prog.start, kvappFrom, hc, hy, ha, liveAsks_nil, hr]

theorem kvappEnd_of_one {sc res : Nat} : kvappEnd s core c sc [res] =
    setDone (writeAct s core sc (leBytes 16 (statusRecord c.id.toNat 0 0 stOk (if res = rGranted then 1 else 0)) ++ [BitVec.ofNat 8 res]))
      core c stOk 0 0 (if res = rGranted then 1 else 0) := by
  have hlen : ([res].filter (· == rGranted)).length = if res = rGranted then 1 else 0 := by
    by_cases h : res = rGranted <;> simp [h]
  simp only [kvappEnd, hlen, List.map_cons, List.map_nil]

end

/-! The rows, for a command that may be performed and has not been. -/

section
variable {core seq : Nat} {s : State} {c : Cmd} (hf : findCmd s core seq = some c) (hm : mayPerform s core c = true)
  (hp : c.performed = false)
include hf hm hp

theorem exec_kvrejPerform_of_checked {h keep : Word} {sc : Nat} (hk : c.kind = .kvrej h keep sc) (hd : c.atDrive = false)
    (hfl : c.flight = []) (hg : granted s c.job (hdTenant h.toNat) = true) (hc : check s h.toNat true = some stOk) :
    exec (.kvrejPerform core seq) s = .next (kvrejGo (raiseCmd s core c [h.toNat]).1 core (raiseCmd s core c [h.toNat]).2
      h.toNat keep.toNat sc) := by
  show execKvrejPerform core seq s = _
  simp [execKvrejPerform, hf, hk, hm, hp, hd, hfl, hg, hc]

theorem exec_kvcommitPerform_of_found {h : Word} {sc : Nat} (hk : c.kind = .kvcommit h sc) : exec (.kvcommitPerform core seq) s =
    .next (kvOn s core c h.toNat sc (fun s d slot => (commitHandle s d slot, stOk, 0))) := by
  show execKvcommitPerform core seq s = _
  simp [execKvcommitPerform, hf, hk, hm, hp]

theorem exec_kvfreePerform_of_found {h : Word} {sc : Nat} (hk : c.kind = .kvfree h sc) : exec (.kvfreePerform core seq) s =
    .next (kvOn s core c h.toNat sc (fun s d slot => freeHandle s (hdTenant h.toNat) d slot)) := by
  show execKvfreePerform core seq s = _
  simp [execKvfreePerform, hf, hk, hm, hp]

theorem exec_kvappPerform_of_found {ents n sc k : Nat} {spec : Bool} (hk : c.kind = .kvapp ents n sc k spec) (hd : c.atDrive = false) :
    exec (.kvappPerform core seq) s = .next (kvappGo s core c ents n sc k spec none) := by
  show execKvappPerform core seq s = _
  simp [execKvappPerform, hf, hk, hm, hp, hd]

/-- GZCLAIM of a new handle without a digest. -/
theorem exec_gzclaimPerform_of_new {a : Word} {sc own : Nat} {s1 : State} (hk : c.kind = .gzclaim a 0 sc true)
    (hz : fld a.toNat 63 28 = 0) (hg : granted s c.job (fld a.toNat 27 16) = true) (hw : (fld a.toNat 15 0).testBit 14 = true)
    (hl : fld (fld a.toNat 15 0) 13 0 < tdMaxPages (tenantDesc s (fld a.toNat 27 16)))
    (hn : newHandle s (fld a.toNat 27 16) (fld a.toNat 15 0) = (s1, some own)) : exec (.gzclaimPerform core seq) s =
      .next (kvBlock s1 core c sc stOk 0 0 (gzArea s1 (tenantDesc s (fld a.toNat 27 16)) own 0 none)) := by
  show execGzclaimPerform core seq s = _
  simp [execGzclaimPerform, hf, hk, hm, hp, hz, hg, hw, Nat.not_le.2 hl, hn]

/-- GZCLAIM of a digest for a handle. -/
theorem exec_gzclaimPerform_of_digest {h dg : Word} {sc : Nat} (hk : c.kind = .gzclaim h dg sc false) (hz : dg ≠ 0)
    (hg : granted s c.job (hdTenant h.toNat) = true) (hc : check s h.toNat true = some stOk) {r : State × Nat × Option Nat}
    (hr : claimDigest (raiseCmd s core c [h.toNat]).1 (tenantDesc s (hdTenant h.toNat)) h.toNat dg.toNat = r) :
    exec (.gzclaimPerform core seq) s = .next (kvBlock r.1 core (raiseCmd s core c [h.toNat]).2 sc stOk 0 0
      (gzArea r.1 (tenantDesc s (hdTenant h.toNat)) h.toNat r.2.1 r.2.2)) := by
  have hdg : dg.toNat ≠ 0 := fun h0 => hz (BitVec.eq_of_toNat_eq h0)
  show execGzclaimPerform core seq s = _
  simp [execGzclaimPerform, hf, hk, hm, hp, hg, hc, hdg, hr]

theorem exec_gzfindPerform_of_granted {a dg : Word} {sc : Nat} (hk : c.kind = .gzfind a dg sc) (ha : a.toNat < 4096)
    (hg : granted s c.job a.toNat = true) {b : Option Nat} (hb : (probe s (tenantDesc s a.toNat) dg.toNat).1 = b) :
    exec (.gzfindPerform core seq) s =
      .next (kvBlock s core c sc stOk 0 0 (gzArea s (tenantDesc s a.toNat) 0 (if b.isSome then 2 else 0) b)) := by
  show execGzfindPerform core seq s = _
  simp [execGzfindPerform, hf, hk, hm, hp, Nat.not_le.2 ha, hg, hb]

section
variable {a b : Word} {sc k : Nat} (hk : c.kind = .gzjoin a b sc) (hfl : c.flight = [])
  (hga : granted s c.job (hdTenant a.toNat) = true) (hgb : granted s c.job (hdTenant b.toNat) = true)
  (hca : check s a.toNat true = some stOk) (hcb : check s b.toNat false = some stOk)
  (hz : heGz (readEntry s (tenantDesc s (hdTenant b.toNat)) (hdSlot b.toNat)) = true)
  (hb : bucketOfSlot s (tenantDesc s (hdTenant b.toNat)) (hdSlot b.toNat) = some k)
include hk hfl hga hgb hca hcb hz hb

/-- GZJOIN of a PENDING bucket waits, both handles in flight. -/
theorem exec_gzjoinPerform_of_pending (hs : bkState (readBucket s (tenantDesc s (hdTenant b.toNat)) k) = 1) :
    exec (.gzjoinPerform core seq) s = .next (setCmd (raiseCmd s core c [a.toNat, b.toNat]).1 core
      { (raiseCmd s core c [a.toNat, b.toNat]).2 with phase := .claimed 0 0 }) := by
  show execGzjoinPerform core seq s = _
  simp [execGzjoinPerform, hf, hk, hm, hp, hfl, hga, hgb, hca, hcb, stOk, hz, hb, hs]

omit hga in
theorem exec_gzjoinPerform_of_ready (hs : bkState (readBucket s (tenantDesc s (hdTenant b.toNat)) k) ≠ 1)
    (ht : hdTenant a.toNat = hdTenant b.toNat) {r : State × Nat}
    (hj : joinPrefix (raiseCmd s core c [a.toNat, b.toNat]).1 (tenantDesc s (hdTenant b.toNat)) (hdSlot a.toNat) (hdSlot b.toNat)
      (bkReady (readBucket s (tenantDesc s (hdTenant b.toNat)) k)) = r) :
    exec (.gzjoinPerform core seq) s = .next (kvBlock r.1 core (raiseCmd s core c [a.toNat, b.toNat]).2 sc r.2 0 0 []) := by
  show execGzjoinPerform core seq s = _
  simp [execGzjoinPerform, hf, hk, hm, hp, hfl, hgb, hca, hcb, stOk, hz, hb, hs, ht, hj]

end

end

section
variable {tenant slot : Nat} {s : State} {d : BitVec 512} (ht : Tab.get none s.tenants tenant = some d) (hp : s.power = .on)
  (hs : slot < 2 ^ tdTableLog2 d.toNat)
include ht hp hs

theorem exec_handleEnd_of_retired (h2 : heState (readEntry s d.toNat slot) = 2) (h0 : heFlight (readEntry s d.toNat slot) = 0) :
    exec (.handleEnd tenant slot) s = .next (endHandle s d.toNat slot) := by
  show execHandleEnd tenant slot s = _
  simp [execHandleEnd, ht, hp, Nat.not_le.2 hs, h2, h0]

theorem exec_handleEnd_of_revoked (h3 : heState (readEntry s d.toNat slot) = 3) :
    exec (.handleEnd tenant slot) s = .next (endRevoked s tenant d.toNat) := by
  show execHandleEnd tenant slot s = _
  simp [execHandleEnd, ht, hp, Nat.not_le.2 hs, h3]

end

/-- Settles O37: each command by its row's lemma; a handle that is raised to flight leaves its tenant's descriptor. -/
theorem keyValuePerforms : Obligations.KeyValuePerforms := by
  unfold Obligations.KeyValuePerforms
  refine ⟨fun core seq s c hf hm hp => ?commands,
    fun tenant slot s d ht hp hs => ⟨exec_handleEnd_of_retired ht hp hs, exec_handleEnd_of_revoked ht hp hs⟩⟩
  intro ok desc
  refine ⟨fun h keep sc hk hd hfl hok => ?reject, fun h sc hk hok => ?commit, fun h sc hk hok => ?free,
    fun ents sc k spec hk hd hs => ?append, fun a sc own s1 hk => ?new, fun h dg sc hk hz hok => ?digest, fun a dg sc hk ha hg => ?find,
    fun a b sc k hk hfl hoka hokb hz hb => ?join⟩
  case reject =>
    intro x ha hr
    rw [exec_kvrejPerform_of_checked hf hm hp hk hd hfl hok.1 hok.2, kvrejGo_of_no_drive ha hr, tenantDesc_raiseCmd]
  case commit => exact (exec_kvcommitPerform_of_found hf hm hp hk).trans (congrArg _ (kvOn_of_checked hok.1 hok.2 _ rfl))
  case free => exact (exec_kvfreePerform_of_found hf hm hp hk).trans (congrArg _ (kvOn_of_checked hok.1 hok.2 _ rfl))
  case append =>
    intro h y hok ha a g
    rw [exec_kvappPerform_of_found hf hm hp hk hd, kvappGo_of_one hs hok.1 hok.2 rfl ha rfl, kvappEnd_of_one]
    rfl
  case new => exact fun hz hg hw hl hn => exec_gzclaimPerform_of_new hf hm hp hk hz hg hw hl hn
  case digest => exact exec_gzclaimPerform_of_digest hf hm hp hk hz hok.1 hok.2 rfl
  case find => exact exec_gzfindPerform_of_granted hf hm hp hk ha hg rfl
  case join =>
    exact ⟨exec_gzjoinPerform_of_pending hf hm hp hk hfl hoka.1 hokb.1 hoka.2 hokb.2 hz hb,
      fun hs ht => exec_gzjoinPerform_of_ready hf hm hp hk hfl hokb.1 hoka.2 hokb.2 hz hb hs ht rfl⟩

end Sys2Proof.Machine
end

section
/-! SUPPORT. Page operations of a ring: the packet's handle goes in flight, and its pages move. -/
namespace Sys2Proof.Machine

/-- The packets of a ring once the handles of one of them are in flight. -/
theorem findRing_raisePkt_pkts (s : State) (r : RingRef) (index : Nat) (l : List Nat) : (findRing (raisePkt s r index l) r).pkts =
    (findRing s r).pkts.map (fun q => if q.index.toNat = index then { q with flight := q.flight ++ l } else q) := by
  have hset := findRing_setRing (raiseAll s l) { findRing s r with
    pkts := (findRing s r).pkts.map (fun q => if q.index.toNat = index then { q with flight := q.flight ++ l } else q) }
  rw [findRing_r] at hset
  rw [raisePkt, hset]

/-- A packet whose handles go in flight stands where it stood. -/
theorem pktProg_raisePkt (s : State) (r : RingRef) (index : Nat) (l : List Nat) : pktProg (raisePkt s r index l) r index = pktProg s r index := by
  have hfind : findPkt (raisePkt s r index l) r index =
      (findPkt s r index).map (fun q => if q.index.toNat = index then { q with flight := q.flight ++ l } else q) := by
    rw [findPkt, findPkt, findRing_raisePkt_pkts, List.find?_map]
    congr 2
    funext q
    by_cases hq : q.index.toNat = index <;> simp [hq, Pkt.open]
  rw [pktProg, pktProg, hfind]
  cases findPkt s r index with
  | none => rfl
  | some q => by_cases hq : q.index.toNat = index <;> simp [hq, Pkt.prog]

section
variable {s : State} {e : Eng} {r : RingRef} {index p : Nat}

theorem runPacket_of_page (ht : pkType p = 9) : runPacket s e r index p = runKv s e r index p := by simp only [runPacket, ht]

/-- A page operation that goes on has its handle in flight first. -/
theorem runKv_of_go {q : Pkt} (hq : findPkt s r index = some q) (hfl : q.flight = []) (hg : kvBegin s r.job p false = .go) :
    runKv s e r index p = kvGoPkt (raisePkt s r index [kvHandle p]) e r index p := by
  simp [runKv, hq, hfl, hg]

theorem kvGoPkt_of_no_drive (ha : kvAsks s p = []) : kvGoPkt s e r index p =
    kvSettle s r index p (kvRun s e p (pktProg s r index) (kvTotal p) (deadDrives s)) 0x7FF := by
  simp [kvGoPkt, ha, liveAsks_nil]

theorem kvSettle_of_not_refused {m : Mv} (h : m.refused = false) (code : Nat) : kvSettle s r index p m code =
    finishPacket (mvNotice m r.job (index % 2 ^ 60)) r index p (mvStatus m).1 (mvStatus m).2
      (if m.stop = some (stLink, 0x21) then code else 0) m.bytes := by
  simp [kvSettle, h]

end

/-- Settles O42: a ready packet has its effect, and that of a page operation is `kvRun` from the start. -/
theorem pagePackets : Obligations.PagePackets := by
  unfold Obligations.PagePackets
  intro r index s d p h ht i u t m hg ha hm x hx
  obtain ⟨-, hf, -⟩ := id h
  obtain ⟨ours, hrow, ho⟩ : ∃ ours : Nat → Bool, exec x s = .next (packetStep ours r i s) ∧ ours p = true := by
    rcases hx with ⟨rfl, hop⟩ | ⟨rfl, hop⟩ | ⟨rfl, hop⟩ | ⟨rfl, hop⟩ <;> exact ⟨_, rfl, by simp [ht, hop]⟩
  have hstart : pktProg t r i = Prog.start := (pktProg_raisePkt u r i _).trans (pktProg_takePacket hf p)
  rw [hrow, packetStep_of_ready h ho, runPacket_of_page ht, runKv_of_go (findPkt_takePacket hf p) rfl hg, kvGoPkt_of_no_drive ha, hstart,
    kvSettle_of_not_refused hm]

end Sys2Proof.Machine
end

section
/-! SUPPORT. Sessions and TDIs: what a request is tested for, the request ring, the states of a TDI. -/
namespace Sys2Proof.Machine

/-! What a requester and a TDI stand at. -/

/-- For which jobs each session is frozen, and each job's descriptor and TDI state. -/
def State.standing (s : State) : (Nat → List Nat) × (Nat → Option (BitVec 512 × Tdi)) :=
  (fun n => (s.session n).frozen, fun j => (s.job j).map (fun v => (v.desc, v.tdi)))

theorem standing_of_tables {s t : State} (hs : t.sessions = s.sessions) (hj : t.jobs = s.jobs) : t.standing = s.standing := by
  simp only [State.standing, State.session, State.job, hs, hj]

theorem put_standing (s : State) (k : Nat) (bs : List Byte) : (s.put k bs).standing = s.standing :=
  (Stores.put s k bs).keeps State.standing fun _ _ _ => standing_of_tables rfl rfl

theorem setJob_standing {s : State} {j : Nat} {v : Job} (h : s.standing.2 j = some (v.desc, v.tdi)) :
    (s.setJob j (some v)).standing = s.standing := by
  refine Prod.ext rfl (funext fun i => ?_)
  by_cases hi : i = j
  · subst hi
    rw [h]
    simp only [State.standing, State.job_setJob_same, Option.map_some]
  · simp only [State.standing, State.job_setJob_other s _ hi]

theorem session_setSession_other (s : State) {n i : Nat} (v : Session) (h : i ≠ n) : (s.setSession n v).session i = s.session i :=
  Tab.get_set_other _ _ h v

theorem setSession_standing {s : State} {n : Nat} {v : Session} (h : s.standing.1 n = v.frozen) :
    (s.setSession n v).standing = s.standing := by
  refine Prod.ext (funext fun i => ?_) rfl
  by_cases hi : i = n
  · subst hi
    rw [h]
    simp only [State.standing, State.session_setSession_same]
  · simp only [State.standing, session_setSession_other s _ hi]

theorem ringProduce_standing (s : State) (dk asid : Nat) (entry : List Byte) : (ringProduce s dk asid entry).1.standing = s.standing :=
  (Stores.ringProduce s dk asid entry).keeps State.standing fun _ _ _ => standing_of_tables rfl rfl

theorem standing_job {s : State} {job : Nat} {j : Job} (hj : s.job job = some j) : s.standing.2 job = some (j.desc, j.tdi) :=
  congrArg (Option.map _) hj

theorem postNotice_standing (s : State) (job kind addr detail : Nat) : (postNotice s job kind addr detail).standing = s.standing := by
  simp only [postNotice]
  split
  · rfl
  next j hj =>
    split
    · rfl
    next x _ =>
      have hr := ringProduce_standing s x.addr (fld j.desc.toNat 490 475) (leBytes 32 (setFld (setFld (setFld (setFld (setFld 0 255 240 kind)
        239 224 job) 223 192 j.noteSeq.toNat) 191 128 addr) 127 64 detail + b2n j.noteOv))
      refine (setJob_standing ?_).trans hr
      rw [hr, standing_job hj]
      split <;> rfl

theorem sessionEntry_standing (s : State) (n : Nat) : (sessionEntry s n).standing = s.standing := by
  simp only [sessionEntry]
  split
  · rfl
  · refine (setSession_standing ?_).trans (ringProduce_standing { s with freeCtr := s.freeCtr + 16 } ..)
    rw [ringProduce_standing]
    rfl

theorem emitEvent_standing (s : State) (opcode : Nat) (job : Option Nat) (payload : List Nat) :
    (emitEvent s opcode job payload).standing = s.standing := by
  refine foldl_keeps State.standing (fun t v => ?_) _ (emit s (.event opcode job payload))
  split
  · exact foldl_keeps State.standing (fun u _ => sessionEntry_standing u v.1) _ t
  · rfl

theorem reply_standing (s : State) (m : Msg) (result : Nat) (payload : List Byte) : (reply s m result payload).standing = s.standing :=
  foldl_keeps State.standing (fun t _ => sessionEntry_standing (emit t _) _) _ s

/-! Errors that the device meets leave it. -/

theorem chargeError_standing (s : State) (k cls : Nat) : (chargeError s k cls).standing = s.standing := by
  have hcore (t : State) (cl i n : Nat) : (chargeCore t cl i n).standing = t.standing := by
    rw [chargeCore]
    split <;> exact standing_of_tables rfl rfl
  have htrim (t : State) (cl i : Nat) (hard : Bool) : (trimError t cl i hard).standing = t.standing := by
    simp only [trimError]
    split_ifs <;> exact standing_of_tables rfl rfl
  simp only [chargeError]
  split_ifs
  · exact standing_of_tables rfl rfl
  all_goals simp only [htrim, hcore]

theorem logError_standing (s : State) (arr : Nat) (record : ErrLog → Nat) : (logError s arr record).standing = s.standing := by
  simp only [logError]
  split
  · rfl
  · split
    · exact ringProduce_standing s ..
    · refine (postNotice_standing ..).trans ?_
      exact ringProduce_standing s ..

theorem reportError_standing (s : State) (k cls storedTag accessTag : Nat) (who : Consumer) :
    (reportError s k cls storedTag accessTag who).standing = s.standing :=
  (chargeError_standing ..).trans (logError_standing (fresh s).2 ..)

theorem weightLost_standing (s : State) (l : Nat) : (weightLost s l).standing = s.standing := by
  simp only [weightLost]
  split
  · exact standing_of_tables rfl rfl
  · exact emitEvent_standing (s.poisonAt l) ..

theorem copyReadErr_standing (s : State) (l : Nat) (tag : Option Nat) (w : Consumer) : (copyReadErr s l tag w).1.standing = s.standing := by
  simp only [copyReadErr]
  split_ifs
  · rfl
  · exact reportError_standing ..
  · exact reportError_standing ..
  · exact (weightLost_standing ..).trans (reportError_standing ..)
  · exact reportError_standing ..

theorem copyReadLocs_standing (s : State) (ls : List Nat) (tag : Option Nat) (w : Consumer) :
    (copyReadLocs s ls tag w).1.standing = s.standing :=
  foldl_keeps (fun p : State × Bool × Bool => p.1.standing) (fun p l => by
    have hone := copyReadErr_standing p.1 l tag w
    revert hone
    rcases copyReadErr p.1 l tag w with ⟨s1, _ | c⟩ <;> exact id) ls (s, false, false)

theorem meet_standing (s : State) (k n : Nat) (tag : Option Nat) (w : Consumer) : (meet s k n tag w).standing = s.standing := by
  rw [meet, copyReadErrs]
  split
  · rfl
  · exact copyReadLocs_standing ..

theorem meetWalk_standing (s : State) (job asid va : Nat) : (meetWalk s job asid va).standing = s.standing := by
  rw [meetWalk]
  split
  · rfl
  · exact foldl_keeps State.standing (fun t a => meet_standing t a ..) _ s

theorem devMeet_standing (s : State) (job : Nat) (ctx : Option Nat) (va n : Nat) : (devMeet s job ctx va n).standing = s.standing := by
  rw [devMeet]
  split
  · rfl
  · refine foldl_keeps State.standing (fun t p => ?_) _ s
    simp only
    split
    · exact (meet_standing ..).trans (meetWalk_standing ..)
    · exact meetWalk_standing ..

theorem mergeErrs_standing (s : State) (k n : Nat) (tag : Option Nat) (w : Consumer) : (mergeErrs s k n tag w).1.standing = s.standing := by
  simp only [mergeErrs]
  split
  · rfl
  · exact copyReadLocs_standing ..

theorem devMerge_standing (s : State) (job : Nat) (ctx : Option Nat) (va n : Nat) : (devMerge s job ctx va n).1.standing = s.standing := by
  rw [devMerge]
  split
  · rfl
  · refine foldl_keeps (fun p : State × Bool => p.1.standing) (fun p q => ?_) _ (s, false)
    simp only
    split
    · exact mergeErrs_standing ..
    · rfl

/-- A store of the device's own, for no context. -/
theorem devStore_standing (s : State) (job va : Nat) (bs : List Byte) : (devStore s job none va bs).1.standing = s.standing := by
  simp only [devStore]
  split
  · rfl
  · split
    · exact devMerge_standing ..
    · refine (foldl_keeps State.standing (fun t q => ?_) _ _).trans (devMerge_standing ..)
      split
      · exact put_standing t ..
      · rfl

theorem writeRecord_standing (s : State) (job va r : Nat) : (writeRecord s job va r).standing = s.standing := by
  have hstore := (devStore_standing (devMeet s job none va 64) job va (leBytes 64 r)).trans (devMeet_standing s job none va 64)
  simp only [writeRecord, devWrite]
  split
  · exact (postNotice_standing ..).trans hstore
  · exact hstore

/-! A TDI enters ERROR (R412). -/

theorem dequeueUnit_standing (s : State) (job va : Nat) : (dequeueUnit s job va).standing = s.standing :=
  foldl_keeps State.standing (fun t c => by simp only; split <;> exact standing_of_tables rfl rfl) _ s

theorem freezeCtx_standing (s : State) (core x : Nat) : (freezeCtx s core x).standing = s.standing := by
  simp only [freezeCtx]
  split
  · rfl
  · refine (postNotice_standing ..).trans ?_
    split
    · exact writeRecord_standing ..
    · rfl

theorem withdrawUnit_standing (s : State) (job va : Nat) : (withdrawUnit s job va).1.standing = s.standing := by
  have hd := dequeueUnit_standing s job va
  delta withdrawUnit
  generalize dequeueUnit s job va = t at hd ⊢
  dsimp only
  split
  · split
    · exact (standing_of_tables rfl rfl).trans hd
    · exact hd
  · exact hd

theorem freezeUnit_standing (s : State) (job va : Nat) (place : Option (Nat × Nat)) : (freezeUnit s job va place).standing = s.standing := by
  have hw := withdrawUnit_standing s job va
  simp only [freezeUnit]
  split
  · split
    · split
      next j hj => exact (writeRecord_standing ..).trans ((setJob_standing (by rw [standing_job hj])).trans hw)
      · rfl
    · rfl
  · rfl

theorem freezeJob_standing (s : State) (job : Nat) : (freezeJob s job).standing = s.standing := by
  have hat (t : State) (core x : Nat) : (freezeAt t job core x).standing = t.standing := by
    simp only [freezeAt]
    split
    · exact freezeCtx_standing ..
    · rfl
  have hcores (l : List (Nat × Core)) (t : State) :
      (l.foldl (fun t k => freezeAt (freezeAt t job k.1 0) job k.1 1) t).standing = t.standing :=
    foldl_keeps State.standing (fun t k => by rw [hat, hat]) l t
  rw [freezeJob, foldl_keeps State.standing (fun t va => freezeUnit_standing t job va none),
    foldl_keeps State.standing (fun t c => by dsimp only; split <;> exact standing_of_tables rfl rfl), hcores]

theorem tdiOf_eq (s : State) (job : Nat) :
    tdiOf s job = (s.standing.2 job).bind (fun q => if fld q.1.toNat 492 492 == 1 then some q.2 else none) := by
  cases hj : s.job job with
  | none => simp only [tdiOf, State.standing, hj, Option.map_none, Option.bind_none]
  | some j => simp only [tdiOf, confJob, jobField, State.standing, hj, Option.map_some, Option.bind_some]

theorem tdiOf_of_standing {s t : State} (h : t.standing = s.standing) (job : Nat) : tdiOf t job = tdiOf s job := by
  rw [tdiOf_eq, tdiOf_eq, h]

/-- A confidential job's TDI enters ERROR, and no session is frozen by it. -/
theorem tdiError_tdiOf {s : State} {job : Nat} (h : tdiOf s job ≠ none) :
    tdiOf (tdiError s job) job = some .error ∧ (tdiError s job).standing.1 = s.standing.1 := by
  cases hj : s.job job with
  | none => exact absurd (by simp only [tdiOf, hj]) h
  | some j =>
    have hconf : confJob s job = true := by
      by_contra hc
      exact h (by simp only [tdiOf, hj, hc, if_false, Bool.false_eq_true])
    by_cases he : j.tdi = .error
    · simp only [tdiError, hj, hconf, he, tdiOf, ne_eq, not_true_eq_false, decide_false, Bool.and_false, Bool.false_eq_true, if_false,
        if_true, and_self]
    · have hfrozen : (tdiError s job).standing = (s.setJob job (some { j with tdi := .error, frozen := true })).standing := by
        simp only [tdiError, hj, hconf, ne_eq, he, not_false_eq_true, decide_true, Bool.and_true, if_true, freezeJob_standing]
      refine ⟨?_, (congrArg Prod.fst hfrozen).trans rfl⟩
      have hbit : (fld j.desc.toNat 492 492 == 1) = true := by simpa only [confJob, jobField, hj] using hconf
      rw [tdiOf_eq, hfrozen, standing_job (State.job_setJob_same ..)]
      simp only [Option.bind_some, hbit, if_true]

/-! Replies (R407, R408). -/

theorem echoOf_length (m : Msg) (r : Nat) : (echoOf m r).length = 32 := leBytes_length ..

theorem chainOf_of_short {bs : List Byte} (h : bs.length ≤ msgRoom) : chainOf bs = [(false, bs)] := by
  have hone : max 1 ((bs.length + msgRoom - 1) / msgRoom) = 1 := by
    unfold msgRoom at *
    omega
  simp [chainOf, hone, List.take_of_length_le h]

/-- The last thing sent after an answer is the reply. -/
theorem answer_sent (s : State) (m : Msg) (r : Nat) : (answer s m r).sent = s.sent ++
    [.reply m.session (BitVec.ofNat 256 (headerOf 0x8000 m.tag m.job r 32 false)) (echoOf m r)] := by
  rw [answer, reply, List.append_nil, chainOf_of_short (by rw [echoOf_length]; decide), List.foldl_cons, List.foldl_nil, replyPart, echoOf_length]
  exact (State.outward_eq_iff.1 (sessionEntry_outward ..)).1

/-! What is looked at before a request is performed (R408, R409, R412, R413). -/

section
variable {s : State} {m : Msg} (hp : s.power = .on) (hu : (s.session m.session).up = true)
include hp hu

theorem request_of_refused {k : ReqKind} {r : Nat} (h : notPerformed s m k = some r) (f : State → State) : request s m k f = answer s m r := by
  simp [request, hp, hu, h]

theorem request_of_violation {k : ReqKind} (hn : notPerformed s m k = none) (hk : k.config = true)
    (ht : tdiOf s m.job = some .locked ∨ tdiOf s m.job = some .run) (f : State → State) : request s m k f = configViolation s m := by
  rcases ht with ht | ht <;> simp [request, hp, hu, hn, hk, ht]

end

section
variable {s : State} {m : Msg} {k : ReqKind} (hl : s.lastSheetLost = false)
include hl

theorem notPerformed_of_reserved (hr : m.resv ≠ 0) : notPerformed s m k = some rField := by simp [notPerformed, hl, hr]

theorem notPerformed_of_right (hr : m.resv = 0) {j : Nat} (hj : (s.session m.session).job = some j) (h : k.admin = true ∨ j ≠ m.job) :
    notPerformed s m k = some rDenied := by
  rcases h with h | h <;> simp [notPerformed, hl, hr, hj, h]

/-- A session that has the right to a request that is not marked A. -/
theorem notPerformed_of_allowed (hr : m.resv = 0) (hj : (s.session m.session).job = none ∨ (s.session m.session).job = some m.job)
    (ha : k.admin = false) : notPerformed s m k = if (s.session m.session).frozen.contains m.job && !k.pass then some rDenied
      else if (k.config || k.debug) && tdiOf s m.job == some .error then some rState else none := by
  rcases hj with hj | hj <;> simp [notPerformed, hl, hr, hj, ha]

end

/-- A configuration message while the TDI is locked or runs (R413): the requester is frozen for the job, its TDI enters ERROR, and the
answer is DENIED. -/
theorem configViolation_standing {s : State} {m : Msg} (ht : tdiOf s m.job ≠ none) :
    (((configViolation s m).session m.session).frozen.contains m.job = true) ∧ tdiOf (configViolation s m) m.job = some .error := by
  have hsame := fun t : State => reply_standing t m rDenied []
  have hjob (v : Session) : tdiOf (postNotice (s.setSession m.session v) m.job nkFrozen 0 0) m.job ≠ none := by
    rwa [tdiOf_of_standing (postNotice_standing ..), tdiOf_eq, show (s.setSession m.session v).standing.2 = s.standing.2 from rfl, ← tdiOf_eq]
  simp only [configViolation]
  obtain ⟨herr, hfrozen⟩ := tdiError_tdiOf (hjob _)
  refine ⟨?_, (tdiOf_of_standing (hsame _) _).trans herr⟩
  show ((answer _ m rDenied).standing.1 m.session).contains m.job = true
  rw [answer, hsame, hfrozen, postNotice_standing]
  simp only [State.standing, State.session_setSession_same]
  split
  · assumption
  · simp

/-- Settles O43: what a request is tested for decides its answer before its own effect is looked at. -/
theorem requestOrder : Obligations.RequestOrder := by
  unfold Obligations.RequestOrder
  intro s m hp hu hl v turned
  have refused (k : ReqKind) {r : Nat} (h : notPerformed s m k = some r) (f : State → State) : Host.Outcome.next (request s m k f) = turned r :=
    congrArg _ (request_of_refused hp hu h f)
  refine ⟨fun hr => refused plainReq (notPerformed_of_reserved hl hr) _, fun hr j hj => ⟨?removed, fun hne => ?other⟩,
    fun hr hj => ⟨fun hz => ?frozen, fun hz a => ⟨fun ht => ?error, fun ht => ?violation⟩⟩⟩
  case removed => exact refused jobAdminReq (notPerformed_of_right hl hr hj (.inl rfl)) _
  case other => exact refused plainReq (notPerformed_of_right hl hr hj (.inr hne)) _
  case frozen =>
    refine refused plainReq ?_ _
    rw [notPerformed_of_allowed hl hr hj rfl, hz]
    rfl
  case error =>
    have hstate (k : ReqKind) (ha : k.admin = false) (hk : (k.config || k.debug) = true) : notPerformed s m k = some rState := by
      rw [notPerformed_of_allowed hl hr hj ha, hz, hk, ht]
      rfl
    exact ⟨refused configReq (hstate configReq rfl rfl) _, fun core x => refused debugReq (hstate debugReq rfl rfl) _⟩
  case violation =>
    have hnone : notPerformed s m configReq = none := by
      rw [notPerformed_of_allowed hl hr hj rfl, hz]
      rcases ht with ht | ht <;> rw [ht] <;> rfl
    have hsome : tdiOf s m.job ≠ none := by rcases ht with ht | ht <;> simp [ht]
    obtain ⟨hfrozen, herr⟩ := configViolation_standing hsome
    have hlast : (configViolation s m).sent.getLast? =
        some (.reply m.session (BitVec.ofNat 256 (headerOf 0x8000 m.tag m.job rDenied 32 false)) (echoOf m rDenied)) := by
      simp only [configViolation, answer_sent, List.getLast?_concat]
    exact ⟨_, congrArg Host.Outcome.next (request_of_violation hp hu hnone rfl ht _), hfrozen, herr, hlast⟩

/-! Sessions (R406, R411). -/

theorem exec_spdmSessionEstablish_of_room {s : State} {n job : Nat} (hh : hubHears s = true) (hn : n < 16) (hu : (s.session n).up = false)
    (hl : s.powerLost = false) (hj : n = 0 ∨ (s.job job).isSome = true) (req ev : Word) : exec (.spdmSessionEstablish n job req ev) s =
      .next (s.setSession n { Session.none with up := true, job := if n = 0 then none else some job, req := req, ev := ev }) := by
  have hroom : sessionsFull s = false := List.all_eq_false.2 ⟨n, List.mem_range.2 hn, by simp [hu]⟩
  have hbound : (decide (n ≠ 0) && (s.job job).isNone) = false := by
    rcases hj with rfl | hj
    · rfl
    · cases hjob : s.job job <;> simp_all
  show execSpdmSessionEstablish n job req ev s = _
  simp only [execSpdmSessionEstablish, hh, hroom, hbound, hu, decide_eq_false (Nat.not_le.2 hn)]
  simp [hl]

theorem exec_spdmSessionEstablish_of_full {s : State} (hh : hubHears s = true) (hf : ∀ i, i < 16 → (s.session i).up = true)
    (n job : Nat) (req ev : Word) : exec (.spdmSessionEstablish n job req ev) s = .next (emit s (.noSession rRoom)) := by
  have hfull : sessionsFull s = true := List.all_eq_true.2 fun i hi => hf i (List.mem_range.1 hi)
  show execSpdmSessionEstablish n job req ev s = _
  simp only [execSpdmSessionEstablish, hh, hfull, Bool.and_self, if_true]

/-! The request ring (R404, R407, R408). -/

theorem Stores.passSlot (s : State) (k : Nat) : Stores s (passSlot s k) := Stores.put s k _

section
variable {s : State} {n : Nat} (hh : hubHears s = true) (hu : (s.session n).up = true)
include hh hu

theorem exec_doorbell_of_none (hs : nextSlot s (s.session n).req = none) (value : Nat) :
    exec (.doorbell n value) s = .next (s.setSession n { s.session n with rung := false }) := by
  show execDoorbell n value s = _
  simp [execDoorbell, hh, hu, hs]

variable {k slot : Nat} (hs : nextSlot s (s.session n).req = some (k, slot)) {u : State}
  (hu' : u = s.setSession n { s.session n with rung := true })
include hs hu'

theorem exec_doorbell_of_pending (hp : stopPending u n = true) (value : Nat) : exec (.doorbell n value) s = .next u := by
  subst hu'
  have hp' : stopPending s n = true := hp
  show execDoorbell n value s = _
  simp [execDoorbell, hh, hu, hs, hp']

/-- The next slot is read and passed. -/
theorem exec_doorbell_of_slot (hp : stopPending u n = false) (value : Nat) :
    exec (.doorbell n value) s = .next (takeMessage (passSlot u k) n (u.bytes slot 4096)) := by
  subst hu'
  have hp' : stopPending s n = false := hp
  show execDoorbell n value s = _
  simp [execDoorbell, hh, hu, hs, hp']

end

theorem takeMessage_of_forged {n : Nat} {bs : List Byte} (h : Config.openMessage n bs = none) (s : State) :
    takeMessage s n bs = s.setSession n Session.none := by
  simp only [takeMessage, h]

/-- The session without the chain of a tag, and what comes in its place. -/
def Session.rechained (v : Session) (tag : Nat) (l : List (Nat × Bool × List Byte)) : Session :=
  { v with chains := v.chains.filter (·.1 != tag) ++ l }

section
variable {s : State} {n : Nat} {bs data : List Byte} {h : BitVec 256} (ho : Config.openMessage n bs = some (h, data))
  (hc : ∀ c ∈ (s.session n).chains, c.1 ≠ fld h.toNat 239 224)
include ho hc

omit ho in
theorem no_chain_of_tag : (s.session n).chains.find? (·.1 == fld h.toNat 239 224) = none := by
  simpa using hc

theorem takeMessage_of_part (hm : h.getLsbD 199 = true) : takeMessage s n bs = s.setSession n ((s.session n).rechained (fld h.toNat 239 224)
    [(fld h.toNat 239 224, messageBad h.toNat, data.take (fld h.toNat 191 160))]) := by
  simp [takeMessage, ho, no_chain_of_tag hc, hm, Session.rechained]

theorem takeMessage_of_whole (hm : h.getLsbD 199 = false) : takeMessage s n bs =
    takeRequest (s.setSession n ((s.session n).rechained (fld h.toNat 239 224) [])) h (msgOf n h.toNat false)
      (data.take (fld h.toNat 191 160)) := by
  simp only [takeMessage, ho, no_chain_of_tag hc, hm, Session.rechained, Option.map_none, Option.getD_none, List.nil_append,
    List.append_nil, Bool.false_eq_true, if_false]

end

section
variable {s : State} {h : BitVec 256} {m : Msg} {payload : List Byte}

theorem takeRequest_of_request {i : Instr} (hr : Config.requestOf m.session h payload = some i) (hi : requestHead i = some (m.opcode, m)) :
    takeRequest s h m payload = { s with agenda := i :: s.agenda } := by
  simp [takeRequest, hr, Option.filter, hi]

theorem takeRequest_of_none (hr : Config.requestOf m.session h payload = none) (hl : s.lastSheetLost = false) :
    takeRequest s h m payload = answer s m rField := by
  simp [takeRequest, hr, hl]

end

/-! TDI (R412, R427). -/

section
variable {s : State} {m : Msg} {j : Job} (h : Heard s m plainReq) (hj : s.job m.job = some j)
include h hj

theorem exec_lockInterface_of_heard : exec (.lockInterface m) s = .next
    (if tdiOf s m.job = some .unlocked then answer (s.setJob m.job (some { j with tdi := .locked })) m rOk else answer s m rState) := by
  show execLockInterface m s = _
  simp only [execLockInterface, request_of_heard h, withJob_of_job hj]

theorem exec_startInterface_of_heard : exec (.startInterface m) s = .next
    (if tdiOf s m.job = some .locked then answer (queuesDue (s.setJob m.job (some { j with tdi := .run })) m.job) m rOk
     else answer s m rState) := by
  show execStartInterface m s = _
  simp only [execStartInterface, request_of_heard h, withJob_of_job hj]

theorem exec_stopInterface_of_heard : exec (.stopInterface m) s = .next
    (if (tdiOf s m.job).isNone then answer s m rState
     else if j.saving then s.setJob m.job (some { j with stopAsks := j.stopAsks ++ [(m.session, m.tag)] })
     else answer (stopInterface s m.job) m rOk) := by
  show execStopInterface m s = _
  simp only [execStopInterface, request_of_heard h, withJob_of_job hj]

end

theorem stopInterface_of_job {s : State} {job : Nat} {k : Job} (hk : (scrubJob (removeUnits s job) job (jobRanges s job)).job job = some k) :
    stopInterface s job = (scrubJob (removeUnits s job) job (jobRanges s job)).setJob job (some
      { k with tdi := .unlocked, frozen := false, key := none, frozenUnits := [], stopAsks := [] }) := by
  simp only [stopInterface, hk]

theorem exec_ideStreamFailure_of_on {s : State} (hp : s.power = .on) (job : Nat) : exec (.ideStreamFailure job) s = .next (tdiError s job) := by
  show execIdeStreamFailure job s = _
  simp [execIdeStreamFailure, hp]

theorem hubHears_of_on {s : State} (hp : s.power = .on) (hh : s.hostPort = true) : hubHears s = true := by
  simp [hubHears, hp, hh]

/-- Settles O48: sessions by their rows, the doorbell by the message in the next slot, a TDI by the state it stands in. -/
theorem sessionsAndInterfaces : Obligations.SessionsAndInterfaces := by
  unfold Obligations.SessionsAndInterfaces
  refine ⟨fun s n job req ev hp hh => ⟨fun hn hu hl hj => ?room, fun hf => ?full⟩, fun s n value hp hh hl hu => ?doorbell,
    fun s off value => rfl, fun s m j h hj => ?tdi, fun s job hp ht => ?stream⟩
  case room => exact exec_spdmSessionEstablish_of_room (hubHears_of_on hp hh) hn hu hl hj req ev
  case full => exact exec_spdmSessionEstablish_of_full (hubHears_of_on hp hh) hf n job req ev
  case doorbell =>
    intro v u
    have hears := hubHears_of_on hp hh
    refine ⟨fun hs => exec_doorbell_of_none hears hu hs value, fun k slot hs => ⟨fun hq => exec_doorbell_of_pending hears hu hs rfl hq value,
      fun hq => ?_⟩⟩
    intro w
    have hslot : exec (.doorbell n value) s = .next (takeMessage w n (u.bytes slot 4096)) := exec_doorbell_of_slot hears hu hs rfl hq value
    refine ⟨fun ho => hslot.trans (congrArg _ (takeMessage_of_forged ho w)), fun h data ho => ?_⟩
    intro tag body m x hc
    have hw : w.session n = { v with rung := true } :=
      ((Stores.passSlot u k).keeps (·.session n) fun _ _ _ => rfl).trans (State.session_setSession_same ..)
    have hagenda : w.agenda = s.agenda := (Stores.passSlot u k).keeps State.agenda fun _ _ _ => rfl
    have hlost : w.lastSheetLost = false := ((Stores.passSlot u k).keeps State.lastSheetLost fun _ _ _ => rfl).trans hl
    have hc' : ∀ c ∈ (w.session n).chains, c.1 ≠ tag := by rwa [hw]
    have hx (l : List (Nat × Bool × List Byte)) : w.setSession n ((w.session n).rechained tag l) = x l := by rw [hw]; rfl
    refine ⟨fun hm => ?part, fun hm i hr hi => ?request, fun hm hr => ?none⟩
    case part => rw [hslot, takeMessage_of_part ho hc' hm, hx]
    case request => rw [hslot, takeMessage_of_whole ho hc' hm, hx, takeRequest_of_request hr hi, ← hagenda]; rfl
    case none =>
      have hlost' : (x []).lastSheetLost = false := hlost
      rw [hslot, takeMessage_of_whole ho hc' hm, hx, takeRequest_of_none hr hlost']
  case tdi =>
    refine ⟨fun ht => ?_, fun ht => ?_, fun ht => ?_, fun ht => ?_, fun ht => ?_, fun ht => ⟨fun hs => ?_, fun hs => ?stop⟩⟩
    · rw [exec_lockInterface_of_heard h hj, if_pos ht]; rfl
    · rw [exec_lockInterface_of_heard h hj, if_neg ht]
    · rw [exec_startInterface_of_heard h hj, if_pos ht]; rfl
    · rw [exec_startInterface_of_heard h hj, if_neg ht]
    · rw [exec_stopInterface_of_heard h hj, if_pos (by rw [ht]; rfl)]
    · rw [exec_stopInterface_of_heard h hj, if_neg (by simpa using ht), if_pos hs]
    case stop =>
      intro t k hk
      rw [exec_stopInterface_of_heard h hj, if_neg (by simpa using ht), if_neg (by simp [hs]), stopInterface_of_job hk]; rfl
  case stream => exact ⟨_, exec_ideStreamFailure_of_on hp job, (tdiError_tdiOf ht).1⟩

end Sys2Proof.Machine
end

section
/-! SUPPORT. Migration (R417, R418) and the safe tier (R420, R427), row by row. -/
namespace Sys2Proof.Machine

/-! Requests about a job that exists. -/

section
variable {s : State} {m : Msg} {j : Job} (h : Heard s m plainReq) (hj : s.job m.job = some j)
include h hj

section
variable (hm : j.migrating = false) (hs : j.saving = false)
include hm hs

theorem exec_migrateOut_of_tdi (hn : tdiOf s m.job ≠ none) (he : tdiOf s m.job ≠ some .error) : exec (.migrateOut m) s =
    .next (sendBundle (answer (stopJob ((makeKey s).1.setJob m.job
      (some { j with migrating := true, migKey := some (makeKey s).2, bundleSent := false })) m.job) m rAccepted) m.job) := by
  show execMigrateOut m s = _
  simp [execMigrateOut, request_of_heard h, withJob_of_job hj, hm, hs, hn, he]

omit hm hs in
theorem exec_migrateOut_of_no_tdi (ht : tdiOf s m.job = none ∨ tdiOf s m.job = some .error) :
    exec (.migrateOut m) s = .next (answer s m rState) := by
  show execMigrateOut m s = _
  rcases ht with ht | ht <;> simp [execMigrateOut, request_of_heard h, withJob_of_job hj, ht]

variable (hz : j.frozen = false)
include hz

theorem exec_safeCheckpoint_of_free : exec (.safeCheckpoint m) s =
    .next (answer (stopJob (s.setJob m.job (some { j with saving := true })) m.job) m rAccepted) := by
  show execSafeCheckpoint m s = _
  simp [execSafeCheckpoint, request_of_heard h, withJob_of_job hj, hm, hs, hz]

theorem exec_safeRestore_of_stopped (hst : jobStopped s m.job = true) {i : SafeImage} (hi : Tab.get none s.safe m.job = some i) :
    exec (.safeRestore m) s = .next (answer (pauseJob (s.setJob m.job (some { j with saving := true })) m.job) m rAccepted) := by
  show execSafeRestore m s = _
  simp [execSafeRestore, request_of_heard h, withJob_of_job hj, hm, hs, hz, hst, hi]

end

theorem exec_migrateConfirm_of_moved (hm : j.moved = true) : exec (.migrateConfirm m true) s =
    performed (postEvent (s.setJob m.job (some { j with moved := false })) 0x8009 (some m.job) [m.job, 0]) m := by
  show execMigrateConfirm m true s = _
  simp [execMigrateConfirm, request_of_heard h, hj, hm, performed]

theorem exec_migrateConfirm_of_not_moved (hm : j.moved = false) (restart : Bool) :
    exec (.migrateConfirm m restart) s = .next (answer s m rState) := by
  show execMigrateConfirm m restart s = _
  simp [execMigrateConfirm, request_of_heard h, hj, hm]

end

/-! At the destination, where the job does not exist yet. -/

section
variable {s : State} {m : Msg} (h : Heard s m plainReq) (hn : s.job m.job = none)
include h hn

theorem exec_migrateIn_of_intact {b : SealedBundle} (hd : jobDescOk b.inner.desc.toNat m.job = true) : exec (.migrateIn m b true) s =
    performed { (wrapKey s b.key).1 with migIn := Tab.set none (wrapKey s b.key).1.migIn m.job (some ⟨(wrapKey s b.key).2, b⟩) } m := by
  show execMigrateIn m b true s = _
  simp [execMigrateIn, request_of_heard h, hn, hd, performed]

theorem exec_migrateIn_of_broken (b : SealedBundle) : exec (.migrateIn m b false) s = .next (answer s m rDenied) := by
  show execMigrateIn m b false s = _
  simp [execMigrateIn, request_of_heard h, hn]

variable {b : HeldBundle} (hb : Tab.get none s.migIn m.job = some b)
include hb

theorem exec_migrateConfirm_of_no_restart : exec (.migrateConfirm m false) s = .next (answer s m rState) := by
  show execMigrateConfirm m false s = _
  simp [execMigrateConfirm, request_of_heard h, hn, confirmIn, hb]

/-- The job runs again once its pages have found their places. -/
theorem exec_migrateConfirm_of_restart {c : MigBundle} (ho : openBundle b = some c) {t : State} (hw : writePages (s.setJob m.job
      (some { freshJob c.desc (some ⟨c.key, c.salt, c.keyId, c.counter⟩) with pool := c.pool, tdi := .run })) m.job c.pages = some t) :
    exec (.migrateConfirm m true) s =
      performed (requeueJob (releaseUnits { t with migIn := Tab.set none t.migIn m.job none } m.job) m.job) m := by
  have hr : restartJob s m.job c =
      some (requeueJob (releaseUnits { t with migIn := Tab.set none t.migIn m.job none } m.job) m.job) := by
    rw [restartJob, hw]
    rfl
  show execMigrateConfirm m true s = _
  simp [execMigrateConfirm, request_of_heard h, hn, confirmIn, hb, ho, hr, performed]

end

/-! The device's own steps. -/

section
variable {s : State} {job : Nat} {j : Job} (hp : s.power = .on) (hj : s.job job = some j)
include hp hj

section
variable (hm : j.migrating = true)
include hm

theorem exec_migrationAck_of_rejected (hb : j.bundleSent = true) : exec (.migrationAck job false) s =
    .next (postEvent (s.setJob job (some { j with bundleSent := false, migKey := none })) 0x8009 (some job) [job, 1]) := by
  show execMigrationAck job false s = _
  simp [execMigrationAck, hj, hp, hm, hb]

/-- The source keeps the descriptor and the windows of the job, and neither key nor pool. -/
theorem exec_migrationAck_of_accepted (hb : j.bundleSent = true) : exec (.migrationAck job true) s =
    .next ((dropReservations (scrubPages s job) job).setJob job
      (some { freshJob j.desc none with windows := j.windows, paused := true, moved := true })) := by
  show execMigrationAck job true s = _
  simp [execMigrationAck, hj, hp, hm, hb]

omit hp hm in
theorem exec_migrationAck_of_not_sent (hb : j.bundleSent = false) (ok : Bool) : exec (.migrationAck job ok) s = .next s := by
  show execMigrationAck job ok s = _
  simp [execMigrationAck, hj, hb]

end

section
variable (hs : j.saving = true) (hst : jobStopped s job = true)
include hs hst

theorem exec_checkpointDone_of_written {i : State × SafeImage} (hi : saveImage s job j = i) : exec (.checkpointDone job true) s =
    .next (stopAfter (postEvent (endSaving { i.1 with safe := Tab.set none i.1.safe job (some i.2) } job) 0x800D (some job)
      ([job] ++ extentWords i.2.extents ++ [stOk])) job) := by
  show execCheckpointDone job true s = _
  simp [execCheckpointDone, hj, hp, hs, hst, hi]

theorem exec_checkpointDone_of_lost : exec (.checkpointDone job false) s =
    .next (stopAfter (postEvent (endSaving s job) 0x800D (some job) [job, stLink]) job) := by
  show execCheckpointDone job false s = _
  simp [execCheckpointDone, hj, hp, hs, hst]

theorem exec_restoreDone_of_read {i : SafeImage} {b : ImageBody} {t : State} (hi : Tab.get none s.safe job = some i)
    (ho : openImage i = some b) (ht : restoreImage s job j b = some t) : exec (.restoreDone job) s =
      .next (stopAfter (postEvent (requeueJob (endSaving t job) job) 0x800E (some job) ([job] ++ extentWords i.extents ++ [stOk])) job) := by
  show execRestoreDone job s = _
  simp [execRestoreDone, hj, hi, hp, hs, hst, ho, ht]

end

end

/-- Settles O49: each row's guards hold by the premises, and what is left is its effect. -/
theorem migrationAndSafeTier : Obligations.MigrationAndSafeTier := by
  unfold Obligations.MigrationAndSafeTier
  refine ⟨fun s m h => ⟨fun j hj hm hs => ⟨exec_migrateOut_of_tdi h hj hm hs, exec_migrateOut_of_no_tdi h hj,
      exec_safeCheckpoint_of_free h hj hm hs, fun i hz hst hi => exec_safeRestore_of_stopped h hj hm hs hz hst hi⟩,
    fun hn b => ⟨exec_migrateIn_of_intact h hn, exec_migrateIn_of_broken h hn b, fun held hb =>
      ⟨exec_migrateConfirm_of_no_restart h hn hb, fun c ho => ?restart⟩⟩,
    fun j hj => ⟨exec_migrateConfirm_of_moved h hj, fun hm restart => exec_migrateConfirm_of_not_moved h hj hm restart⟩⟩,
    fun s job j hp hj => ⟨fun hm hb => ⟨exec_migrationAck_of_rejected hp hj hm hb, ?accepted⟩,
      fun _ hb ok => exec_migrationAck_of_not_sent hj hb ok, fun hs hst => ?saved⟩⟩
  case restart => exact fun t hw => exec_migrateConfirm_of_restart h hn hb ho hw
  case accepted => exact ⟨_, _, exec_migrationAck_of_accepted hp hj hm hb, State.job_setJob_same .., rfl, rfl, rfl, rfl⟩
  case saved =>
    intro i done
    exact ⟨exec_checkpointDone_of_written hp hj hs hst rfl, exec_checkpointDone_of_lost hp hj hs hst,
      fun i b t hi ho ht => exec_restoreDone_of_read hp hj hs hst hi ho ht⟩

end Sys2Proof.Machine
end

section
/-! SUPPORT. The Surveyor: what a retirement records, leases and their ends, sheets, scores that halve. -/
namespace Sys2Proof.Machine

/-! What a retirement writes (R310 to R313). -/

/-- The same device but for the retirement table, the clusters, and what is stored and told. -/
def Recorded (s t : State) : Prop := ∃ mem errs inject freeCtr jobs sessions sent die0 die2 ret clusters, t = { s with
  mem := mem, errs := errs, inject := inject, freeCtr := freeCtr, jobs := jobs, sessions := sessions, sent := sent
  die0 := die0, die2 := die2, ret := ret, clusters := clusters }

theorem Reports.recorded {s t : State} (h : Reports s t) : Recorded s t := by
  obtain ⟨_, _, _, _, _, _, _, rfl⟩ := h
  exact ⟨_, _, _, _, _, _, _, _, _, _, _, rfl⟩

namespace Recorded

theorem refl (s : State) : Recorded s s := (Reports.refl s).recorded

theorem trans {s t u : State} (h : Recorded s t) (g : Recorded t u) : Recorded s u := by
  obtain ⟨_, _, _, _, _, _, _, _, _, _, _, rfl⟩ := h
  obtain ⟨_, _, _, _, _, _, _, _, _, _, _, rfl⟩ := g
  exact ⟨_, _, _, _, _, _, _, _, _, _, _, rfl⟩

theorem writeRetRec (s : State) (type : Nat) (b : RetBody) : Recorded s (writeRetRec s type b) :=
  ⟨_, _, _, _, _, _, _, _, _, _, _, rfl⟩

theorem setReplacement (s : State) (v : Bool) (carried : Option Nat) : Recorded s (setReplacement s v carried) := by
  rw [Machine.setReplacement]
  split
  · exact refl s
  · refine List.foldlRecOn _ _ ⟨_, _, _, _, _, _, _, _, _, _, _, rfl⟩ fun t ht c _ => ht.trans ?_
    split
    · exact refl t
    · exact ⟨_, _, _, _, _, _, _, _, _, _, _, rfl⟩

theorem checkFloors (s : State) (b : RetBody) (carried : Option Nat) : Recorded s (checkFloors s b carried) := by
  rw [Machine.checkFloors]
  split
  · exact refl s
  · exact ((setReplacement s true carried).trans (writeRetRec _ 4 b)).trans (Reports.postEvent ..).recorded

/-- A reading of the state that looks at nothing of this is the same. -/
theorem keeps {s t : State} (h : Recorded s t) {β : Type} (read : State → β)
    (hread : ∀ mem errs inject freeCtr jobs sessions sent die0 die2 ret clusters, read { s with
      mem := mem, errs := errs, inject := inject, freeCtr := freeCtr, jobs := jobs, sessions := sessions, sent := sent
      die0 := die0, die2 := die2, ret := ret, clusters := clusters } = read s) : read t = read s := by
  obtain ⟨_, _, _, _, _, _, _, _, _, _, _, rfl⟩ := h
  exact hread ..

end Recorded

/-- A record of a retirement, and what the floors then ask for. -/
theorem recorded_retirement (s : State) (b : RetBody) (carried : Option Nat) : Recorded s (checkFloors (writeRetRec s 3 b) b carried) :=
  (Recorded.writeRetRec s 3 b).trans (Recorded.checkFloors _ b carried)

theorem belowFloor_of_sheets {s : State} (h : 2 ≤ s.sheets.retired.length) : belowFloor s = true := by
  simp [belowFloor, h]

section
variable {s : State} (h : belowFloor s = true) (b : RetBody)
include h

/-- Below a floor the replacement bit is set. -/
theorem checkFloors_replacement : (checkFloors s b none).ret.replacement = true := by
  rw [checkFloors]
  split
  next hset => simpa [h] using hset
  · refine ((Reports.postEvent ..).keeps (·.ret.replacement) fun _ _ _ _ _ _ _ => rfl).trans ?_
    show (setReplacement s true none).ret.replacement = true
    rw [(setReplacement_counts s true).1]

/-- Where the bit was not set, DEGRADED is the last thing sent. -/
theorem checkFloors_sent (hr : s.ret.replacement = false) : ∃ l, (checkFloors s b none).sent.getLast? = some (.event 0x800C none l) := by
  rw [checkFloors, if_neg (by simp [hr, h]), postDegraded, postEvent_sent]
  exact ⟨_, List.getLast?_concat⟩

end

/-! Leases (R380). -/

section
variable {s : State} (hp : s.power = .on) {c : Comp}
include hp

theorem exec_surveyLease_of_core {cl x : Nat} (hs : surveyable s (.core cl x) = true) :
    exec (.surveyLease (.core cl x)) s = .next (leaseCore s cl x) := by
  show execSurveyLease (.core cl x) s = _
  simp [execSurveyLease, hp, hs]

theorem exec_surveyLease_of_segment {sh d : Nat} (hs : surveyable s (.segment sh d) = true) : exec (.surveyLease (.segment sh d)) s =
    .next (leaseOther (beginRehash s (s.sheets.live.filter (· != sh))) (.segment sh d)) := by
  show execSurveyLease (.segment sh d) s = _
  simp [execSurveyLease, hp, hs]

theorem exec_surveyLease_of_window {ch w : Nat} (hs : surveyable s (.window ch w) = true) : exec (.surveyLease (.window ch w)) s =
    .next (leaseOther s (.window ch w)) := by
  show execSurveyLease (.window ch w) s = _
  simp [execSurveyLease, hp, hs]

theorem exec_surveyLease_of_link {l : Nat} (hs : surveyable s (.link l) = true) : exec (.surveyLease (.link l)) s =
    .next (leaseOther s (.link l)) := by
  show execSurveyLease (.link l) s = _
  simp [execSurveyLease, hp, hs]

variable (hc : s.leases.contains c = true)
include hc

theorem exec_surveyPass_of_core {cl x : Nat} (hk : c = .core cl x) (hw : (s.cluster cl).work = none) (n : Nat) :
    exec (.surveyPass c n) s = .next (surveyEnded (passCore s cl x n)) := by
  subst hk
  show execSurveyPass _ n s = _
  rw [execSurveyPass, if_neg (by simpa [hp] using hc)]
  simp [hw]

theorem exec_surveyPass_of_segment {sh d : Nat} (hk : c = .segment sh d) (hb : s.sheets.busy = false) (n : Nat) :
    exec (.surveyPass c n) s = .next (surveyEnded (beginRehash (dropLease s c) (withSheet s.sheets.live sh))) := by
  subst hk
  show execSurveyPass _ n s = _
  rw [execSurveyPass, if_neg (by simpa [hp] using hc)]
  simp [hb]

theorem exec_surveyPass_of_other (hk : (∃ ch w, c = .window ch w) ∨ (∃ l, c = .link l)) (n : Nat) :
    exec (.surveyPass c n) s = .next (surveyEnded (dropLease s c)) := by
  have hguard : ¬ (decide (s.power ≠ .on) || !s.leases.contains c) = true := by simpa [hp] using hc
  obtain ⟨ch, w, rfl⟩ | ⟨l, rfl⟩ := hk <;> exact congrArg Host.Outcome.next (if_neg hguard)

/-! Mismatches (R380 step 7, R381). -/

theorem surveyMismatch_allowed : ¬ (decide (s.power ≠ .on) || !(s.leases.contains c || ((0 : Nat) == 1 && retirable s c)) || !mayRetire s c 0) = true := by
  simp only [hp, hc, mayRetire]
  simp

theorem exec_surveyMismatch_of_core {cl x : Nat} (hk : c = .core cl x) (hw : (s.cluster cl).work = none) : exec (.surveyMismatch c 0) s =
    .next (surveyEnded (retireCore (chargeScore (settleCore s cl x true) (68 * cl + x) 16384) cl x 0)) := by
  subst hk
  show execSurveyMismatch _ 0 s = _
  rw [execSurveyMismatch, if_neg (surveyMismatch_allowed hp hc)]
  simp [hw]

/-- A component that is no core and, where it is a segment, no rehash is under way. -/
theorem exec_surveyMismatch_of_other (hk : ∀ cl x, c ≠ .core cl x) (hb : ∀ sh d, c = .segment sh d → s.sheets.busy = false) :
    exec (.surveyMismatch c 0) s = .next (surveyEnded (retireOther (chargeScore s (scoreIndex c) 16384) c 0)) := by
  have hguard := surveyMismatch_allowed hp hc
  cases c with
  | core cl x => exact absurd rfl (hk cl x)
  | window ch w => exact congrArg Host.Outcome.next (if_neg hguard)
  | link l => exact congrArg Host.Outcome.next (if_neg hguard)
  | segment sh d =>
    refine congrArg Host.Outcome.next ((if_neg hguard).trans (congrArg surveyEnded (if_neg ?_)))
    rw [hb sh d rfl]
    decide

end

section
variable {s : State} {cl x : Nat} (hr : (s.cluster cl).retired.getLsbD x = false)
include hr

theorem leaseCore_of_resting (hi : inRun s cl = false) : leaseCore s cl x = leaseLater (surveyWake s cl) (68 * cl + x) := by
  simp [leaseCore, hr, hi]

variable (hi : inRun s cl = true) (hl : (s.core (68 * cl + x)).leased = false)
include hi hl

theorem leaseCore_of_stopped (h0 : stoppedFor (beginCoreLease s (68 * cl + x)) (68 * cl + x) 0 = true)
    (h1 : stoppedFor (beginCoreLease s (68 * cl + x)) (68 * cl + x) 1 = true) : leaseCore s cl x =
      capacityChange (noted { beginCoreLease s (68 * cl + x) with leases := (beginCoreLease s (68 * cl + x)).leases ++ [.core cl x] }
        [68 * cl + x, 1088 + (68 * cl + x)]) cl (fun k => { k with leased := k.leased + 1 }) := by
  simp [leaseCore, hr, hi, hl, h0, h1]

theorem leaseCore_of_running (h0 : stoppedFor (beginCoreLease s (68 * cl + x)) (68 * cl + x) 0 = false) :
    leaseCore s cl x = leaseLater (beginCoreLease s (68 * cl + x)) (68 * cl + x) := by
  simp [leaseCore, hr, hi, hl, h0]

end

/-- What the end of a survey may open is the host port alone. -/
theorem surveyEnded_keeps (s : State) {β : Type} (read : State → β)
    (h : read { s with surveyFirst := false, hostPort := true } = read s) : read (surveyEnded s) = read s := by
  rw [surveyEnded]
  split
  · exact h
  · rfl

/-! Scores (R362 to R364). -/

theorem setScore_score (s : State) (i v j : Nat) : (s.setScore i v).score j = if j = i then v % 65536 else s.score j := by
  by_cases hj : j = i
  · subst hj
    rw [if_pos rfl]
    exact congrArg BitVec.toNat (Tab.get_set_same ..)
  · rw [if_neg hj]
    exact congrArg BitVec.toNat (Tab.get_set_other _ _ hj _)

theorem chargeScore_score (s : State) (i n : Nat) : (chargeScore s i n).score i = min 65535 (s.score i + n) := by
  rw [chargeScore, setScore_score, if_pos rfl, Nat.mod_eq_of_lt (by omega)]

theorem nodup_eraseDups (l : List Nat) : l.eraseDups.Nodup := by
  induction hn : l.length using Nat.strong_induction_on generalizing l with
  | _ n ih =>
    cases l with
    | nil => exact List.nodup_nil
    | cons a l =>
      have hlt : (l.filter (fun b => !b == a)).length < n := hn ▸ Nat.lt_succ_of_le (List.length_filter_le ..)
      rw [List.eraseDups_cons, List.nodup_cons]
      exact ⟨by simp, ih _ hlt _ rfl⟩

/-- A score of a clock's domain halves where its clock runs, as `s` says. -/
def halved (s : State) (domain : Nat) (t : State) (i : Nat) : State :=
  if scoreDomain i = domain && clockRuns s i then t.setScore i (t.score i / 2) else t

theorem halved_score (s : State) (domain : Nat) (t : State) (i j : Nat) : (halved s domain t i).score j =
    if j = i ∧ scoreDomain j = domain ∧ clockRuns s j = true then t.score j / 2 else t.score j := by
  have hlt : t.score i / 2 < 65536 := lt_of_le_of_lt (Nat.div_le_self _ 2) (BitVec.isLt _)
  rw [halved]
  by_cases hj : j = i
  · subst hj
    by_cases hd : scoreDomain j = domain <;> by_cases hr : clockRuns s j = true <;>
      simp [hd, hr, setScore_score, Nat.mod_eq_of_lt hlt]
  · split <;> simp [setScore_score, hj]

/-- Of scores named once each, those that the domain's clock counts for halve. -/
theorem foldl_halved_score (s : State) (domain : Nat) {l : List Nat} (hl : l.Nodup) (t : State) (j : Nat) :
    (l.foldl (halved s domain) t).score j =
      if j ∈ l ∧ scoreDomain j = domain ∧ clockRuns s j = true then t.score j / 2 else t.score j := by
  induction l generalizing t with
  | nil => simp
  | cons i l ih =>
    obtain ⟨hi, hl⟩ := List.nodup_cons.1 hl
    rw [List.foldl_cons, ih hl, halved_score]
    by_cases hj : j = i
    · subst hj
      simp [hi]
    · simp [hj]

theorem score_of_not_listed {s : State} {j : Nat} (h : j ∉ s.scores.map (·.1)) : s.score j = 0 := by
  have hnot : s.scores.any (fun c => c.1 == j) = false := by
    simp only [List.any_eq_false, beq_iff_eq]
    exact fun c hc hcj => h (List.mem_map.2 ⟨c, hc, hcj⟩)
  rw [State.score, Tab.get_of_not_any 0 s.scores j hnot]
  rfl

theorem exec_scoreHalving_of_on {s : State} (hp : s.power = .on) (domain : Nat) : exec (.scoreHalving domain) s =
    .next (((s.scores.map (·.1)).eraseDups).foldl (halved s domain) s) := by
  show execScoreHalving domain s = _
  rw [execScoreHalving, if_neg (by simp [hp])]
  rfl

/-! Sheets (R382). -/

theorem recorded_retireSheet (s : State) (c : Comp) (sh reason : Nat) :
    Recorded { s with sheets := { s.sheets with retired := s.sheets.retired ++ [sh] } } (retireSheet s c sh reason) :=
  recorded_retirement ..

/-- Without the lease on any of its segments. -/
def dropSheet (s : State) (sh : Nat) : State :=
  { s with leases := s.leases.filter (fun c => match c with | .segment k _ => k != sh | _ => true) }

/-- A sheet that fails while no rehash is under way begins one, and is retired. -/
def sheetGone (s : State) (sh : Nat) : State :=
  retireSheet (beginRehash (dropSheet s sh) (s.sheets.live.filter (· != sh))) (.segment sh 0) sh 0

theorem recorded_sheetGone (s : State) (sh : Nat) : Recorded { dropSheet s sh with
    sheets := ⟨s.sheets.live, s.sheets.live.filter (· != sh), true, s.sheets.retired ++ [sh]⟩ } (sheetGone s sh) := recorded_retireSheet ..

theorem sheetGone_sheets (s : State) (sh : Nat) : (sheetGone s sh).sheets =
    ⟨s.sheets.live, s.sheets.live.filter (· != sh), true, s.sheets.retired ++ [sh]⟩ :=
  (recorded_sheetGone s sh).keeps State.sheets fun _ _ _ _ _ _ _ _ _ _ _ => rfl

theorem sheetGone_power (s : State) (sh : Nat) : (sheetGone s sh).power = s.power :=
  (recorded_sheetGone s sh).keeps State.power fun _ _ _ _ _ _ _ _ _ _ _ => rfl

/-- The device without its last sheet. -/
def lastSheetGone (s : State) (sh : Nat) : State := { sheetGone s sh with
  lastSheetLost := true, power := .hold, sheets := { (sheetGone s sh).sheets with live := [], next := [], busy := false } }

section
variable {s : State} {sh : Nat} (hp : s.power = .on) (hsh : sh < 4) (hr : s.sheets.retired.contains sh = false)
  (hb : s.sheets.busy = false)
include hp hsh hr hb

theorem exec_sheetFailure_of_idle : exec (.sheetFailure sh) s = .next (if (sheetGone s sh).sheets.retired.length < 4 then sheetGone s sh
    else if s.ret.replacement then postDegraded (lastSheetGone s sh) else lastSheetGone s sh) := by
  have hguard : ¬ (decide (s.power ≠ .on) || decide (4 ≤ sh) || s.sheets.retired.contains sh) = true := by
    rw [hp, hr, decide_eq_false (Nat.not_le.2 hsh)]
    decide
  show execSheetFailure sh s = _
  simp only [execSheetFailure, if_neg hguard, hb]
  rfl

theorem exec_sheetFailure_of_more (hn : s.sheets.retired.length < 3) : exec (.sheetFailure sh) s = .next (sheetGone s sh) := by
  rw [exec_sheetFailure_of_idle hp hsh hr hb, if_pos (by simp [sheetGone_sheets]; omega)]

theorem exec_sheetFailure_of_last (hn : s.sheets.retired.length = 3) : exec (.sheetFailure sh) s =
    .next (if s.ret.replacement then postDegraded (lastSheetGone s sh) else lastSheetGone s sh) := by
  rw [exec_sheetFailure_of_idle hp hsh hr hb, if_neg (by simp [sheetGone_sheets, hn])]

end

/-- Once the last sheet is gone the replacement bit is set, and DEGRADED is the last thing sent where it was not set before. -/
theorem lastSheetGone_degraded {s : State} {sh : Nat} (hn : s.sheets.retired.length = 3) :
    (lastSheetGone s sh).ret.replacement = true ∧
    (s.ret.replacement = false → ∃ l, (lastSheetGone s sh).sent.getLast? = some (.event 0x800C none l)) := by
  have hbelow (type : Nat) (b : RetBody) : belowFloor (writeRetRec { beginRehash (dropSheet s sh) (s.sheets.live.filter (· != sh)) with
      sheets := ⟨s.sheets.live, s.sheets.live.filter (· != sh), true, s.sheets.retired ++ [sh]⟩ } type b) = true :=
    belowFloor_of_sheets (show 2 ≤ (s.sheets.retired ++ [sh]).length by simp [hn])
  exact ⟨checkFloors_replacement (hbelow _ _) _, fun h => checkFloors_sent (hbelow _ _) _ h⟩

theorem exec_sheetRehashSwitch_of_busy {s : State} (hp : s.power = .on) (hb : s.sheets.busy = true) : exec .sheetRehashSwitch s =
    .next (surveyEnded (s.jobs.foldl (fun t j => postNotice t j.1 nkRehash 0 t.sheets.live.length)
      { s with sheets := { s.sheets with live := s.sheets.next, busy := false } })) := by
  show execSheetRehashSwitch s = _
  rw [execSheetRehashSwitch, if_neg (by simp [hp, hb])]

/-! Components that are withdrawn (R381). -/

theorem recorded_retireOther_window (s : State) (ch w reason : Nat) : Recorded { dropLease s (.window ch w) with
    surveyDue := (noted (dropLease s (.window ch w)) [scoreIndex (.window ch w)]).surveyDue
    outWindows := Tab.set false s.outWindows (64 * ch + w) true } (retireOther s (.window ch w) reason) := recorded_retirement ..

theorem recorded_retireOther_link (s : State) (l reason : Nat) : Recorded { dropLease s (.link l) with
    surveyDue := (noted (dropLease s (.link l)) [scoreIndex (.link l)]).surveyDue
    outLinks := Tab.set false s.outLinks l true
    links := Tab.set Link.reset s.links l { s.link l with state := .down } } (retireOther s (.link l) reason) := by
  rw [retireOther]
  refine Recorded.trans ?_ (recorded_retirement ..)
  split
  · exact Recorded.refl _
  · exact (Reports.postEvent ..).recorded

theorem recorded_retireOther_segment (s : State) (sh d reason : Nat) : Recorded { dropLease s (.segment sh d) with
    surveyDue := (noted (dropLease s (.segment sh d)) [scoreIndex (.segment sh d)]).surveyDue
    sheets := ⟨s.sheets.live, s.sheets.live.filter (· != sh), true, s.sheets.retired ++ [sh]⟩ } (retireOther s (.segment sh d) reason) :=
  recorded_retireSheet ..

/-! A spare in service (R312). -/

section
variable {s : State} {cl : Nat} {w : SpareWork} (hp : s.power = .on) (hw : (s.cluster cl).work = some w)
include hp hw

theorem exec_spareInService_of_begun (hh : w.half = false) : exec (.spareInService cl) s = .next (prepareSpare s cl w) := by
  show execSpareInService cl s = _
  simp [execSpareInService, hp, hw, hh]

theorem exec_spareInService_of_half (hh : w.half = true) {u v : State}
    (hu : u = spareCore (spareState (putInService s cl w) (68 * cl + w.old) (68 * cl + w.spare)) (68 * cl + w.old) (68 * cl + w.spare))
    (hv : v = dropLease (endAsk (endAsk u (68 * cl + w.spare) 0) (68 * cl + w.spare) 1) (.core cl w.old)) :
    exec (.spareInService cl) s = .next (surveyEnded (returnCluster (releaseAll
      ((capacityChange v cl (fun k => { k with leased := k.leased - 1 })).decisionDue cl)) cl)) := by
  subst hu hv
  show execSpareInService cl s = _
  simp only [execSpareInService, hw, hh, if_neg (not_not.2 hp), Bool.not_true, Bool.false_eq_true, if_false]

end

end Sys2Proof.Machine

namespace Sys2Proof
open Machine

/-- Settles O52: leases and their ends by the component's kind, what a retirement leaves by `Recorded`, scores by the fold that halves
each once. -/
theorem surveySteps : Obligations.SurveySteps := by
  unfold Obligations.SurveySteps
  intro s hp
  refine ⟨fun ch w hch hw hl hu => ?window, fun l hl hc ho => ?link, fun sh d hsh hd hc hb hn => ?segment,
    fun cl x hcl hx hc hr => ?core, fun c n hc => ?pass, fun c hc => ?mismatch, fun cl w hw => ?spare,
    fun sh hsh hr hb => ?failure, fun hb => ?rehash, fun d => ?halving⟩
  case window => exact exec_surveyLease_of_window hp (by simp [surveyable, compOk, hch, hw, hu, by simpa using hl])
  case link => exact exec_surveyLease_of_link hp (by simp [surveyable, compOk, hl, ho, by simpa using hc])
  case segment => exact exec_surveyLease_of_segment hp (by simp [surveyable, compOk, hsh, hd, hb, hn, by simpa using hc])
  case core =>
    have hlease := exec_surveyLease_of_core (s := s) hp (cl := cl) (x := x) (by simp [surveyable, compOk, hcl, hx, by simpa using hc, by simpa [hx] using hr])
    refine ⟨fun hi => hlease.trans (congrArg _ (leaseCore_of_resting hr hi)), fun hi hl => ?_⟩
    exact ⟨fun h0 h1 => hlease.trans (congrArg _ (leaseCore_of_stopped hr hi hl h0 h1)),
      fun h0 => hlease.trans (congrArg _ (leaseCore_of_running hr hi hl h0))⟩
  case pass =>
    exact ⟨fun cl x hk hw => exec_surveyPass_of_core hp hc hk hw n, fun sh d hk hb => exec_surveyPass_of_segment hp hc hk hb n,
      fun hk => exec_surveyPass_of_other hp hc hk n⟩
  case mismatch =>
    refine ⟨fun cl x hk hw => exec_surveyMismatch_of_core hp hc hk hw, fun ch w hk => ?_, fun l hk => ?_, fun sh d hk hb => ?_⟩
    · subst hk
      have hrec := recorded_retireOther_window (chargeScore s (scoreIndex (.window ch w)) 16384) ch w 0
      refine ⟨_, exec_surveyMismatch_of_other hp hc nofun nofun, ?_, ?_, ?_⟩
      · rw [surveyEnded_keeps _ State.outWindows rfl, hrec.keeps State.outWindows fun _ _ _ _ _ _ _ _ _ _ _ => rfl]
        exact Tab.get_set_same ..
      · rw [surveyEnded_keeps _ (·.score _) rfl, hrec.keeps (·.score _) fun _ _ _ _ _ _ _ _ _ _ _ => rfl]
        exact chargeScore_score ..
      · rw [surveyEnded_keeps _ State.leases rfl, hrec.keeps State.leases fun _ _ _ _ _ _ _ _ _ _ _ => rfl]
        rfl
    · subst hk
      have hrec := recorded_retireOther_link (chargeScore s (scoreIndex (.link l)) 16384) l 0
      refine ⟨_, exec_surveyMismatch_of_other hp hc nofun nofun, ?_, ?_⟩
      · rw [surveyEnded_keeps _ State.outLinks rfl, hrec.keeps State.outLinks fun _ _ _ _ _ _ _ _ _ _ _ => rfl]
        exact Tab.get_set_same ..
      · rw [surveyEnded_keeps _ (·.link l) rfl, hrec.keeps (·.link l) fun _ _ _ _ _ _ _ _ _ _ _ => rfl]
        exact congrArg Link.state (Tab.get_set_same ..)
    · subst hk
      have hrec := recorded_retireOther_segment (chargeScore s (scoreIndex (.segment sh d)) 16384) sh d 0
      refine ⟨_, exec_surveyMismatch_of_other hp hc nofun fun _ _ _ => hb, ?_⟩
      rw [surveyEnded_keeps _ State.sheets rfl, hrec.keeps State.sheets fun _ _ _ _ _ _ _ _ _ _ _ => rfl]
      rfl
  case spare =>
    intro old new u v
    exact ⟨exec_spareInService_of_begun hp hw, fun hh => exec_spareInService_of_half hp hw hh rfl rfl⟩
  case failure =>
    refine ⟨fun hn => ⟨_, exec_sheetFailure_of_more hp hsh hr hb hn, sheetGone_sheets s sh, (sheetGone_power s sh).trans hp⟩,
      fun hn => ⟨_, exec_sheetFailure_of_last hp hsh hr hb hn, ?_⟩⟩
    obtain ⟨hbit, hsent⟩ := lastSheetGone_degraded (s := s) (sh := sh) hn
    split
    · have hrep : Reports (lastSheetGone s sh) (postDegraded (lastSheetGone s sh)) := Reports.postEvent ..
      refine ⟨(hrep.keeps State.lastSheetLost fun _ _ _ _ _ _ _ => rfl).trans rfl, (hrep.keeps State.power fun _ _ _ _ _ _ _ => rfl).trans rfl,
        (hrep.keeps (·.ret.replacement) fun _ _ _ _ _ _ _ => rfl).trans hbit, ?_⟩
      rw [postDegraded, postEvent_sent]
      exact ⟨_, List.getLast?_concat⟩
    next hset => exact ⟨rfl, rfl, hbit, hsent (by simpa using hset)⟩
  case rehash =>
    refine ⟨_, exec_sheetRehashSwitch_of_busy hp hb, ?_⟩
    rw [surveyEnded_keeps _ State.sheets rfl]
    exact (Reports.foldl (fun t j => Reports.postNotice t j.1 nkRehash 0 t.sheets.live.length) s.jobs _).keeps State.sheets
      fun _ _ _ _ _ _ _ => rfl
  case halving =>
    refine ⟨_, exec_scoreHalving_of_on hp d, fun i => ?_⟩
    rw [foldl_halved_score s d (nodup_eraseDups _)]
    simp only [List.mem_eraseDups]
    by_cases hi : i ∈ s.scores.map (·.1)
    · simp [hi]
    · simp [hi, score_of_not_listed hi]

end Sys2Proof
end

section
/-! SUPPORT. The new word of an atomic operation on bit vectors. -/
namespace Sys2Proof.Machine

/-- The comparison that the minimum and the maximum make is that of the two words. -/
theorem atomLess_eq (w : Nat) (sgn : Bool) (o x : BitVec w) :
    (if sgn then decide (sx w x.toNat < sx w o.toNat) else decide (x.toNat < o.toNat)) = less sgn x o := by
  cases sgn with
  | false => rfl
  | true =>
    rw [sx_eq_toInt, sx_eq_toInt, BitVec.ofNat_toNat, BitVec.ofNat_toNat, BitVec.setWidth_eq, BitVec.setWidth_eq]
    exact BitVec.slt_eq_decide.symm

/-- Settles O36: an operand that is a word is its own low bits, and each operation on numbers is the one on words. -/
theorem atomicWords : Obligations.AtomicWords := by
  unfold Obligations.AtomicWords
  intro w sgn o c x _ new
  have ho : o.toNat % 2 ^ w = o.toNat := Nat.mod_eq_of_lt o.isLt
  have hc : c.toNat % 2 ^ w = c.toNat := Nat.mod_eq_of_lt c.isLt
  have gives {op : Nat} {v : BitVec w} (h : atomNew op w sgn o.toNat c.toNat x.toNat = v.toNat) : new op = v := by
    simp only [new, h, BitVec.ofNat_toNat, BitVec.setWidth_eq]
  refine ⟨gives ?sum, gives ?and, gives ?or, gives ?xor, gives ?minimum, gives ?maximum, gives ho, gives ?compare⟩
  case sum => rw [BitVec.toNat_add, atomNew, ho]
  case and => rw [BitVec.toNat_and, atomNew, ho]
  case or => rw [BitVec.toNat_or, atomNew, ho]
  case xor => rw [BitVec.toNat_xor, atomNew, ho]
  case minimum => simp only [atomNew, ho, atomLess_eq, apply_ite BitVec.toNat]
  case maximum => simp only [atomNew, ho, atomLess_eq, apply_ite BitVec.toNat]
  case compare => simp only [atomNew, ho, hc, BitVec.toNat_inj, apply_ite BitVec.toNat]

end Sys2Proof.Machine
end

section
/-! SUPPORT. Commands as they are issued: transfers with their images and streams, and commands without transfer ID. -/
namespace Sys2Proof.Machine

/-! The acting context's registers written twice. -/

theorem Core.setCtx_setCtx (c : Core) (x : Nat) (v w : Ctx) : (c.setCtx x v).setCtx x w = c.setCtx x w := by
  unfold Core.setCtx
  split <;> rfl

theorem State.setCore_setCore (s : State) (c : Nat) (v w : Core) : (s.setCore c v).setCore c w = s.setCore c w := by
  simp only [State.setCore, Tab.set_set]

theorem State.setMe_setMe (s : State) (v w : Ctx) : (s.setMe v).setMe w = s.setMe w := by
  simp only [State.setMe, State.setCtx, State.setCore_cur, State.core_setCore_same, State.setCore_setCore, Core.setCtx_setCtx]

theorem State.setArch_setArch (s : State) (a b : Arch) : (s.setArch a).setArch b = s.setArch b := by
  simp only [State.setArch, State.me_setMe, State.setMe_setMe]

/-! Transfers with an image (R265, R269, R273). -/

section
variable {f : ER} {s : State}

theorem room_setArch {a : Arch} (h : Room s 1) (ha : a.dueRegs = s.arch.dueRegs) : Room (s.setArch a) 1 := by
  rwa [Room, State.arch_setArch, ha]

theorem checked_image {p m l : Nat} (h : Clear s .act p m l) (hb : RecordFits s f.sc 16) (g : State → State) :
    checked s (imageFlaw s ((p, m, l) :: recordRange s f.sc 16)) g = g s := by
  rw [imageFlaw_of_clear fun r hr => (List.mem_cons.1 hr).elim (fun he => he ▸ h) (recordRange_clear hb r)]
  rfl

theorem checked_record (hb : RecordFits s f.sc 16) (g : State → State) :
    checked s (imageFlaw s (recordRange s f.sc 16)) g = g s := by
  rw [imageFlaw_of_clear (recordRange_clear hb)]
  rfl

theorem attach_of_bound {q ch : Nat} {id : BitVec 32} {v : Binding} (hv : s.arch.rdQ q = some v) :
    attach s q ch id = s.setArch (s.arch.wrQ q (some { v with att := some (ch, id) })) := by
  rw [attach, hv]

theorem cannotAttach_of_free {q : Nat} {v : Binding} (hv : s.arch.rdQ q = some v) (ha : v.att = none) : cannotAttach s q = false := by
  rw [cannotAttach, hv]
  simp only [ha, Option.isSome_none]

theorem exec_cpy_of_fit (hc : Clear s .act (regNat s f.sa) 64 64) (hb : RecordFits s f.sc 16) (h : erFl f 18 18 ≠ 1) :
    exec (.cpy f) s = .next (issueWithId f s (.cpy (regNat s f.sa) (recordAt s f.sc) (tbOf f) none)) := by
  show execCpy f s = _
  rw [execCpy, checked_image hc hb]
  simp only [h, if_false]

theorem exec_cpy_of_stream (hc : Clear s .act (regNat s f.sa) 64 64) (hb : RecordFits s f.sc 16) (h : erFl f 18 18 = 1)
    (ha : cannotAttach s f.q.val = false) :
    exec (.cpy f) s = .next (issueWithId f (attach s f.q.val f.ch.val (s.arch.rdId f.ch.val))
      (.cpy (regNat s f.sa) (recordAt s f.sc) (tbOf f) (some f.q.val))) := by
  show execCpy f s = _
  rw [execCpy, checked_image hc hb]
  simp only [h, if_true, ha, Bool.false_eq_true, if_false]

theorem exec_gath_of_fit (hc : Clear s .act (regNat s f.sa) 64 64) (hb : RecordFits s f.sc 16) (h1 : 1 ≤ regNat s f.sb)
    (h2 : regNat s f.sb < 2 ^ 24) (hg : s.arch.rdG f.ch.val = none) (ha : cannotAttach s f.q.val = false) :
    let s1 := attach s f.q.val f.ch.val (s.arch.rdId f.ch.val)
    exec (.gath f) s = .next (issueWithId f (s1.setArch (s1.arch.wrG f.ch.val (some ⟨f.q.val, regNat s f.sb, 0⟩)))
      (.gath (regNat s f.sa) (regNat s f.sb) (recordAt s f.sc) (tbOf f) f.q.val)) := by
  have h0 : regNat s f.sb ≠ 0 := Nat.one_le_iff_ne_zero.1 h1
  show execGath f s = _
  rw [execGath, checked_image hc hb]
  simp only [h0, Nat.not_le.2 h2, hg, ha, decide_false, Option.isSome_none, Bool.or_self, Bool.false_eq_true, if_false]

theorem exec_qapp_of_fit (hc : Clear s .act (regNat s f.sb) 64 64) (hb : RecordFits s f.sc 16) :
    exec (.qapp f) s = .next (issueWithId f s (.qapp (rdS s f.sa.val) (regNat s f.sb) (recordAt s f.sc))) := by
  show execQapp f s = _
  rw [execQapp, checked_image hc hb]

end

/-- Settles O30: each transfer of a fit image is the shared issue, a stream's in the state whose binding it is attached to. -/
theorem copyCommands : Obligations.CopyCommands := by
  unfold Obligations.CopyCommands
  intro f s hr ht hb a b n rec' tb attached out
  refine ⟨fun hc h0 => ?plain, fun hc h1 v hv ha => ?stream, fun hc h1 h2 hg v hv ha => ?gather, fun hc => ?append⟩
  case plain =>
    exact (exec_cpy_of_fit hc hb (by rw [h0]; decide)).trans (congrArg Host.Outcome.next (issueWithId_of_room hr ht _))
  case stream =>
    rw [exec_cpy_of_stream hc hb h1 (cannotAttach_of_free hv ha), attach_of_bound hv,
      issueWithId_of_room (room_setArch hr (Arch.wrQ_dueRegs ..)) ht]
    rfl
  case gather =>
    rw [exec_gath_of_fit hc hb h1 h2 hg (cannotAttach_of_free hv ha), attach_of_bound hv, State.arch_setArch, State.setArch_setArch,
      issueWithId_of_room (room_setArch hr ((Arch.wrG_dueRegs ..).trans (Arch.wrQ_dueRegs ..))) ht]
    rfl
  case append => exact (exec_qapp_of_fit hc hb).trans (congrArg Host.Outcome.next (issueWithId_of_room hr ht _))

/-! Commands without transfer ID (R223, R268, R274, R307, R308, R361). -/

section
variable {f : ER} {s : State}

theorem exec_larm_of_fit (hb : RecordFits s f.sc 16) :
    exec (.larm f) s = .next (withCommand s 8 4 (.larm (rdS s f.sa.val) (recordAt s f.sc) (semOf f))) := by
  show execLarm f s = _
  rw [execLarm, checked_record hb]
  rfl

theorem exec_lpatch_of_fit (hb : RecordFits s f.sc 16) : exec (.lpatch f) s =
    .next (withCommand s 8 4 (.lpatch (rdS s f.sa.val) (rdS s f.sb.val) (recordAt s f.sc) (erFl f 17 16) (semOf f))) := by
  show execLpatch f s = _
  rw [execLpatch, checked_record hb]
  rfl

theorem exec_cancel_of_fit (hb : RecordFits s f.sc 16) : exec (.cancel f) s =
    .next (withCommand s 8 4 (.cancel (erFl f 17 15) (rdS s f.sa.val) (recordAt s f.sc) (erFl f 18 18 = 1) (semOf f))) := by
  show execCancel f s = _
  rw [execCancel, checked_record hb]
  rfl

theorem exec_srel_of_free (hq : s.arch.rdQ f.q.val = none) : exec (.srel f) s = .next (withCommand s 9 0 (.srel 16 none)) := by
  show execSrel f s = _
  rw [execSrel, hq]
  rfl

theorem exec_srel_of_bound {b : Binding} (hq : s.arch.rdQ f.q.val = some b) :
    exec (.srel f) s = .next (withCommand (s.setArch (s.arch.wrQ f.q.val none)) 9 0 (.srel f.q.val b.att)) := by
  show execSrel f s = _
  rw [execSrel, hq]
  rfl

theorem exec_errinj_of_user (hm : s.me.mode.getLsbD 3 = false) : exec (.errinj f) s = .next (raise s .trap 0xFF08 0) := by
  show execErrinj f s = _
  rw [execErrinj, hm]
  rfl

theorem exec_errinj_of_system (hm : s.me.mode.getLsbD 3 = true) : exec (.errinj f) s = .next
    (if injectOk (regNat s f.sa) (regNat s f.sb) (erFl f 19 16)
      then withCommand s 9 0 (.errinj (regNat s f.sa) (regNat s f.sb) (rdS s f.sc.val) (erFl f 19 16) (erFl f 15 15 = 1))
      else raise s .trap 0xFF09 0) := by
  show execErrinj f s = _
  rw [execErrinj, hm]
  cases injectOk (regNat s f.sa) (regNat s f.sb) (erFl f 19 16) <;> rfl

theorem exec_bmset_of_job {f : EC} {j : Job} (hj : s.job s.me.job = some j) : exec (.bmset f) s = .next
    (if lrBitmap (poolRec j s.me.launch) = 0 ∨ lrBitmapBits (poolRec j s.me.launch) ≤ regNat s f.sa then raise s .trap 0xFF10 0
      else withCommand s 8 4 (.bmset (lrBitmap (poolRec j s.me.launch)) (regNat s f.sa))) := by
  show execBmset f s = _
  simp only [execBmset, hj, Bool.or_eq_true, decide_eq_true_eq]
  rfl

end

/-- Settles O33: each command by the lemma of its row, an injection and a bitmap's bit by whether they are allowed. -/
theorem commandsWithoutId : Obligations.CommandsWithoutId := by
  unfold Obligations.CommandsWithoutId
  refine ⟨fun f s => ?_, fun f s j hj => ?_⟩
  · intro x y rec' sem
    refine ⟨rfl, rfl, fun hb => ⟨exec_larm_of_fit hb, exec_lpatch_of_fit hb, exec_cancel_of_fit hb⟩, exec_srel_of_free,
      fun b => exec_srel_of_bound, exec_errinj_of_user, fun hm hi => ?allowed, fun hm hi => ?forbidden⟩
    case allowed => exact (exec_errinj_of_system hm).trans (congrArg Host.Outcome.next (if_pos hi))
    case forbidden => exact (exec_errinj_of_system hm).trans (congrArg Host.Outcome.next (if_neg (Bool.eq_false_iff.1 hi)))
  · intro r i
    refine ⟨fun h0 hlt => ?inside, fun h => ?outside⟩
    case inside => exact (exec_bmset_of_job hj).trans (congrArg Host.Outcome.next (if_neg (not_or.2 ⟨h0, Nat.not_le.2 hlt⟩)))
    case outside => exact (exec_bmset_of_job hj).trans (congrArg Host.Outcome.next (if_pos h))

end Sys2Proof.Machine
end

section
/-! SUPPORT. A compare and swap whose comparison value cannot be read: its transfer ID bears the trap ECC (R208). -/
namespace Sys2Proof.Machine

/-- A context whose bounds hold the first activation line, and whose first 8 bytes there are poison. -/
def poisonedOperand : State :=
  let s := State.reset.setMe { State.reset.me with cart := BitVec.ofNat 512 (2 ^ 304) }
  s.poisonAt (actKey 0 0)

/-- A compare and swap whose operands stand from byte 0 on. -/
def compareSwap : ER := ⟨0, 1, 0, 0, 0, 0, 0, 0x700, 0⟩

/-- Whether each result that is due bears a trap. -/
def resultsTrap (r : Res) : List Bool := match r with
  | .next t => t.arch.dueRegs.map (·.trap.isSome)
  | _ => []

theorem clear_poisonedOperand : Clear poisonedOperand .act 0 16 16 :=
  ⟨rfl, by decide +kernel, by decide +kernel, fun _ _ _ _ => rfl⟩

/-- The ID that the compare and swap delivers traps when it lands. -/
theorem resultsTrap_compareSwap : resultsTrap (exec (.atom compareSwap) poisonedOperand) = [true] := by decide +kernel

/-- A transfer whose operands bear no error delivers its ID without a trap. -/
theorem resultsTrap_withTransfer (s : State) (ch sd scope : Nat) (k : CmdKind) :
    resultsTrap (.next (withTransfer s ch sd scope k)) = s.arch.dueRegs.map (·.trap.isSome) ++ [false] := by
  simp [resultsTrap, withTransfer, withEntry, State.arch, State.setArch, entryOf]

/-- Refutes O31: a compare and swap reads its comparison value at issue, and one that is poison makes its transfer ID trap; the
statement asks for an ID without a trap whatever the data bears. -/
theorem not_atomicAndSealCommands : ¬ Obligations.AtomicAndSealCommands := by
  unfold Obligations.AtomicAndSealCommands
  rintro ⟨h, -⟩
  have hroom : Room poisonedOperand 1 := by unfold Room; decide +kernel
  obtain ⟨hatom, -⟩ := h compareSwap poisonedOperand hroom rfl
  have htraps := congrArg resultsTrap (hatom clear_poisonedOperand)
  rw [resultsTrap_compareSwap, resultsTrap_withTransfer] at htraps
  exact absurd htraps (by decide +kernel)

end Sys2Proof.Machine
end

section
/-! SUPPORT. A copy that goes on after a retry hint while its drive does not answer (R281). -/
namespace Sys2Proof.Machine

/-- The image of a copy of one row of 64 bytes from byte 1 of drive 0, which is aligned to no block, to device memory. -/
def driveImage : Nat := 2 * 2 ^ 476 + (7 * 2 ^ 60 + 1) * 2 ^ 192 + 0x20000 * 2 ^ 128 + 64 * 2 ^ 104

/-- The copy, on channel 5 of context 0, as it stands after a hint. -/
def hintedCopy : Cmd := ⟨1, 0, 5, 9, 0, 0, 4, .cpy driveImage 0 none none, .moving Prog.start, 0, 0, []⟩

/-- A device in power whose drive 0 does not answer, with the copy in core 0's channels. -/
def unresponsive : State :=
  { State.reset.setCore 0 { State.reset.core 0 with cmds := [hintedCopy] } with power := .on, drives := [(0, true)] }

/-- The phases that an outcome leaves to core 0's commands. -/
def phasesLeft (r : Res) : List Phase := match r with
  | .next t => (t.core 0).cmds.map (·.phase)
  | _ => []

/-- The copy ends with the drive's status, as no access of it can be made. -/
theorem phasesLeft_copyRetry : phasesLeft (exec (.copyRetry 0 1) unresponsive) = [.done stLink 0x21 0x7FF 0] := by decide +kernel

/-- What the transfer would come to if it looked at its image: a misaligned address. -/
theorem phasesLeft_settled : phasesLeft (.next (settleCmd 0 hintedCopy
    (transferMem unresponsive (engOf unresponsive 0 hintedCopy) driveImage (srcCmd hintedCopy) Prog.start))) =
      [.done stMisalign 0 0 0] := by decide +kernel

/-- Refutes O35: a copy that is tried again while its drive does not answer ends with the drive's status at once; the statement's
second part has it settled by its transfer, which a drive that does not answer never makes. -/
theorem not_channelPerforms : ¬ Obligations.ChannelPerforms := by
  unfold Obligations.ChannelPerforms
  intro h
  obtain ⟨-, hretry, -⟩ := h 0 1 unresponsive hintedCopy (by decide +kernel)
  have hphases := congrArg phasesLeft (hretry Prog.start driveImage 0 none none rfl rfl (by decide +kernel) (by decide +kernel))
  rw [phasesLeft_copyRetry, phasesLeft_settled] at hphases
  exact absurd hphases (by decide)

end Sys2Proof.Machine
end

section
/-! SUPPORT. AES-256-GCM as a key stream over a message of any length, and lines that are sealed and opened again. -/
namespace Sys2Proof.Machine

/-! The key stream. -/

/-- The key stream of `c` blocks from counter `i` on. -/
def gcmStream (keys : List (List Nat)) (iv i c : Nat) : List Nat :=
  (List.range' i c).flatMap (fun j => aesBlock keys (natBlock (iv * 2 ^ 32 + j % 2 ^ 32)))

theorem xorL_append (m b r : List Nat) : xorL m (b ++ r) = xorL (m.take b.length) b ++ xorL (m.drop b.length) r := by
  induction b generalizing m with
  | nil => simp [xorL]
  | cons x b ih =>
    cases m with
    | nil => rfl
    | cons y m => exact congrArg (List.cons (y ^^^ x)) (ih m)

section
variable {keys : List (List Nat)} {iv : Nat}

theorem gcmStream_length (h : ∀ b, (aesBlock keys b).length = 16) (i c : Nat) : (gcmStream keys iv i c).length = 16 * c := by
  simp [gcmStream, h, Nat.mul_comm]

/-- Block by block, a message is under the key stream. -/
theorem chunks_stream (h : ∀ b, (aesBlock keys b).length = 16) (i c : Nat) (m : List Nat) :
    (((chunks 16 c m).zipIdx i).map (fun b => xorL b.1 (aesBlock keys (natBlock (iv * 2 ^ 32 + b.2 % 2 ^ 32))))).flatten =
      xorL m (gcmStream keys iv i c) := by
  induction c generalizing i m with
  | zero => simp [chunks, gcmStream, xorL]
  | succ c ih =>
    rw [chunks]
    split
    next hm => rw [List.isEmpty_iff.1 hm]; rfl
    next =>
      rw [gcmStream, List.range'_succ, List.flatMap_cons, xorL_append, h, List.zipIdx_cons, List.map_cons, List.flatten_cons, ih]
      rfl

theorem gcmCtr_eq_xorL (h : ∀ b, (aesBlock keys b).length = 16) (m : List Nat) :
    gcmCtr keys iv m = xorL m (gcmStream keys iv 2 (m.length / 16 + 1)) := chunks_stream h ..

end

section
variable {key iv : List Byte} (hk : key.length = 32)
include hk

theorem aesBlock_key_length (b : List Nat) : (aesBlock (aesKeys (key.map (·.toNat))) b).length = 16 :=
  aesBlock_length _ b (by rw [List.length_map, hk])

theorem gcmCrypt_length (m : List Byte) : (gcmCrypt key iv m).length = m.length := by
  rw [gcmCrypt, List.length_map, gcmCtr_eq_xorL (aesBlock_key_length hk), xorL_length, gcmStream_length (aesBlock_key_length hk),
    List.length_map]
  omega

/-- A message of any length under its key stream twice is the message. -/
theorem gcmCrypt_gcmCrypt (m : List Byte) : gcmCrypt key iv (gcmCrypt key iv m) = m := by
  have hlen := gcmCrypt_length (iv := iv) hk m
  have hstream := gcmStream_length (iv := beNat iv) (aesBlock_key_length hk) 2 (m.length / 16 + 1)
  rw [gcmCrypt, gcmCtr_eq_xorL (aesBlock_key_length hk), List.length_map, hlen, gcmCrypt, gcmCtr_eq_xorL (aesBlock_key_length hk),
    List.length_map, block_twice _ _ (by rw [List.length_map, hstream]; omega), toNat_map]

theorem gcmAuth_length (aad c : List Byte) : (gcmAuth key iv aad c).length = 16 := by
  have hnat (x : Nat) : (natBlock x).length = 16 := by rw [natBlock, List.length_map, beBytes, List.length_reverse, leBytes_length]
  rw [gcmAuth, List.length_map, gcmTag, xorL_length, aesBlock_key_length hk, hnat, min_self]

end

/-! Bytes read back. -/

theorem leNat_lt (l : List Byte) : leNat l < 256 ^ l.length := by
  induction l with
  | nil => exact Nat.one_pos
  | cons b l ih =>
    have hb : b.toNat < 256 := b.isLt
    rw [leNat, List.length_cons, pow_succ]
    omega

theorem Memory.read_write_disjoint (m : Memory) {a k n : Nat} {bs : List Byte} (h : k + n ≤ a ∨ a + bs.length ≤ k) :
    (m.write a bs).read k n = m.read k n := by
  rw [Memory.read_eq, Memory.read_eq]
  refine List.map_congr_left fun i hi => ?_
  rw [Memory.byte_write, if_neg (by rw [List.mem_range] at hi; omega)]

theorem Memory.getD_read (m : Memory) {a n i : Nat} (h : i < n) : (m.read a n).getD i 0 = m.byte (a + i) := by
  rw [Memory.read_eq, List.getD_eq_getElem?_getD, List.getElem?_map, List.getElem?_range h]
  rfl

/-! The seal record (R220). -/

section
variable {keyId counter tag : Nat}

theorem sealRecord_lt (result : Nat) : sealRecord result keyId counter tag < 256 ^ 32 := by
  unfold sealRecord
  omega

theorem sealRecord_keyId (hk : keyId < 2 ^ 32) : fld (sealRecord 0 keyId counter tag) 223 192 = keyId := by
  unfold sealRecord fld
  rw [Nat.shiftRight_eq_div_pow]
  omega

theorem sealRecord_counter (hc : counter < 2 ^ 64) : fld (sealRecord 0 keyId counter tag) 191 128 = counter := by
  unfold sealRecord fld
  rw [Nat.shiftRight_eq_div_pow]
  omega

theorem sealRecord_tag (ht : tag < 2 ^ 128) : fld (sealRecord 0 keyId counter tag) 127 0 = tag := by
  unfold sealRecord fld
  rw [Nat.shiftRight_eq_div_pow]
  omega

end

/-! A line sealed and opened (R221), where nothing is wrong with memory. -/

theorem actKey_add (core off n : Nat) : actKey core off + n = actKey core (off + n) := Nat.add_assoc ..

theorem Key.bytes_length (k : Key) : k.bytes.length = 32 := leBytes_length ..

/-- The ciphertext of a line under the next counter, and its tag. -/
def Key.sealed (k : Key) (bs : List Byte) : List Byte := gcmCrypt k.bytes (k.iv k.counter.toNat) bs
def Key.tag (k : Key) (bs : List Byte) : List Byte := gcmAuth k.bytes (k.iv k.counter.toNat) (k.aad k.counter.toNat) (k.sealed bs)

section
variable {s : State} {core job line rec : Nat} {j : Job} {k : Key}

/-- The record of a line that is sealed. -/
def Key.record (k : Key) (bs : List Byte) : List Byte :=
  leBytes 32 (sealRecord 0 k.keyId.toNat k.counter.toNat (leNat (k.tag bs)))

/-- A plaintext line that is sealed: its bytes, its form, its record and the key's counter change. -/
theorem sealLine_of_plain (he : s.errs = []) (hi : s.inject = []) (hj : s.job job = some j) (hf : s.form core line = false) :
    sealLine s core job line rec k = { s with
      mem := (s.mem.write (actKey core (256 * line)) (k.sealed (s.bytes (actKey core (256 * line)) 256))).write (actKey core rec)
        (k.record (s.bytes (actKey core (256 * line)) 256))
      forms := Tab.set false s.forms (core * 8192 + line) true
      jobs := Tab.set none s.jobs job (some { j with key := some { k with counter := k.counter + 1 } }) } := by
  have hj' : Tab.get none s.jobs job = some j := hj
  simp only [sealLine, hf, Bool.false_eq_true, if_false, put_of_clean he hi, Key.record, Key.tag, Key.sealed]
  rw [put_of_clean (s := State.setForm { s with mem := _ } core line true) he hi]
  simp only [State.job, State.setForm, hj']
  rfl

/-- A ciphertext line whose record is its own: it has its bytes and form back, and its record's result is OK. -/
theorem openLine_of_sealed {bs : List Byte} (he : s.errs = []) (hi : s.inject = []) (hf : s.form core line = true)
    (hl : s.bytes (actKey core (256 * line)) 256 = k.sealed bs) (hr : s.bytes (actKey core rec) 32 = k.record bs) :
    openLine s core line rec k = { s with
      mem := (s.mem.write (actKey core (256 * line)) bs).write (actKey core rec + 28) [0]
      forms := Tab.set false s.forms (core * 8192 + line) false } := by
  have htag : leNat (k.tag bs) < 2 ^ 128 := by
    have h := leNat_lt (k.tag bs)
    rw [Key.tag, gcmAuth_length k.bytes_length] at h
    exact h
  have hv : leNat (s.bytes (actKey core rec) 32) = sealRecord 0 k.keyId.toNat k.counter.toNat (leNat (k.tag bs)) := by
    rw [hr, Key.record, leNat_leBytes _ _ (sealRecord_lt 0)]
  have hauth : gcmAuth k.bytes (k.iv k.counter.toNat) (k.aad k.counter.toNat) (k.sealed bs) = k.tag bs := rfl
  have hplain : gcmCrypt k.bytes (k.iv k.counter.toNat) (k.sealed bs) = bs := gcmCrypt_gcmCrypt k.bytes_length bs
  simp only [openLine, hf, hv, sealRecord_keyId k.keyId.isLt, sealRecord_counter k.counter.isLt, sealRecord_tag htag, hl, hauth, hplain,
    Bool.not_true, Bool.false_eq_true, ne_eq, not_true, if_false, put_of_clean he hi]
  exact put_of_clean (s := State.setForm { s with mem := _ } core line false) he hi _ _

end

/-- Settles O39: the sealed line's record is read back as it was written, so the line decrypts under the counter it was sealed with,
and what stands outside the record is the line's plaintext and what neither has written. -/
theorem openUndoesSeal : Obligations.OpenUndoesSeal := by
  unfold Obligations.OpenUndoesSeal
  intro s core job line rec j k he hi hj _ hf _ _ hapart t u
  have hlen : (k.sealed (s.bytes (actKey core (256 * line)) 256)).length = 256 := by
    rw [Key.sealed, gcmCrypt_length k.bytes_length, State.bytes, Memory.read_length]
  have hrec : (k.record (s.bytes (actKey core (256 * line)) 256)).length = 32 := leBytes_length ..
  have hkeys : actKey core rec + 32 ≤ actKey core (256 * line) ∨ actKey core (256 * line) + 256 ≤ actKey core rec := by
    simpa only [actKey, Nat.add_assoc, Nat.add_le_add_iff_left] using hapart
  have ht : t = _ := sealLine_of_plain he hi hj hf
  have hform : t.form core line = true := by rw [ht]; exact Tab.get_set_same ..
  have hline : t.bytes (actKey core (256 * line)) 256 = k.sealed (s.bytes (actKey core (256 * line)) 256) := by
    rw [ht, State.bytes, Memory.read_write_disjoint _ (by rw [hrec]; omega)]
    have h := bytes_put s (actKey core (256 * line)) (k.sealed (s.bytes (actKey core (256 * line)) 256))
    rwa [hlen, State.bytes, put_mem] at h
  have hread : t.bytes (actKey core rec) 32 = k.record (s.bytes (actKey core (256 * line)) 256) := by
    have h := bytes_put { s with mem := s.mem.write (actKey core (256 * line)) (k.sealed (s.bytes (actKey core (256 * line)) 256)) }
      (actKey core rec) (k.record (s.bytes (actKey core (256 * line)) 256))
    rw [hrec, State.bytes, put_mem] at h
    rw [ht]
    exact h
  have hu : u = _ := openLine_of_sealed (by rw [ht]; exact he) (by rw [ht]; exact hi) hform hline hread
  refine ⟨hform, by rw [hu]; exact Tab.get_set_same .., ?result, fun a ha => ?frame⟩
  case result =>
    rw [hu, ← actKey_add]
    show (Memory.write _ _ _).byte _ = 0
    rw [Memory.byte_write, if_pos ⟨Nat.le_refl _, Nat.lt_succ_self _⟩, Nat.sub_self]
    rfl
  case frame =>
    rw [← actKey_add] at ha
    rw [hu, ht]
    show (Memory.write (Memory.write (Memory.write (Memory.write _ _ _) _ _) _ _) _ _).byte _ = _
    rw [Memory.byte_write, if_neg (by rw [List.length_singleton]; omega), Memory.byte_write]
    split
    next hin =>
      rw [State.bytes, Memory.read_length] at hin
      rw [State.bytes, Memory.getD_read _ (by omega), Nat.add_sub_cancel' hin.1]
    next hout =>
      rw [State.bytes, Memory.read_length] at hout
      rw [Memory.byte_write, if_neg (by rw [hrec]; omega), Memory.byte_write, if_neg (by rw [hlen]; exact hout)]

end Sys2Proof.Machine
end

section
/-! SUPPORT. SEAL and OPEN over lines without errors, and the scheduler's commands as they are performed. -/
namespace Sys2Proof.Machine

theorem copyReadErrs_of_clean {s : State} (he : s.errs = []) (k n : Nat) (w : Consumer) : copyReadErrs s k n none w = (s, false, false) := by
  simp [copyReadErrs, he]

/-! A device without errors whose job has a key: every line keeps it so. -/

/-- Nothing is wrong with memory, nothing is armed, and the job has a key. -/
def Keyed (job : Nat) (s : State) : Prop := s.errs = [] ∧ s.inject = [] ∧ ∃ k, (s.job job).bind (·.key) = some k

namespace Keyed
variable {s : State} {job core line rec : Nat} {k : Key}

theorem put (h : Keyed job s) (a : Nat) (bs : List Byte) : Keyed job (s.put a bs) := by
  obtain ⟨he, hi, hk⟩ := h
  rw [put_of_clean he hi]
  exact ⟨he, hi, hk⟩

theorem setForm (h : Keyed job s) (core line : Nat) (v : Bool) : Keyed job (s.setForm core line v) := h

theorem openLine (h : Keyed job s) (core line rec : Nat) (k : Key) : Keyed job (openLine s core line rec k) := by
  unfold Machine.openLine
  dsimp only
  split
  · exact h.put ..
  · split
    · exact h.put ..
    · split
      · exact h.put ..
      · exact ((h.put ..).setForm ..).put ..

theorem sealLine (h : Keyed job s) (core line rec : Nat) (k : Key) : Keyed job (sealLine s core job line rec k) := by
  have ⟨he, hi, k', hk⟩ := h
  obtain ⟨j, hj, -⟩ := Option.bind_eq_some_iff.1 hk
  cases hf : s.form core line with
  | false =>
    rw [sealLine_of_plain he hi hj hf]
    exact ⟨he, hi, _, by rw [State.job, Tab.get_set_same]; rfl⟩
  | true =>
    rw [Machine.sealLine, if_pos hf]
    exact h.put ..

end Keyed

section
variable (job core : Nat) (c : Cmd) (line rec : Nat) (records : Bool) (one : State → Nat → Nat → Key → State)

/-- One line of a command, unless an earlier one has stopped it. -/
def cipherStep (p : State × Bool) (i : Nat) : State × Bool :=
  if p.2 then p
  else
    let w : Consumer := ⟨some (ctxIdOf p.1 core c.ctx), c.job⟩
    let (s0, _, poison) := copyReadErrs p.1 (actKey core (256 * (line + i))) 256 none w
    let (s1, _, poison') := if records then copyReadErrs s0 (actKey core (rec + 32 * i)) 32 none w else (s0, false, false)
    match (s1.job c.job).bind (·.key) with
    | some k => if poison || poison' then (s1, true) else (one s1 (line + i) (rec + 32 * i) k, false)
    | none => (s1, true)

theorem cipherLines_eq_foldl (s : State) (n : Nat) : cipherLines s core c line rec n records one =
    let r := (List.range n).foldl (cipherStep core c line rec records one) (s, false)
    setDone r.1 core c (if r.2 then stPoison else stOk) 0 0 0 := rfl

/-- One line under the job's key. -/
def keyedStep (t : State) (i : Nat) : State := match (t.job job).bind (·.key) with
  | some k => one t (line + i) (rec + 32 * i) k
  | none => t

variable {core c line rec records one}

theorem cipherStep_of_keyed {t : State} (h : Keyed c.job t) (i : Nat) :
    cipherStep core c line rec records one (t, false) i = (keyedStep c.job line rec one t i, false) := by
  obtain ⟨he, -, k, hk⟩ := h
  simp only [cipherStep, keyedStep, copyReadErrs_of_clean he, hk, ite_self, Bool.or_self, Bool.false_eq_true, if_false]

/-- Nothing stops the lines of a command where each keeps the device free of errors. -/
theorem foldl_cipherStep_of_keyed (hone : ∀ t l r k, Keyed c.job t → Keyed c.job (one t l r k)) (l : List Nat) {s : State}
    (hs : Keyed c.job s) : l.foldl (cipherStep core c line rec records one) (s, false) = (l.foldl (keyedStep c.job line rec one) s, false) := by
  induction l generalizing s with
  | nil => rfl
  | cons i l ih =>
    have hnext : Keyed c.job (keyedStep c.job line rec one s i) := by
      obtain ⟨_, _, k, hk⟩ := id hs
      simp only [keyedStep, hk]
      exact hone _ _ _ k hs
    rw [List.foldl_cons, cipherStep_of_keyed hs, ih hnext, List.foldl_cons]

theorem cipherLines_of_keyed (hone : ∀ t l r k, Keyed c.job t → Keyed c.job (one t l r k)) {s : State} (hs : Keyed c.job s) (n : Nat) :
    cipherLines s core c line rec n records one =
      setDone ((List.range n).foldl (keyedStep c.job line rec one) s) core c stOk 0 0 0 := by
  simp only [cipherLines_eq_foldl, foldl_cipherStep_of_keyed hone _ hs, Bool.false_eq_true, if_false]

end

/-! The commands as they are performed (R221, R309, R360). -/

section
variable {s : State} {core seq : Nat} {c : Cmd} (hc : findCmd s core seq = some c) (hp : mayPerform s core c = true)
include hc hp

theorem exec_sealPerform_of_keyed {line rec n : Nat} (hk : c.kind = .seal line rec n) (hd : c.performed = false) (hs : Keyed c.job s) :
    exec (.sealPerform core seq) s =
      .next (setDone ((List.range n).foldl (keyedStep c.job (line / 256) rec fun t l r k => sealLine t core c.job l r k) s) core c stOk 0 0 0) := by
  show execSealPerform core seq s = _
  simp only [execSealPerform, hc, hk, hp, hd, Bool.not_true, Bool.or_self, Bool.false_eq_true, if_false]
  rw [cipherLines_of_keyed (fun t l r k ht => ht.sealLine core l r k) hs]

theorem exec_unsealPerform_of_keyed {line rec n : Nat} (hk : c.kind = .unseal line rec n) (hd : c.performed = false)
    (hs : Keyed c.job s) : exec (.unsealPerform core seq) s =
      .next (setDone ((List.range n).foldl (keyedStep c.job (line / 256) rec fun t l r k => openLine t core l r k) s) core c stOk 0 0 0) := by
  show execUnsealPerform core seq s = _
  simp only [execUnsealPerform, hc, hk, hp, hd, Bool.not_true, Bool.or_self, Bool.false_eq_true, if_false]
  rw [cipherLines_of_keyed (fun t l r k ht => ht.openLine core l r k) hs]

theorem exec_larmPerform_of_armed {slot : Word} {sc k : Nat} {f : Option Nat} {s1 : State} (hk : c.kind = .larm slot sc f)
    (hb : slotBad s c.job slot.toNat = false) (ha : armLaunch s c.job slot.toNat (some (ctxIdOf s core c.ctx)) = (s1, .ok k)) :
    exec (.larmPerform core seq) s = .next (schedFinish s1 core c sc f (statusRecord slot.toNat 0 0 stOk k)) := by
  show execLarmPerform core seq s = _
  simp only [execLarmPerform, hc, hk, hp, hb, ha, Bool.not_true, Bool.false_eq_true, if_false]

theorem exec_lpatchPerform_of_free {slot value : Word} {sc j : Nat} {f : Option Nat} (hk : c.kind = .lpatch slot value sc j f)
    (hb : slotBad s c.job slot.toNat = false) (hl : lrLive (launchRec s c.job slot.toNat) = false) : exec (.lpatchPerform core seq) s =
      .next (schedFinish (patchArg s c.job slot.toNat j value.toNat) core c sc f (statusRecord slot.toNat 0 0 stOk 0)) := by
  show execLpatchPerform core seq s = _
  simp only [execLpatchPerform, hc, hk, hp, hb, hl, Bool.not_true, Bool.or_self, Bool.false_eq_true, if_false]

theorem exec_cancelPerform {level : Nat} {addr : Word} {sc : Nat} {hard : Bool} {f : Option Nat}
    (hk : c.kind = .cancel level addr sc hard f) :
    let r := cancelLevel s c.job level addr.toNat hard
    exec (.cancelPerform core seq) s = .next (schedFinish r.1 core c sc f (statusRecord 0 0 r.2.2.1 r.2.1 r.2.2.2)) := by
  show execCancelPerform core seq s = _
  simp only [execCancelPerform, hc, hk, hp, Bool.not_true, Bool.false_eq_true, if_false]

end

/-- Settles O38: each command may be performed, so it is; the lines of a SEAL and an OPEN leave the device free of errors, so nothing
stops them. -/
theorem cipherAndScheduler : Obligations.CipherAndScheduler := by
  unfold Obligations.CipherAndScheduler
  intro core seq s c hc hp each
  refine ⟨fun he hi hd j k hj hk => ?cipher, fun slot sc f s1 k hkind => exec_larmPerform_of_armed hc hp hkind,
    fun slot v sc j f hkind _ => exec_lpatchPerform_of_free hc hp hkind, fun level addr sc hard f => exec_cancelPerform hc hp⟩
  case cipher =>
    have hs : Keyed c.job s := ⟨he, hi, k, by rw [hj]; exact hk⟩
    exact ⟨fun line rec n hkind => exec_sealPerform_of_keyed hc hp hkind hd hs,
      fun line rec n hkind => exec_unsealPerform_of_keyed hc hp hkind hd hs⟩

end Sys2Proof.Machine
end

section
/-! SUPPORT. Requests about key-value tenants and about model updates, as they are performed. -/
namespace Sys2Proof.Machine

section
variable {s : State} {m : Msg}

/-! Tenants (R316, R326, R330). -/

theorem exec_tenantCreate_of_heard (h : Heard s m tenantAdmin) {pool : TenantPool} (hd : tenantDescOk pool.desc.toNat = true)
    (hn : Tab.get none s.tenants (fld pool.desc.toNat 511 500) = none) (hl : pool.lists.length ≤ 3)
    (hok : ∀ l ∈ pool.lists, listOk pool.desc.toNat l = true) : exec (.tenantCreate m pool) s = performed { freshPool s pool with
      tenants := Tab.set none (freshPool s pool).tenants (fld pool.desc.toNat 511 500) (some pool.desc) } m := by
  have hall : pool.lists.all (listOk pool.desc.toNat) = true := List.all_eq_true.2 hok
  show execTenantCreate m pool s = _
  simp only [execTenantCreate, request_of_heard h, hd, hn, hall, decide_eq_false (Nat.not_lt.2 hl)]
  rfl

/-- A tenant that a job has not been granted, and room for it or none. -/
theorem exec_tenantGrant_of_heard (h : Heard s m tenantAdmin) {j : Job} {n : Nat} {d : BitVec 512} (hj : s.job m.job = some j)
    (hn : n < 4096) (hd : Tab.get none s.tenants n = some d) (hg : j.tenants.contains n = false) : exec (.tenantGrant m n) s = .next
      (if 16 ≤ j.tenants.length then answer s m rRoom
        else answer (s.setJob m.job (some { j with tenants := j.tenants ++ [n] })) m rOk) := by
  show execTenantGrant m n s = _
  simp only [execTenantGrant, request_of_heard h, withJob_of_job hj, if_neg (Nat.not_le.2 hn), hd, hg, Option.isNone_some,
    Bool.false_eq_true, if_false]

/-- A tenant of the device that the requester may act on. -/
theorem withTenant_of_granted {n : Nat} {d : BitVec 512} (hg : (s.session m.session).job = none ∨ granted s m.job n = true)
    (hd : Tab.get none s.tenants n = some d) (f : Nat → State) : withTenant s m n f = f d.toNat := by
  have hmay : ¬ ((s.session m.session).job.isSome && !granted s m.job n) = true := by
    rcases hg with hg | hg <;> simp [hg]
  simp only [withTenant, if_neg hmay, hd]

section
variable {n : Nat} {d : BitVec 512} (hg : (s.session m.session).job = none ∨ granted s m.job n = true)
  (hd : Tab.get none s.tenants n = some d)
include hg hd

theorem exec_tenantCancel_of_heard (h : Heard s m configReq) :
    let slots := List.range (2 ^ tdTableLog2 d.toNat)
    let held := slots.filter (fun i => (heState (readEntry s d.toNat i) == 1 || heState (readEntry s d.toNat i) == 2) &&
      heFlight (readEntry s d.toNat i) != 0)
    let notes := held.map (fun i => mkHandle n (heGen (readEntry s d.toNat i)) i (heClass (readEntry s d.toNat i)))
    let t := slots.foldl (fun t i => endWaiters t n i stRevoked) (revokeMoves (slots.foldl (fun t i => revokeSlot t d.toNat i) s) n)
    exec (.tenantCancel m n) s = performed (endRevoked { t with revoking := t.revoking ++ [(n, m.job, notes)] } n d.toNat) m := by
  show execTenantCancel m n s = _
  simp only [execTenantCancel, request_of_heard h, withTenant_of_granted hg hd, performed]

theorem exec_gzEvict_of_heard (h : Heard s m plainReq) {b : Nat} (hb : b < 2 ^ tdGzLog2 d.toNat) : exec (.gzEvict m n b) s = .next
    (if bkState (readBucket s d.toNat b) = 1 ∨ bkState (readBucket s d.toNat b) = 2 then
        answer (endWaiters (tombBucket s d.toNat b) n (hdSlot (bkHandle (readBucket s d.toNat b))) stStale) m rOk
      else answer s m rState) := by
  show execGzEvict m n b s = _
  simp only [execGzEvict, request_of_heard h, withTenant_of_granted hg hd, if_neg (Nat.not_le.2 hb), Bool.or_eq_true, decide_eq_true_eq]

end

/-! Model updates (R210, R211). -/

theorem exec_modelBegin_of_heard (h : Heard s m adminReq) (kind : TxnKind) (model : BitVec 128) {cores jobs : List Nat}
    (hc : ∀ c ∈ cores, c < 1088) (hj : ∀ j ∈ jobs, (s.job j).isSome = true) (hn : s.txn = none) :
    let n := s.txnCount
    let x : Txn := ⟨n, kind.patch, kind.attempts, model, cores, jobs, false, [], false, m.session, m.tag⟩
    let u := { s with txn := some x, txnCount := n + 1 }
    exec (.modelBegin m kind model cores jobs) s = .next (if recordHolds kind.attempts 0 = true then answer
        (jobs.foldl holdJob (usesModel (writeJournal u (jrMake n.toNat 1 kind.patch model.toNat)) model jobs)) m rAccepted
      else answer (abortTxn u x 0 0) m rAccepted) := by
  have hcores : cores.any (1088 ≤ ·) = false := by simpa using hc
  have hjobs : jobs.any (fun j => (s.job j).isNone) = false := by
    rw [List.any_eq_false]
    intro j hmem
    simp [Option.isNone_iff_eq_none, Option.isSome_iff_ne_none.1 (hj j hmem)]
  show execModelBegin m kind model cores jobs s = _
  simp only [execModelBegin, request_of_heard h, hcores, hjobs, hn, Option.isSome_none, Bool.or_self, Bool.false_eq_true, if_false]

section
variable {t : Txn} (ht : s.txn = some t)
include ht

theorem exec_modelRows_of_not_ready (h : Heard s m adminReq) (hb : t.begun = false ∨ txnBusy s t = true) (rows : List RowWrite) :
    exec (.modelRows m rows) s = .next (answer s m rState) := by
  show execModelRows m rows s = _
  simp only [execModelRows, request_of_heard h, ht]
  rw [if_pos (by simpa using hb)]

theorem exec_modelRows_of_fit (h : Heard s m adminReq) {rows : List RowWrite} (hb : t.begun = true) (hi : txnBusy s t = false)
    (hok : ∀ r ∈ rows, rowOk s t r = true) (hroom : t.patch = true → ∀ d, d < 4 →
      freeUndo t d + (rows.filter (fun r => clusterOf r.core / 4 == d)).length ≤ 32768) :
    exec (.modelRows m rows) s = performed (rows.foldl writeGroup s) m := by
  have hall : rows.all (rowOk s t) = true := List.all_eq_true.2 hok
  have hfits : (t.patch && (List.range 4).any (fun d =>
      32768 < freeUndo t d + (rows.filter (fun r => clusterOf r.core / 4 == d)).length)) = false := by
    rw [Bool.and_eq_false_iff, or_iff_not_imp_left, Bool.not_eq_false, List.any_eq_false]
    intro hp d hd
    simpa using hroom hp d (List.mem_range.1 hd)
  show execModelRows m rows s = _
  simp only [execModelRows, request_of_heard h, ht, hb, hi, hall, hfits]
  rfl

theorem exec_modelCommit_of_not_begun (h : Heard s m adminReq) (hb : t.begun = false) :
    exec (.modelCommit m) s = .next (answer s m rState) := by
  show execModelCommit m s = _
  simp only [execModelCommit, request_of_heard h, ht, hb]
  rfl

theorem exec_modelCommit_of_begun (h : Heard s m adminReq) (hb : t.begun = true) : exec (.modelCommit m) s = performed
    (if recordHolds t.attempts 1 = true then
        postEvent (finishTxn (writeJournal s (jrMake t.num.toNat 3 false t.model.toNat)) t) 0x8004 none [t.num.toNat]
      else abortTxn s t 0 0) m := by
  show execModelCommit m s = _
  simp only [execModelCommit, request_of_heard h, ht, hb]
  cases recordHolds t.attempts 1 <;> rfl

theorem exec_journalTxnStart_of_waiting (hp : s.power = .on) (hb : t.begun = false) : exec .journalTxnStart s = .next
    (if txnBusy s t = true then s else { s with txn := some { t with begun := true } }) := by
  show execJournalTxnStart s = _
  simp only [execJournalTxnStart, ht, hp, hb, ne_eq, not_true, decide_false, Bool.false_or]

end
end

/-- Settles O46: each request is heard, its guards hold or fail by the premises, and what is left is its effect. -/
theorem tenantAndModelRequests : Obligations.TenantAndModelRequests := by
  unfold Obligations.TenantAndModelRequests
  refine ⟨fun s m h => ⟨fun pool hd hn hl hok => exec_tenantCreate_of_heard h hd hn hl hok, fun j n d hj hn hd hg => ?grant⟩,
    fun s m n d hg hd => ⟨exec_tenantCancel_of_heard hg hd, fun h b hb => ?evict⟩,
    fun s m h => ⟨fun kind model cores jobs hc hj hn => ?begin, fun t ht => ⟨fun hb rows => exec_modelRows_of_not_ready ht h hb rows,
      exec_modelCommit_of_not_begun ht h, fun hb => ⟨fun rows hi hok hroom => exec_modelRows_of_fit ht h hb hi hok hroom, ?commit⟩⟩⟩,
    fun s t hp ht hb => ?start⟩
  case grant =>
    have hgrant := exec_tenantGrant_of_heard h hj hn hd hg
    exact ⟨fun hlt => hgrant.trans (congrArg Host.Outcome.next (if_neg (Nat.not_le.2 hlt))),
      fun hge => hgrant.trans (congrArg Host.Outcome.next (if_pos hge))⟩
  case evict =>
    have hevict := exec_gzEvict_of_heard hg hd h hb
    exact ⟨fun hst => hevict.trans (congrArg Host.Outcome.next (if_pos hst)),
      fun h1 h2 => hevict.trans (congrArg Host.Outcome.next (if_neg (not_or.2 ⟨h1, h2⟩)))⟩
  case begin =>
    have hbegin := exec_modelBegin_of_heard h kind model hc hj hn
    exact ⟨fun hr => hbegin.trans (congrArg Host.Outcome.next (if_pos hr)),
      fun hr => hbegin.trans (congrArg Host.Outcome.next (if_neg (by rw [hr]; decide)))⟩
  case commit =>
    have hcommit := exec_modelCommit_of_begun ht h hb
    exact ⟨fun hr => hcommit.trans (congrArg (performed · m) (if_pos hr)),
      fun hr => hcommit.trans (congrArg (performed · m) (if_neg (by rw [hr]; decide)))⟩
  case start =>
    have hstart := exec_journalTxnStart_of_waiting ht hp hb
    exact ⟨fun hbusy => hstart.trans (congrArg Host.Outcome.next (if_pos hbusy)),
      fun hbusy => hstart.trans (congrArg Host.Outcome.next (if_neg (by rw [hbusy]; decide)))⟩

end Sys2Proof.Machine
end

section
/-! SUPPORT. Memory in its canonical form: what keeps it, whatever else of the state changes. In the sections after this one
each function from which a step is built has one lemma, `Ordered.` with the function's name: a chain of calls is then
proved by a chain of dots. -/
namespace Sys2Proof
open Machine

variable {s t : State}

/-- What changes no memory keeps it in order. -/
theorem Ordered.of_mem (h : Ordered s) (e : t.mem = s.mem) : Ordered t := by rw [Ordered, e]; exact h

theorem Ordered.of_write {k bs} (h : Ordered s) (e : t.mem = s.mem.write k bs) : Ordered t := by
  rw [Ordered, e]; exact Memory.write_wf _ _ _ h

theorem Ordered.of_zero {k n} (h : Ordered s) (e : t.mem = s.mem.zero k n) : Ordered t := by
  rw [Ordered, e]; exact Memory.zero_wf _ _ _ h

theorem Ordered.of_filter {p} (h : Ordered s) (e : t.mem = s.mem.filter p) : Ordered t := by
  rw [Ordered, e]; exact Memory.filter_wf _ _ h

/-- The first component of a pair that is taken apart. -/
theorem Ordered.of_fst {α : Type} {p : State × α} {a : α} (h : Ordered p.1) (e : p = (t, a)) : Ordered t := by
  rw [e] at h; exact h

theorem Ordered.foldl {ι : Type} {f : State → ι → State} {l : List ι} (h : Ordered s)
    (hf : ∀ u i, Ordered u → Ordered (f u i)) : Ordered (l.foldl f s) :=
  l.foldlRecOn f h fun u hu i _ => hf u i hu

theorem Ordered.foldl_fst {ι α : Type} {f : State × α → ι → State × α} {l : List ι} {p : State × α}
    (h : Ordered p.1) (hf : ∀ u i, Ordered u.1 → Ordered (f u i).1) : Ordered (l.foldl f p).1 :=
  l.foldlRecOn (motive := fun u => Ordered u.1) f h fun u hu i _ => hf u i hu

theorem Ordered.foldl_st {ι : Type} {f : Mv → ι → Mv} {l : List ι} {m : Mv} (h : Ordered m.st)
    (hf : ∀ u i, Ordered u.st → Ordered (f u i).st) : Ordered (l.foldl f m).st :=
  l.foldlRecOn (motive := fun u => Ordered u.st) f h fun u hu i _ => hf u i hu

theorem Ordered.ite {c : Prop} [Decidable c] (h : Ordered s) (h' : Ordered t) : Ordered (if c then s else t) := by
  split
  · exact h
  · exact h'

theorem Ordered.fst_ite {α : Type} {c : Prop} [Decidable c] {p q : State × α} (h : Ordered p.1) (h' : Ordered q.1) :
    Ordered (if c then p else q).1 := by
  split
  · exact h
  · exact h'

/-- A step that goes on leaves memory in order. -/
def Steady (r : Res) : Prop := ∀ t, r = .next t → Ordered t

theorem Ordered.steady (h : Ordered t) : Steady (.next t) := fun _ e => Host.Outcome.next.inj e ▸ h

theorem Steady.fault {e} : Steady (.fault e) := fun _ => nofun

theorem Steady.refused {e} : Steady (.refused e) := fun _ => nofun

end Sys2Proof
end

section
/-! SUPPORT. Memory kept in order: Memories and their errors. -/
namespace Sys2Proof
open Machine

theorem Ordered.setErr {s k e} (h : Ordered s) : Ordered (s.setErr k e) := h.of_mem rfl

theorem Ordered.poisonAt {s k} (h : Ordered s) : Ordered (s.poisonAt k) := h.setErr

theorem Ordered.applyInjection {s k kind mask} (h : Ordered s) : Ordered (applyInjection s k kind mask) := h.setErr

theorem Ordered.fireInjections {s hit} (h : Ordered s) : Ordered (fireInjections s hit) := by
  unfold Machine.fireInjections
  refine h.foldl fun s1 c hs1 => ?_
  dsimp only
  split
  · split
    · exact hs1.of_mem rfl
    · exact hs1
  · exact hs1

theorem Ordered.arrayWritten {s k n} (h : Ordered s) : Ordered (arrayWritten s k n) := by
  unfold Machine.arrayWritten
  split
  · exact h
  · exact Ordered.fireInjections (h.of_mem rfl)

theorem Ordered.setTags {s k n tag} (h : Ordered s) : Ordered (s.setTags k n tag) := h.of_mem rfl

theorem Ordered.setCluster {s c v} (h : Ordered s) : Ordered (s.setCluster c v) := h.of_mem rfl

theorem Ordered.setCore {s c v} (h : Ordered s) : Ordered (s.setCore c v) := h.of_mem rfl

theorem Ordered.setCtx {s c x v} (h : Ordered s) : Ordered (s.setCtx c x v) := h.setCore

theorem Ordered.decisionDue {s cl} (h : Ordered s) : Ordered (s.decisionDue cl) := h.setCluster

theorem Ordered.freeCtx {s core x} (h : Ordered s) : Ordered (s.freeCtx core x) := h.setCtx.decisionDue

theorem Ordered.setJob {s j v} (h : Ordered s) : Ordered (s.setJob j v) := h.of_mem rfl

theorem Ordered.fresh {s} (h : Ordered s) : Ordered (fresh s).2 := h.of_mem rfl

theorem Ordered.openBytes {s n} (h : Ordered s) : Ordered (openBytes s n).1 := h.of_mem rfl

end Sys2Proof
end

section
/-! SUPPORT. Memory kept in order: Translation. -/
namespace Sys2Proof
open Machine

theorem Ordered.parityApply {s die j} (h : Ordered s) : Ordered (parityApply s die j) := h.of_mem rfl

theorem Ordered.dropCached {s asid va len} (h : Ordered s) : Ordered (dropCached s asid va len) :=
  h.of_mem (by simp only [Machine.dropCached])

end Sys2Proof
end

section
/-! SUPPORT. Memory kept in order: Reports, rings and errors. -/
namespace Sys2Proof
open Machine

theorem Ordered.setDesc {s k d} (h : Ordered s) : Ordered (s.setDesc k d) := h.put _ _

theorem Ordered.ringProduce {s dk asid entry} (h : Ordered s) : Ordered (ringProduce s dk asid entry).1 := by
  unfold Machine.ringProduce
  dsimp only
  split
  · exact h
  · split
    · exact h
    · exact (h.put _ _).setDesc

theorem Ordered.postNotice {s job kind addr detail} (h : Ordered s) : Ordered (postNotice s job kind addr detail) := by
  unfold Machine.postNotice
  dsimp only
  split
  · exact h
  · split
    · exact h
    · exact h.ringProduce.setJob

theorem Ordered.putDesc {s job va k d} (h : Ordered s) : Ordered (putDesc s job va k d) := by
  unfold Machine.putDesc
  split
  · exact h.postNotice
  · exact h.setDesc

theorem Ordered.emit {s m} (h : Ordered s) : Ordered (emit s m) := h.of_mem rfl

theorem Ordered.setSession {s n v} (h : Ordered s) : Ordered (s.setSession n v) := h.of_mem rfl

theorem Ordered.sessionEntry {s n} (h : Ordered s) : Ordered (sessionEntry s n) := by
  unfold Machine.sessionEntry
  dsimp only
  split
  · exact h
  · exact Ordered.setSession (Ordered.ringProduce (h.of_mem rfl))

theorem Ordered.emitEvent {s opcode job payload} (h : Ordered s) : Ordered (emitEvent s opcode job payload) := by
  unfold Machine.emitEvent
  refine h.emit.foldl fun t v ht => ?_
  split
  · exact ht.foldl fun _ _ hu => hu.sessionEntry
  · exact ht

theorem Ordered.setScore {s i v} (h : Ordered s) : Ordered (s.setScore i v) := h.of_mem rfl

theorem Ordered.chargeScore {s i n} (h : Ordered s) : Ordered (chargeScore s i n) := h.setScore

theorem Ordered.chargeCore {s cl i n} (h : Ordered s) : Ordered (chargeCore s cl i n) := by
  unfold Machine.chargeCore
  dsimp only
  split
  · exact h.chargeScore
  · exact h.setCluster

theorem Ordered.trimError {s cl i hard} (h : Ordered s) : Ordered (trimError s cl i hard) := by
  unfold Machine.trimError
  dsimp only
  split
  · exact h.setCluster
  · split
    · split
      · exact h.of_mem rfl
      · exact h.setCluster
    · exact h.setCluster

theorem Ordered.chargeError {s k cls} (h : Ordered s) : Ordered (chargeError s k cls) := by
  unfold Machine.chargeError
  dsimp only
  split
  · exact h.chargeScore
  · split
    · exact h.chargeCore.trimError
    · split
      · exact h.chargeCore.trimError
      · exact h.chargeCore

theorem Ordered.logError {s arr record} (h : Ordered s) : Ordered (logError s arr record) := by
  unfold Machine.logError
  dsimp only
  split
  · exact h
  · split
    · exact h.ringProduce.of_mem rfl
    · exact Ordered.postNotice (h.ringProduce.of_mem rfl)

theorem Ordered.reportError {s k cls storedTag accessTag who} (h : Ordered s) :
    Ordered (reportError s k cls storedTag accessTag who) :=
  h.fresh.logError.chargeError

theorem Ordered.weightLost {s l} (h : Ordered s) : Ordered (weightLost s l) := by
  unfold Machine.weightLost
  dsimp only
  split
  · exact h.poisonAt
  · exact h.poisonAt.emitEvent

theorem Ordered.copyReadErr {s l tag w} (h : Ordered s) : Ordered (copyReadErr s l tag w).1 := by
  unfold Machine.copyReadErr
  extract_lets
  split
  · exact h
  · split
    · exact h.reportError.setErr
    · split
      · exact h.reportError
      · split
        · exact h.reportError.weightLost
        · exact h.reportError

theorem Ordered.copyReadLocs {s ls tag w} (h : Ordered s) : Ordered (copyReadLocs s ls tag w).1 := by
  unfold Machine.copyReadLocs
  refine h.foldl_fst fun p l hp => ?_
  dsimp only
  split <;> exact hp.copyReadErr

theorem Ordered.copyReadErrs {s k n tag w} (h : Ordered s) : Ordered (copyReadErrs s k n tag w).1 := by
  unfold Machine.copyReadErrs
  split
  · exact h
  · exact h.copyReadLocs

theorem Ordered.meet {s k n tag w} (h : Ordered s) : Ordered (meet s k n tag w) := h.copyReadErrs

theorem Ordered.readErr {s l who} (h : Ordered s) : Ordered (readErr s l who).1 := by
  unfold Machine.readErr
  dsimp only
  split
  · exact h
  · split
    · refine (Ordered.reportError ?_).setErr
      split
      · split
        · exact h.fresh.of_write rfl
        · exact h
      · split
        · exact h.fresh.of_write rfl
        · exact h
    · split
      · exact h.reportError
      · split
        · exact h.reportError.weightLost
        · exact h.reportError.poisonAt

theorem Ordered.readLocs {s locs who} (h : Ordered s) : Ordered (readLocs s locs who).1 := by
  unfold Machine.readLocs
  refine h.foldl_fst fun a l ha => ?_
  dsimp only
  exact ha.readErr

theorem Ordered.readChecked {s k n who} (h : Ordered s) : Ordered (readChecked s k n who).1 := by
  unfold Machine.readChecked
  split
  · exact h
  · exact h.readLocs

theorem Ordered.readArray {s k n who} (h : Ordered s) : Ordered (readArray s k n who).1 := by
  unfold Machine.readArray
  split
  · exact h
  · exact h.readLocs

end Sys2Proof
end

section
/-! SUPPORT. Memory kept in order: Named operations of a context. -/
namespace Sys2Proof
open Machine

theorem Ordered.setMe {s v} (h : Ordered s) : Ordered (s.setMe v) := h.setCtx

theorem Ordered.setArch {s a} (h : Ordered s) : Ordered (s.setArch a) := h.setMe

theorem Ordered.setMyCore {s v} (h : Ordered s) : Ordered (s.setMyCore v) := h.setCore

theorem Ordered.undoRows {s core rows} (h : Ordered s) :
    Ordered (undoRows s core rows) := h.foldl fun _ _ hs1 => hs1.put _ _

theorem Ordered.rollback {s core x} (h : Ordered s) : Ordered (rollback s core x) := h.undoRows.arrayWritten.setCore

theorem Ordered.afterRollback {s core x t oldResult} (h : Ordered s) :
    Ordered (afterRollback s core x t oldResult) := by
  unfold Machine.afterRollback
  dsimp only
  split
  · repeat' split
    all_goals exact h.setCtx
  · split <;> exact h.setCtx
  · repeat' split
    all_goals exact h.setCtx
  · exact h
  · split <;> exact h.setCtx

theorem Ordered.readShadow {s core x} (h : Ordered s) : Ordered (readShadow s core x).1 := h.readArray

theorem Ordered.takeTrap {s core x t oldResult} (h : Ordered s) : Ordered (takeTrap s core x t oldResult) := by
  unfold Machine.takeTrap
  dsimp only
  split
  · exact h.setCtx.readShadow.setCtx
  · exact h.setCtx.readShadow.rollback.afterRollback

theorem Ordered.raise {s cause code tval} (h : Ordered s) : Ordered (raise s cause code tval) := h.takeTrap.of_mem rfl

theorem Ordered.raiseTrap {s code} (h : Ordered s) : Ordered (raiseTrap s code) := h.raise

theorem Ordered.pushResult {s dest v lat own trap} (h : Ordered s) : Ordered (pushResult s dest v lat own trap) := by
  unfold Machine.pushResult
  dsimp only
  split
  · exact h.raiseTrap
  · exact h.setArch

theorem Ordered.push {s dest v cls} (h : Ordered s) : Ordered (push s dest v cls) := h.pushResult

theorem Ordered.pushScalar {s n v} (h : Ordered s) : Ordered (pushScalar s n v) := h.push

theorem Ordered.pushPair {s n c} (h : Ordered s) : Ordered (pushPair s n c) := h.push

theorem Ordered.pushLatch {s w v trap} (h : Ordered s) : Ordered (pushLatch s w v trap) := by
  unfold Machine.pushLatch
  dsimp only
  split
  · exact h.raiseTrap
  · exact h.setArch

theorem Ordered.pushRows {s rows lat own trap} (h : Ordered s) : Ordered (pushRows s rows lat own trap) := by
  unfold Machine.pushRows
  dsimp only
  split
  · exact h
  · split
    · exact h.raiseTrap
    · exact h.setArch

theorem Ordered.setForm {s core line v} (h : Ordered s) : Ordered (s.setForm core line v) := h.of_mem rfl

theorem Ordered.raiseFlaw {s f} (h : Ordered s) : Ordered (raiseFlaw s f) := h.raise

theorem Ordered.readEccMany {s sp rs} (h : Ordered s) : Ordered (readEccMany s sp rs).1 := by
  unfold Machine.readEccMany
  dsimp only
  split
  · exact h
  · exact h.foldl_fst fun _ _ hp => hp.readErr

theorem Ordered.readEcc {s sp a n} (h : Ordered s) : Ordered (readEcc s sp a n).1 := h.readEccMany

theorem Ordered.withholdStore {s bs} (h : Ordered s) : Ordered (withholdStore s bs) := h.setMe

theorem Ordered.withholdCmd {s ch id scope k} (h : Ordered s) : Ordered (withholdCmd s ch id scope k) := h.setMe

theorem Ordered.takeId {s ch} (h : Ordered s) : Ordered (takeId s ch).2 := h.setArch

theorem Ordered.setNext {s pc} (h : Ordered s) : Ordered (setNext s pc) := h.of_mem rfl

theorem Ordered.addBubble {s n} (h : Ordered s) : Ordered (addBubble s n) := h.setMe

end Sys2Proof
end

section
/-! SUPPORT. Memory kept in order: Operand forms. -/
namespace Sys2Proof
open Machine

theorem Ordered.ifOk {s f} (h : Ordered s) (hf : ∀ u, Ordered u → Ordered (f u)) : Ordered (ifOk s f) := by
  unfold Machine.ifOk
  split
  · exact h
  · exact hf _ h

end Sys2Proof
end

section
/-! SUPPORT. Memory kept in order: C-slot instructions. -/
namespace Sys2Proof
open Machine

theorem Ordered.transfer {s pc cost} (h : Ordered s) : Ordered (transfer s pc cost) := h.setNext.addBubble

theorem Ordered.execJ {f s} (h : Ordered s) : Steady (execJ f s) := h.transfer.steady

theorem Ordered.execJr {f s} (h : Ordered s) : Steady (execJr f s) := h.transfer.steady

theorem Ordered.execCall {f s} (h : Ordered s) :
    Steady (execCall f s) := (h.pushScalar.ifOk fun _ hs1 => hs1.transfer).steady

theorem Ordered.execRet {f s} (h : Ordered s) : Steady (execRet f s) := h.transfer.steady

theorem Ordered.execLoop {f s} (h : Ordered s) : Steady (execLoop f s) := by
  unfold Machine.execLoop
  extract_lets
  split
  · exact h.transfer.steady
  · exact h.setArch.steady

theorem Ordered.execLbrk {f s} (h : Ordered s) : Steady (execLbrk f s) := by
  unfold Machine.execLbrk
  dsimp only
  split
  · exact h.setArch.transfer.steady
  · exact h.steady

theorem Ordered.padCount {s b d} (h : Ordered s) : Ordered (padCount s b d).2 := by
  unfold Machine.padCount
  split
  · exact h
  · exact h.fresh

theorem Ordered.execBsel {f s} (h : Ordered s) : Steady (execBsel f s) := by
  unfold Machine.execBsel
  dsimp only
  split
  · exact h.raise.steady
  · split
    · exact h.raise.steady
    · split
      · exact h.raise.steady
      · exact (h.readEcc.padCount.pushResult.ifOk fun _ h1 => h1.push.ifOk fun _ h2 => h2.push.ifOk fun _ h3 =>
          h3.transfer).steady

theorem Ordered.lend {s m} (h : Ordered s) : Ordered (lend s m) := by
  unfold Machine.lend
  split
  · exact h
  · split
    · exact h.raiseTrap
    · exact h.pushResult

theorem Ordered.execLendC {f s} (h : Ordered s) : Steady (execLendC f s) := h.lend.steady

theorem Ordered.execLendV {f s} (h : Ordered s) : Steady (execLendV f s) := h.lend.steady

theorem Ordered.execTrap {f s} (h : Ordered s) : Steady (execTrap f s) := h.raise.steady

theorem Ordered.execBrk {f s} (h : Ordered s) : Steady (execBrk f s) := h.raise.steady

theorem Ordered.execSysr {f s} (h : Ordered s) : Steady (execSysr f s) := by
  unfold Machine.execSysr
  split
  · exact h.raiseTrap.steady
  · exact h.pushScalar.steady

theorem Ordered.execSysw {f s} (h : Ordered s) : Steady (execSysw f s) := by
  unfold Machine.execSysw
  dsimp only
  split
  · exact h.setMe.steady
  · exact h.raiseTrap.steady

theorem Ordered.dropCopies {s core} (h : Ordered s) : Ordered (dropCopies s core) := by
  unfold Machine.dropCopies
  dsimp only
  split <;> exact h.setCore

theorem Ordered.execIcinv {f s} (h : Ordered s) : Steady (execIcinv f s) := by
  unfold Machine.execIcinv
  refine (h.foldl fun t c ht => ?_).steady
  split
  · exact ht.dropCopies
  · exact ht

theorem Ordered.execTick {f s} (h : Ordered s) : Steady (execTick f s) := h.pushScalar.steady

theorem Ordered.execIdle {f s} (h : Ordered s) : Steady (execIdle f s) := h.setArch.steady

end Sys2Proof
end

section
/-! SUPPORT. Memory kept in order: S-slot instructions. -/
namespace Sys2Proof
open Machine

theorem Ordered.execSR {f s cls g} (h : Ordered s) : Ordered (execSR f s cls g) := h.push

theorem Ordered.execSI {f s g} (h : Ordered s) : Ordered (execSI f s g) := h.push

theorem Ordered.occupyDiv {s} (h : Ordered s) : Ordered (occupyDiv s) := h.setMyCore

theorem Ordered.occupyPort {s n} (h : Ordered s) : Ordered (occupyPort s n) := h.setMyCore

theorem Ordered.execAdd {f s} (h : Ordered s) : Steady (execAdd f s) := h.execSR.steady

theorem Ordered.execSub {f s} (h : Ordered s) : Steady (execSub f s) := h.execSR.steady

theorem Ordered.execMul {f s} (h : Ordered s) : Steady (execMul f s) := h.execSR.steady

theorem Ordered.execMulh {f s} (h : Ordered s) : Steady (execMulh f s) := h.execSR.steady

theorem Ordered.execMulhn {f s} (h : Ordered s) : Steady (execMulhn f s) := h.execSR.steady

theorem Ordered.execDiv {f s} (h : Ordered s) : Steady (execDiv f s) := h.occupyDiv.execSR.steady

theorem Ordered.execRem {f s} (h : Ordered s) : Steady (execRem f s) := h.occupyDiv.execSR.steady

theorem Ordered.execAnd {f s} (h : Ordered s) : Steady (execAnd f s) := h.execSR.steady

theorem Ordered.execOr {f s} (h : Ordered s) : Steady (execOr f s) := h.execSR.steady

theorem Ordered.execXor {f s} (h : Ordered s) : Steady (execXor f s) := h.execSR.steady

theorem Ordered.execAndn {f s} (h : Ordered s) : Steady (execAndn f s) := h.execSR.steady

theorem Ordered.execShl {f s} (h : Ordered s) : Steady (execShl f s) := h.execSR.steady

theorem Ordered.execShr {f s} (h : Ordered s) : Steady (execShr f s) := h.execSR.steady

theorem Ordered.execSar {f s} (h : Ordered s) : Steady (execSar f s) := h.execSR.steady

theorem Ordered.execMin {f s} (h : Ordered s) : Steady (execMin f s) := h.execSR.steady

theorem Ordered.execMax {f s} (h : Ordered s) : Steady (execMax f s) := h.execSR.steady

theorem Ordered.execMinn {f s} (h : Ordered s) : Steady (execMinn f s) := h.execSR.steady

theorem Ordered.execMaxn {f s} (h : Ordered s) : Steady (execMaxn f s) := h.execSR.steady

theorem Ordered.execClz {f s} (h : Ordered s) : Steady (execClz f s) := h.execSR.steady

theorem Ordered.execCtz {f s} (h : Ordered s) : Steady (execCtz f s) := h.execSR.steady

theorem Ordered.execPopc {f s} (h : Ordered s) : Steady (execPopc f s) := h.execSR.steady

theorem Ordered.execSext {f s} (h : Ordered s) : Steady (execSext f s) := h.execSR.steady

theorem Ordered.execZext {f s} (h : Ordered s) : Steady (execZext f s) := h.execSR.steady

theorem Ordered.execSel {f s} (h : Ordered s) : Steady (execSel f s) := h.execSR.steady

theorem Ordered.execMaddr {f s} (h : Ordered s) : Steady (execMaddr f s) := h.push.steady

theorem Ordered.execAddi {f s} (h : Ordered s) : Steady (execAddi f s) := h.execSI.steady

theorem Ordered.execAndi {f s} (h : Ordered s) : Steady (execAndi f s) := h.execSI.steady

theorem Ordered.execOri {f s} (h : Ordered s) : Steady (execOri f s) := h.execSI.steady

theorem Ordered.execXori {f s} (h : Ordered s) : Steady (execXori f s) := h.execSI.steady

theorem Ordered.execShli {f s} (h : Ordered s) : Steady (execShli f s) := h.execSI.steady

theorem Ordered.execShri {f s} (h : Ordered s) : Steady (execShri f s) := h.execSI.steady

theorem Ordered.execSari {f s} (h : Ordered s) : Steady (execSari f s) := h.execSI.steady

theorem Ordered.execLi {f s} (h : Ordered s) : Steady (execLi f s) := h.push.steady

theorem Ordered.execLih {f s} (h : Ordered s) : Steady (execLih f s) := h.push.steady

theorem Ordered.execCmp {f s} (h : Ordered s) : Steady (execCmp f s) := h.pushPair.steady

theorem Ordered.execCmpi {f s} (h : Ordered s) : Steady (execCmpi f s) := h.pushPair.steady

theorem Ordered.execPand {f s} (h : Ordered s) : Steady (execPand f s) := h.pushPair.steady

theorem Ordered.execPor {f s} (h : Ordered s) : Steady (execPor f s) := h.pushPair.steady

theorem Ordered.execPxor {f s} (h : Ordered s) : Steady (execPxor f s) := h.pushPair.steady

theorem Ordered.execPset {f s} (h : Ordered s) : Steady (execPset f s) := h.pushPair.steady

theorem Ordered.scalarLoad {f s sp cls} (h : Ordered s) : Ordered (scalarLoad f s sp cls) := by
  unfold Machine.scalarLoad
  dsimp only
  split
  · exact h.raiseFlaw
  · exact h.readEcc.pushResult

theorem Ordered.scalarStore {f s sp} (h : Ordered s) : Ordered (scalarStore f s sp) := by
  unfold Machine.scalarStore
  dsimp only
  split
  · exact h.raiseFlaw
  · exact h.withholdStore

theorem Ordered.execLda {f s} (h : Ordered s) : Steady (execLda f s) := h.scalarLoad.steady

theorem Ordered.execSta {f s} (h : Ordered s) : Steady (execSta f s) := h.scalarStore.steady

theorem Ordered.execLdc {f s} (h : Ordered s) : Steady (execLdc f s) := h.scalarLoad.steady

theorem Ordered.execStc {f s} (h : Ordered s) : Steady (execStc f s) := h.scalarStore.steady

theorem Ordered.execLdw {f s} (h : Ordered s) : Steady (execLdw f s) := h.occupyPort.scalarLoad.steady

end Sys2Proof
end

section
/-! SUPPORT. Memory kept in order: V-slot instructions. -/
namespace Sys2Proof
open Machine

theorem Ordered.ownV {s l f} (h : Ordered s) (hf : ∀ u, Ordered u → Ordered (f u)) : Ordered (ownV s l f) := by
  unfold Machine.ownV
  split
  · exact hf _ h
  · exact h.raiseTrap

theorem Ordered.pushTwice {s d v} (h : Ordered s) : Ordered (pushTwice s d v) := h.pushResult

theorem Ordered.elemVR {f s cls g} (h : Ordered s) : Ordered (elemVR f s cls g) := h.ownV fun _ hs1 => hs1.push

theorem Ordered.floatVR {f s g} (h : Ordered s) : Ordered (floatVR f s g) := h.elemVR

theorem Ordered.execVadd {f s} (h : Ordered s) : Steady (execVadd f s) := h.floatVR.steady

theorem Ordered.execVsub {f s} (h : Ordered s) : Steady (execVsub f s) := h.floatVR.steady

theorem Ordered.execVmul {f s} (h : Ordered s) : Steady (execVmul f s) := h.floatVR.steady

theorem Ordered.execVfma {f s} (h : Ordered s) : Steady (execVfma f s) := h.floatVR.steady

theorem Ordered.execVfms {f s} (h : Ordered s) : Steady (execVfms f s) := h.floatVR.steady

theorem Ordered.execVmin {f s} (h : Ordered s) : Steady (execVmin f s) := h.floatVR.steady

theorem Ordered.execVmax {f s} (h : Ordered s) : Steady (execVmax f s) := h.floatVR.steady

theorem Ordered.signVR {f s g} (h : Ordered s) : Ordered (signVR f s g) := h.elemVR

theorem Ordered.execVabs {f s} (h : Ordered s) : Steady (execVabs f s) := h.signVR.steady

theorem Ordered.execVneg {f s} (h : Ordered s) : Steady (execVneg f s) := h.signVR.steady

theorem Ordered.occupyXc {s} (h : Ordered s) : Ordered (occupyXc s) := h.setMyCore

theorem Ordered.xcVR {f s g} (h : Ordered s) : Ordered (xcVR f s g) := h.occupyXc.elemVR

theorem Ordered.execVexp2 {f s} (h : Ordered s) : Steady (execVexp2 f s) := h.xcVR.steady

theorem Ordered.execVlog2 {f s} (h : Ordered s) : Steady (execVlog2 f s) := h.xcVR.steady

theorem Ordered.execVrcp {f s} (h : Ordered s) : Steady (execVrcp f s) := h.xcVR.steady

theorem Ordered.execVrsq {f s} (h : Ordered s) : Steady (execVrsq f s) := h.xcVR.steady

theorem Ordered.intVR {f s cls g} (h : Ordered s) : Ordered (intVR f s cls g) := h.elemVR

theorem Ordered.execViadd {f s} (h : Ordered s) : Steady (execViadd f s) := h.intVR.steady

theorem Ordered.execVisub {f s} (h : Ordered s) : Steady (execVisub f s) := h.intVR.steady

theorem Ordered.execVimul {f s} (h : Ordered s) : Steady (execVimul f s) := h.intVR.steady

theorem Ordered.execVand {f s} (h : Ordered s) : Steady (execVand f s) := h.elemVR.steady

theorem Ordered.execVor {f s} (h : Ordered s) : Steady (execVor f s) := h.elemVR.steady

theorem Ordered.execVxor {f s} (h : Ordered s) : Steady (execVxor f s) := h.elemVR.steady

theorem Ordered.execVshl {f s} (h : Ordered s) : Steady (execVshl f s) := h.elemVR.steady

theorem Ordered.execVshr {f s} (h : Ordered s) : Steady (execVshr f s) := h.elemVR.steady

theorem Ordered.execVsar {f s} (h : Ordered s) : Steady (execVsar f s) := h.elemVR.steady

theorem Ordered.cmpVR {f s cls test} (h : Ordered s) : Ordered (cmpVR f s cls test) := h.ownV fun _ hs1 => hs1.push

theorem Ordered.execVcmp {f s} (h : Ordered s) : Steady (execVcmp f s) := h.cmpVR.steady

theorem Ordered.execVicmp {f s} (h : Ordered s) : Steady (execVicmp f s) := h.cmpVR.steady

theorem Ordered.execVsel {f s} (h : Ordered s) : Steady (execVsel f s) := (h.ownV fun _ hs1 => hs1.push).steady

theorem Ordered.execVbcst {f s} (h : Ordered s) : Steady (execVbcst f s) := (h.ownV fun _ hs1 => hs1.push).steady

theorem Ordered.execVmovs {f s} (h : Ordered s) : Steady (execVmovs f s) := by
  unfold Machine.execVmovs
  dsimp only
  refine (h.ownV fun s1 hs1 => ?_).steady
  split <;> exact hs1.push

theorem Ordered.execVperm {f s} (h : Ordered s) : Steady (execVperm f s) := (h.ownV fun _ hs1 => hs1.push).steady

theorem Ordered.execVrot {f s} (h : Ordered s) : Steady (execVrot f s) := (h.ownV fun _ hs1 => hs1.push).steady

theorem Ordered.execVcvt {f s} (h : Ordered s) : Steady (execVcvt f s) := (h.ownV fun _ hs1 => hs1.push).steady

theorem Ordered.execVpack {f s} (h : Ordered s) : Steady (execVpack f s) := (h.ownV fun _ hs1 => hs1.push).steady

theorem Ordered.execVunpk {f s} (h : Ordered s) : Steady (execVunpk f s) := (h.ownV fun _ hs1 => hs1.push).steady

theorem Ordered.execVbscl {f s} (h : Ordered s) : Steady (execVbscl f s) := by
  unfold Machine.execVbscl
  refine (h.ownV fun s1 hs1 => ?_).steady
  dsimp only
  split <;> exact hs1.push

theorem Ordered.lane0 {f s x} (h : Ordered s) : Ordered (lane0 f s x) := h.pushTwice

theorem Ordered.execVrsum {f s} (h : Ordered s) : Steady (execVrsum f s) := (h.ownV fun _ hs1 => hs1.lane0).steady

theorem Ordered.execVrmax {f s} (h : Ordered s) : Steady (execVrmax f s) := (h.ownV fun _ hs1 => hs1.lane0).steady

theorem Ordered.execVrmin {f s} (h : Ordered s) : Steady (execVrmin f s) := (h.ownV fun _ hs1 => hs1.lane0).steady

theorem Ordered.execVscan {f s} (h : Ordered s) : Steady (execVscan f s) := (h.ownV fun _ hs1 => hs1.pushTwice).steady

theorem Ordered.execVkey {f s} (h : Ordered s) : Steady (execVkey f s) := h.elemVR.steady

theorem Ordered.execVhist {f s} (h : Ordered s) : Steady (execVhist f s) := (h.ownV fun _ hs1 => hs1.pushTwice).steady

theorem Ordered.vecLoad {f s sp cls} (h : Ordered s) : Ordered (vecLoad f s sp cls) := by
  unfold Machine.vecLoad
  refine h.ownV fun s1 hs1 => ?_
  dsimp only
  split
  · exact hs1.raiseFlaw
  · exact hs1.readEccMany.pushResult

theorem Ordered.vecStore {f s sp} (h : Ordered s) : Ordered (vecStore f s sp) := by
  unfold Machine.vecStore
  refine h.ownV fun s1 hs1 => ?_
  dsimp only
  split
  · exact hs1.raiseFlaw
  · exact hs1.withholdStore

theorem Ordered.execVlda {f s} (h : Ordered s) : Steady (execVlda f s) := h.vecLoad.steady

theorem Ordered.execVsta {f s} (h : Ordered s) : Steady (execVsta f s) := h.vecStore.steady

theorem Ordered.execVldc {f s} (h : Ordered s) : Steady (execVldc f s) := h.vecLoad.steady

theorem Ordered.execVstc {f s} (h : Ordered s) : Steady (execVstc f s) := h.vecStore.steady

theorem Ordered.execVglda {f s} (h : Ordered s) : Steady (execVglda f s) := by
  unfold Machine.execVglda
  refine (h.ownV fun s1 hs1 => ?_).steady
  dsimp only
  split
  · exact hs1.raiseFlaw
  · exact hs1.readEccMany.pushResult

theorem Ordered.execVmovq {f s} (h : Ordered s) : Steady (execVmovq f s) := by
  unfold Machine.execVmovq
  refine (h.ownV fun s1 hs1 => ?_).steady
  dsimp only
  split
  · exact hs1.raiseTrap
  · split
    · exact hs1.raiseTrap
    · split
      · exact hs1
      · exact hs1.readEccMany.setArch.pushResult

theorem Ordered.execKand {f s} (h : Ordered s) : Steady (execKand f s) := h.push.steady

theorem Ordered.execKor {f s} (h : Ordered s) : Steady (execKor f s) := h.push.steady

theorem Ordered.execKnot {f s} (h : Ordered s) : Steady (execKnot f s) := h.push.steady

theorem Ordered.execKset {f s} (h : Ordered s) : Steady (execKset f s) := h.push.steady

theorem Ordered.execKpop {f s} (h : Ordered s) : Steady (execKpop f s) := h.pushScalar.steady

end Sys2Proof
end

section
/-! SUPPORT. Memory kept in order: M-slot instructions. -/
namespace Sys2Proof
open Machine

theorem Ordered.ownM {s l f} (h : Ordered s) (hf : ∀ u, Ordered u → Ordered (f u)) : Ordered (ownM s l f) := by
  unfold Machine.ownM
  split
  · exact hf _ h
  · exact h.raiseTrap

theorem Ordered.latchLoad {f s sp} (h : Ordered s) : Ordered (latchLoad f s sp) := by
  unfold Machine.latchLoad
  dsimp only
  split
  · exact h.raiseFlaw
  · exact h.readEcc.pushLatch

theorem Ordered.execMlat {f s} (h : Ordered s) : Steady (execMlat f s) := h.occupyPort.latchLoad.steady

theorem Ordered.execMlata {f s} (h : Ordered s) : Steady (execMlata f s) := h.latchLoad.steady

theorem Ordered.execMlatq {f s} (h : Ordered s) : Steady (execMlatq f s) := by
  unfold Machine.execMlatq
  refine Ordered.steady ?_
  dsimp only
  split
  · exact h.raiseTrap
  · split
    · exact h.raiseTrap
    · split
      · exact h
      · exact h.readEcc.setArch.pushLatch

theorem Ordered.execMset {f s} (h : Ordered s) : Steady (execMset f s) := by
  unfold Machine.execMset
  dsimp only
  refine Ordered.steady ?_
  split
  · exact h.push
  · exact h.raise

theorem Ordered.startM {s} (h : Ordered s) : Ordered (startM s) := h.setArch

theorem Ordered.startD {s} (h : Ordered s) : Ordered (startD s) := h.setArch

theorem Ordered.occupyArray {s w m} (h : Ordered s) : Ordered (occupyArray s w m) := h.setMyCore

theorem Ordered.arrayOp {f s src bad align} (h : Ordered s) : Ordered (arrayOp f s src bad align) := by
  unfold Machine.arrayOp
  dsimp only
  split
  · exact h.startM.raise
  · split
    · exact h.startM.raise
    · split
      · exact h.startM.raiseFlaw
      · exact h.startM.readEccMany.occupyArray.pushRows

theorem Ordered.execMma {f s} (h : Ordered s) : Steady (execMma f s) := by
  unfold Machine.execMma
  dsimp only
  exact h.arrayOp.steady

theorem Ordered.execMmav {f s} (h : Ordered s) : Steady (execMmav f s) := (h.ownM fun _ hs1 => hs1.arrayOp).steady

theorem Ordered.execMshape {f s} (h : Ordered s) : Steady (execMshape f s) := by
  unfold Machine.execMshape
  dsimp only
  refine Ordered.steady ?_
  split
  · exact h.raiseFlaw
  · split
    · exact h.raise
    · exact h.readEcc.pushResult

theorem Ordered.execMpad {f s} (h : Ordered s) : Steady (execMpad f s) := by
  unfold Machine.execMpad
  extract_lets
  refine Ordered.steady ?_
  split
  · exact h.raise
  · exact h.push

theorem Ordered.execMconv {f s} (h : Ordered s) : Steady (execMconv f s) := by
  unfold Machine.execMconv
  dsimp only
  exact h.arrayOp.steady

theorem Ordered.execMzero {f s} (h : Ordered s) : Steady (execMzero f s) := by
  unfold Machine.execMzero
  dsimp only
  refine Ordered.steady ?_
  split
  · exact h.raise
  · split
    · exact h.raiseFlaw
    · exact h.pushRows

theorem Ordered.execMdrain {f s} (h : Ordered s) : Steady (execMdrain f s) := by
  unfold Machine.execMdrain
  dsimp only
  refine (h.ownM fun s1 hs1 => ?_).steady
  split
  · exact hs1.startM.raiseFlaw
  · split
    · exact hs1.startM.readEcc.pushResult
    · split
      · exact hs1.startM.readEcc.withholdStore
      · exact hs1.startM.readEcc.withholdStore.setArch

theorem Ordered.occupyDot {s t} (h : Ordered s) : Ordered (occupyDot s t) := h.setMyCore

theorem Ordered.dotOp {f s acc} (h : Ordered s) : Ordered (dotOp f s acc) := by
  unfold Machine.dotOp
  refine h.ownM fun s1 hs1 => ?_
  dsimp only
  split
  · exact hs1.startD.raise
  · split
    · exact hs1.startD.raiseFlaw
    · exact hs1.startD.readEccMany.occupyDot.pushResult

theorem Ordered.execDot {f s} (h : Ordered s) : Steady (execDot f s) := h.dotOp.steady

theorem Ordered.execDotacc {f s} (h : Ordered s) : Steady (execDotacc f s) := h.dotOp.steady

end Sys2Proof
end

section
/-! SUPPORT. Memory kept in order: What leaves over the links. -/
namespace Sys2Proof
open Machine

theorem Ordered.setLink {s l v} (h : Ordered s) : Ordered (s.setLink l v) := h.of_mem rfl

theorem Ordered.sendFlit {s l plain} (h : Ordered s) : Ordered (sendFlit s l plain) := h.setLink.emit

theorem Ordered.resend {s l seq} (h : Ordered s) : Ordered (resend s l seq) := h.foldl fun _ _ ht => ht.emit

theorem Ordered.sendBundle {s job} (h : Ordered s) : Ordered (sendBundle s job) := by
  unfold Machine.sendBundle
  dsimp only
  split
  · exact h
  · split
    · exact h
    · split
      · exact h
      · split
        · exact h.setJob.emit.sendFlit
        · exact h.setJob.emit

theorem Ordered.sendBundles {s} (h : Ordered s) : Ordered (sendBundles s) := h.foldl fun _ _ ht => ht.sendBundle

end Sys2Proof
end

section
/-! SUPPORT. Memory kept in order: Accesses by copy engines and the device. -/
namespace Sys2Proof
open Machine

theorem Ordered.fillDie {s die asid va x} (h : Ordered s) : Ordered (fillDie s die asid va x) := by
  unfold Machine.fillDie
  dsimp only
  split <;> exact h.of_mem rfl

theorem Ordered.fillCaches {s cl u asid va x} (h : Ordered s) :
    Ordered (fillCaches s cl u asid va x) := h.setCluster.fillDie

theorem Ordered.meetWalk {s job asid va} (h : Ordered s) : Ordered (meetWalk s job asid va) := by
  unfold Machine.meetWalk
  split
  · exact h
  · exact h.foldl fun _ _ ht => ht.meet

theorem Ordered.translate {s e va p wr} (h : Ordered s) : Ordered (translate s e va p wr).1 := by
  unfold Machine.translate
  dsimp only
  split
  · exact h
  · split
    · exact h.meetWalk.fillCaches
    · exact h.meetWalk

theorem Ordered.locate {s e a len wr} (h : Ordered s) : Ordered (locate s e a len wr).1 := by
  unfold Machine.locate
  extract_lets
  dsimp only
  split
  · exact h
  · split
    · exact h
    · split
      · exact h
      · split
        · repeat' split
          all_goals exact h
        · split
          · repeat' split
            all_goals exact h
          · split
            next he5 => exact h.translate.of_fst he5
            next he5 =>
              repeat' split
              all_goals exact h.translate.of_fst he5

theorem Ordered.putLog {s job at' bs} (h : Ordered s) : Ordered (putLog s job at' bs) := by
  unfold Machine.putLog
  split
  · exact h.postNotice
  · refine h.foldl fun t p ht => ?_
    split
    · exact ht.of_write rfl
    · exact ht

theorem Ordered.logSector {s job ctx sector} (h : Ordered s) : Ordered (logSector s job ctx sector) := by
  unfold Machine.logSector
  split
  · exact h
  · split
    · exact h
    · extract_lets j1 e s1
      have h1 : Ordered s1 := by
        dsimp only [s1]
        split
        · exact h.putLog
        · exact h
      clear_value s1
      split
      · exact h.setJob
      · split
        · exact h1.setJob
        · exact h1

theorem Ordered.logWrite {s job ctx k n} (h : Ordered s) : Ordered (logWrite s job ctx k n) := by
  unfold Machine.logWrite
  split
  · exact h
  · split
    · exact h
    · exact h.foldl fun _ _ hs1 => hs1.logSector

theorem Ordered.pinNotice {s asid page} (h : Ordered s) : Ordered (pinNotice s asid page) := h.postNotice

theorem Ordered.countAccess {s asid va leafAt src} (h : Ordered s) : Ordered (countAccess s asid va leafAt src) := by
  unfold Machine.countAccess
  extract_lets _ _ s11 _ s21
  have hs21 : Ordered s21 := by
    dsimp only [s21]
    split
    · split
      · exact Ordered.of_mem (h.of_write rfl) rfl
      · exact h.of_write rfl
    · exact h.of_write rfl
  clear_value s21
  split
  · exact h
  · split
    · exact hs21.emit.pinNotice
    · exact hs21

theorem Ordered.viewPlace {s e sp} (h : Ordered s) : Ordered (viewPlace s e sp).1 := by
  unfold Machine.viewPlace
  dsimp only
  split
  · split <;> exact h.copyReadErrs
  · exact h

theorem Ordered.readBlk {s e a n cnt} (h : Ordered s) : Ordered (readBlk s e a n cnt).1 := by
  unfold Machine.readBlk
  split
  next he => exact h.locate.of_fst he
  next s1 sp he =>
    have h1 : Ordered s1 := h.locate.of_fst he
    extract_lets s2
    have h2 : Ordered s2 := by
      dsimp only [s2]
      split
      · split
        · exact h1.countAccess
        · exact h1
      · exact h1
    clear_value s2
    split
    next hv => exact h2.viewPlace.of_fst hv
    next hv => exact h2.viewPlace.of_fst hv
    next s3 k hv =>
      have h3 : Ordered s3 := h2.viewPlace.of_fst hv
      dsimp only
      split
      · exact h3.openBytes
      · split
        · exact h3.copyReadErrs
        · exact h3.copyReadErrs

theorem Ordered.mergeErrs {s k n tag w} (h : Ordered s) : Ordered (mergeErrs s k n tag w).1 := by
  unfold Machine.mergeErrs
  dsimp only
  split
  · exact h
  · exact h.copyReadLocs

theorem Ordered.poisonRange {s k n} (h : Ordered s) : Ordered (poisonRange s k n) := h.foldl fun _ _ hs1 =>
    hs1.poisonAt

theorem Ordered.writeBlk {s e a bs poison cnt} (h : Ordered s) : Ordered (writeBlk s e a bs poison cnt).1 := by
  unfold Machine.writeBlk
  split
  next he => exact h.locate.of_fst he
  next s1 sp he =>
    have h1 : Ordered s1 := h.locate.of_fst he
    extract_lets k room s2
    have h2 : Ordered s2 := by
      dsimp only [s2]
      split
      · split
        · exact h1.countAccess
        · exact h1
      · exact h1
    clear_value s2
    split
    · exact h1
    · split
      next hm => exact h2.mergeErrs.of_fst hm
      next s3 hm =>
        have h3 : Ordered s3 := h2.mergeErrs.of_fst hm
        extract_lets s4 s5
        have h4 : Ordered s4 := h3.logWrite.put _ _
        have h5 : Ordered s5 := by
          dsimp only [s5]
          split
          · exact h4.setTags
          · exact h4
        dsimp only
        split
        · exact h5.poisonRange
        · exact h5

theorem Ordered.devMeet {s job ctx va n} (h : Ordered s) : Ordered (devMeet s job ctx va n) := by
  unfold Machine.devMeet
  dsimp only
  split
  · exact h
  · refine h.foldl fun t p ht => ?_
    split
    · exact ht.meetWalk.meet
    · exact ht.meetWalk

theorem Ordered.devMerge {s job ctx va n} (h : Ordered s) : Ordered (devMerge s job ctx va n).1 := by
  unfold Machine.devMerge
  dsimp only
  split
  · exact h
  · refine h.foldl_fst fun p q hp => ?_
    split
    · exact hp.mergeErrs
    · exact hp

theorem Ordered.devStore {s job ctx va bs} (h : Ordered s) : Ordered (devStore s job ctx va bs).1 := by
  unfold Machine.devStore
  dsimp only
  split
  · exact h
  · split
    · exact h.devMerge
    · refine h.devMerge.foldl fun p q hp => ?_
      split
      · exact (hp.logWrite.put _ _).setTags
      · exact hp

theorem Ordered.devWrite {s job ctx va bs} (h : Ordered s) : Ordered (devWrite s job ctx va bs) := by
  unfold Machine.devWrite
  dsimp only
  split
  · exact h.devStore.postNotice
  · exact h.devStore

theorem Ordered.peekWord {s e a n} (h : Ordered s) : Ordered (peekWord s e a n).1 := by
  unfold Machine.peekWord
  dsimp only
  split
  next he => exact h.locate.of_fst he
  next he => exact Ordered.copyReadErrs (h.locate.of_fst he)

end Sys2Proof
end

section
/-! SUPPORT. Memory kept in order: E-slot instructions at issue. -/
namespace Sys2Proof
open Machine

theorem Ordered.issueTrapped {f s t k} (h : Ordered s) : Ordered (issueTrapped f s t k) :=
  h.setArch.pushResult.ifOk fun _ hs1 => hs1.withholdCmd

theorem Ordered.issueWithId {f s k} (h : Ordered s) : Ordered (issueWithId f s k) := h.issueTrapped

theorem Ordered.checked {s w f} (h : Ordered s) (hf : ∀ u, Ordered u → Ordered (f u)) : Ordered (checked s w f) := by
  unfold Machine.checked
  split
  · exact h.raiseFlaw
  · exact hf _ h

theorem Ordered.attach {s q ch id} (h : Ordered s) : Ordered (attach s q ch id) := by
  unfold Machine.attach
  split
  · exact h.setArch
  · exact h

theorem Ordered.execCpy {f s} (h : Ordered s) : Steady (execCpy f s) := by
  unfold Machine.execCpy
  refine (h.checked fun s1 hs1 => ?_).steady
  dsimp only
  split
  · split
    · exact hs1.raiseTrap
    · exact hs1.attach.issueWithId
  · exact hs1.issueWithId

theorem Ordered.execSbind {f s} (h : Ordered s) : Steady (execSbind f s) := by
  unfold Machine.execSbind
  dsimp only
  refine (h.checked fun s1 hs1 => ?_).steady
  split
  · exact hs1.raiseTrap
  · split
    · exact hs1.setArch
    · exact hs1.setArch.setMe

theorem Ordered.execSrel {f s} (h : Ordered s) : Steady (execSrel f s) := by
  unfold Machine.execSrel
  refine Ordered.steady ?_
  split
  · exact h.withholdCmd
  · exact h.setArch.withholdCmd

theorem Ordered.execGath {f s} (h : Ordered s) : Steady (execGath f s) := by
  unfold Machine.execGath
  dsimp only
  refine (h.checked fun s1 hs1 => ?_).steady
  split
  · exact hs1.raiseTrap
  · exact hs1.attach.setArch.issueWithId

theorem Ordered.execGidx {f s} (h : Ordered s) : Steady (execGidx f s) := by
  unfold Machine.execGidx
  refine Ordered.steady ?_
  dsimp only
  split
  · exact h.raiseTrap
  · split
    · exact h.raiseTrap
    · split
      · exact h
      · exact h.setArch.setMyCore

theorem Ordered.execQapp {f s} (h : Ordered s) :
    Steady (execQapp f s) := (h.checked fun _ hs1 => hs1.issueWithId).steady

theorem Ordered.execAtom {f s} (h : Ordered s) : Steady (execAtom f s) := by
  unfold Machine.execAtom
  dsimp only
  refine (h.checked fun s1 hs1 => ?_).steady
  refine Ordered.issueTrapped ?_
  split
  · exact hs1.readEcc
  · exact hs1

theorem Ordered.execFence {f s} (h : Ordered s) : Steady (execFence f s) := h.withholdCmd.steady

theorem Ordered.execSfence {f s} (h : Ordered s) : Steady (execSfence f s) := h.withholdCmd.steady

theorem Ordered.cipherIssue {f s k} (h : Ordered s) : Ordered (cipherIssue f s k) := by
  unfold Machine.cipherIssue
  dsimp only
  split
  · exact h.raiseTrap
  · exact h.checked fun _ hs1 => hs1.issueWithId

theorem Ordered.execSeal {f s} (h : Ordered s) : Steady (execSeal f s) := h.cipherIssue.steady

theorem Ordered.execUnseal {f s} (h : Ordered s) : Steady (execUnseal f s) := h.cipherIssue.steady

theorem Ordered.execErrinj {f s} (h : Ordered s) : Steady (execErrinj f s) := by
  unfold Machine.execErrinj
  refine Ordered.steady ?_
  split
  · exact h.raiseTrap
  · split
    · exact h.raiseTrap
    · exact h.withholdCmd

theorem Ordered.execSemset {f s} (h : Ordered s) : Steady (execSemset f s) := h.setArch.steady

theorem Ordered.execSemadd {f s} (h : Ordered s) : Steady (execSemadd f s) := h.setArch.steady

theorem Ordered.execSemwt {f s} (h : Ordered s) : Steady (execSemwt f s) := by
  unfold Machine.execSemwt
  refine Ordered.steady ?_
  split
  · exact h.pushScalar
  · exact h

theorem Ordered.execTbarm {f s} (h : Ordered s) : Steady (execTbarm f s) := by
  unfold Machine.execTbarm
  dsimp only
  refine Ordered.steady ?_
  split
  · exact h.raiseTrap
  · exact h.setArch

theorem Ordered.execTbexp {f s} (h : Ordered s) : Steady (execTbexp f s) := by
  unfold Machine.execTbexp
  dsimp only
  refine Ordered.steady ?_
  split
  · exact h.raiseTrap
  · exact h.setArch

theorem Ordered.execTbwait {f s} (h : Ordered s) : Steady (execTbwait f s) := by
  unfold Machine.execTbwait
  refine Ordered.steady ?_
  split
  · exact h.pushScalar
  · exact h

theorem Ordered.execXidrd {f s} (h : Ordered s) : Steady (execXidrd f s) := h.pushScalar.steady

theorem Ordered.execXidwt {f s} (h : Ordered s) : Steady (execXidwt f s) := by
  unfold Machine.execXidwt
  refine Ordered.steady ?_
  split
  · exact h.raiseTrap
  · exact h

theorem Ordered.execSigadd {f s} (h : Ordered s) : Steady (execSigadd f s) :=
  (h.checked fun _ hs1 => hs1.setArch.pushScalar.ifOk fun _ ht => ht.withholdCmd).steady

theorem Ordered.sigwtRead {f s} (h : Ordered s) : Ordered (sigwtRead f s).1 := h.peekWord

theorem Ordered.execSigwt {f s} (h : Ordered s) : Steady (execSigwt f s) := by
  unfold Machine.execSigwt
  refine (h.checked fun s1 hs1 => ?_).steady
  dsimp only
  split
  next he =>
    split
    · refine Ordered.pushScalar ?_
      split
      · exact Ordered.postNotice (hs1.sigwtRead.of_fst he)
      · exact hs1.sigwtRead.of_fst he
    · exact hs1
  next he =>
    split
    · exact Ordered.pushScalar (hs1.sigwtRead.of_fst he)
    · exact hs1

theorem Ordered.execBmset {f s} (h : Ordered s) : Steady (execBmset f s) := by
  unfold Machine.execBmset
  extract_lets
  refine Ordered.steady ?_
  split
  · exact h.raiseTrap
  · exact h.withholdCmd

theorem Ordered.meetBitmap {s job ctx a i} (h : Ordered s) : Ordered (meetBitmap s job ctx a i) := by
  unfold Machine.meetBitmap
  split
  · exact h.devMeet
  · exact h

theorem Ordered.execBmwait {f s} (h : Ordered s) : Steady (execBmwait f s) := by
  unfold Machine.execBmwait
  dsimp only
  refine Ordered.steady ?_
  split
  · exact h
  · exact h.meetBitmap.pushScalar
  · exact h.meetBitmap.fresh.pushScalar

theorem Ordered.execLarm {f s} (h : Ordered s) :
    Steady (execLarm f s) := (h.checked fun _ hs1 => hs1.withholdCmd).steady

theorem Ordered.execLpatch {f s} (h : Ordered s) :
    Steady (execLpatch f s) := (h.checked fun _ hs1 => hs1.withholdCmd).steady

theorem Ordered.execCancel {f s} (h : Ordered s) :
    Steady (execCancel f s) := (h.checked fun _ hs1 => hs1.withholdCmd).steady

theorem Ordered.kvIssue {f s ranges block k} (h : Ordered s) : Ordered (kvIssue f s ranges block k) :=
  h.checked fun _ hs1 => hs1.issueWithId

theorem Ordered.execKvref {f s} (h : Ordered s) : Steady (execKvref f s) := h.kvIssue.steady

theorem Ordered.execKvapp {f s} (h : Ordered s) : Steady (execKvapp f s) := by
  unfold Machine.execKvapp
  dsimp only
  refine Ordered.steady ?_
  split
  · exact h.raiseTrap
  · exact h.kvIssue

theorem Ordered.execKvrej {f s} (h : Ordered s) : Steady (execKvrej f s) := h.kvIssue.steady

theorem Ordered.execKvcommit {f s} (h : Ordered s) : Steady (execKvcommit f s) := h.kvIssue.steady

theorem Ordered.execKvfree {f s} (h : Ordered s) : Steady (execKvfree f s) := h.kvIssue.steady

theorem Ordered.execGzclaim {f s} (h : Ordered s) : Steady (execGzclaim f s) := h.kvIssue.steady

theorem Ordered.execGzjoin {f s} (h : Ordered s) : Steady (execGzjoin f s) := h.kvIssue.steady

theorem Ordered.execGzfind {f s} (h : Ordered s) : Steady (execGzfind f s) := h.kvIssue.steady

end Sys2Proof
end

section
/-! SUPPORT. Memory kept in order: Tables of key-value tenants. -/
namespace Sys2Proof
open Machine

theorem Ordered.physPut {s a n v} (h : Ordered s) : Ordered (physPut s a n v) := h.put _ _

theorem Ordered.writeEntry {s d slot e} (h : Ordered s) : Ordered (writeEntry s d slot e) := h.physPut

theorem Ordered.setEntry {s d slot hi lo v} (h : Ordered s) : Ordered (setEntry s d slot hi lo v) := h.writeEntry

theorem Ordered.takeList {a ok n s} (h : Ordered s) : Ordered (takeList a ok n s).1 := by
  induction n generalizing s with
  | zero => exact h
  | succ n ih =>
    unfold Machine.takeList
    dsimp only
    split
    · exact h
    · split
      · exact h.setDesc
      · exact ih h.setDesc.postNotice

theorem Ordered.returnList {s a v} (h : Ordered s) : Ordered (returnList s a v) := by
  unfold Machine.returnList
  dsimp only
  split
  · exact h.physPut.setDesc
  · exact h

theorem Ordered.returnPage {s d p} (h : Ordered s) : Ordered (returnPage s d p) := by
  unfold Machine.returnPage
  split
  · exact h.returnList
  · split
    · exact h.returnList
    · exact h

theorem Ordered.setDir {s d slot i p} (h : Ordered s) : Ordered (setDir s d slot i p) := h.physPut

theorem Ordered.writeBucket {s d b v} (h : Ordered s) : Ordered (writeBucket s d b v) := h.physPut

theorem Ordered.lowerRefs {s d slot} (h : Ordered s) : Ordered (lowerRefs s d slot) := h.writeEntry

theorem Ordered.tombBucket {s d b} (h : Ordered s) : Ordered (tombBucket s d b) := h.writeBucket.setEntry.lowerRefs

theorem Ordered.endSlot {s d slot} (h : Ordered s) : Ordered (endSlot s d slot) := by
  unfold Machine.endSlot
  refine (Ordered.writeEntry ?_).returnList
  split
  · exact (h.foldl fun _ _ hs1 => hs1.returnPage).writeBucket
  · exact h.foldl fun _ _ hs1 => hs1.returnPage

theorem Ordered.endHandle {s d slot} (h : Ordered s) : Ordered (endHandle s d slot) := by
  unfold Machine.endHandle
  dsimp only
  split
  · exact h.endSlot.lowerRefs
  · exact h.endSlot

theorem Ordered.endRevoked {s tenant d} (h : Ordered s) : Ordered (endRevoked s tenant d) := by
  unfold Machine.endRevoked
  dsimp only
  split
  · exact h
  · exact Ordered.foldl ((h.foldl fun _ _ ht => ht.endSlot).of_zero rfl) fun _ _ ht => ht.foldl fun _ _ hu =>
        hu.postNotice

theorem Ordered.execHandleEnd {tenant slot s} (h : Ordered s) : Steady (execHandleEnd tenant slot s) := by
  unfold Machine.execHandleEnd
  refine Ordered.steady ?_
  dsimp only
  split
  · exact h
  · split
    · exact h
    · split
      · exact h.endHandle
      · split
        · exact h.endRevoked
        · exact h

theorem Ordered.flight {s h0 up} (h : Ordered s) : Ordered (flight s h0 up) := h.setEntry

end Sys2Proof
end

section
/-! SUPPORT. Memory kept in order: Units off their context. -/
namespace Sys2Proof
open Machine

theorem Ordered.writeRecord {s job va r} (h : Ordered s) : Ordered (writeRecord s job va r) := h.devMeet.devWrite

theorem Ordered.markRecord {s job va state reason} (h : Ordered s) : Ordered (markRecord s job va state reason) := by
  unfold Machine.markRecord
  split
  · exact h.writeRecord
  · exact h

theorem Ordered.setFrame {s job fr off n v} (h : Ordered s) : Ordered (setFrame s job fr off n v) := h.devStore

theorem Ordered.frameOutside {s job fr a} (h : Ordered s) : Ordered (frameOutside s job fr a) := by
  unfold Machine.frameOutside
  dsimp only
  split <;> exact h.setFrame

theorem Ordered.outsideTo {s core c o} (h : Ordered s) : Ordered (outsideTo s core c o) := by
  unfold Machine.outsideTo
  split
  · exact h.setCtx
  · split
    · exact h.frameOutside
    · exact h

theorem Ordered.chargeTo {s core c tb n} (h : Ordered s) : Ordered (chargeTo s core c tb n) := by
  unfold Machine.chargeTo
  split
  · split
    · exact h
    · exact h.outsideTo
  · exact h

theorem Ordered.raiseAll {s l} (h : Ordered s) : Ordered (raiseAll s l) := h.foldl fun _ _ ht => ht.flight

theorem Ordered.lowerAll {s l} (h : Ordered s) : Ordered (lowerAll s l) := h.foldl fun _ _ ht => ht.flight

theorem Ordered.completeId {s core c} (h : Ordered s) : Ordered (completeId s core c) := by
  unfold Machine.completeId
  dsimp only
  split
  · exact h.setCore.lowerAll
  · split
    · exact h.setCore.lowerAll.setCtx
    · split
      · exact h.setCore.lowerAll.setFrame
      · exact h.setCore.lowerAll

theorem Ordered.setCmd {s core c} (h : Ordered s) : Ordered (setCmd s core c) := h.setCore

theorem Ordered.unreserve {s job va} (h : Ordered s) : Ordered (unreserve s job va) := by
  unfold Machine.unreserve
  refine h.foldl fun s1 k hs1 => ?_
  dsimp only
  split
  · exact hs1.setCore
  · exact hs1

theorem Ordered.dequeueUnit {s job va} (h : Ordered s) : Ordered (dequeueUnit s job va) := by
  unfold Machine.dequeueUnit
  refine h.foldl fun s1 c hs1 => ?_
  dsimp only
  split
  · exact hs1.setCluster
  · exact hs1

theorem Ordered.freezeCtx {s core x} (h : Ordered s) : Ordered (freezeCtx s core x) := by
  unfold Machine.freezeCtx
  dsimp only
  split
  · exact h
  · refine Ordered.postNotice ?_
    split
    · exact h.setCtx.writeRecord
    · exact h.setCtx

theorem Ordered.freezeAt {s job core x} (h : Ordered s) : Ordered (freezeAt s job core x) := by
  unfold Machine.freezeAt
  dsimp only
  split
  · exact h.freezeCtx
  · exact h

theorem Ordered.withdrawUnit {s job va} (h : Ordered s) : Ordered (withdrawUnit s job va).1 := by
  unfold Machine.withdrawUnit
  extract_lets s1
  have h1 : Ordered s1 := h.dequeueUnit
  clear_value s1
  split
  · dsimp only
    split
    · exact h1.freeCtx
    · exact h1
  · exact h1

theorem Ordered.freezeUnit {s job va place} (h : Ordered s) : Ordered (freezeUnit s job va place) := by
  unfold Machine.freezeUnit
  dsimp only
  split
  · split
    · split
      · exact h.withdrawUnit.setJob.writeRecord
      · exact h
    · exact h
  · exact h

theorem Ordered.freezeJob {s job} (h : Ordered s) : Ordered (freezeJob s job) := by
  unfold Machine.freezeJob
  refine ((h.foldl fun _ _ ht => ht.freezeAt.freezeAt).foldl fun t c ht => ?_).foldl fun _ _ ht => ht.freezeUnit
  dsimp only
  split
  · exact ht.setCluster
  · exact ht

theorem Ordered.tdiError {s job} (h : Ordered s) : Ordered (tdiError s job) := by
  unfold Machine.tdiError
  split
  · split
    · exact h.setJob.freezeJob
    · exact h
  · exact h

theorem Ordered.violateCtx {s core x} (h : Ordered s) : Ordered (violateCtx s core x) := h.freezeCtx.tdiError

theorem Ordered.violateAway {s job va core x} (h : Ordered s) : Ordered (violateAway s job va core x) := by
  unfold Machine.violateAway
  split
  · split
    · exact h.freezeUnit.postNotice.tdiError
    · exact h.tdiError
  · exact h.tdiError

theorem Ordered.setRing {s v} (h : Ordered s) : Ordered (setRing s v) := h.of_mem rfl

theorem Ordered.freezeRing {s r} (h : Ordered s) : Ordered (freezeRing s r) := by
  unfold Machine.freezeRing
  dsimp only
  split
  · exact h
  · exact h.setRing.postNotice

theorem Ordered.violateRing {s r} (h : Ordered s) : Ordered (violateRing s r) := h.freezeRing.tdiError

end Sys2Proof
end

section
/-! SUPPORT. Memory kept in order: Packets, images and the movement of bytes. -/
namespace Sys2Proof
open Machine

theorem Ordered.resume {s g} (h : Ordered s) : Ordered (Mv.resume s g).st := h

theorem Ordered.readSpan {s e a n first} (h : Ordered s) : Ordered (readSpan s e a n first).1 := by
  refine Ordered.foldl_fst (p := (s, _)) h fun p q hp => ?_
  split
  · exact hp
  · split
    next he => exact Ordered.of_fst (Ordered.readBlk hp) he
    next he => exact Ordered.of_fst (Ordered.readBlk hp) he

theorem Ordered.mvPiece {e src dst q} {m : Mv} (h : Ordered m.st) : Ordered (mvPiece e src dst m q).st := by
  unfold Machine.mvPiece
  dsimp only
  split
  · exact h
  · split
    next he1 => exact h.readSpan.of_fst he1
    next he1 =>
      split
      · exact h.readSpan.of_fst he1
      · split
        next he3 => exact Ordered.of_fst (Ordered.writeBlk (h.readSpan.of_fst he1)) he3
        next he3 => exact Ordered.of_fst (Ordered.writeBlk (h.readSpan.of_fst he1)) he3

theorem Ordered.mvSpan {e off len r} {m : Mv} (h : Ordered m.st) : Ordered (mvSpan e off len m r).st := by
  unfold Machine.mvSpan
  split
  · exact h
  · split
    · exact h
    · exact h.foldl_st fun _ _ hm1 => hm1.mvPiece

theorem Ordered.mvRow {e n r} {m : Mv} (h : Ordered m.st) : Ordered (mvRow e n m r).st := h.mvSpan

theorem Ordered.declareLines {s lines segs form} (h : Ordered s) : Ordered (declareLines s lines segs form) := by
  unfold Machine.declareLines
  refine h.foldl fun s1 l hs1 => ?_
  split
  · split
    · exact hs1.setForm
    · exact hs1
  · exact hs1

theorem Ordered.declareForm {s segs form} (h : Ordered s) : Ordered (declareForm s segs form) := h.declareLines

theorem Ordered.lineBack {s t l} (h : Ordered t) : Ordered (lineBack s t l) := by
  unfold Machine.lineBack
  dsimp only
  split
  · exact h
  · exact h.of_write rfl

theorem Ordered.applyPart {s l} (h : Ordered s) : Ordered (applyPart s l) := by
  unfold Machine.applyPart
  refine h.foldl fun t q ht => ?_
  dsimp only
  split
  · exact (ht.put _ _).poisonRange
  · exact ht.put _ _

theorem Ordered.holdLines {s all} {m : Mv} (h : Ordered m.st) :
    Ordered (m.holdLines s all).st := h.foldl fun _ _ ht => ht.lineBack

/-- The address is generalised, as in a round of readings. -/
theorem Ordered.indexRows {s e p i0 i1} (h : Ordered s) : Ordered (indexRows s e p i0 i1).st := by
  unfold Machine.indexRows
  generalize Machine.shortAddr = sa
  revert sa
  refine id fun sa => ?_
  dsimp only
  refine List.foldlRecOn (motive := fun r : Rows => Ordered r.st) _ _ h fun r hr i _ => ?_
  split
  · exact hr
  · split
    next he => exact hr.readBlk.of_fst he
    next he => split <;> exact hr.readBlk.of_fst he

theorem Ordered.rowsOf {s e p i0 i1} (h : Ordered s) : Ordered (rowsOf s e p i0 i1).st := by
  unfold Machine.rowsOf
  split
  · exact h
  · exact h.indexRows

theorem Ordered.faultNotice {s job a detail} (h : Ordered s) : Ordered (faultNotice s job a detail) := h.postNotice

theorem Ordered.scout {s e detail l} (h : Ordered s) : Ordered (scout s e detail l) := by
  unfold Machine.scout
  refine h.foldl fun s1 a hs1 => ?_
  split
  next he => exact Ordered.faultNotice (hs1.translate.of_fst he)
  next he => exact hs1.translate.of_fst he

theorem Ordered.wholeBlock {s g off r} {m : Mv} (h : Ordered m.st) : Ordered (wholeBlock s g off r m).st := by
  unfold Machine.wholeBlock
  dsimp only
  split
  · split
    · exact h.of_write rfl
    · exact h
  · exact h

theorem Ordered.moveRows {s e p g off a} (h : Ordered s) : Ordered (moveRows s e p g off a).st := by
  unfold Machine.moveRows
  dsimp only
  split
  · exact h.resume
  · split
    · exact h.resume.mvSpan.wholeBlock
    · split
      · exact h.resume.mvSpan
      · exact h.resume.mvSpan.foldl_st fun _ _ hm => hm.mvRow

theorem Ordered.transferMem {s e p detail g} (h : Ordered s) : Ordered (transferMem s e p detail g).st := by
  unfold Machine.transferMem
  extract_lets s1 fail n i off r0 r segs form m m1 m2
  have h1 : Ordered s1 := h.applyPart
  have hr : Ordered r.st := h1.rowsOf
  split
  · exact h1
  · split
    · exact h1
    · split
      · exact hr
      · split
        · exact hr
        · have hm : Ordered m2.st := by
            dsimp only [m2]
            split
            · exact hr.scout
            · have hm : Ordered m.st := hr.moveRows
              have h1 : Ordered m1.st := by
                dsimp only [m1]
                split
                · exact hm
                · split
                  · exact hm
                  · exact hm
              exact h1.declareForm
          split
          · exact hm
          · exact hm.holdLines

theorem Ordered.mvNotice {job detail} {m : Mv} (h : Ordered m.st) : Ordered (mvNotice m job detail) := by
  unfold Machine.mvNotice
  split
  · exact h.faultNotice
  · exact h

theorem Ordered.readSignal {s e a} (h : Ordered s) : Ordered (readSignal s e a).1 := by
  unfold Machine.readSignal
  split
  next he => exact h.peekWord.of_fst he
  next he => exact h.peekWord.of_fst he

theorem Ordered.rmwWord {s e a n cnt f} (h : Ordered s) : Ordered (rmwWord s e a n cnt f).1 := by
  unfold Machine.rmwWord
  split
  next he => exact h.readBlk.of_fst he
  next he =>
    split
    · exact h.readBlk.of_fst he
    · split
      · exact h
      next he2 => exact Ordered.of_fst (Ordered.writeBlk (h.readBlk.of_fst he)) he2

theorem Ordered.atomicOp {s e target op w64 sgn opnd cmp} (h : Ordered s) :
    Ordered (atomicOp s e target op w64 sgn opnd cmp).1 := by
  unfold Machine.atomicOp
  extract_lets
  split
  · exact h
  · split
    · exact h
    · split
      · exact h
      · split
        · exact h
        · exact h.rmwWord

theorem Ordered.signalWrite {s e a f detail ring index} (h : Ordered s) :
    Ordered (signalWrite s e a f detail ring index) := by
  unfold Machine.signalWrite
  split
  next he => exact h.rmwWord.of_fst he
  next he =>
    split
    · exact Ordered.faultNotice (h.rmwWord.of_fst he)
    · exact Ordered.postNotice (h.rmwWord.of_fst he)

theorem Ordered.semDeliver {s job t n ring index} (h : Ordered s) : Ordered (semDeliver s job t n ring index) := by
  unfold Machine.semDeliver
  dsimp only
  split
  · split
    · exact h.setCtx
    · exact h.postNotice
  · exact h.postNotice

theorem Ordered.deliverSignal {s e p status detail ring index} (h : Ordered s) :
    Ordered (deliverSignal s e p status detail ring index) := by
  unfold Machine.deliverSignal
  dsimp only
  split
  · exact h.signalWrite
  · split
    · exact h.semDeliver
    · exact h

theorem Ordered.writeStatus {s e a rec} (h : Ordered s) : Ordered (writeStatus s e a rec) := by
  unfold Machine.writeStatus
  split
  next he => exact h.writeBlk.of_fst he
  next he =>
    split
    · exact Ordered.faultNotice (h.writeBlk.of_fst he)
    · exact h.writeBlk.of_fst he

theorem Ordered.writeAct {s core sc bs} (h : Ordered s) : Ordered (writeAct s core sc bs) := by
  unfold Machine.writeAct
  split
  · exact h
  · exact h.put _ _

end Sys2Proof
end

section
/-! SUPPORT. Memory kept in order: Commands and packets in order. -/
namespace Sys2Proof
open Machine

theorem Ordered.dropFences {s core} (h : Ordered s) : Ordered (dropFences s core) := h.setCore

end Sys2Proof
end

section
/-! SUPPORT. Memory kept in order: Copy channels. -/
namespace Sys2Proof
open Machine

theorem Ordered.setDone {s core c st detail skipped bytes} (h : Ordered s) :
    Ordered (setDone s core c st detail skipped bytes) := h.setCmd

theorem Ordered.payTo {s core c n} (h : Ordered s) : Ordered (payTo s core c n).1 := h.chargeTo

theorem Ordered.closeGather {s core c} (h : Ordered s) : Ordered (closeGather s core c) := by
  unfold Machine.closeGather
  dsimp only
  split
  · split
    · exact h.setCore.setCtx
    · split
      · exact h.setCore.setFrame
      · exact h.setCore
  · exact h

theorem Ordered.finishCmd {s core c st detail skipped bytes} (h : Ordered s) :
    Ordered (finishCmd s core c st detail skipped bytes) := by
  unfold Machine.finishCmd
  dsimp only
  split
  · exact h.chargeTo.writeAct.closeGather.completeId.dropFences
  · exact h.chargeTo.writeAct.closeGather.completeId.dropFences.deliverSignal

theorem Ordered.execTransferComplete {core seq s} (h : Ordered s) : Steady (execTransferComplete core seq s) := by
  unfold Machine.execTransferComplete
  refine Ordered.steady ?_
  split
  · exact h
  · split
    · split
      · exact h.finishCmd
      · exact h
    · exact h

theorem Ordered.enqueue {s w a} (h : Ordered s) : Ordered (enqueue s w a) := by
  unfold Machine.enqueue
  split
  · exact h.of_mem rfl
  · exact h

theorem Ordered.submit {s w l} (h : Ordered s) {u} (e : submit s w l = some u) : Ordered u := by
  unfold Machine.submit at e
  split at e
  · cases e
    exact h.foldl fun _ _ ht => ht.enqueue
  · cases e

theorem Ordered.settleCmd {core c} {m : Mv} (h : Ordered m.st) : Ordered (settleCmd core c m) := by
  unfold Machine.settleCmd
  dsimp only
  split
  · exact h.payTo.setCmd
  · refine Ordered.setDone ?_
    split
    · exact h.payTo.mvNotice
    · split
      · exact h.payTo.mvNotice.violateCtx
      · exact h.payTo.mvNotice.violateAway

theorem Ordered.abortCmd {s core c detail} (h : Ordered s) : Ordered (abortCmd s core c detail) := by
  unfold Machine.abortCmd
  dsimp only
  split
  · split
    · exact h.finishCmd
    · exact h.applyPart.writeAct.finishCmd
  · exact h.setCore.dropFences

theorem Ordered.setArrived {s core c q n} (h : Ordered s) : Ordered (setArrived s core c q n) := by
  unfold Machine.setArrived
  dsimp only
  split
  · exact h.setCtx
  · split
    · exact h.setFrame
    · exact h

theorem Ordered.streamPiece {e w q} {m : Mv} (h : Ordered m.st) : Ordered (streamPiece e w m q).st := by
  unfold Machine.streamPiece
  split
  · exact h
  · extract_lets r
    have hr : Ordered r.1 := by
      dsimp only [r]
      split
      · exact h
      · exact h.readSpan
    clear_value r
    split
    · exact hr
    next s1 v =>
      split
      · exact hr
      · split
        next hw => exact (Ordered.writeBlk (s := s1) hr).of_fst hw
        next hw => exact (Ordered.writeBlk (s := s1) hr).of_fst hw

theorem Ordered.endStream {s core c n g st detail skipped bytes} (h : Ordered s) :
    Ordered (endStream s core c n g st detail skipped bytes) := by
  unfold Machine.endStream
  split
  · exact h.setCmd
  · exact h.setDone

theorem Ordered.streamElement {s core c q n g el popped} (h : Ordered s) (hpopped : ∀ u, Ordered u → Ordered (popped u))
    :
    Ordered (streamElement s core c q n g el popped) := by
  unfold Machine.streamElement
  split
  · exact h
  · split
    · exact h
    · extract_lets e dst room m0 m1 again m2 m x cmd pause s1 start k s2
      have h0 : Ordered m0.st := Ordered.foldl_st h.applyPart fun _ _ hm => hm.streamPiece
      have h1 : Ordered m1.st := by
        dsimp only [m1]
        split
        · exact h0
        · split
          · exact h0
          · exact h0
      have h2 : Ordered m2.st := h1.declareLines
      have hm : Ordered m.st := by
        dsimp only [m]
        split
        · exact h2.holdLines
        · exact h2
      have hx : Ordered x.1 := hm.payTo
      split
      · exact hx.setCmd
      · have hs : Ordered s1 := Ordered.mvNotice (m := { m with st := x.1 }) hx
        split
        · exact hs.endStream
        · have hp : Ordered s2 := hpopped _ hs.setArrived
          split
          · exact hp.setDone
          · exact hp.setCmd

theorem Ordered.streamRows {s e p i0 i1} (h : Ordered s) : Ordered (streamRows s e p i0 i1).1 := by
  unfold Machine.streamRows
  dsimp only
  split
  · exact h
  · split
    · exact h
    · exact h.indexRows

theorem Ordered.startStream {s core c p q} (h : Ordered s) : Ordered (startStream s core c p q) := by
  unfold Machine.startStream
  split
  · exact h
  · split
    · exact h.setDone
    · split
      · exact h.setDone
      · split
        · exact h.setDone
        · split
          · exact h.setDone
          · exact h.setCmd

theorem Ordered.driveNext_scout {s e w p detail g g' t} (h : Ordered s) (e : driveNext s e w p detail g = .scout g' t) :
    Ordered t := by
  unfold driveNext at e
  dsimp only at e
  split at e
  · cases e
  · split at e
    · cases e
      exact h.scout
    · split at e
      · cases e
      · split at e <;> cases e

theorem Ordered.driveNext_wait {s e w p detail g t} (h : Ordered s) (e : driveNext s e w p detail g = .wait t) :
    Ordered t := by
  unfold driveNext at e
  dsimp only at e
  split at e
  · cases e
  · split at e
    · cases e
    · split at e
      · cases e
      · split at e
        next he =>
          cases e
          exact h.submit he
        · cases e

theorem Ordered.cpyMove {s core c p} (h : Ordered s) : Ordered (cpyMove s core c p) := by
  unfold Machine.cpyMove
  split
  next he => exact (h.driveNext_scout he).setCmd
  next he => exact (h.driveNext_wait he).setCmd
  · exact h.setCmd
  · exact h.transferMem.settleCmd

theorem Ordered.startCpy {s core c p q} (h : Ordered s) : Ordered (startCpy s core c p q) := by
  unfold Machine.startCpy
  split
  · exact h.startStream
  · split
    · exact h.setCmd
    · split
      · exact h.setDone
      · exact h.cpyMove

theorem Ordered.waitTest {s e p detail} (h : Ordered s) : Ordered (waitTest s e p detail).1 := by
  unfold Machine.waitTest
  dsimp only
  split
  · exact h
  · split
    next he1 =>
      dsimp only
      split
      · exact Ordered.faultNotice (h.readSignal.of_fst he1)
      · exact h.readSignal.of_fst he1
    next he1 =>
      repeat' split
      all_goals exact h.readSignal.of_fst he1

theorem Ordered.cpyStep {s core c p q} (h : Ordered s) : Ordered (cpyStep s core c p q) := by
  unfold Machine.cpyStep
  dsimp only
  split
  · split
    · exact h.setDone
    · split
      next he2 => exact Ordered.setCmd (h.waitTest.of_fst he2)
      next he2 => exact Ordered.setDone (h.waitTest.of_fst he2)
      next he2 => exact Ordered.startCpy (h.waitTest.of_fst he2)
  · split
    next he1 => exact Ordered.setCmd (h.waitTest.of_fst he1)
    next he1 => exact Ordered.setDone (h.waitTest.of_fst he1)
    next he1 => exact Ordered.startCpy (h.waitTest.of_fst he1)
  · split
    · exact h
    · split
      · exact h.setDone
      · exact h.cpyMove
  · exact h

theorem Ordered.popIndex {s core c} (h : Ordered s) : Ordered (popIndex s core c) := h.setCore

theorem Ordered.fetchElement {s core c q n g el src granted popped} (h : Ordered s) (hpopped : ∀ u, Ordered u → Ordered (popped u)) :
    Ordered (fetchElement s core c q n g el src granted popped) := by
  unfold Machine.fetchElement
  extract_lets
  split
  · exact h
  · split
    · exact h.streamElement fun _ hu => hpopped _ hu
    · split
      · exact h.endStream
      · split
        · exact h
        · split
          · exact h
          · split
            next he5 => exact (h.submit he5).setCmd
            · exact h

theorem Ordered.scoutStream {s core c p n size g} (h : Ordered s) {u} (e : scoutStream s core c p n size g = some u) :
    Ordered u := by
  unfold Machine.scoutStream at e
  dsimp only at e
  split at e
  · split at e
    · cases e
      exact h.scout.setCmd
    · cases e
  · cases e

theorem Ordered.nextElement {s core c granted} (h : Ordered s) : Ordered (nextElement s core c granted) := by
  unfold Machine.nextElement
  split
  · split
    · exact h
    · split
      next he => exact h.scoutStream he
      · extract_lets rb i0 i1 r holes
        have hr : Ordered r.1 := h.streamRows
        exact hr.fetchElement fun _ hu => hu
  · split
    · split
      · exact h.setDone
      · exact h
    · split
      · split
        · exact h.setDone
        · exact h
      · split
        · exact h
        · exact h.fetchElement fun _ hu => hu.popIndex
  · exact h

theorem Ordered.execStreamElementArrival {core seq s} (h : Ordered s) :
    Steady (execStreamElementArrival core seq s) := by
  unfold Machine.execStreamElementArrival
  refine Ordered.steady ?_
  split
  · exact h
  · split
    · exact h.nextElement
    · exact h

theorem Ordered.startGath {s core c p q} (h : Ordered s) : Ordered (startGath s core c p q) := by
  unfold Machine.startGath
  split
  · exact h
  · split
    · exact h.setDone
    · split
      · exact h.setDone
      · split
        · exact h.setDone
        · split
          · exact h.setDone
          · split
            next he5 => exact Ordered.setCmd (h.waitTest.of_fst he5)
            next he5 => exact Ordered.setDone (h.waitTest.of_fst he5)
            next he5 => exact Ordered.nextElement (Ordered.setCmd (h.waitTest.of_fst he5))

theorem Ordered.execGathPerform {core seq s} (h : Ordered s) : Steady (execGathPerform core seq s) := by
  unfold Machine.execGathPerform
  refine Ordered.steady ?_
  split
  · exact h
  · split
    · split
      · exact h
      · split
        · exact h.startGath
        · exact h.startGath
        · exact h.nextElement
        · exact h
    · exact h

theorem Ordered.qappDesc {s e a} (h : Ordered s) : Ordered (qappDesc s e a).1 := by
  unfold Machine.qappDesc
  split
  · exact h
  · split
    · exact h
    · split
      · exact h
      · split
        next he3 => exact h.readBlk.of_fst he3
        next he3 => split <;> exact h.readBlk.of_fst he3

theorem Ordered.qappFail {s core c a x} (h : Ordered s) : Ordered (qappFail s core c a x) := by
  unfold Machine.qappFail
  refine Ordered.setDone ?_
  split
  · exact h.faultNotice
  · exact h

theorem Ordered.qappRefused {s core c a x ph} (h : Ordered s) : Ordered (qappRefused s core c a x ph) := by
  unfold Machine.qappRefused
  split
  · exact h.setCmd
  · exact h.qappFail

theorem Ordered.qappWrite {s core c desc p w} (h : Ordered s) : Ordered (qappWrite s core c desc p w) := by
  unfold Machine.qappWrite
  dsimp only
  split
  next he => exact Ordered.qappRefused (h.readBlk.of_fst he)
  next he =>
    split
    · exact Ordered.setCmd (h.readBlk.of_fst he)
    · split
      next he2 => exact Ordered.qappRefused (Ordered.of_fst (Ordered.writeBlk (h.readBlk.of_fst he)) he2)
      next he2 => exact Ordered.setDone (Ordered.of_fst (Ordered.writeBlk (h.readBlk.of_fst he)) he2)

theorem Ordered.qappStart {s core c desc p} (h : Ordered s) : Ordered (qappStart s core c desc p) := by
  unfold Machine.qappStart
  dsimp only
  split
  next he => exact Ordered.qappRefused (h.qappDesc.of_fst he)
  next he =>
    split
    · exact Ordered.qappFail (Ordered.postNotice (h.qappDesc.of_fst he))
    · split
      · exact Ordered.qappFail (h.qappDesc.of_fst he)
      · split
        next he3 => exact Ordered.qappRefused (Ordered.of_fst (Ordered.rmwWord (h.qappDesc.of_fst he)) he3)
        next he3 => exact Ordered.qappWrite (Ordered.of_fst (Ordered.rmwWord (h.qappDesc.of_fst he)) he3)

theorem Ordered.execQappPerform {core seq s} (h : Ordered s) : Steady (execQappPerform core seq s) := by
  unfold Machine.execQappPerform
  refine Ordered.steady ?_
  split
  · exact h
  · split
    · split
      · exact h
      · split
        · exact h.qappWrite
        · exact h.qappStart
        · exact h.qappStart
        · exact h
    · exact h

theorem Ordered.execAtomPerform {core seq s} (h : Ordered s) : Steady (execAtomPerform core seq s) := by
  unfold Machine.execAtomPerform
  refine Ordered.steady ?_
  dsimp only
  split
  · exact h
  · split
    · split
      · exact h
      · split
        next he3 => exact Ordered.setDone (Ordered.writeAct (h.atomicOp.of_fst he3))
        next he3 =>
          split
          · exact h.setCmd
          · refine (Ordered.writeAct ?_).setDone
            split
            · exact Ordered.faultNotice (h.atomicOp.of_fst he3)
            · exact h.atomicOp.of_fst he3
    · exact h

theorem Ordered.execSigaddPerform {core seq s} (h : Ordered s) : Steady (execSigaddPerform core seq s) := by
  unfold Machine.execSigaddPerform
  refine Ordered.steady ?_
  split
  · exact h
  · split
    · split
      · exact h
      · split
        next he3 => exact Ordered.finishCmd (h.rmwWord.of_fst he3)
        next he3 =>
          split
          · exact h.setCmd
          · refine Ordered.finishCmd ?_
            split
            · exact Ordered.faultNotice (h.rmwWord.of_fst he3)
            · exact h.rmwWord.of_fst he3
    · exact h

theorem Ordered.dropCmd {s core c} (h : Ordered s) : Ordered (dropCmd s core c) := h.setCore.dropFences

theorem Ordered.execBmsetPerform {core seq s} (h : Ordered s) : Steady (execBmsetPerform core seq s) := by
  unfold Machine.execBmsetPerform
  refine Ordered.steady ?_
  dsimp only
  split
  · exact h
  · split
    · split
      · exact h
      · split
        next he3 => exact Ordered.dropCmd (h.rmwWord.of_fst he3)
        next he3 =>
          split
          · exact h.setCmd
          · refine Ordered.dropCmd ?_
            split
            · exact Ordered.faultNotice (h.rmwWord.of_fst he3)
            · exact h.rmwWord.of_fst he3
    · exact h

theorem Ordered.execSfenceComplete {core seq s} (h : Ordered s) : Steady (execSfenceComplete core seq s) := by
  unfold Machine.execSfenceComplete
  refine Ordered.steady ?_
  split
  · exact h
  · split
    · split
      · exact h.dropCmd
      · exact h
    · exact h

end Sys2Proof
end

section
/-! SUPPORT. Memory kept in order: Work scheduler. -/
namespace Sys2Proof
open Machine

theorem Ordered.writeCounter {s job va v} (h : Ordered s) : Ordered (writeCounter s job va v) := h.devMeet.devWrite

theorem Ordered.setLaunch {s job slot r} (h : Ordered s) : Ordered (setLaunch s job slot r) := by
  unfold Machine.setLaunch
  split
  · exact h.setJob
  · exact h

theorem Ordered.requestWake {s cl} (h : Ordered s) : Ordered (requestWake s cl) := by
  unfold Machine.requestWake
  dsimp only
  split
  · exact h.setCluster
  · exact h.setCluster
  · exact h.setCluster
  · exact h

theorem Ordered.enqueueWaited {s job va waited} (h : Ordered s) : Ordered (enqueueWaited s job va waited) := by
  unfold Machine.enqueueWaited
  dsimp only
  split
  · exact h
  · split
    · split
      · exact h.writeRecord.requestWake
      · exact h.writeRecord
    · refine Ordered.setCluster ?_
      split
      · split
        · exact h.requestWake
        · exact h
      · split
        · exact h.requestWake
        · exact h

theorem Ordered.enqueueUnit {s job va} (h : Ordered s) : Ordered (enqueueUnit s job va) := h.enqueueWaited

theorem Ordered.decrement {s job who va canc n} (h : Ordered s) : Ordered (decrement s job who va canc n).1 := by
  unfold Machine.decrement
  split
  · exact h.faultNotice
  · split
    · exact h.postNotice
    · extract_lets left v1 s0 s1
      have h0 : Ordered s0 := by
        dsimp only [s0]
        split
        · split
          · exact h.setJob
          · exact h
        · exact h
      have h1 : Ordered s1 := h0.writeCounter
      clear_value s1
      split
      · exact h1
      · split
        · exact h1
        · split
          · exact h1
          · exact h1

theorem Ordered.decrements {job who va canc n s} (h : Ordered s) : Ordered (decrements job who va canc n s).1 := by
  induction n generalizing s with
  | zero => exact h
  | succ n ih => exact ih h.decrement

theorem Ordered.startLaunch {s job slot} (h : Ordered s) : Ordered (startLaunch s job slot).1 := by
  unfold Machine.startLaunch
  refine h.setLaunch.foldl_fst fun p i hp => ?_
  dsimp only
  split
  · split
    · exact hp.devStore.enqueueUnit
    · exact hp.faultNotice
  · split
    · exact hp.devStore.enqueueUnit
    · exact hp.faultNotice

theorem Ordered.endLaunch {s job slot} (h : Ordered s) : Ordered (endLaunch s job slot).1 := h.setLaunch

theorem Ordered.runWork {job who n l s} (h : Ordered s) : Ordered (runWork job who n l s) := by
  induction n generalizing s l with
  | zero => exact h
  | succ n ih =>
    cases l with
    | nil => exact h
    | cons w ws =>
      refine ih ?_
      split
      · exact h.decrement
      · exact h.decrements
      · exact h.endLaunch
      · split
        · exact h.startLaunch
        · exact h

theorem Ordered.settle {s job who w} (h : Ordered s) : Ordered (settle s job who w) := h.runWork

theorem Ordered.unitEnded {s job launch who canc} (h : Ordered s) :
    Ordered (unitEnded s job launch who canc) := h.settle

theorem Ordered.armLaunch {s job slot who} (h : Ordered s) : Ordered (armLaunch s job slot who).1 := by
  unfold Machine.armLaunch
  extract_lets r n s1 bits old s2 s3 s4
  refine Ordered.fst_ite h (Ordered.fst_ite h (Ordered.fst_ite h ?_))
  split
  · exact h.faultNotice
  · have h2 : Ordered s2 := by
      dsimp only [s2]
      split
      · exact h.setLaunch
      · exact h.setLaunch.devWrite
    have h3 : Ordered s3 := h2.writeCounter
    have h4 : Ordered s4 := by
      dsimp only [s4]
      split
      · exact h3.writeCounter
      · exact h3
    dsimp only
    split
    · exact h4.settle
    · exact h4

theorem Ordered.noteFrozenCancel {s job va} (h : Ordered s) : Ordered (noteFrozenCancel s job va) := by
  unfold Machine.noteFrozenCancel
  dsimp only
  split
  · refine Ordered.setJob ?_
    split
    · exact h.setCtx
    · exact h
  · split
    · exact h.setCtx
    · exact h

theorem Ordered.cancelUnit {s job va r hard} (h : Ordered s) : Ordered (cancelUnit s job va r hard) := by
  unfold Machine.cancelUnit
  dsimp only
  split
  · exact h.noteFrozenCancel
  · split
    · split
      · exact h.noteFrozenCancel
      · split <;> exact h.setCtx
    · split
      · exact h.dequeueUnit.unreserve.writeRecord.unitEnded
      · exact h

theorem Ordered.cancelLaunch {s job slot armed hard} (h : Ordered s) :
    Ordered (cancelLaunch s job slot armed hard) := by
  unfold Machine.cancelLaunch
  dsimp only
  split
  · split
    · exact h.settle
    · exact h
  · split
    · refine h.foldl fun s1 u hs1 => ?_
      split
      · exact hs1.cancelUnit
      · exact hs1
    · exact h

theorem Ordered.cancelLaunches {s job slots hard} (h : Ordered s) : Ordered (cancelLaunches s job slots hard) :=
  (h.foldl fun _ _ hs1 => hs1.setLaunch).foldl fun _ _ hs1 => hs1.cancelLaunch

theorem Ordered.cancelLevel {s job level addr hard} (h : Ordered s) :
    Ordered (cancelLevel s job level addr hard).1 := by
  unfold Machine.cancelLevel
  extract_lets
  dsimp only
  split
  · split
    · exact h
    · split
      · exact h
      · split
        · exact h
        · exact h.cancelUnit
  · split
    · exact h
    · split
      · exact h
      · exact h.writeCounter.cancelLaunches

theorem Ordered.holdUnits {s job sel} (h : Ordered s) : Ordered (holdUnits s job sel) := by
  unfold Machine.holdUnits
  refine h.foldl fun t va ht => ?_
  split
  · split
    · exact ht.dequeueUnit.writeRecord
    · exact ht
  · exact ht

theorem Ordered.unplace {s core x} (h : Ordered s) : Ordered (unplace s core x) := by
  unfold Machine.unplace
  dsimp only
  split
  · exact h
  · split
    · split
      · exact h.freeCtx.cancelUnit
      · exact h.freeCtx.enqueueWaited
    · exact h.freeCtx

theorem Ordered.keepOff {s core} (h : Ordered s) :
    Ordered (keepOff s core) := h.unplace.unplace.foldl fun _ _ ht => ht.holdUnits

theorem Ordered.schedFinish {s core c sc f rec} (h : Ordered s) : Ordered (schedFinish s core c sc f rec) := by
  unfold Machine.schedFinish
  refine Ordered.dropCmd ?_
  split
  · exact h.writeAct.outsideTo
  · exact h.writeAct

theorem Ordered.execLarmPerform {core seq s} (h : Ordered s) : Steady (execLarmPerform core seq s) := by
  unfold Machine.execLarmPerform
  refine Ordered.steady ?_
  dsimp only
  split
  · exact h
  · split
    · split
      · exact h
      · split
        next he3 =>
          refine Ordered.schedFinish (Ordered.of_fst ?_ he3)
          split
          · exact h
          · exact h.armLaunch
        next he3 =>
          refine Ordered.schedFinish (Ordered.of_fst ?_ he3)
          split
          · exact h
          · exact h.armLaunch
    · exact h

theorem Ordered.patchArg {s job slot j v} (h : Ordered s) : Ordered (patchArg s job slot j v) := h.setLaunch

theorem Ordered.execLpatchPerform {core seq s} (h : Ordered s) : Steady (execLpatchPerform core seq s) := by
  unfold Machine.execLpatchPerform
  refine Ordered.steady ?_
  dsimp only
  split
  · exact h
  · split
    · split
      · exact h
      · split
        · exact h.schedFinish
        · exact h.patchArg.schedFinish
    · exact h

theorem Ordered.execCancelPerform {core seq s} (h : Ordered s) : Steady (execCancelPerform core seq s) := by
  unfold Machine.execCancelPerform
  refine Ordered.steady ?_
  dsimp only
  split
  · exact h
  · split
    · split
      · exact h
      · exact h.cancelLevel.schedFinish
    · exact h

theorem Ordered.testWait {s job r} (h : Ordered s) : Ordered (testWait s job r).1 :=
  (h.foldl fun _ _ ht => ht.devMeet).foldl fun _ _ hs1 => hs1.faultNotice

theorem Ordered.execWaitSatisfied {job va s} (h : Ordered s) : Steady (execWaitSatisfied job va s) := by
  unfold Machine.execWaitSatisfied
  refine Ordered.steady ?_
  dsimp only
  split
  · exact h
  · split
    · exact h
    · exact h.testWait.writeRecord.enqueueUnit

end Sys2Proof
end

section
/-! SUPPORT. Memory kept in order: Packet rings. -/
namespace Sys2Proof
open Machine

theorem Ordered.ringFault {s r a i} (h : Ordered s) : Ordered (ringFault s r a i) := by
  unfold Machine.ringFault
  dsimp only
  split
  · exact h
  · exact h.setRing.faultNotice

theorem Ordered.haltRing {s r i} (h : Ordered s) : Ordered (haltRing s r i) := by
  unfold Machine.haltRing
  split
  · exact h
  · exact h.putDesc.postNotice

theorem Ordered.noteRingFault {s r} (h : Ordered s) : Ordered (noteRingFault s r) := by
  unfold Machine.noteRingFault
  split
  · exact h.ringFault
  · split
    · exact h
    · split
      · exact h.ringFault
      · exact h

theorem Ordered.meetRing {s r index} (h : Ordered s) : Ordered (meetRing s r index) := by
  unfold Machine.meetRing
  dsimp only
  split
  · exact h
  · split
    · exact h.meetWalk
    · split
      · exact h.meetWalk.meet.meetWalk.meet
      · exact h.meetWalk.meet.meetWalk

theorem Ordered.takePacket {s0 r index p ph} (h : Ordered s0) :
    Ordered (takePacket s0 r index p ph) := h.meetRing.setRing

theorem Ordered.setPkt {s r index ph} (h : Ordered s) : Ordered (setPkt s r index ph) := h.setRing

theorem Ordered.raisePkt {s r index l} (h : Ordered s) : Ordered (raisePkt s r index l) := h.raiseAll.setRing

theorem Ordered.lowerPkt {s r index} (h : Ordered s) : Ordered (lowerPkt s r index) := by
  unfold Machine.lowerPkt
  dsimp only
  split
  · exact h
  · exact h.setRing.lowerAll

theorem Ordered.freePackets {s r} (h : Ordered s) : Ordered (freePackets s r) := by
  unfold Machine.freePackets
  dsimp only
  split
  · split
    · exact h
    · split
      · exact h.postNotice
      · exact h.setRing.setDesc
  · exact h

theorem Ordered.completePacket {s r index p st detail skipped bytes deliver} (h : Ordered s) :
    Ordered (completePacket s r index p st detail skipped bytes deliver) := by
  unfold Machine.completePacket
  extract_lets _ _ s11 s21 s31
  have hs11 : Ordered s11 := by
    dsimp only [s11]
    split
    · exact h.writeStatus
    · exact h
  clear_value s11
  have hs21 : Ordered s21 := by
    dsimp only [s21]
    split
    · exact hs11.deliverSignal
    · exact hs11
  clear_value s21
  split
  · exact hs21.lowerPkt.setPkt.freePackets.haltRing
  · exact hs21.lowerPkt.setPkt.freePackets

theorem Ordered.finishPacket {s r index p st detail skipped bytes} (h : Ordered s) :
    Ordered (finishPacket s r index p st detail skipped bytes) :=
  h.completePacket

end Sys2Proof
end

section
/-! SUPPORT. Memory kept in order: Operations on key-value handles. -/
namespace Sys2Proof
open Machine

theorem Ordered.kvPiece {e d pg base lim store bad q} {m : Mv} (h : Ordered m.st) :
    Ordered (kvPiece e d pg base lim store bad m q).st := by
  unfold Machine.kvPiece
  dsimp only
  split
  · exact h
  · split
    · exact h
    · split
      · split
        · exact h
        · split
          next he4 => exact h.writeBlk.of_fst he4
          next he4 => exact h.writeBlk.of_fst he4
      · split
        · split
          next he4 => exact h.readSpan.of_fst he4
          next he4 =>
            split
            · exact h.readSpan.of_fst he4
            · dsimp only
              split
              · exact Ordered.poisonRange (Ordered.put (h.readSpan.of_fst he4) _ _)
              · exact Ordered.put (h.readSpan.of_fst he4) _ _
        · split
          next he4 => exact h.copyReadErrs.writeBlk.of_fst he4
          next he4 => exact h.copyReadErrs.writeBlk.of_fst he4

theorem Ordered.kvMove {s e d p store g lim bad} (h : Ordered s) : Ordered (kvMove s e d p store g lim bad).st := by
  unfold Machine.kvMove
  extract_lets _ _ _ x m1
  split
  · dsimp only
    exact h.resume
  · exact (h.resume.foldl_st fun _ _ hm => hm.foldl_st fun _ _ hm2 => hm2.kvPiece).declareForm

theorem Ordered.movePage {s src dst w} (h : Ordered s) : Ordered (movePage s src dst w) := by
  unfold Machine.movePage
  refine h.foldl fun s1 i hs1 => ?_
  dsimp only
  split
  · exact (hs1.copyReadErrs.put _ _).poisonRange
  · exact hs1.copyReadErrs.put _ _

theorem Ordered.kvTier {e d slot out bad i} {m : Mv} (h : Ordered m.st) : Ordered (kvTier e d slot out bad m i).st := by
  unfold Machine.kvTier
  dsimp only
  split
  · exact h
  · split
    · split
      · exact h
      · split
        · exact h
        · split
          · exact h
          · split
            next he5 => exact h.takeList.of_fst he5
            next he5 =>
              split
              · exact h
              · exact Ordered.returnPage (Ordered.setDir (Ordered.movePage (h.takeList.of_fst he5)))
    · split
      · exact h
      · split
        · exact h
        · split
          · exact h
          · split
            next he5 => exact h.takeList.of_fst he5
            next he5 =>
              split
              · exact h
              · exact Ordered.returnPage (Ordered.setDir (Ordered.movePage (h.takeList.of_fst he5)))

theorem Ordered.kvRun {s e p g lim bad} (h : Ordered s) : Ordered (kvRun s e p g lim bad).st := by
  unfold Machine.kvRun
  dsimp only
  split
  · exact h.kvMove
  · refine h.resume.foldl_st fun m i hm => ?_
    split
    · exact hm
    · exact hm.kvTier

theorem Ordered.kvViolation {s core c} (h : Ordered s) : Ordered (kvViolation s core c) := by
  unfold Machine.kvViolation
  refine (Ordered.chargeTo ?_).completeId.dropFences
  split
  · exact h.violateCtx
  · exact h.violateAway

theorem Ordered.kvrefDone {s core c x skipped bytes} (h : Ordered s) :
    Ordered (kvrefDone s core c x skipped bytes) := h.payTo.setDone

theorem Ordered.kvrefSettle {core c code} {m : Mv} (h : Ordered m.st) : Ordered (kvrefSettle core c m code) := by
  unfold Machine.kvrefSettle
  dsimp only
  split
  · exact h.payTo.setCmd
  · exact h.mvNotice.kvrefDone

theorem Ordered.kvrefGo {s core c p} (h : Ordered s) : Ordered (kvrefGo s core c p) := by
  unfold Machine.kvrefGo
  dsimp only
  split
  · exact h.kvRun.kvrefSettle
  · split
    next he1 => exact (h.submit he1).setCmd
    · exact h.setCmd

theorem Ordered.raiseCmd {s core c l} (h : Ordered s) : Ordered (raiseCmd s core c l).1 := h.raiseAll.setCmd

theorem Ordered.kvrefStep {s core c p} (h : Ordered s) : Ordered (kvrefStep s core c p) := by
  unfold Machine.kvrefStep
  extract_lets _ _ x1
  have hx1 : Ordered x1.1 := by
    dsimp only [x1]
    split
    · exact h
    · exact h.raiseCmd
  clear_value x1
  split
  · exact h.kvViolation
  · exact h.setCmd
  · exact hx1.setCmd
  · split
    · exact hx1.kvrefDone
    · exact h.kvrefDone
  · exact hx1.kvrefGo

theorem Ordered.kvrefPerform {s core c p} (h : Ordered s) : Ordered (kvrefPerform s core c p) := by
  unfold Machine.kvrefPerform
  dsimp only
  split
  · split
    · exact h.setDone
    · split
      next he2 => exact Ordered.setCmd (h.waitTest.of_fst he2)
      next he2 => exact Ordered.setDone (h.waitTest.of_fst he2)
      next he2 => exact Ordered.kvrefStep (h.waitTest.of_fst he2)
  · split
    next he1 => exact Ordered.setCmd (h.waitTest.of_fst he1)
    next he1 => exact Ordered.setDone (h.waitTest.of_fst he1)
    next he1 => exact Ordered.kvrefStep (h.waitTest.of_fst he1)
  · split
    · exact h.kvrefDone
    · exact h.kvrefStep
  · exact h.kvrefGo
  · exact h

theorem Ordered.execCpyPerform {core seq s} (h : Ordered s) : Steady (execCpyPerform core seq s) := by
  unfold Machine.execCpyPerform
  refine Ordered.steady ?_
  split
  · exact h
  · split
    · split
      · exact h.cpyStep
      · exact h
    · split
      · exact h.kvrefPerform
      · exact h
    · exact h

theorem Ordered.execCopyRetry {core seq s} (h : Ordered s) : Steady (execCopyRetry core seq s) := by
  unfold Machine.execCopyRetry
  refine Ordered.steady ?_
  split
  · exact h
  · split
    · split
      · exact h.cpyStep
      · exact h
    · split
      · exact h.kvrefGo
      · exact h
    · exact h

theorem Ordered.flushCmd {s core c detail} (h : Ordered s) : Ordered (flushCmd s core c detail) := h.abortCmd

theorem Ordered.takeFrames {d slot i n s} (h : Ordered s) : Ordered (takeFrames d slot i n s).1 := by
  induction n with
  | zero => exact h
  | succ n ih =>
    unfold Machine.takeFrames
    dsimp only
    split
    next he => exact Ordered.setDir (ih.takeList.of_fst he)
    next he => exact ih.takeList.of_fst he

theorem Ordered.undoRecord {s d slot j t old taken} (h : Ordered s) :
    Ordered (undoRecord s d slot j t old taken) := h.put _ _

theorem Ordered.appendData {s e d slot pos k src bad} (h : Ordered s) :
    Ordered (appendData s e d slot pos k src bad).1 := by
  unfold Machine.appendData
  refine h.foldl_fst fun p q hp => ?_
  dsimp only
  split
  · exact hp
  · split
    next he1 => exact hp.readSpan.of_fst he1
    next he1 =>
      split
      · exact hp.readSpan.of_fst he1
      · split
        · exact hp.readSpan.of_fst he1
        · dsimp only
          split
          · exact Ordered.poisonRange (Ordered.put (hp.readSpan.of_fst he1) _ _)
          · exact Ordered.put (hp.readSpan.of_fst he1) _ _

theorem Ordered.appendOne {s e h0 src k spec bad} (h : Ordered s) : Ordered (appendOne s e h0 src k spec bad).1 := by
  unfold Machine.appendOne
  dsimp only
  split
  · exact h
  · split
    · exact h
    · split
      · exact h
      · split
        · exact h.takeFrames.foldl fun _ _ hs1 => hs1.returnList
        · split
          · exact h.takeFrames.foldl fun _ _ hs1 => hs1.returnList
          · split
            · split
              · exact (h.takeFrames.foldl fun _ _ hs1 => hs1.undoRecord).appendData.foldl fun _ _ hs1 =>
                    hs1.returnList
              · exact (h.takeFrames.foldl fun _ _ hs1 => hs1.undoRecord).appendData.writeEntry
            · split
              · exact h.takeFrames.appendData.foldl fun _ _ hs1 => hs1.returnList
              · exact h.takeFrames.appendData.writeEntry

theorem Ordered.kvappEnd {s core c sc res} (h : Ordered s) : Ordered (kvappEnd s core c sc res) := h.writeAct.setDone

theorem Ordered.kvappFrom {core sc k spec l s c res held bad} (h : Ordered s) :
    Ordered (kvappFrom core sc k spec l s c res held bad) := by
  induction l generalizing s c res held bad with
  | nil => exact h.kvappEnd
  | cons x l ih =>
    unfold Machine.kvappFrom
    split
    · exact ih h
    · split
      · exact h.setCmd
      · split
        · exact ih h
        · extract_lets y asks a
          have hy : Ordered y.1 := by
            dsimp only [y]
            split
            · exact h
            · exact h.raiseCmd
          split
          · exact ih hy.appendOne
          · split
            next he => exact (hy.submit he).setCmd
            · exact hy.setCmd

theorem Ordered.kvappGo {s core c ents n sc k spec bad} (h : Ordered s) :
    Ordered (kvappGo s core c ents n sc k spec bad) := by
  unfold Machine.kvappGo
  dsimp only
  split
  · exact h.kvViolation
  · exact h.kvappFrom

theorem Ordered.execKvappPerform {core seq s} (h : Ordered s) : Steady (execKvappPerform core seq s) := by
  unfold Machine.execKvappPerform
  refine Ordered.steady ?_
  split
  · exact h
  · split
    · split
      · exact h
      · exact h.kvappGo
    · exact h

theorem Ordered.kvBlock {s core c sc st detail skipped area} (h : Ordered s) :
    Ordered (kvBlock s core c sc st detail skipped area) :=
  h.writeAct.setDone

theorem Ordered.kvOn {s core c h0 sc f} (h : Ordered s) (hf : ∀ u x y, Ordered u → Ordered (f u x y).1) :
    Ordered (kvOn s core c h0 sc f) := by
  unfold Machine.kvOn
  dsimp only
  split
  · exact h.kvViolation
  · split
    · exact h
    · split
      · exact h.kvBlock
      · exact (hf _ _ _ h.raiseCmd).kvBlock

theorem Ordered.endWaiters {s tenant slot st} (h : Ordered s) : Ordered (endWaiters s tenant slot st) := by
  unfold Machine.endWaiters
  refine (h.foldl fun t k ht => ?_).foldl fun t v ht => ?_
  · refine ht.foldl fun u c hu => ?_
    dsimp only
    split
    · split
      · exact hu.kvrefDone
      · exact hu
    · split
      · exact hu.kvBlock
      · exact hu
    · exact hu
  · refine ht.foldl fun u q hu => ?_
    dsimp only
    split
    · split
      · exact hu.finishPacket
      · exact hu
    · exact hu

theorem Ordered.undoOne {s d slot} (h : Ordered s) : Ordered (undoOne s d slot) := by
  unfold Machine.undoOne
  refine (Ordered.foldl ?_ fun _ _ hs1 => hs1.returnPage).writeEntry
  split
  · exact h.put _ _
  · exact h

theorem Ordered.rejectAbove {s d slot keep} (h : Ordered s) :
    Ordered (rejectAbove s d slot keep) := h.foldl fun _ _ hs1 => hs1.undoOne

theorem Ordered.commitHandle {s d slot} (h : Ordered s) : Ordered (commitHandle s d slot) := by
  unfold Machine.commitHandle
  dsimp only
  split
  · split
    · exact h.writeEntry.writeBucket
    · exact h.writeEntry
  · exact h.writeEntry

theorem Ordered.freeHandle {s tenant d slot} (h : Ordered s) : Ordered (freeHandle s tenant d slot).1 := by
  unfold Machine.freeHandle
  dsimp only
  split
  · exact h
  · split
    · dsimp only
      split
      · exact h.lowerRefs.tombBucket.endWaiters
      · exact h.lowerRefs
    · exact h.lowerRefs

theorem Ordered.kvrejRun {s core c h0 keep sc bad code} (h : Ordered s) :
    Ordered (kvrejRun s core c h0 keep sc bad code) := by
  unfold Machine.kvrejRun
  split
  · exact h.kvBlock
  · split
    · exact h.kvBlock
    · exact h.rejectAbove.kvBlock

theorem Ordered.kvrejGo {s core c h0 keep sc} (h : Ordered s) : Ordered (kvrejGo s core c h0 keep sc) := by
  unfold Machine.kvrejGo
  dsimp only
  split
  · exact h.kvrejRun
  · split
    next he1 => exact (h.submit he1).setCmd
    · exact h.setCmd

theorem Ordered.execKvrejPerform {core seq s} (h : Ordered s) : Steady (execKvrejPerform core seq s) := by
  unfold Machine.execKvrejPerform
  refine Ordered.steady ?_
  dsimp only
  split
  · exact h
  · split
    · split
      · exact h
      · split
        · exact h.kvViolation
        · split
          · exact h.kvrejGo
          · split
            · exact h
            · split
              · exact h.kvBlock
              · exact h.raiseCmd.kvrejGo
    · exact h

theorem Ordered.execKvcommitPerform {core seq s} (h : Ordered s) : Steady (execKvcommitPerform core seq s) := by
  unfold Machine.execKvcommitPerform
  refine Ordered.steady ?_
  split
  · exact h
  · split
    · split
      · exact h
      · exact h.kvOn fun _ _ _ hs1 => hs1.commitHandle
    · exact h

theorem Ordered.execKvfreePerform {core seq s} (h : Ordered s) : Steady (execKvfreePerform core seq s) := by
  unfold Machine.execKvfreePerform
  refine Ordered.steady ?_
  split
  · exact h
  · split
    · split
      · exact h
      · exact h.kvOn fun _ _ _ hs1 => hs1.freeHandle
    · exact h

theorem Ordered.claimDigest {s d own dig} (h : Ordered s) : Ordered (claimDigest s d own dig).1 := by
  unfold Machine.claimDigest
  dsimp only
  split
  · exact h
  · exact h
  · split
    · exact h
    · exact h.writeBucket.writeEntry

theorem Ordered.newHandle {s t cls} (h : Ordered s) : Ordered (newHandle s t cls).1 := by
  unfold Machine.newHandle
  dsimp only
  split
  next he => exact h.takeList.of_fst he
  next he => exact Ordered.writeEntry (h.takeList.of_fst he)

theorem Ordered.execGzclaimPerform {core seq s} (h : Ordered s) : Steady (execGzclaimPerform core seq s) := by
  unfold Machine.execGzclaimPerform
  refine Ordered.steady ?_
  dsimp only
  split
  · exact h
  · split
    · split
      · exact h
      · split
        · split
          · exact h.kvBlock
          · split
            · exact h.kvViolation
            · split
              · exact h.kvBlock
              · split
                next he7 => exact Ordered.kvBlock (h.newHandle.of_fst he7)
                next he7 =>
                  split
                  · exact Ordered.kvBlock (h.newHandle.of_fst he7)
                  · exact Ordered.kvBlock (Ordered.claimDigest (h.newHandle.of_fst he7))
        · split
          · exact h.kvViolation
          · split
            · exact h
            · split
              · exact h.kvBlock
              · split
                · exact h.raiseCmd.kvBlock
                · exact h.raiseCmd.claimDigest.kvBlock
    · exact h

theorem Ordered.execGzfindPerform {core seq s} (h : Ordered s) : Steady (execGzfindPerform core seq s) := by
  unfold Machine.execGzfindPerform
  refine Ordered.steady ?_
  dsimp only
  split
  · exact h
  · split
    · split
      · exact h
      · split
        · exact h.kvBlock
        · split
          · exact h.kvViolation
          · exact h.kvBlock
    · exact h

theorem Ordered.joinPrefix {s d p q n} (h : Ordered s) : Ordered (joinPrefix s d p q n).1 := by
  unfold Machine.joinPrefix
  dsimp only
  split
  · exact h
  · exact (h.foldl fun _ _ hs1 => hs1.returnPage.setDir).writeEntry.setEntry

theorem Ordered.execGzjoinPerform {core seq s} (h : Ordered s) : Steady (execGzjoinPerform core seq s) := by
  unfold Machine.execGzjoinPerform
  refine Ordered.steady ?_
  split
  · exact h
  · split
    · extract_lets p q held d x e
      split
      · exact h
      · split
        · exact h.kvViolation
        · split
          · have hx : Ordered x.1 := by
              dsimp only [x]
              split
              · exact h
              · exact h.raiseCmd
            clear_value x
            split
            · exact h.kvBlock
            · split
              · exact hx.kvBlock
              · split
                · split
                  · exact h
                  · exact hx.setCmd
                · split
                  · exact hx.kvBlock
                  · exact hx.joinPrefix.kvBlock
          · exact h.raiseCmd.kvBlock
          · exact h
          · exact h.kvBlock
          · exact h
    · exact h

end Sys2Proof
end

section
/-! SUPPORT. Memory kept in order: Packets of a ring. -/
namespace Sys2Proof
open Machine

theorem Ordered.settlePacket {s r index p} {m : Mv} (h : Ordered m.st) : Ordered (settlePacket s r index p m) := by
  unfold Machine.settlePacket
  dsimp only
  split
  · exact h.setPkt
  · refine Ordered.finishPacket ?_
    split
    · exact h.mvNotice.violateRing
    · exact h.mvNotice

theorem Ordered.runTransfer {s e r index p} (h : Ordered s) : Ordered (runTransfer s e r index p) := by
  unfold Machine.runTransfer
  dsimp only
  split
  · split
    · exact h.setPkt
    · exact h
  · split
    · exact h.finishPacket
    · split
      next he => exact (h.driveNext_scout he).setPkt
      next he => exact (h.driveNext_wait he).setPkt
      · exact h.setPkt
      · exact h.transferMem.settlePacket

theorem Ordered.runLaunch {s r index p} (h : Ordered s) : Ordered (runLaunch s r index p) := by
  unfold Machine.runLaunch
  dsimp only
  split
  · exact h.finishPacket
  · split
    next he1 => exact Ordered.finishPacket ((h.foldl fun _ _ hs1 => hs1.patchArg).armLaunch.of_fst he1)
    next he1 =>
      exact Ordered.finishPacket (Ordered.setLaunch ((h.foldl fun _ _ hs1 => hs1.patchArg).armLaunch.of_fst he1))

/-- A round of readings, from any signal on, leaves memory in order. -/
def Rounds (f : Nat → State → State × Option Bool) : Prop := ∀ i t, Ordered t → Ordered (f i t).1

/-- Recursion on a number, where the kernel must not reduce what the function's body computes. -/
theorem brecOn_induction {α : Type} {P : α → Prop} {F : ∀ n, Nat.below (motive := fun _ =>
    α) n → α} (zero : P (F 0 ⟨⟩))
    (succ : ∀ n r, P r.1 → P (F (n + 1) r)) (n : Nat) : P (Nat.brecOn (motive := fun _ => α) n F) := by
  induction n with
  | zero => exact zero
  | succ n ih => exact succ n _ ih

/-- The address is generalised: reduced, its numerals are too large for the kernel. -/
theorem rounds_barrierRound {e index p n} : Rounds (barrierRound e index p n) := by
  delta Machine.barrierRound Machine.barrierRound._f
  generalize Machine.shortAddr = sa
  revert sa
  refine id fun sa => ?_
  refine brecOn_induction (P := Rounds) (fun _ _ h => h) (fun n r hr i t ht => ?_) n
  dsimp only
  split
  next he =>
    have ht := ht.readSignal.of_fst he
    split
    · exact ht.faultNotice
    · exact ht
  next he =>
    have ht := ht.readSignal.of_fst he
    split
    · exact ht
    · split
      next hu => exact (hr _ _ ht).of_fst hu
      · exact hr _ _ ht

theorem Ordered.barrierRound {e index p n i t} (h : Ordered t) : Ordered (barrierRound e index p n i t).1 :=
  rounds_barrierRound i t h

theorem Ordered.runBarrier {s e r index p} (h : Ordered s) : Ordered (runBarrier s e r index p) := by
  unfold Machine.runBarrier
  split
  next he => exact Ordered.finishPacket (h.barrierRound.of_fst he)
  next he => exact Ordered.finishPacket (h.barrierRound.of_fst he)
  next he => exact Ordered.setPkt (h.barrierRound.of_fst he)

theorem Ordered.runSignal {s e r index p} (h : Ordered s) : Ordered (runSignal s e r index p) := by
  unfold Machine.runSignal
  dsimp only
  split
  · refine (Ordered.signalWrite ?_).completePacket
    split
    · exact h.writeStatus
    · exact h
  · exact h.finishPacket

theorem Ordered.runAtomic {s e r index p} (h : Ordered s) : Ordered (runAtomic s e r index p) := by
  unfold Machine.runAtomic
  split
  next he => exact Ordered.finishPacket (h.atomicOp.of_fst he)
  next he =>
    split
    · exact h.setPkt
    · refine Ordered.finishPacket ?_
      split
      · exact Ordered.faultNotice (h.atomicOp.of_fst he)
      · exact h.atomicOp.of_fst he

theorem Ordered.runNop {s r index p} (h : Ordered s) : Ordered (runNop s r index p) := by
  unfold Machine.runNop
  refine Ordered.finishPacket ?_
  split
  · split
    · split
      · exact h.putDesc
      · exact h
    · exact h
  · exact h

theorem Ordered.kvSettle {s r index p code} {m : Mv} (h : Ordered m.st) : Ordered (kvSettle s r index p m code) := by
  unfold Machine.kvSettle
  dsimp only
  split
  · exact h.setPkt
  · exact h.mvNotice.finishPacket

theorem Ordered.kvGoPkt {s e r index p} (h : Ordered s) : Ordered (kvGoPkt s e r index p) := by
  unfold Machine.kvGoPkt
  dsimp only
  split
  · exact h.kvRun.kvSettle
  · split
    next he1 => exact (h.submit he1).setPkt
    · exact h.setPkt

theorem Ordered.runKv {s e r index p} (h : Ordered s) : Ordered (runKv s e r index p) := by
  unfold Machine.runKv
  extract_lets _ _ s11
  have hs11 : Ordered s11 := by
    dsimp only [s11]
    split
    · exact h
    · exact h.raisePkt
  clear_value s11
  split
  · exact h.violateRing.completePacket
  · exact h.setPkt
  · exact hs11.setPkt
  · refine Ordered.finishPacket ?_
    split
    · exact hs11
    · exact h
  · exact hs11.kvGoPkt

theorem Ordered.runPacket {s e r index p} (h : Ordered s) : Ordered (runPacket s e r index p) := by
  unfold Machine.runPacket
  split
  · exact h.runNop
  · exact h.runTransfer
  · exact h.runTransfer
  · exact h.runTransfer
  · exact h.runLaunch
  · exact h.runBarrier
  · exact h.runSignal
  · exact h.runAtomic
  · exact h.runKv

theorem Ordered.waitPacket {s e r index p} (h : Ordered s) : Ordered (waitPacket s e r index p) := by
  unfold Machine.waitPacket
  split
  next he => exact Ordered.setPkt (h.waitTest.of_fst he)
  next he => exact Ordered.finishPacket (h.waitTest.of_fst he)
  next he => exact Ordered.runPacket (h.waitTest.of_fst he)

theorem Ordered.beginPacket {s e r index p} (h : Ordered s) : Ordered (beginPacket s e r index p) := by
  unfold Machine.beginPacket
  dsimp only
  split
  · exact h.takePacket.finishPacket
  · split
    · exact h.takePacket.finishPacket
    · exact h.takePacket.waitPacket

theorem Ordered.packetStep {ours r index s} (h : Ordered s) : Ordered (packetStep ours r index s) := by
  unfold Machine.packetStep
  extract_lets
  dsimp only
  split
  · exact h
  · split
    · split
      · exact h
      · split
        · exact h.waitPacket
        · split
          · exact h.kvGoPkt
          · exact h.runTransfer
        · exact h.runPacket
        · split
          · exact h
          · split
            · exact h.finishPacket
            · exact h.runKv
        · exact h
    · split
      · split
        · exact h
        · exact h.beginPacket
      · exact h.noteRingFault

theorem Ordered.execNop {r index s} (h : Ordered s) : Steady (execNop r index s) := h.packetStep.steady

theorem Ordered.execCopy {r index s} (h : Ordered s) : Steady (execCopy r index s) := h.packetStep.steady

theorem Ordered.execGather {r index s} (h : Ordered s) : Steady (execGather r index s) := h.packetStep.steady

theorem Ordered.execScatter {r index s} (h : Ordered s) : Steady (execScatter r index s) := h.packetStep.steady

theorem Ordered.execLaunch {r index s} (h : Ordered s) : Steady (execLaunch r index s) := h.packetStep.steady

theorem Ordered.execBarrier {r index s} (h : Ordered s) : Steady (execBarrier r index s) := h.packetStep.steady

theorem Ordered.execSignal {r index s} (h : Ordered s) : Steady (execSignal r index s) := h.packetStep.steady

theorem Ordered.execAtomic {r index s} (h : Ordered s) : Steady (execAtomic r index s) := h.packetStep.steady

theorem Ordered.execFetch {r index s} (h : Ordered s) : Steady (execFetch r index s) := h.packetStep.steady

theorem Ordered.execStore {r index s} (h : Ordered s) : Steady (execStore r index s) := h.packetStep.steady

theorem Ordered.execSpill {r index s} (h : Ordered s) : Steady (execSpill r index s) := h.packetStep.steady

theorem Ordered.execPreload {r index s} (h : Ordered s) : Steady (execPreload r index s) := h.packetStep.steady

theorem Ordered.retest {wanted run r index s} (h : Ordered s) (hrun : ∀ u x y z w, Ordered u → Ordered (run u x y z w)) :
    Ordered (retest wanted run r index s) := by
  unfold Machine.retest
  extract_lets
  split
  · split
    · exact hrun _ _ _ _ _ h
    · exact h
  · exact h

theorem Ordered.execBarrierRound {r index s} (h : Ordered s) : Steady (execBarrierRound r index s) :=
  (h.retest fun _ _ _ _ _ hs1 => hs1.runBarrier).steady

theorem Ordered.execPacketWaitRetest {r index s} (h : Ordered s) : Steady (execPacketWaitRetest r index s) :=
  (h.retest fun _ _ _ _ _ hs1 => hs1.waitPacket).steady

theorem Ordered.execMalformedPacket {r index s} (h : Ordered s) : Steady (execMalformedPacket r index s) := by
  unfold Machine.execMalformedPacket
  refine Ordered.steady ?_
  split
  · exact h
  · split
    · exact h.takePacket.completePacket.haltRing
    · split
      · exact h.beginPacket
      · exact h
    · exact h.noteRingFault

end Sys2Proof
end

section
/-! SUPPORT. Memory kept in order: Spill frames. -/
namespace Sys2Proof
open Machine

theorem Ordered.queueRefused {s job va} (h : Ordered s) : Ordered (queueRefused s job va) := by
  unfold Machine.queueRefused
  split
  · split
    · exact h.postNotice
    · exact h
  · exact h

theorem Ordered.takeFrame {job dk n s} (h : Ordered s) : Ordered (takeFrame job dk n s).1 := by
  induction n generalizing s with
  | zero => exact h
  | succ n ih =>
    unfold Machine.takeFrame
    dsimp only
    split
    · exact h
    · split
      · exact h
      · split
        · exact h.devMeet.setDesc
        · exact ih h.devMeet.setDesc.postNotice

/-- The frame's search is generalised: the kernel would evaluate its count. -/
theorem Ordered.frameFor {s job} (h : Ordered s) : Ordered (frameFor s job).1 := by
  unfold Machine.frameFor
  have hf : ∀ k n, Ordered (Machine.takeFrame job k n s).1 := fun _ _ => h.takeFrame
  generalize Machine.takeFrame = tf at hf ⊢
  revert tf
  refine id fun tf hf => ?_
  extract_lets r
  have hr : Ordered r.1 := by
    dsimp only [r]
    split
    · exact h.queueRefused
    · exact hf _ _
  clear_value r
  split
  · split
    · exact hr
    · exact hr.setJob.postNotice
  · exact hr.setJob
  · exact hr

theorem Ordered.returnFrame {s job fr} (h : Ordered s) : Ordered (returnFrame s job fr) := by
  unfold Machine.returnFrame
  dsimp only
  split
  · exact h.queueRefused
  · split
    · exact h
    · exact h.devWrite.setDesc

theorem Ordered.writeFrame {s job fr bs} (h : Ordered s) : Ordered (writeFrame s job fr bs) := h.devWrite

end Sys2Proof
end

section
/-! SUPPORT. Memory kept in order: The start of a tick. -/
namespace Sys2Proof
open Machine

theorem Ordered.landRow {core x log s r} (h : Ordered s) : Ordered (landRow core x log s r) := h.setCtx.put _ _

theorem Ordered.landAll {s core x log} (h : Ordered s) :
    Ordered (landAll s core x log) := (h.foldl fun _ _ hs1 => hs1.landRow).setCtx

theorem Ordered.armInjection {s id addr mask kind now} (h : Ordered s) :
    Ordered (armInjection s id addr mask kind now) := by
  unfold Machine.armInjection
  dsimp only
  split
  · exact h.of_mem rfl
  · split
    · exact h.parityApply
    · exact h.applyInjection

theorem Ordered.applyStore {s bs} (h : Ordered s) : Ordered (applyStore s bs) := h.foldl fun _ _ hs1 => hs1.put _ _

theorem Ordered.releaseImage {s core x a n} (h : Ordered s) : Ordered (releaseImage s core x a n).1 := by
  unfold Machine.releaseImage
  dsimp only
  split
  · exact h.readChecked.of_mem rfl
  · exact h.readChecked

theorem Ordered.atRelease {s core x k} (h : Ordered s) : Ordered (atRelease s core x k).1 := by
  unfold Machine.atRelease
  dsimp only
  split
  · exact h.releaseImage
  · exact h.releaseImage
  · exact h.releaseImage
  · exact h.releaseImage
  · exact h.releaseImage
  · exact h

theorem Ordered.releaseStream {s core c q att} (h : Ordered s) : Ordered (releaseStream s core c q att) := by
  unfold Machine.releaseStream
  dsimp only
  split
  · exact h.setCtx
  · split
    · exact h.setCtx.abortCmd
    · exact h.setCtx

theorem Ordered.releaseStore {s e} (h : Ordered s) : Ordered (releaseStore s e) := by
  unfold Machine.releaseStore
  split
  · exact h.applyStore
  · exact h

theorem Ordered.releaseCmd {core x s e} (h : Ordered s) : Ordered (releaseCmd core x s e) := by
  unfold Machine.releaseCmd
  dsimp only
  split
  · exact h
  · split
    · exact h.armInjection
    · exact h.releaseStream
    · exact h.atRelease.setCore

theorem Ordered.hold {s core x} (h : Ordered s) : Ordered (hold s core x) := h.setCtx

theorem Ordered.releaseCmds {core x l s} (h : Ordered s) : Ordered (releaseCmds core x l s) := by
  induction l generalizing s with
  | nil => exact h
  | cons e rest ih => exact ih h.setCtx.releaseCmd

theorem Ordered.release {s core} (h : Ordered s) : Ordered (release s core) := by
  unfold Machine.release
  dsimp only
  split
  · exact h
  · exact (h.foldl fun _ _ hs1 => hs1.releaseStore).releaseCmds.releaseCmds.dropFences

theorem Ordered.capture {s core x} (h : Ordered s) : Ordered (capture s core x) := h.arrayWritten.setCtx

theorem Ordered.checkpoint {s core x} (h : Ordered s) : Ordered (checkpoint s core x) := h.capture.hold

theorem Ordered.takeTrip {s core x t} (h : Ordered s) : Ordered (takeTrip s core x t) := h.chargeCore.trimError.takeTrap

theorem Ordered.landing {s core x} (h : Ordered s) : Ordered (landing s core x) := by
  unfold Machine.landing
  dsimp only
  split
  · exact h
  · split
    · exact h.takeTrap
    · split
      · exact h.landAll.checkpoint
      · exact h.landAll

end Sys2Proof
end

section
/-! SUPPORT. Memory kept in order: Units leaving their context. -/
namespace Sys2Proof
open Machine

theorem Ordered.writeRecordFor {s job who va r} (h : Ordered s) :
    Ordered (writeRecordFor s job who va r) := h.devMeet.devWrite

theorem Ordered.settleStop {s job va} (h : Ordered s) : Ordered (settleStop s job va) := by
  unfold Machine.settleStop
  split
  · exact h
  · split
    · exact h.enqueueUnit
    · split
      · exact h.writeRecord
      · exact h

theorem Ordered.settleCancel {s job va cancel} (h : Ordered s) : Ordered (settleCancel s job va cancel) := by
  unfold Machine.settleCancel
  split
  · exact h
  · split
    · exact h.cancelUnit
    · exact h

theorem Ordered.vacate {s core x} (h : Ordered s) : Ordered (vacate s core x) := h.setCore.freeCtx

theorem Ordered.clearCounters {s core x} (h : Ordered s) : Ordered (clearCounters s core x) := h.setCtx

theorem Ordered.reserve {s core c} (h : Ordered s) : Ordered (reserve s core c) := h.setCore

theorem Ordered.endUnit {s core x state reason} (h : Ordered s) : Ordered (endUnit s core x state reason) :=
  h.writeRecordFor.unreserve.clearCounters.vacate.unitEnded.sendBundle

theorem Ordered.suspendNow {s f isYield} (h : Ordered s) : Ordered (suspendNow s f isYield) := by
  unfold Machine.suspendNow
  dsimp only
  split
  · exact h.raiseTrap
  · exact h.setMe.hold

theorem Ordered.execSuspend {f s} (h : Ordered s) : Steady (execSuspend f s) := h.suspendNow.steady

theorem Ordered.execYield {f s} (h : Ordered s) : Steady (execYield f s) := by
  unfold Machine.execYield
  refine Ordered.steady ?_
  split
  · exact h
  · exact h.suspendNow

theorem Ordered.drain {core x quiet n s} (h : Ordered s) : Ordered (drain core x quiet n s) := by
  induction n generalizing s with
  | zero => exact h
  | succ n ih =>
    unfold Machine.drain
    dsimp only
    split
    · exact h.takeTrap
    · split
      · exact h.landAll
      · exact ih h.landAll.setCtx

theorem Ordered.suspended {s core x f} (h : Ordered s) : Ordered (suspended s core x f) := by
  unfold Machine.suspended
  extract_lets _ _ _ s11 s12 _ s13 w1 s21 s31
  have hw1 : Ordered w1.1 := by
    dsimp only [w1]
    split
    · exact h.writeRecordFor.testWait
    · exact h.writeRecordFor
  clear_value w1
  have hs21 : Ordered s21 := by
    dsimp only [s21]
    split
    · exact hw1
    · exact hw1.writeRecordFor
  clear_value s21
  have hs31 : Ordered s31 := by
    dsimp only [s31]
    split
    · exact hs21.reserve
    · exact hs21
  clear_value s31
  split
  · exact h.writeRecordFor.unreserve.vacate.unitEnded.sendBundle
  · split
    · exact h.writeRecordFor.unreserve.vacate.unitEnded.sendBundle
    · exact hs31.vacate.settleStop.sendBundle

theorem Ordered.execSuspensionComplete {core x s} (h : Ordered s) : Steady (execSuspensionComplete core x s) := by
  unfold Machine.execSuspensionComplete
  dsimp only
  refine Ordered.steady ?_
  split
  · split
    · exact h
    · split
      · exact h.drain.suspended
      · exact h.drain
  · exact h

theorem Ordered.saveToFrame {s core x fr a wait state reason resume kind} (h : Ordered s) :
    Ordered (saveToFrame s core x fr a wait state reason resume kind) := by
  unfold Machine.saveToFrame
  refine (Ordered.vacate ?_).settleStop.settleCancel.sendBundle
  split
  · exact h.writeFrame.writeRecordFor.reserve
  · exact h.writeFrame.writeRecordFor

theorem Ordered.flushUnit {s core x} (h : Ordered s) : Ordered (flushUnit s core x) :=
  (h.drain.setCtx.foldl fun _ _ hs1 => hs1.flushCmd).setCore

theorem Ordered.replace {s job va} (h : Ordered s) : Ordered (replace s job va) := by
  unfold Machine.replace
  split
  · exact h
  · split
    · exact h.dequeueUnit.writeRecord.enqueueUnit
    · split
      · exact h.dequeueUnit.enqueueUnit
      · split
        · exact h.dequeueUnit
        · exact h

theorem Ordered.intervalRollback {s core x} (h : Ordered s) : Ordered (intervalRollback s core x) := by
  unfold Machine.intervalRollback
  extract_lets c who s1 ents s2 sectors hit others s3 mark s4 s5 vas s6
  have h1 : Ordered s1 := h.flushUnit
  have h2 : Ordered s2 := h1.foldl fun _ _ ht => ht.put _ _
  have h3 : Ordered s3 := h2.foldl fun _ _ ht => ht.flushUnit
  have h4 : Ordered s4 := by
    dsimp only [s4]
    split
    · exact h3.setJob
    · exact h3
  have h5 : Ordered s5 := h4.clearCounters.vacate.foldl fun _ _ ht => ht.clearCounters.vacate
  have h6 : Ordered s6 := h5.foldl fun _ _ ht => ht.replace
  exact h6.settleCancel.emitEvent.sendBundle

theorem Ordered.saveTrapped {s core x a} (h : Ordered s) : Ordered (saveTrapped s core x a) := h.setCtx.intervalRollback

theorem Ordered.afterTrap {s core x} (h : Ordered s) : Ordered (afterTrap s core x) := by
  unfold Machine.afterTrap
  split
  · exact h.intervalRollback
  · exact h

theorem Ordered.execLongWaitSuspend {core x s} (h : Ordered s) : Steady (execLongWaitSuspend core x s) := by
  unfold Machine.execLongWaitSuspend
  dsimp only
  refine Ordered.steady ?_
  split
  · exact h
  · split
    · exact h.saveTrapped
    · split
      next he2 => exact Ordered.setCtx (h.frameFor.of_fst he2)
      next he2 =>
        split
        · exact Ordered.intervalRollback (Ordered.returnFrame (Ordered.readShadow (h.frameFor.of_fst he2)))
        · exact Ordered.saveToFrame (Ordered.rollback (Ordered.readShadow (h.frameFor.of_fst he2)))

theorem Ordered.saveAtBoundary {s core x} (h : Ordered s) : Ordered (saveAtBoundary s core x) := by
  unfold Machine.saveAtBoundary
  dsimp only
  split
  · exact h.setCtx
  · split
    · exact h.saveTrapped
    · split
      next he2 => exact Ordered.setCtx (h.frameFor.of_fst he2)
      next he2 =>
        exact Ordered.saveToFrame (Ordered.release (Ordered.checkpoint (Ordered.landAll (h.frameFor.of_fst he2))))

theorem Ordered.execPinnedPreemption {core x s} (h : Ordered s) : Steady (execPinnedPreemption core x s) := by
  unfold Machine.execPinnedPreemption
  dsimp only
  refine Ordered.steady ?_
  split
  · exact h
  · split
    · split
      · exact h.takeTrap.afterTrap.saveAtBoundary
      · exact h.takeTrap.afterTrap
    · split
      · exact h.saveAtBoundary
      · exact h

theorem Ordered.execRollbackTakeOffRetry {core x s} (h : Ordered s) : Steady (execRollbackTakeOffRetry core x s) := by
  unfold Machine.execRollbackTakeOffRetry
  dsimp only
  refine Ordered.steady ?_
  split
  · exact h
  · split
    · exact h.saveTrapped
    · split
      next he2 => exact Ordered.setCtx (h.frameFor.of_fst he2)
      next he2 => exact Ordered.keepOff (Ordered.saveToFrame (Ordered.of_mem (h.frameFor.of_fst he2) rfl))

theorem Ordered.execRemoval {core x s} (h : Ordered s) : Steady (execRemoval core x s) := by
  unfold Machine.execRemoval
  dsimp only
  refine Ordered.steady ?_
  split
  · exact h
  · split
    · exact h.intervalRollback
    · exact h.flushUnit.endUnit.emitEvent
    · exact h.flushUnit.endUnit
    · exact h

theorem Ordered.execResultLanding {core x trip s} (h : Ordered s) : Steady (execResultLanding core x trip s) := by
  unfold Machine.execResultLanding
  refine Ordered.steady ?_
  split
  · exact h
  · refine Ordered.afterTrap ?_
    split
    · exact h.takeTrip
    · split
      · exact h.landing.release
      · exact h.landing

end Sys2Proof
end

section
/-! SUPPORT. Memory kept in order: Dispatchers. -/
namespace Sys2Proof
open Machine

theorem Ordered.place {s cl core x u from'} (h : Ordered s) :
    Ordered (place s cl core x u from') := h.dequeueUnit.setCtx

theorem Ordered.execDecide {cl s} (h : Ordered s) : Steady (execDecide cl s) := by
  unfold Machine.execDecide
  refine Ordered.steady ?_
  dsimp only
  split
  · exact h
  · split
    · exact h.setCluster.place
    · split
      · exact h.setCluster
      · split
        · exact h.setCluster
        · split
          · exact h.setCluster
          · split
            · exact h.setCluster.setCtx
            · exact h.setCluster

theorem Ordered.malformed {s core x frame} (h : Ordered s) : Ordered (malformed s core x frame) := by
  unfold Machine.malformed
  refine (Ordered.unreserve ?_).vacate.unitEnded
  split
  · exact h.markRecord.postNotice.returnFrame
  · exact h.markRecord.postNotice

theorem Ordered.placeOn {s core x r a spill arrived status} (h : Ordered s) :
    Ordered (placeOn s core x r a spill arrived status) :=
  h.unreserve.writeRecordFor.setCtx

theorem Ordered.rehand {core x s c} (h : Ordered s) : Ordered (rehand core x s c) := h.setCore

theorem Ordered.rehomeFrom {core x job va s old} (h : Ordered s) : Ordered (rehomeFrom core x job va s old) := by
  unfold Machine.rehomeFrom
  dsimp only
  split
  · exact h
  · exact (h.setCore.foldl fun _ _ hs1 => hs1.rehand).setCore

theorem Ordered.rehome {s core x job va} (h : Ordered s) : Ordered (rehome s core x job va) :=
  (h.foldl fun _ _ hs1 => hs1.rehomeFrom).setCore

theorem Ordered.execPlacement {core x s} (h : Ordered s) : Steady (execPlacement core x s) := by
  unfold Machine.execPlacement
  dsimp only
  refine Ordered.steady ?_
  split
  · exact h
  · split
    · exact h.malformed
    · split
      · exact h.malformed
      · split
        · split
          · exact h.devMeet.malformed
          · split
            · exact h.devMeet.malformed
            · exact h.devMeet.rehome.placeOn.returnFrame
        · exact h.placeOn

end Sys2Proof
end

section
/-! SUPPORT. Memory kept in order: Issue of bundles. -/
namespace Sys2Proof
open Machine

theorem Ordered.slotExec {i s} (h : Ordered s) : Steady (slotExec i s) := by
  unfold Machine.slotExec
  split
  · exact h.execJ
  · exact h.execJr
  · exact h.execCall
  · exact h.execRet
  · exact h.execLoop
  · exact h.execLbrk
  · exact h.execBsel
  · exact h.execLendC
  · exact h.execSuspend
  · exact h.execYield
  · exact h.execTrap
  · exact h.execBrk
  · exact h.execSysr
  · exact h.execSysw
  · exact h.execIcinv
  · exact h.execTick
  · exact h.execIdle
  · exact h.execAdd
  · exact h.execSub
  · exact h.execMul
  · exact h.execMulh
  · exact h.execMulhn
  · exact h.execDiv
  · exact h.execRem
  · exact h.execAnd
  · exact h.execOr
  · exact h.execXor
  · exact h.execAndn
  · exact h.execShl
  · exact h.execShr
  · exact h.execSar
  · exact h.execMin
  · exact h.execMax
  · exact h.execMinn
  · exact h.execMaxn
  · exact h.execClz
  · exact h.execCtz
  · exact h.execPopc
  · exact h.execSext
  · exact h.execZext
  · exact h.execSel
  · exact h.execMaddr
  · exact h.execAddi
  · exact h.execAndi
  · exact h.execOri
  · exact h.execXori
  · exact h.execShli
  · exact h.execShri
  · exact h.execSari
  · exact h.execLi
  · exact h.execLih
  · exact h.execCmp
  · exact h.execCmpi
  · exact h.execPand
  · exact h.execPor
  · exact h.execPxor
  · exact h.execPset
  · exact h.execLda
  · exact h.execSta
  · exact h.execLdc
  · exact h.execStc
  · exact h.execLdw
  · exact h.execVadd
  · exact h.execVsub
  · exact h.execVmul
  · exact h.execVfma
  · exact h.execVfms
  · exact h.execVmin
  · exact h.execVmax
  · exact h.execVabs
  · exact h.execVneg
  · exact h.execVexp2
  · exact h.execVlog2
  · exact h.execVrcp
  · exact h.execVrsq
  · exact h.execVcvt
  · exact h.execVpack
  · exact h.execVunpk
  · exact h.execVbscl
  · exact h.execViadd
  · exact h.execVisub
  · exact h.execVimul
  · exact h.execVand
  · exact h.execVor
  · exact h.execVxor
  · exact h.execVshl
  · exact h.execVshr
  · exact h.execVsar
  · exact h.execVcmp
  · exact h.execVicmp
  · exact h.execVsel
  · exact h.execVbcst
  · exact h.execVmovs
  · exact h.execVperm
  · exact h.execVrot
  · exact h.execVrsum
  · exact h.execVrmax
  · exact h.execVrmin
  · exact h.execVscan
  · exact h.execVkey
  · exact h.execVhist
  · exact h.execVlda
  · exact h.execVsta
  · exact h.execVldc
  · exact h.execVstc
  · exact h.execVglda
  · exact h.execVmovq
  · exact h.execLendV
  · exact h.execKand
  · exact h.execKor
  · exact h.execKnot
  · exact h.execKset
  · exact h.execKpop
  · exact h.execMlat
  · exact h.execMlata
  · exact h.execMlatq
  · exact h.execMma
  · exact h.execMmav
  · exact h.execMconv
  · exact h.execMshape
  · exact h.execMpad
  · exact h.execMset
  · exact h.execMzero
  · exact h.execMdrain
  · exact h.execDot
  · exact h.execDotacc
  · exact h.execCpy
  · exact h.execSbind
  · exact h.execSrel
  · exact h.execGath
  · exact h.execGidx
  · exact h.execQapp
  · exact h.execAtom
  · exact h.execFence
  · exact h.execSfence
  · exact h.execSemset
  · exact h.execSemadd
  · exact h.execSemwt
  · exact h.execTbarm
  · exact h.execTbexp
  · exact h.execTbwait
  · exact h.execXidrd
  · exact h.execXidwt
  · exact h.execSigadd
  · exact h.execSigwt
  · exact h.execLarm
  · exact h.execLpatch
  · exact h.execCancel
  · exact h.execBmset
  · exact h.execBmwait
  · exact h.execKvref
  · exact h.execKvapp
  · exact h.execKvrej
  · exact h.execKvcommit
  · exact h.execKvfree
  · exact h.execGzclaim
  · exact h.execGzjoin
  · exact h.execGzfind
  · exact h.execSeal
  · exact h.execUnseal
  · exact h.execErrinj
  · exact h.steady

theorem Ordered.asActing {s core x o} (h : Ordered s) : Ordered (asActing s core x o) := h.of_mem rfl

theorem Ordered.atSlot {s k} (h : Ordered s) : Ordered (s.atSlot k) := h.of_mem rfl

theorem Ordered.noBundle {s} (h : Ordered s) : Ordered s.noBundle := h.of_mem rfl

theorem Ordered.runSlots {l s} (h : Ordered s) : Steady (runSlots l s) := by
  induction l generalizing s with
  | nil => exact h.steady
  | cons p ps ih =>
    unfold Machine.runSlots
    split
    · exact h.steady
    · split
      next t he => exact ih (h.atSlot.slotExec t he)
      · exact .fault
      · exact .refused

theorem Ordered.countIssue {s core x} (h : Ordered s) : Ordered (countIssue s core x) := h.setCore

theorem Ordered.writeArrays {s core x} (h : Ordered s) : Ordered (writeArrays s core x) := by
  unfold Machine.writeArrays
  dsimp only
  split
  · exact h
  · exact h.fireInjections

theorem Ordered.issueState {s core x o} (h : Ordered s) :
    Ordered (issueState s core x o) := h.asActing.setCtx.countIssue

theorem Ordered.bundleDone {u core x lit} (h : Ordered u) : Ordered (bundleDone u core x lit) := by
  unfold Machine.bundleDone
  dsimp only
  split
  · exact h.noBundle.writeArrays.afterTrap
  · exact h.noBundle.writeArrays.setCtx

theorem Ordered.countedFrom {s core x} (h : Ordered s) : Ordered (countedFrom s core x) := h.setCtx

theorem Ordered.issueBundle {s core x o} (h : Ordered s) : Steady (issueBundle s core x o) := by
  unfold Machine.issueBundle
  dsimp only
  split
  next u he =>
    refine (Ordered.bundleDone (Ordered.runSlots (Ordered.issueState ?_) u he)).steady
    split
    · exact h.checkpoint.countedFrom
    · split
      · exact h.checkpoint
      · exact h
  · exact .fault
  · exact .refused

theorem Ordered.noteMet {s core x} (h : Ordered s) : Ordered (noteMet s core x) := by
  unfold Machine.noteMet
  dsimp only
  split
  · exact h
  · exact h.setCtx

theorem Ordered.stall {s core x o} (h : Ordered s) : Ordered (stall s core x o) := by
  unfold Machine.stall
  dsimp only
  split
  · exact h.setCtx.takeTrap.afterTrap
  · split
    · exact h.setCtx.checkpoint
    · split <;> exact h.setCtx
  · exact h.noteMet
  · split
    · exact h.setCtx
    · split
      · exact h.setCtx
      · exact h
  · split
    · exact h.setCtx
    · split
      · exact h.setCtx
      · exact h

theorem Ordered.forceStalled {s core x o} (h : Ordered s) : Ordered (forceStalled s core x o) := by
  unfold Machine.forceStalled
  split
  · split
    · exact h.checkpoint
    · exact h
  · exact h

theorem Ordered.endCycle {s core lost} (h : Ordered s) : Ordered (endCycle s core lost) := h.release.setCore

theorem Steady.thenRes {r f} (h : Steady r) (hf : ∀ u, Ordered u → Steady (f u)) : Steady (thenRes r f) := by
  unfold Machine.thenRes
  split
  next u => exact hf u (h u rfl)
  · exact .fault
  · exact .refused

theorem Ordered.readArrays {s core x} (h : Ordered s) : Ordered (readArrays s core x) := by
  unfold Machine.readArrays
  dsimp only
  split
  · exact h
  · split
    · exact h.readArray.readLocs.takeTrap.afterTrap
    · exact h.readArray.readLocs

theorem Ordered.notIssued {s core x o} (h : Ordered s) : Ordered (notIssued s core x o) := h.stall.forceStalled

theorem Ordered.issueOffers {s core a b} (h : Ordered s) : Steady (issueOffers s core a b) := by
  unfold Machine.issueOffers
  split
  · exact .fault
  · exact .fault
  · split
    · split
      · refine Steady.thenRes ?_ fun _ hu => hu.noteMet.endCycle.steady
        split <;> exact h.issueBundle
      · exact h.issueBundle.thenRes fun _ hu => hu.issueBundle.thenRes fun _ hv => hv.endCycle.steady
    · exact h.issueBundle.thenRes fun _ hu => hu.notIssued.endCycle.steady
    · exact h.issueBundle.thenRes fun _ hu => hu.notIssued.endCycle.steady
    · exact h.notIssued.notIssued.endCycle.steady

theorem Ordered.beginCycle {s core x} (h : Ordered s) : Ordered (beginCycle s core x) := h.landing.afterTrap.readArrays

theorem Ordered.cycle {s core} (h : Ordered s) : Steady (cycle s core) := by
  unfold Machine.cycle
  dsimp only
  exact h.beginCycle.beginCycle.issueOffers

theorem Ordered.execBundleIssue {core s} (h : Ordered s) : Steady (execBundleIssue core s) := by
  unfold Machine.execBundleIssue
  split
  · exact h.steady
  · exact h.cycle

end Sys2Proof
end

section
/-! SUPPORT. Memory kept in order: SEAL and OPEN performed. -/
namespace Sys2Proof
open Machine

theorem Ordered.sealLine {s core job line rec k} (h : Ordered s) : Ordered (sealLine s core job line rec k) := by
  unfold Machine.sealLine
  dsimp only
  split
  · exact h.put _ _
  · split
    · exact ((h.put _ _).setForm.put _ _).setJob
    · exact (h.put _ _).setForm.put _ _

theorem Ordered.openLine {s core line rec k} (h : Ordered s) : Ordered (openLine s core line rec k) := by
  unfold Machine.openLine
  dsimp only
  split
  · exact h.put _ _
  · split
    · exact h.put _ _
    · split
      · exact h.put _ _
      · exact (h.put _ _).setForm.put _ _

theorem Ordered.cipherLines {s core c line rec n records one} (h : Ordered s) (hone : ∀ u x y z, Ordered u → Ordered (one u x y z)) :
    Ordered (cipherLines s core c line rec n records one) := by
  unfold Machine.cipherLines
  refine (h.foldl_fst fun p i hp => ?_).setDone
  dsimp only
  split
  · exact hp
  · split
    · split
      · split
        · exact hp.copyReadErrs.copyReadErrs
        · exact hone _ _ _ _ hp.copyReadErrs.copyReadErrs
      · dsimp only
        split
        · exact hp.copyReadErrs
        · exact hone _ _ _ _ hp.copyReadErrs
    · dsimp only
      split
      · exact hp.copyReadErrs.copyReadErrs
      · exact hp.copyReadErrs

theorem Ordered.execSealPerform {core seq s} (h : Ordered s) : Steady (execSealPerform core seq s) := by
  unfold Machine.execSealPerform
  refine Ordered.steady ?_
  split
  · exact h
  · split
    · split
      · exact h
      · exact h.cipherLines fun _ _ _ _ hs1 => hs1.sealLine
    · exact h

theorem Ordered.execUnsealPerform {core seq s} (h : Ordered s) : Steady (execUnsealPerform core seq s) := by
  unfold Machine.execUnsealPerform
  refine Ordered.steady ?_
  split
  · exact h
  · split
    · split
      · exact h
      · exact h.cipherLines fun _ _ _ _ hs1 => hs1.openLine
    · exact h

end Sys2Proof
end

section
/-! SUPPORT. Memory kept in order: Code on its way to a core. -/
namespace Sys2Proof
open Machine

theorem Ordered.fetchTrap {s core x cause code loc} (h : Ordered s) :
    Ordered (fetchTrap s core x cause code loc) := h.takeTrap.afterTrap

theorem Ordered.fetchBytes {s core x k n} (h : Ordered s) : Ordered (fetchBytes s core x k n).1 := h.copyReadErrs

theorem Ordered.execSegmentFetch {core x s} (h : Ordered s) : Steady (execSegmentFetch core x s) := by
  unfold Machine.execSegmentFetch
  dsimp only
  refine Ordered.steady ?_
  split
  · exact h
  · split
    · exact h.fetchTrap
    · split
      · exact h.fetchBytes.fetchTrap
      · exact h.fetchBytes.arrayWritten.setCore

theorem Ordered.execDictLoad {core x s} (h : Ordered s) : Steady (execDictLoad core x s) := by
  unfold Machine.execDictLoad
  extract_lets c asid
  refine Ordered.steady ?_
  split
  · exact h
  · split
    · exact h.fetchTrap
    · extract_lets n r t bs key d src
      split
      · exact h
      · have hr : Ordered r.1 := Ordered.foldl_fst (p := (s, false)) h fun _ _ hp => hp.fetchBytes
        split
        · exact hr.fetchTrap
        · exact hr.arrayWritten.setCore

theorem Ordered.dropLogged {s frames} (h : Ordered s) : Ordered (dropLogged s frames) := by
  unfold Machine.dropLogged
  refine h.foldl fun t c ht => ?_
  split
  · split
    · exact ht
    · exact ht.setJob
  · exact ht

theorem Ordered.mapRequest {s job manifest pages} (h : Ordered s) : Ordered (mapRequest s job manifest pages).1 := by
  unfold Machine.mapRequest
  dsimp only
  split
  · split
    · exact h
    · split
      · exact h.dropLogged.foldl fun _ _ ht => ht.meet
      · split
        · exact h.dropLogged.foldl fun _ _ ht => ht.meet
        · exact (h.dropLogged.foldl fun _ _ ht => ht.meet).of_mem rfl
  · exact h

theorem Ordered.loadManifest {s job dict code m} (h : Ordered s) : Ordered (loadManifest s job dict code m).1 := by
  unfold Machine.loadManifest
  dsimp only
  split
  · exact h
  · split
    · exact h
    · split
      · split
        · exact h.devMeet.devMeet.devMeet
        · split
          · exact h.devMeet.devMeet.devMeet
          · split
            · exact h.devMeet.devMeet.devMeet
            · exact (h.devMeet.devMeet.devMeet.devStore.foldl fun _ _ ht => ht.devStore).of_mem rfl
      · exact h.devMeet.devMeet

end Sys2Proof
end

section
/-! SUPPORT. Memory kept in order: Sessions and their requests. -/
namespace Sys2Proof
open Machine

theorem Ordered.replyPart {m result s p} (h : Ordered s) : Ordered (replyPart m result s p) := h.emit.sessionEntry

theorem Ordered.reply {s m result payload} (h : Ordered s) :
    Ordered (reply s m result payload) := h.foldl fun _ _ hs1 => hs1.replyPart

theorem Ordered.answer {s m result} (h : Ordered s) : Ordered (answer s m result) := h.reply

theorem Ordered.postEvent {s opcode job payload} (h : Ordered s) :
    Ordered (postEvent s opcode job payload) := h.emitEvent

theorem Ordered.configViolation {s m} (h : Ordered s) :
    Ordered (configViolation s m) := h.setSession.postNotice.tdiError.answer

theorem Ordered.request {s m k f} (h : Ordered s) (hf : ∀ u, Ordered u → Ordered (f u)) :
    Ordered (request s m k f) := by
  unfold Machine.request
  split
  · exact h
  · split
    · exact h.answer
    · split
      · exact h.configViolation
      · exact hf _ h

theorem Ordered.withJob {s m f} (h : Ordered s) (hf : ∀ u, Ordered (f u)) : Ordered (withJob s m f) := by
  unfold Machine.withJob
  split
  · exact hf _
  · exact h.answer

theorem Ordered.releaseUnits {s job} (h : Ordered s) : Ordered (releaseUnits s job) := by
  unfold Machine.releaseUnits
  refine h.foldl fun t va ht => ?_
  dsimp only
  split
  · split
    · split
      · exact ht.testWait.writeRecord.enqueueUnit
      · exact ht.testWait.writeRecord
    · exact ht
  · exact ht

theorem Ordered.holdJob {s job} (h : Ordered s) : Ordered (holdJob s job) := h.holdUnits

theorem Ordered.pauseJob {s job} (h : Ordered s) : Ordered (pauseJob s job) := by
  unfold Machine.pauseJob
  split
  · exact h.setJob.holdJob
  · exact h

theorem Ordered.resumeJob {s job} (h : Ordered s) : Ordered (resumeJob s job) := by
  unfold Machine.resumeJob
  split
  · exact h.setJob.releaseUnits
  · exact h

theorem Ordered.removeCtx {s core x} (h : Ordered s) : Ordered (removeCtx s core x) := h.flushUnit.endUnit

theorem Ordered.clearFrozen {s job} (h : Ordered s) : Ordered (clearFrozen s job) := by
  unfold Machine.clearFrozen
  split
  · exact h.setJob
  · exact h

theorem Ordered.removeUnits {s job} (h : Ordered s) : Ordered (removeUnits s job) := by
  unfold Machine.removeUnits
  refine (h.cancelLaunches.foldl fun _ _ ht => ht.removeCtx).clearFrozen.foldl fun t va ht => ?_
  split
  · split
    · exact ht.dequeueUnit.unreserve.writeRecord.unitEnded
    · exact ht
  · exact ht

theorem Ordered.abortPackets {s r detail} (h : Ordered s) :
    Ordered (abortPackets s r detail) := h.foldl fun _ _ ht => ht.finishPacket

theorem Ordered.execSpdmSessionEstablish {n job reqRing evRing s} (h : Ordered s) :
    Steady (execSpdmSessionEstablish n job reqRing evRing s) := by
  unfold Machine.execSpdmSessionEstablish
  extract_lets _ s11 _ _ s21
  refine Ordered.steady ?_
  split
  · exact h.emit
  · split
    · exact h
    · split
      · exact h.setSession
      · exact Ordered.postEvent (Ordered.foldl (h.of_mem rfl) fun _ _ ht => ht.freeCtx)

theorem Ordered.passSlot {s k} (h : Ordered s) : Ordered (passSlot s k) := h.setDesc

theorem Ordered.takeRequest {s h0 m payload} (h : Ordered s) : Ordered (takeRequest s h0 m payload) := by
  unfold Machine.takeRequest
  split
  · exact h.of_mem rfl
  · exact h.answer

theorem Ordered.takeMessage {s n bs} (h : Ordered s) : Ordered (takeMessage s n bs) := by
  unfold Machine.takeMessage
  dsimp only
  split
  · exact h.setSession
  · split
    · exact h.setSession
    · exact h.setSession.takeRequest

theorem Ordered.execDoorbell {n x s} (h : Ordered s) : Steady (execDoorbell n x s) := by
  unfold Machine.execDoorbell
  dsimp only
  refine Ordered.steady ?_
  split
  · exact h
  · split
    · exact h.setSession
    · split
      · exact h.setSession
      · exact h.setSession.passSlot.takeMessage

theorem Ordered.execBarWriteIgnored {x x0 s} (h : Ordered s) : Steady (execBarWriteIgnored x x0 s) := h.steady

theorem Ordered.execRefusalRing {m addr s} (h : Ordered s) : Steady (execRefusalRing m addr s) := by
  unfold Machine.execRefusalRing
  refine (h.request fun s1 hs1 => ?_).steady
  dsimp only
  split
  · exact hs1.answer
  · exact hs1.setSession.answer

theorem Ordered.execIdeStreamFailure {job s} (h : Ordered s) : Steady (execIdeStreamFailure job s) := by
  unfold Machine.execIdeStreamFailure
  refine Ordered.steady ?_
  split
  · exact h
  · exact h.tdiError

theorem Ordered.execLockInterface {m s} (h : Ordered s) : Steady (execLockInterface m s) := by
  unfold Machine.execLockInterface
  refine (h.request fun s1 hs1 => ?_).steady
  refine hs1.withJob fun j1 => ?_
  split
  · exact hs1.setJob.answer
  · exact hs1.answer

theorem Ordered.queuesDue {s job} (h : Ordered s) : Ordered (queuesDue s job) := by
  unfold Machine.queuesDue
  refine h.foldl fun t c ht => ?_
  split
  · exact ht.decisionDue
  · exact ht

theorem Ordered.execStartInterface {m s} (h : Ordered s) : Steady (execStartInterface m s) := by
  unfold Machine.execStartInterface
  refine (h.request fun s1 hs1 => ?_).steady
  refine hs1.withJob fun j1 => ?_
  split
  · exact hs1.setJob.queuesDue.answer
  · exact hs1.answer

theorem Ordered.zeroRange {s k n} (h : Ordered s) : Ordered (zeroRange s k n) := Ordered.arrayWritten (h.of_zero rfl)

theorem Ordered.scrubCore {s r} (h : Ordered s) : Ordered (scrubCore s r) := h.zeroRange.zeroRange

theorem Ordered.scrubPages {s job} (h : Ordered s) : Ordered (scrubPages s job) := h.foldl fun _ _ ht => ht.zeroRange

theorem Ordered.scrubJob {s job ranges} (h : Ordered s) : Ordered (scrubJob s job ranges) :=
  (h.foldl fun _ _ hs1 => hs1.scrubCore).scrubPages

theorem Ordered.stopInterface {s job} (h : Ordered s) : Ordered (stopInterface s job) := by
  unfold Machine.stopInterface
  dsimp only
  split
  · exact h.removeUnits.scrubJob.setJob
  · exact h.removeUnits.scrubJob

theorem Ordered.execStopInterface {m s} (h : Ordered s) : Steady (execStopInterface m s) := by
  unfold Machine.execStopInterface
  refine (h.request fun s1 hs1 => ?_).steady
  refine hs1.withJob fun j1 => ?_
  split
  · exact hs1.answer
  · split
    · exact hs1.setJob
    · exact hs1.stopInterface.answer

theorem Ordered.answerStops {s job result l} (h : Ordered s) :
    Ordered (answerStops s job result l) := h.foldl fun _ _ ht => ht.answer

theorem Ordered.stopAfter {s job} (h : Ordered s) : Ordered (stopAfter s job) := by
  unfold Machine.stopAfter
  split
  · split
    · exact h
    · exact h.stopInterface.answerStops
  · exact h

theorem Ordered.withCtx {s m core x f} (h : Ordered s) (hf : ∀ u, Ordered (f u)) : Ordered (withCtx s m core x f) := by
  unfold Machine.withCtx
  dsimp only
  split
  · exact h.answer
  · split
    · exact h.answer
    · exact hf _

theorem Ordered.stepRequest {s m core x ticks} (h : Ordered s) : Ordered (stepRequest s m core x ticks) := by
  unfold Machine.stepRequest
  refine h.request fun s1 hs1 => ?_
  refine hs1.withCtx fun c1 => ?_
  split
  · exact hs1.answer
  · split
    · exact hs1.answer
    · exact hs1.setCtx.answer

end Sys2Proof
end

section
/-! SUPPORT. Memory kept in order: Requests about a job's tables. -/
namespace Sys2Proof
open Machine

theorem Ordered.newKey {s job} (h : Ordered s) : Ordered (newKey s job).1 := h.fresh.of_mem rfl

theorem Ordered.execJobCreate {m desc s} (h : Ordered s) : Steady (execJobCreate m desc s) := by
  unfold Machine.execJobCreate
  refine (h.request fun s1 hs1 => ?_).steady
  dsimp only
  split
  · exact hs1.answer
  · split
    · exact hs1.answer
    · split
      · exact hs1.newKey.setJob.answer
      · exact hs1.setJob.answer

theorem Ordered.clearRing {s r} (h : Ordered s) : Ordered (clearRing s r) := h.lowerAll.setRing

theorem Ordered.execJobRemove {m s} (h : Ordered s) : Steady (execJobRemove m s) :=
  Ordered.steady (h.request fun _ hs1 => hs1.withJob fun _ =>
      Ordered.answer (Ordered.answerStops ((hs1.removeUnits.foldl fun _ _ ht => ht.clearRing).of_mem rfl)))

theorem Ordered.execPoolBuild {m first recs s} (h : Ordered s) : Steady (execPoolBuild m first recs s) := by
  unfold Machine.execPoolBuild
  refine (h.request fun s1 hs1 => ?_).steady
  refine hs1.withJob fun j1 => ?_
  dsimp only
  split
  · exact hs1.answer
  · split
    · exact hs1.answer
    · exact hs1.setJob.answer

theorem Ordered.bindErrorLog {s d k} (h : Ordered s) : Ordered (bindErrorLog s d k) := by
  unfold Machine.bindErrorLog
  dsimp only
  split
  · exact h.of_mem rfl
  · exact h

theorem Ordered.dropErrorLog {s k} (h : Ordered s) : Ordered (dropErrorLog s k) := h.of_mem rfl

theorem Ordered.execRingCreate {m addr desc s} (h : Ordered s) : Steady (execRingCreate m addr desc s) := by
  unfold Machine.execRingCreate
  refine (h.request fun s1 hs1 => ?_).steady
  refine hs1.withJob fun x1 => ?_
  dsimp only
  split
  · exact hs1.answer
  · split
    · exact hs1.answer
    · refine Ordered.answer ?_
      split
      · exact hs1.setDesc.setTags.clearRing
      · exact hs1.setDesc.setTags.bindErrorLog

theorem Ordered.execRingReset {m addr s} (h : Ordered s) : Steady (execRingReset m addr s) := by
  unfold Machine.execRingReset
  refine (h.request fun s1 hs1 => ?_).steady
  dsimp only
  split
  · exact hs1.answer
  · exact hs1.abortPackets.clearRing.setRing.putDesc.answer

theorem Ordered.execRingRemove {m addr s} (h : Ordered s) : Steady (execRingRemove m addr s) := by
  unfold Machine.execRingRemove
  refine (h.request fun s1 hs1 => ?_).steady
  dsimp only
  split
  · exact hs1.answer
  · exact Ordered.answer (Ordered.dropErrorLog (Ordered.putDesc (hs1.abortPackets.of_mem rfl)))

theorem Ordered.execWindowsSet {m entries s} (h : Ordered s) : Steady (execWindowsSet m entries s) := by
  unfold Machine.execWindowsSet
  refine (h.request fun s1 hs1 => ?_).steady
  refine hs1.withJob fun j1 => ?_
  split
  · exact hs1.answer
  · exact hs1.setJob.answer

theorem Ordered.execAsidSet {m asid entry s} (h : Ordered s) : Steady (execAsidSet m asid entry s) := by
  unfold Machine.execAsidSet
  refine (h.request fun s1 hs1 => ?_).steady
  dsimp only
  split
  · exact hs1.answer
  · exact Ordered.answer (hs1.of_mem rfl)

theorem Ordered.rereadRing {asid va len s v} (h : Ordered s) : Ordered (rereadRing asid va len s v) := by
  unfold Machine.rereadRing
  extract_lets _ _ s11
  have hs11 : Ordered s11 := by
    dsimp only [s11]
    split
    · exact h.setRing
    · exact h
  clear_value s11
  split
  · exact hs11.freePackets
  · exact hs11

theorem Ordered.execInvalidate {m asid va len s} (h : Ordered s) : Steady (execInvalidate m asid va len s) := by
  unfold Machine.execInvalidate
  refine (h.request fun s h => ?_).steady
  split
  · exact h.answer
  · split
    · exact h.answer
    · extract_lets s1 s2
      have h1 : Ordered s1 := h.dropCached
      clear_value s1
      have h2 : Ordered s2 := h1.of_mem rfl
      exact (h2.foldl fun _ _ ht => ht.rereadRing).answer

theorem Ordered.execArm {m slot s} (h : Ordered s) : Steady (execArm m slot s) := by
  unfold Machine.execArm
  refine (h.request fun s1 hs1 => ?_).steady
  refine hs1.withJob fun x1 => ?_
  split
  · exact hs1.answer
  · split
    next he1 => exact Ordered.reply (hs1.armLaunch.of_fst he1)
    next he1 => exact Ordered.answer (hs1.armLaunch.of_fst he1)

theorem Ordered.execLevelArm {m addr count parent s} (h : Ordered s) : Steady (execLevelArm m addr count parent s) := by
  unfold Machine.execLevelArm
  refine (h.request fun s1 hs1 => ?_).steady
  refine hs1.withJob fun j1 => ?_
  dsimp only
  split
  · exact hs1.answer
  · exact hs1.setJob.writeCounter.answer

theorem Ordered.execHostCancel {m level addr hard s} (h : Ordered s) : Steady (execHostCancel m level addr hard s) := by
  unfold Machine.execHostCancel
  refine (h.request fun s1 hs1 => ?_).steady
  refine hs1.withJob fun x1 => ?_
  dsimp only
  split
  · exact hs1.answer
  · split
    · exact hs1.cancelLevel.reply
    · exact hs1.cancelLevel.answer

theorem Ordered.execPlacementPause {m s} (h : Ordered s) : Steady (execPlacementPause m s) :=
  (h.request fun _ hs1 => hs1.withJob fun _ => hs1.pauseJob.answer).steady

theorem Ordered.execPlacementResume {m s} (h : Ordered s) : Steady (execPlacementResume m s) := by
  unfold Machine.execPlacementResume
  refine (h.request fun s1 hs1 => ?_).steady
  refine hs1.withJob fun j1 => ?_
  split
  · exact hs1.answer
  · exact hs1.setJob.resumeJob.answer

theorem Ordered.execIntervalMark {m base entries s} (h : Ordered s) : Steady (execIntervalMark m base entries s) := by
  unfold Machine.execIntervalMark
  refine (h.request fun s1 hs1 => ?_).steady
  refine hs1.withJob fun j1 => ?_
  split
  · exact hs1.answer
  · exact hs1.setJob.answer

theorem Ordered.execPoisonEnable {m on s} (h : Ordered s) : Steady (execPoisonEnable m on s) :=
  (h.request fun _ hs1 => hs1.withJob fun _ => hs1.setJob.answer).steady

theorem Ordered.execSysjobSet {m on s} (h : Ordered s) : Steady (execSysjobSet m on s) :=
  (h.request fun _ hs1 => hs1.withJob fun _ => hs1.setJob.answer).steady

theorem Ordered.execManifestLoad {m dict codeBase manifest s} (h : Ordered s) :
    Steady (execManifestLoad m dict codeBase manifest s) := by
  unfold Machine.execManifestLoad
  refine (h.request fun s1 hs1 => ?_).steady
  refine hs1.withJob fun x1 => ?_
  split
  next he => exact Ordered.answer (hs1.loadManifest.of_fst he)
  next he => exact Ordered.answer (hs1.loadManifest.of_fst he)
  next he => exact Ordered.answer (hs1.loadManifest.of_fst he)
  next he => exact Ordered.reply (hs1.loadManifest.of_fst he)

theorem Ordered.signatureViolation {s m} (h : Ordered s) :
    Ordered (signatureViolation s m) := h.setSession.postNotice.tdiError

theorem Ordered.execMapx {m manifest pages s} (h : Ordered s) : Steady (execMapx m manifest pages s) := by
  unfold Machine.execMapx
  refine (h.request fun s1 hs1 => ?_).steady
  refine hs1.withJob fun x1 => ?_
  dsimp only
  split
  next he => exact Ordered.answer (hs1.mapRequest.of_fst he)
  next he => exact Ordered.answer (hs1.mapRequest.of_fst he)
  next he => exact Ordered.answer (hs1.mapRequest.of_fst he)
  next he =>
    split
    · exact Ordered.signatureViolation (Ordered.reply (hs1.mapRequest.of_fst he))
    · exact Ordered.reply (hs1.mapRequest.of_fst he)

theorem Ordered.execUnmap {m pages s} (h : Ordered s) : Steady (execUnmap m pages s) := by
  unfold Machine.execUnmap
  refine (h.request fun s1 hs1 => ?_).steady
  refine hs1.withJob fun x1 => ?_
  dsimp only
  split
  · exact hs1.answer
  · exact Ordered.answer (hs1.of_mem rfl)

end Sys2Proof
end

section
/-! SUPPORT. Memory kept in order: Model updates. -/
namespace Sys2Proof
open Machine

theorem Ordered.writeJournal {s r} (h : Ordered s) : Ordered (writeJournal s r) := h.of_mem rfl

theorem Ordered.addWear {s core group n} (h : Ordered s) : Ordered (addWear s core group n) := by
  unfold Machine.addWear
  dsimp only
  split
  · exact Ordered.postEvent (h.of_mem rfl)
  · exact h.of_mem rfl

theorem Ordered.writeRows {s core group bs attempts} (h : Ordered s) :
    Ordered (writeRows s core group bs attempts).1 := by
  unfold Machine.writeRows
  refine h.foldl_fst fun p i hp => ?_
  dsimp only
  split
  · exact hp
  · split
    · exact hp.addWear.chargeCore
    · exact hp.addWear.put _ _

theorem Ordered.restoreGroup {s core group slot attempts} (h : Ordered s) :
    Ordered (restoreGroup s core group slot attempts) := by
  unfold Machine.restoreGroup
  refine h.foldl fun t i ht => ?_
  dsimp only
  split
  · exact ht.addWear.chargeCore
  · exact ht.addWear.put _ _

theorem Ordered.restoreGroups {s rs attempts} (h : Ordered s) : Ordered (restoreGroups s rs attempts) :=
  h.foldl fun _ _ ht => ht.restoreGroup

theorem Ordered.spoilModel {s model jobs} (h : Ordered s) : Ordered (spoilModel s model jobs) := h.of_mem rfl

theorem Ordered.usesModel {s model jobs} (h : Ordered s) : Ordered (usesModel s model jobs) := by
  unfold Machine.usesModel
  split
  · exact h.spoilModel
  · exact h

theorem Ordered.mendModel {s model} (h : Ordered s) : Ordered (mendModel s model) :=
  Ordered.foldl (h.of_mem rfl) fun _ _ hs1 => hs1.releaseUnits

theorem Ordered.writeEnd {s txn attempts} (h : Ordered s) : Ordered (writeEnd s txn attempts) := by
  unfold Machine.writeEnd
  split
  · exact h.writeJournal
  · exact h

theorem Ordered.undoTxn {s txn patch model jobs attempts} (h : Ordered s) :
    Ordered (undoTxn s txn patch model jobs attempts) := by
  unfold Machine.undoTxn
  dsimp only
  refine Ordered.writeEnd (Ordered.of_mem (s := if patch then _ else _) ?_ rfl)
  split
  · exact h.restoreGroups
  · exact h.spoilModel

theorem Ordered.abortTxn {s t core group} (h : Ordered s) : Ordered (abortTxn s t core group) :=
  h.undoTxn.postEvent.foldl fun _ _ hs1 => hs1.releaseUnits

theorem Ordered.execModelBegin {m kind model cores jobs s} (h : Ordered s) :
    Steady (execModelBegin m kind model cores jobs s) := by
  unfold Machine.execModelBegin
  refine (h.request fun s1 hs1 => ?_).steady
  dsimp only
  split
  · exact hs1.answer
  · split
    · exact hs1.answer
    · split
      · exact Ordered.answer (Ordered.foldl (Ordered.usesModel (Ordered.writeJournal (hs1.of_mem rfl))) fun _ _ hs2 => hs2.holdJob)
      · exact Ordered.answer (Ordered.abortTxn (hs1.of_mem rfl))

theorem Ordered.execJournalTxnStart {s} (h : Ordered s) : Steady (execJournalTxnStart s) := by
  unfold Machine.execJournalTxnStart
  refine Ordered.steady ?_
  split
  · split
    · exact h
    · exact h.of_mem rfl
  · exact h

theorem Ordered.meetSource {s asid va n} (h : Ordered s) : Ordered (meetSource s asid va n) := by
  unfold Machine.meetSource
  split
  · exact h
  · refine h.foldl fun t p ht => ?_
    split
    · exact ht.meet
    · exact ht

theorem Ordered.writeGroup {s0 r} (h : Ordered s0) : Ordered (writeGroup s0 r) := by
  unfold Machine.writeGroup
  extract_lets s bs die
  have hs : Ordered s := h.meetSource
  clear_value s
  split
  · exact hs
  · extract_lets u s1
    split
    · exact hs.abortTxn
    · have h1 : Ordered s1 := by
        dsimp only [s1]
        split
        · exact Ordered.writeJournal (hs.of_write rfl)
        · exact hs
      split
      next he => exact h1.writeRows.of_fst he
      next he => exact Ordered.abortTxn (Ordered.of_mem (h1.writeRows.of_fst he) rfl)

theorem Ordered.execModelRows {m rows s} (h : Ordered s) : Steady (execModelRows m rows s) := by
  unfold Machine.execModelRows
  refine (h.request fun s1 hs1 => ?_).steady
  split
  · exact hs1.answer
  · split
    · exact hs1.answer
    · split
      · exact hs1.answer
      · split
        · exact hs1.answer
        · exact (hs1.foldl fun _ _ hs0 => hs0.writeGroup).answer

theorem Ordered.finishTxn {s t} (h : Ordered s) : Ordered (finishTxn s t) := by
  unfold Machine.finishTxn
  refine Ordered.foldl ?_ fun _ _ hs1 => hs1.releaseUnits
  split
  · exact Ordered.writeEnd (h.of_mem rfl)
  · exact Ordered.mendModel (Ordered.writeEnd (h.of_mem rfl))

theorem Ordered.execModelCommit {m s} (h : Ordered s) : Steady (execModelCommit m s) := by
  unfold Machine.execModelCommit
  refine (h.request fun s1 hs1 => ?_).steady
  dsimp only
  split
  · exact hs1.answer
  · split
    · exact hs1.answer
    · split
      · exact hs1.abortTxn.answer
      · exact hs1.writeJournal.finishTxn.postEvent.answer

theorem Ordered.recoverJournal {s} (h : Ordered s) : Ordered (recoverJournal s) := by
  unfold Machine.recoverJournal
  refine Ordered.foldl (h.of_mem rfl) fun t n ht => ?_
  dsimp only
  split
  · refine Ordered.postEvent ?_
    split
    · exact Ordered.writeEnd (ht.of_mem rfl)
    · exact Ordered.mendModel (Ordered.writeEnd (ht.of_mem rfl))
  · exact ht.undoTxn.postEvent

end Sys2Proof
end

section
/-! SUPPORT. Memory kept in order: Surveyor. -/
namespace Sys2Proof
open Machine

theorem Ordered.inFrame {s u} (h : Ordered s) : Ordered (raise255.inFrame s u) := by
  unfold Machine.raise255.inFrame
  split
  · exact h.frameOutside
  · exact h

theorem Ordered.raise255 {s u} (h : Ordered s) : Ordered (raise255 s u) := by
  unfold Machine.raise255
  split
  · split
    · exact h.setCtx
    · exact h.inFrame
  · exact h.inFrame

theorem Ordered.capacityStep {s cl f} (h : Ordered s) : Ordered (capacityStep s cl f) := h.setCluster

theorem Ordered.capacityChange {s cl f} (h : Ordered s) : Ordered (capacityChange s cl f) :=
  (h.capacityStep.foldl fun _ _ hs1 => hs1.raise255).foldl fun _ _ ht => ht.postNotice

theorem Ordered.bothDies {s f} (h : Ordered s) : Ordered (bothDies s f) := h.of_mem rfl

theorem Ordered.saveHeader {s} (h : Ordered s) : Ordered (saveHeader s) := h.bothDies

theorem Ordered.saveMap {s cl} (h : Ordered s) : Ordered (saveMap s cl) := h.bothDies

theorem Ordered.writeRetRec {s type b} (h : Ordered s) :
    Ordered (writeRetRec s type b) := Ordered.saveHeader (h.of_mem rfl)

theorem Ordered.postDegraded {s} (h : Ordered s) : Ordered (postDegraded s) := h.postEvent

theorem Ordered.setReplacement {s v carried} (h : Ordered s) : Ordered (setReplacement s v carried) := by
  unfold Machine.setReplacement
  dsimp only
  split
  · exact h
  · refine Ordered.foldl (Ordered.saveHeader (h.of_mem rfl)) fun t c ht => ?_
    split
    · exact ht
    · exact ht.capacityStep

theorem Ordered.checkFloors {s b carried} (h : Ordered s) : Ordered (checkFloors s b carried) := by
  unfold Machine.checkFloors
  split
  · exact h
  · exact h.setReplacement.writeRetRec.postDegraded

theorem Ordered.holdPinned {s cl} (h : Ordered s) : Ordered (holdPinned s cl) := h.foldl fun _ _ ht => ht.holdUnits

theorem Ordered.beginEntry {s cl toOff} (h : Ordered s) : Ordered (beginEntry s cl toOff) := h.setCluster.holdPinned

theorem Ordered.returnCluster {s cl} (h : Ordered s) : Ordered (returnCluster s cl) := by
  unfold Machine.returnCluster
  dsimp only
  split
  · exact h
  · split
    · exact h
    · split
      · exact h.setCluster.beginEntry
      · exact h.setCluster

theorem Ordered.askLease {s core x} (h : Ordered s) : Ordered (askLease s core x) := by
  unfold Machine.askLease
  dsimp only
  split
  · exact h.setCtx
  · exact h

theorem Ordered.endAsk {s core x} (h : Ordered s) : Ordered (endAsk s core x) := by
  unfold Machine.endAsk
  dsimp only
  split
  · exact h.setCtx
  · exact h

theorem Ordered.beginCoreLease {s core} (h : Ordered s) :
    Ordered (beginCoreLease s core) := h.setCore.setCluster.keepOff.askLease.askLease

theorem Ordered.noted {s l} (h : Ordered s) : Ordered (noted s l) := h.of_mem rfl

theorem Ordered.surveyWake {s cl} (h : Ordered s) : Ordered (surveyWake s cl) := h.setCluster.requestWake

theorem Ordered.leaseLater {s core} (h : Ordered s) : Ordered (leaseLater s core) := h.of_mem rfl

theorem Ordered.leaseCore {s cl x} (h : Ordered s) : Ordered (leaseCore s cl x) := by
  unfold Machine.leaseCore
  extract_lets core s1 s2
  have h1 : Ordered s1 := by
    dsimp only [s1]
    split
    · exact h
    · exact h.beginCoreLease
  clear_value s1
  refine Ordered.ite h ?_
  split
  · exact h.surveyWake.leaseLater
  · split
    · exact Ordered.capacityChange (Ordered.noted (h1.of_mem rfl))
    · exact h1.leaseLater

theorem Ordered.releaseAll {s} (h : Ordered s) : Ordered (releaseAll s) := h.foldl fun _ _ ht => ht.releaseUnits

theorem Ordered.settleProvisional {s cl i apply} (h : Ordered s) : Ordered (settleProvisional s cl i apply) := by
  unfold Machine.settleProvisional
  dsimp only
  split
  · exact h.setCluster.chargeScore
  · exact h.setCluster

theorem Ordered.settleCore {s cl x apply} (h : Ordered s) :
    Ordered (settleCore s cl x apply) := h.settleProvisional.settleProvisional

theorem Ordered.dropLease {s c} (h : Ordered s) : Ordered (dropLease s c) := h.of_mem rfl

theorem Ordered.passCore {s cl x errors} (h : Ordered s) : Ordered (passCore s cl x errors) :=
  h.dropLease.settleCore.setCore.endAsk.endAsk.capacityChange.decisionDue.releaseAll.returnCluster

theorem Ordered.copyRange {s a n b} (h : Ordered s) : Ordered (copyRange s a n b) := by
  refine Ordered.arrayWritten ?_
  exact List.foldlRecOn (motive := fun u : Memory => u.wf = true) _ _ (Memory.zero_wf _ _ _ h) fun _ hu _ _ =>
    Memory.write_wf _ _ _ hu

theorem Ordered.loseGroup {core s g} (h : Ordered s) : Ordered (loseGroup core s g) :=
  Ordered.postEvent (Ordered.foldl (h.of_zero rfl) fun _ _ ht => ht.poisonAt)

theorem Ordered.spareImage {s old spare} (h : Ordered s) : Ordered (spareImage s old spare) :=
  (h.foldl fun _ _ ht => ht.fresh.addWear).copyRange.foldl fun _ _ hs1 => hs1.loseGroup

theorem Ordered.spareState {s old spare} (h : Ordered s) :
    Ordered (spareState s old spare) := h.copyRange.copyRange.of_mem rfl

theorem Ordered.spareCore {s old spare} (h : Ordered s) : Ordered (spareCore s old spare) := h.setCore.setCore

theorem Ordered.prepareSpare {s cl w} (h : Ordered s) : Ordered (prepareSpare s cl w) := h.spareImage.of_mem rfl

theorem Ordered.spareServes {s cl w} (h : Ordered s) : Ordered (spareServes s cl w) := h.writeRetRec.checkFloors

theorem Ordered.putInService {s cl w} (h : Ordered s) :
    Ordered (putInService s cl w) := h.setCluster.saveMap.spareServes

theorem Ordered.surveyEnded {s} (h : Ordered s) : Ordered (surveyEnded s) := by
  unfold Machine.surveyEnded
  split
  · exact h.of_mem rfl
  · exact h

theorem Ordered.execSpareInService {cl s} (h : Ordered s) : Steady (execSpareInService cl s) := by
  unfold Machine.execSpareInService
  refine Ordered.steady ?_
  dsimp only
  split
  · exact h
  · split
    · exact h
    · split
      · exact h.prepareSpare
      · exact h.putInService.spareState.spareCore.endAsk.endAsk.dropLease.capacityChange.decisionDue.releaseAll.returnCluster
            |>.surveyEnded

theorem Ordered.unpinUnit {s u} (h : Ordered s) : Ordered (unpinUnit s u) := by
  unfold Machine.unpinUnit
  split
  · exact h
  · extract_lets s1 s2 new s3 s4
    have h1 : Ordered s1 := by
      dsimp only [s1]
      split
      · exact h.returnFrame
      · exact h
    have h2 : Ordered s2 := by
      dsimp only [s2]
      split
      · exact h1.vacate
      · exact h1
    have h3 : Ordered s3 := h2.dequeueUnit.unreserve
    split
    · refine Ordered.writeRecord ?_
      dsimp only [s4]
      split
      · exact h3.setJob
      · exact h3
    · exact h3.writeRecord.enqueueUnit

theorem Ordered.repinUnit {code s u} (h : Ordered s) : Ordered (repinUnit code s u) := by
  unfold Machine.repinUnit
  split
  · exact h.writeRecord
  · exact h

theorem Ordered.loseCore {s cl x arch reason kind score} (h : Ordered s) :
    Ordered (loseCore s cl x arch reason kind score) :=
  ((h.writeRetRec.setCluster.saveMap.foldl fun _ _ hs1 => hs1.repinUnit).foldl fun _ _ hs1 =>
      hs1.unpinUnit).setCore.dropLease.checkFloors.capacityChange.releaseAll.returnCluster

theorem Ordered.retireCore {s cl x reason} (h : Ordered s) : Ordered (retireCore s cl x reason) := by
  unfold Machine.retireCore
  dsimp only
  split
  · exact h.setCluster.saveMap.setCore.dropLease.checkFloors.capacityChange.returnCluster
  · split
    · exact h.writeRetRec.setCluster
    · exact h.loseCore

theorem Ordered.beginRehash {s next} (h : Ordered s) : Ordered (beginRehash s next) := h.of_mem rfl

theorem Ordered.retireSheet {s c sh reason} (h : Ordered s) : Ordered (retireSheet s c sh reason) :=
  Ordered.checkFloors (Ordered.writeRetRec (h.of_mem rfl))

theorem Ordered.execSheetFailure {sheet s} (h : Ordered s) : Steady (execSheetFailure sheet s) := by
  unfold Machine.execSheetFailure
  refine Ordered.steady ?_
  split
  · exact h
  · extract_lets now s1 s2 src s3
    have h1 : Ordered s1 := h.of_mem rfl
    clear_value s1
    have h2 : Ordered s2 := h1.beginRehash.retireSheet
    clear_value s2
    have h3 : Ordered s3 := h2.of_mem rfl
    split
    · exact h2
    · split
      · exact h3.postDegraded
      · exact h3

theorem Ordered.execSheetRehashSwitch {s} (h : Ordered s) : Steady (execSheetRehashSwitch s) := by
  unfold Machine.execSheetRehashSwitch
  refine Ordered.steady ?_
  dsimp only
  split
  · exact h
  · exact Ordered.surveyEnded (Ordered.foldl (h.of_mem rfl) fun _ _ ht => ht.postNotice)

theorem Ordered.leaseOther {s c} (h : Ordered s) : Ordered (leaseOther s c) := Ordered.noted (h.of_mem rfl)

theorem Ordered.execSurveyLease {c s} (h : Ordered s) : Steady (execSurveyLease c s) := by
  unfold Machine.execSurveyLease
  refine Ordered.steady ?_
  split
  · exact h
  · split
    · exact h.leaseCore
    · exact h.beginRehash.leaseOther
    · exact h.leaseOther

theorem Ordered.execSurveyPass {c errors s} (h : Ordered s) : Steady (execSurveyPass c errors s) := by
  unfold Machine.execSurveyPass
  refine Ordered.steady ?_
  split
  · exact h
  · refine Ordered.surveyEnded ?_
    split
    · split
      · exact h
      · exact h.passCore
    · split
      · exact h
      · exact h.dropLease.beginRehash
    · exact h.dropLease

theorem Ordered.retireOther {s c reason} (h : Ordered s) : Ordered (retireOther s c reason) := by
  unfold Machine.retireOther
  dsimp only
  split
  · exact h
  · exact Ordered.checkFloors (Ordered.writeRetRec (h.of_mem rfl))
  · refine (Ordered.writeRetRec ?_).checkFloors
    split
    · exact h.of_mem rfl
    · exact Ordered.postEvent (h.of_mem rfl)
  · exact h.dropLease.noted.beginRehash.retireSheet

theorem Ordered.charged {s c reason} (h : Ordered s) : Ordered (execSurveyMismatch.charged s c reason) := by
  unfold Machine.execSurveyMismatch.charged
  split
  · exact h.chargeScore
  · exact h

theorem Ordered.execSurveyMismatch {c reason s} (h : Ordered s) : Steady (execSurveyMismatch c reason s) := by
  unfold Machine.execSurveyMismatch
  refine Ordered.steady ?_
  dsimp only
  split
  · exact h
  · refine Ordered.surveyEnded ?_
    split
    · split
      · exact h
      · refine Ordered.retireCore ?_
        split
        · exact h.settleCore.chargeScore
        · exact h.settleCore
    · split
      · exact h
      · exact h.charged.retireOther
    · exact h.charged.retireOther

theorem Ordered.execScoreHalving {domain s} (h : Ordered s) : Steady (execScoreHalving domain s) := by
  unfold Machine.execScoreHalving
  refine Ordered.steady ?_
  split
  · exact h
  · refine h.foldl fun t i ht => ?_
    split
    · exact ht.setScore
    · exact ht

theorem Ordered.execFloorsSet {m cores channels links s} (h : Ordered s) :
    Steady (execFloorsSet m cores channels links s) := by
  unfold Machine.execFloorsSet
  refine (h.request fun s1 hs1 => ?_).steady
  dsimp only
  split
  · exact hs1.answer
  · exact Ordered.answer (Ordered.saveHeader (hs1.of_mem rfl))

theorem Ordered.execReplacementClear {m s} (h : Ordered s) : Steady (execReplacementClear m s) :=
  (h.request fun _ hs1 => hs1.setReplacement.answer).steady

end Sys2Proof
end

section
/-! SUPPORT. Memory kept in order: Power. -/
namespace Sys2Proof
open Machine

theorem Ordered.execClusterEnterDoze {cl s} (h : Ordered s) : Steady (execClusterEnterDoze cl s) := by
  unfold Machine.execClusterEnterDoze
  refine Ordered.steady ?_
  split
  · exact h
  · exact h.beginEntry

theorem Ordered.execClusterEnterOff {cl s} (h : Ordered s) : Steady (execClusterEnterOff cl s) := by
  unfold Machine.execClusterEnterOff
  refine Ordered.steady ?_
  split
  · exact h
  · exact h.beginEntry

theorem Ordered.execClusterEntryComplete {cl s} (h : Ordered s) : Steady (execClusterEntryComplete cl s) := by
  unfold Machine.execClusterEntryComplete
  dsimp only
  refine Ordered.steady ?_
  split
  · exact h
  · split
    · exact h.setCluster
    · exact h

theorem Ordered.execClusterWake {cl s} (h : Ordered s) : Steady (execClusterWake cl s) := by
  unfold Machine.execClusterWake
  refine Ordered.steady ?_
  split
  · exact h
  · exact h.requestWake

theorem Ordered.clearCore {s core} (h : Ordered s) : Ordered (clearCore s core) :=
  Ordered.setCore (Memory.zero_wf _ _ _ (Memory.zero_wf _ _ _ h))

theorem Ordered.wakeCore {s core} (h : Ordered s) : Ordered (wakeCore s core) := by
  unfold Machine.wakeCore
  dsimp only
  split
  · exact h.setCore
  · exact h

theorem Ordered.execClusterWakeDone {cl s} (h : Ordered s) : Steady (execClusterWakeDone cl s) := by
  unfold Machine.execClusterWakeDone
  dsimp only
  refine Ordered.steady ?_
  split
  · exact h
  · split
    · refine (h.foldl fun t x ht => ?_).setCluster.releaseAll
      split
      · exact ht.clearCore
      · exact ht.wakeCore
    · exact h

theorem Ordered.execDroop {s} (h : Ordered s) : Steady (execDroop s) := h.steady

theorem Ordered.execTrimStepDown {cl s} (h : Ordered s) : Steady (execTrimStepDown cl s) := by
  unfold Machine.execTrimStepDown
  dsimp only
  refine Ordered.steady ?_
  split
  · exact h
  · exact h.setCluster

theorem Ordered.execHoldEntry {s} (h : Ordered s) : Steady (execHoldEntry s) := by
  unfold Machine.execHoldEntry
  refine Ordered.steady ?_
  split
  · exact h
  · exact h.of_mem rfl

theorem Ordered.execHoldExit {s} (h : Ordered s) : Steady (execHoldExit s) := by
  unfold Machine.execHoldExit
  refine Ordered.steady ?_
  dsimp only
  split
  · exact h
  · exact Ordered.foldl (h.of_mem rfl) fun _ _ ht => ht.stepRequest

theorem Ordered.execReserveFloor {s} (h : Ordered s) : Steady (execReserveFloor s) := by
  unfold Machine.execReserveFloor
  refine Ordered.steady ?_
  split
  · exact h
  · exact h.of_mem rfl

theorem Ordered.execTransportShock {s} (h : Ordered s) : Steady (execTransportShock s) := by
  unfold Machine.execTransportShock
  refine Ordered.steady ?_
  split
  · exact h
  · exact h.of_mem rfl

theorem Ordered.afterLoss {s} (h : Ordered s) : Ordered (afterLoss s) := h.of_filter rfl

theorem Ordered.tableRead {s} (h : Ordered s) : Ordered (tableRead s) := by
  refine Ordered.foldl (h.of_mem rfl) fun u c hu => ?_
  split
  · exact hu.setCluster
  · exact hu

theorem Ordered.recoverRetirement {s} (h : Ordered s) : Ordered (recoverRetirement s) := by
  unfold Machine.recoverRetirement
  refine h.tableRead.foldl fun t p ht => ?_
  split
  · exact ht.spareServes
  · exact ht.prepareSpare.putInService

theorem Ordered.execPowerUp {firmwareOk s} (h : Ordered s) : Steady (execPowerUp firmwareOk s) := by
  unfold Machine.execPowerUp
  refine Ordered.steady ?_
  split
  · exact h
  · extract_lets s1
    have h1 : Ordered s1 := h.afterLoss.recoverJournal.recoverRetirement
    clear_value s1
    split
    · exact h1.of_mem rfl
    · exact h1

end Sys2Proof
end

section
/-! SUPPORT. Memory kept in order: The outside. -/
namespace Sys2Proof
open Machine

theorem Ordered.inboundFault {s asid va peer detail} (h : Ordered s) :
    Ordered (inboundFault s asid va peer detail) := by
  unfold Machine.inboundFault
  split
  · exact h
  · exact Ordered.faultNotice (h.of_mem rfl)

theorem Ordered.walkerBusy {s} (h : Ordered s) : Ordered (walkerBusy s).1 := h.fresh

theorem Ordered.inbound {s asid va wr peer detail} (h : Ordered s) : Ordered (inbound s asid va wr peer detail).1 := by
  unfold Machine.inbound
  dsimp only
  split
  · exact h
  · split
    · split
      · exact h.walkerBusy
      · split
        · exact h.walkerBusy.meetWalk.inboundFault
        · exact h.walkerBusy.meetWalk.fillDie
    · repeat' split
      all_goals exact h

theorem Ordered.performAccess {s k who a mayPoison} (h : Ordered s) :
    Ordered (performAccess s k who a mayPoison).1 := by
  unfold Machine.performAccess
  dsimp only
  split
  · split
    next he => exact h.copyReadErrs.of_fst he
    next he => exact h.copyReadErrs.of_fst he
  · split
    next he => exact Ordered.setTags (Ordered.put (h.mergeErrs.of_fst he) _ _)
    next he => exact h.mergeErrs.of_fst he
  · split
    next he => exact Ordered.put (h.copyReadErrs.of_fst he) _ _
    next he1 => exact h.copyReadErrs.of_fst he1

theorem Ordered.refusalRecord {s r asid reason hint} (h : Ordered s) :
    Ordered (refusalRecord s r asid reason hint) := by
  unfold Machine.refusalRecord
  dsimp only
  split
  · exact h
  · exact h.ringProduce.setSession

theorem Ordered.complete {s r status data} (h : Ordered s) : Ordered (complete s r status data) := by
  unfold Machine.complete
  split
  · exact h
  · exact h.emit

theorem Ordered.readBar0 {s r} (h : Ordered s) : Ordered (readBar0 s r) := by
  unfold Machine.readBar0
  dsimp only
  split
  · split
    · exact h.complete
    · exact h.fresh.complete
  · exact h.complete

theorem Ordered.execHostInboundRequest {r s} (h : Ordered s) : Steady (execHostInboundRequest r s) := by
  unfold Machine.execHostInboundRequest
  refine Ordered.steady ?_
  dsimp only
  split
  · exact h
  · split
    · exact h.readBar0
    · split
      · exact h.complete
      · split
        · exact h.complete
        · split
          · exact h.complete.refusalRecord
          · split
            next he5 => exact Ordered.refusalRecord (Ordered.complete (h.inbound.of_fst he5))
            next he5 =>
              split
              next he6 => exact Ordered.complete (Ordered.of_fst (Ordered.performAccess (h.inbound.of_fst he5)) he6)
              next he6 => exact Ordered.complete (Ordered.of_fst (Ordered.performAccess (h.inbound.of_fst he5)) he6)

theorem Ordered.linkTo {s l st} (h : Ordered s) : Ordered (linkTo s l st) := h.setLink.postEvent

theorem Ordered.answerPeer {s l m plain} (h : Ordered s) : Ordered (answerPeer s l m plain) := h.emit.sendFlit

theorem Ordered.tellPeer {s m plain} (h : Ordered s) : Ordered (tellPeer s m plain) := by
  unfold Machine.tellPeer
  split
  · exact h.answerPeer
  · exact h

theorem Ordered.peerRequest {s r} (h : Ordered s) : Ordered (peerRequest s r) := by
  unfold Machine.peerRequest
  extract_lets va job n refuse
  refine Ordered.ite h (Ordered.ite h.answerPeer ?_)
  split
  next he => exact Ordered.answerPeer (h.inbound.of_fst he)
  next s1 x he =>
    extract_lets s2
    have h2 : Ordered s2 := Ordered.countAccess (h.inbound.of_fst he)
    split
    next hp => exact Ordered.answerPeer (h2.performAccess.of_fst hp)
    next hp => exact Ordered.answerPeer (h2.performAccess.of_fst hp)

theorem Ordered.execPeerInboundRequest {r s} (h : Ordered s) : Steady (execPeerInboundRequest r s) := by
  unfold Machine.execPeerInboundRequest
  refine Ordered.steady ?_
  split
  · exact h
  · exact h.peerRequest

theorem Ordered.pageIn {s key p} (h : Ordered s) : Ordered (pageIn s key p) :=
  ((h.put _ _).foldl fun _ _ ht => ht.setTags).foldl fun _ _ ht => ht.poisonAt

theorem Ordered.giveFrame {s job addr} (h : Ordered s) : Ordered (giveFrame s job addr) := by
  unfold Machine.giveFrame
  split
  · exact h.queueRefused
  · split
    · exact h
    · exact h.devWrite.setDesc

theorem Ordered.reserveFrame {s job} (h : Ordered s) {u} (e : reserveFrame s job = some u) : Ordered u.1 := by
  unfold Machine.reserveFrame at e
  split at e
  · cases e
  · split at e
    · cases e
    · split at e
      · cases e
      · dsimp only at e
        split at e
        · cases e
          exact h.setDesc
        · cases e

theorem Ordered.moveTo {s q p} (h : Ordered s) : Ordered (moveTo s q p) := h.of_mem rfl

theorem Ordered.askFrame {s q x} (h : Ordered s) : Ordered (askFrame s q x) := by
  unfold Machine.askFrame
  split
  · exact h.moveTo
  · exact h.moveTo.tellPeer

theorem Ordered.sendPage {s q x} (h : Ordered s) : Ordered (sendPage s q x) := h.moveTo.pageIn.tellPeer

theorem Ordered.leavePage {s q x} (h : Ordered s) : Ordered (leavePage s q x) :=
  Ordered.giveFrame (Ordered.dropCached (Ordered.moveTo (h.of_write rfl)))

theorem Ordered.execPageMove {asid va peer s} (h : Ordered s) : Steady (execPageMove asid va peer s) := by
  unfold Machine.execPageMove
  refine Ordered.steady ?_
  split
  · exact h
  · split
    · exact h
    · split
      · exact h.moveTo
      · split
        · exact h.askFrame
        · exact h.sendPage
        · exact h.leavePage
        · exact h
        · exact h

theorem Ordered.moveHeard {s asid va peer p next} (h : Ordered s) : Ordered (moveHeard s asid va peer p next) := by
  unfold Machine.moveHeard
  split
  · exact h.moveTo
  · exact h

theorem Ordered.frameAsked {s l asid va peer} (h : Ordered s) : Ordered (frameAsked s l asid va peer) := by
  unfold Machine.frameAsked
  dsimp only
  split
  · exact h.answerPeer
  · split
    · exact h.answerPeer
    · split
      · exact h.answerPeer
      next he2 => exact Ordered.answerPeer ((h.reserveFrame he2).of_mem rfl)

theorem Ordered.receivePage {s l p} (h : Ordered s) : Ordered (receivePage s l p) := by
  unfold Machine.receivePage
  dsimp only
  split
  · refine Ordered.answerPeer (Ordered.dropCached (Ordered.of_write ?_ rfl))
    exact Ordered.pageIn (h.of_mem rfl)
  · exact h

theorem Ordered.abandonMoves {s} (h : Ordered s) : Ordered (abandonMoves s) := by
  unfold Machine.abandonMoves
  dsimp only
  split
  · exact h
  · exact Ordered.foldl (((h.foldl fun _ _ ht => ht.moveTo).foldl fun _ _ ht =>
        ht.fresh.moveTo).of_mem rfl) fun _ _ ht => ht.giveFrame

theorem Ordered.receivePin {s asid va} (h : Ordered s) : Ordered (receivePin s asid va) := by
  unfold Machine.receivePin
  dsimp only
  split
  · exact h
  · exact Ordered.pinNotice (h.of_write rfl)

theorem Ordered.peerMsg {s l a} (h : Ordered s) : Ordered (peerMsg s l a) := by
  unfold Machine.peerMsg
  split
  · split
    · exact h.peerRequest
    · exact h
  · exact h.frameAsked
  · exact h.moveHeard
  · exact h.moveHeard
  · exact h.receivePage
  · exact h.moveHeard
  · exact h.receivePin
  · exact h.dropCached
  · exact h.resend.chargeScore

theorem Ordered.haltLink {s l} (h : Ordered s) : Ordered (haltLink s l) := by
  unfold Machine.haltLink
  split
  · exact h.linkTo
  · exact h

theorem Ordered.execFlitReceive {l f s} (h : Ordered s) : Steady (execFlitReceive l f s) := by
  unfold Machine.execFlitReceive
  dsimp only
  refine Ordered.steady ?_
  split
  · exact h
  · split
    · exact h.emit.chargeScore
    · split
      · exact h.haltLink
      · split
        · exact h
        · split
          · exact h.setLink.peerMsg
          · exact h.setLink

theorem Ordered.execLinkMacFailure {l s} (h : Ordered s) : Steady (execLinkMacFailure l s) := by
  unfold Machine.execLinkMacFailure
  refine Ordered.steady ?_
  split
  · exact h
  · exact h.haltLink

theorem Ordered.newEpoch {s l} (h : Ordered s) : Ordered (newEpoch s l) := h.setLink.foldl fun _ _ ht => ht.sendFlit

theorem Ordered.execLinkRetrainComplete {l s} (h : Ordered s) : Steady (execLinkRetrainComplete l s) := by
  unfold Machine.execLinkRetrainComplete
  dsimp only
  refine Ordered.steady ?_
  split
  · exact h
  · exact h.setLink.newEpoch.linkTo.sendBundles

theorem Ordered.execLinkDown {l s} (h : Ordered s) : Steady (execLinkDown l s) := by
  unfold Machine.execLinkDown
  dsimp only
  refine Ordered.steady ?_
  split
  · exact h
  · exact h.setLink.linkTo.abandonMoves

theorem Ordered.execLinkRekey {m l s} (h : Ordered s) : Steady (execLinkRekey m l s) := by
  unfold Machine.execLinkRekey
  refine (h.request fun s1 hs1 => ?_).steady
  split
  · exact hs1.answer
  · split
    · exact hs1.answer
    · exact hs1.newEpoch.answer

theorem Ordered.endHostCmd {s core c} (h : Ordered s) : Ordered (endHostCmd s core c) := by
  unfold Machine.endHostCmd
  dsimp only
  split
  · split
    · exact h
    · exact h.applyPart.payTo.endStream
  · exact h.applyPart.payTo.setDone

theorem Ordered.endHostTransfers {s} (h : Ordered s) : Ordered (endHostTransfers s) :=
  (h.foldl fun _ _ ht => ht.foldl fun _ _ hu => hu.endHostCmd).foldl fun _ _ ht => ht.foldl fun _ _ hu =>
      hu.applyPart.finishPacket

theorem Ordered.execHostPortNotDelivering {s} (h : Ordered s) : Steady (execHostPortNotDelivering s) := by
  unfold Machine.execHostPortNotDelivering
  refine Ordered.steady ?_
  split
  · exact h
  · exact Ordered.endHostTransfers (h.of_mem rfl)

theorem Ordered.nvmeCmd {s core c bad code} (h : Ordered s) : Ordered (nvmeCmd s core c bad code) := by
  unfold Machine.nvmeCmd
  split
  · split
    · exact h.setCmd
    · exact h.kvRun.kvrefSettle
  · exact h.kvappGo
  · exact h.kvrejRun
  · split
    · exact h.transferMem.settleCmd
    · exact h.setDone
  · split
    · exact h.nextElement
    · exact h.endStream
  · exact h

theorem Ordered.nvmePkt {s r q bad code} (h : Ordered s) : Ordered (nvmePkt s r q bad code) := by
  unfold Machine.nvmePkt
  dsimp only
  split
  · split
    · exact h.setPkt
    · exact h.kvRun.kvSettle
  · split
    · exact h.transferMem.settlePacket
    · exact h.finishPacket

theorem Ordered.nvmeAnswer {s w bad code} (h : Ordered s) : Ordered (nvmeAnswer s w bad code) := by
  unfold Machine.nvmeAnswer
  split
  · split
    · exact h.nvmeCmd
    · exact h
  · split
    · exact h.nvmePkt
    · exact h

theorem Ordered.dropCmds {s gone} (h : Ordered s) : Ordered (dropCmds s gone) := h.of_mem rfl

theorem Ordered.withdraw {s w} (h : Ordered s) : Ordered (withdraw s w) := h.dropCmds

theorem Ordered.execNvmeCompletion {drive sct sc s} (h : Ordered s) : Steady (execNvmeCompletion drive sct sc s) := by
  unfold Machine.execNvmeCompletion
  dsimp only
  refine Ordered.steady ?_
  split
  · exact h
  · split
    · exact h
    · split
      · exact h.of_mem rfl
      · split
        · exact Ordered.nvmeAnswer (Ordered.withdraw (h.of_mem rfl))
        · split
          · exact h.of_mem rfl
          · exact Ordered.nvmeAnswer (h.of_mem rfl)

theorem Ordered.execDriveUnresponsive {drive s} (h : Ordered s) : Steady (execDriveUnresponsive drive s) := by
  unfold Machine.execDriveUnresponsive
  refine Ordered.steady ?_
  dsimp only
  split
  · exact h
  · exact Ordered.postEvent (Ordered.foldl (h.of_mem rfl) fun _ _ ht => ht.withdraw.nvmeAnswer)

theorem Ordered.stopJob {s job} (h : Ordered s) : Ordered (stopJob s job) := by
  unfold Machine.stopJob
  refine h.pauseJob.foldl fun t p ht => ?_
  dsimp only
  split
  · exact ht.unplace
  · exact ht.setCtx

theorem Ordered.writePage {s job p} (h : Ordered s) {u} (e : writePage s job p = some u) : Ordered u := by
  unfold Machine.writePage at e
  dsimp only at e
  split at e
  · cases e
  · split at e
    · cases e
      exact h
    · cases e
      exact ((h.put _ _).foldl fun _ _ ht => ht.setTags).foldl fun _ _ ht => ht.poisonAt

theorem Ordered.writePages {s job pages} (h : Ordered s) {u} (e : writePages s job pages = some u) : Ordered u := by
  refine List.foldlRecOn (motive := fun acc : Option State => ∀ u, acc = some u → Ordered u) pages _ ?_ ?_ u e
  · rintro _ ⟨⟩
    exact h
  · intro acc hacc p _ u hu
    obtain ⟨t, ht, hp⟩ := Option.bind_eq_some_iff.1 hu
    exact (hacc t ht).writePage hp

theorem Ordered.wrapKey {s key} (h : Ordered s) : Ordered (wrapKey s key).1 := h.fresh

theorem Ordered.makeKey {s} (h : Ordered s) : Ordered (makeKey s).1 := h.fresh

theorem Ordered.requeueJob {s job} (h : Ordered s) : Ordered (requeueJob s job) := by
  unfold Machine.requeueJob
  refine h.foldl fun t va ht => ?_
  split
  · split
    · exact ht.dequeueUnit.enqueueUnit
    · exact ht
  · exact ht

theorem Ordered.execMigrateOut {m s} (h : Ordered s) : Steady (execMigrateOut m s) := by
  unfold Machine.execMigrateOut
  refine (h.request fun s1 hs1 => ?_).steady
  refine hs1.withJob fun j1 => ?_
  dsimp only
  split
  · exact hs1.answer
  · exact hs1.makeKey.setJob.stopJob.answer.sendBundle

theorem Ordered.dropReservations {s job} (h : Ordered s) : Ordered (dropReservations s job) := by
  unfold Machine.dropReservations
  refine h.foldl fun t k ht => ?_
  dsimp only
  split
  · exact ht.setCore
  · exact ht

theorem Ordered.execMigrationAck {job accepted s} (h : Ordered s) : Steady (execMigrationAck job accepted s) := by
  unfold Machine.execMigrationAck
  refine Ordered.steady ?_
  dsimp only
  split
  · exact h
  · split
    · exact h
    · split
      · exact h.setJob.postEvent
      · exact h.scrubPages.dropReservations.setJob

theorem Ordered.execMigrateIn {m bundle intact s} (h : Ordered s) : Steady (execMigrateIn m bundle intact s) := by
  unfold Machine.execMigrateIn
  refine (h.request fun s h => ?_).steady
  split
  · exact h.answer
  · split
    · exact h.answer
    · exact Ordered.answer (Ordered.of_mem (s := (Machine.wrapKey s bundle.key).1) h.wrapKey rfl)

theorem Ordered.restartJob {s job b} (h : Ordered s) {u} (e : restartJob s job b = some u) : Ordered u := by
  obtain ⟨t, ht, rfl⟩ := Option.map_eq_some_iff.1 e
  exact Ordered.requeueJob (Ordered.releaseUnits ((h.setJob.writePages ht).of_mem rfl))

theorem Ordered.confirmIn {m restart s} (h : Ordered s) : Ordered (confirmIn m restart s) := by
  unfold Machine.confirmIn
  split
  · exact h.postEvent.answer
  · split
    · exact h.answer
    next he =>
      split at he
      · obtain ⟨b, _, hb⟩ := Option.bind_eq_some_iff.1 he
        exact (h.restartJob hb).answer
      · cases he

theorem Ordered.execMigrateConfirm {m restart s} (h : Ordered s) : Steady (execMigrateConfirm m restart s) := by
  unfold Machine.execMigrateConfirm
  refine (h.request fun s1 hs1 => ?_).steady
  split
  · split
    · exact hs1.answer
    · exact hs1.setJob.postEvent.answer
  · exact hs1.confirmIn

theorem Ordered.imageExtents {s} (h : Ordered s) : Ordered (imageExtents s).1 := h.foldl_fst fun _ _ hp => hp.fresh

theorem Ordered.saveImage {s job j} (h : Ordered s) : Ordered (saveImage s job j).1 := by
  unfold Machine.saveImage
  dsimp only
  split
  · dsimp only
    exact h.imageExtents.makeKey.wrapKey
  · exact h.imageExtents

theorem Ordered.execSafeCheckpoint {m s} (h : Ordered s) : Steady (execSafeCheckpoint m s) := by
  unfold Machine.execSafeCheckpoint
  refine (h.request fun s1 hs1 => ?_).steady
  refine hs1.withJob fun j1 => ?_
  split
  · exact hs1.answer
  · exact hs1.setJob.stopJob.answer

theorem Ordered.endSaving {s job} (h : Ordered s) : Ordered (endSaving s job) := by
  unfold Machine.endSaving
  split
  · exact h.setJob.resumeJob
  · exact h

theorem Ordered.execCheckpointDone {job ok s} (h : Ordered s) : Steady (execCheckpointDone job ok s) := by
  unfold Machine.execCheckpointDone
  refine Ordered.steady ?_
  dsimp only
  split
  · exact h
  · split
    · exact h
    · split
      · exact Ordered.stopAfter (Ordered.postEvent (Ordered.endSaving (h.saveImage.of_mem rfl)))
      · exact h.endSaving.postEvent.stopAfter

theorem Ordered.execSafeRestore {m s} (h : Ordered s) : Steady (execSafeRestore m s) := by
  unfold Machine.execSafeRestore
  refine (h.request fun s1 hs1 => ?_).steady
  refine hs1.withJob fun j1 => ?_
  split
  · exact hs1.answer
  · exact hs1.setJob.pauseJob.answer

theorem Ordered.restoreRange {s r} (h : Ordered s) : Ordered (restoreRange s r) := by
  unfold Machine.restoreRange
  split
  · exact h.put _ _
  · exact h

theorem Ordered.restoreForms {cipher s r} (h : Ordered s) : Ordered (restoreForms cipher s r) := by
  unfold Machine.restoreForms
  split
  · split
    · exact h
    · exact h.foldl fun _ _ ht => ht.setForm
  · exact h

theorem Ordered.restoreResv {s r} (h : Ordered s) : Ordered (restoreResv s r) := by
  unfold Machine.restoreResv
  dsimp only
  split
  · exact h.setCore
  · exact h

theorem Ordered.restorePoison {s p} (h : Ordered s) : Ordered (restorePoison s p) := by
  unfold Machine.restorePoison
  split
  · exact h.poisonAt
  · exact h

theorem Ordered.restoreImage {s job j i} (h : Ordered s) {u} (e : restoreImage s job j i = some u) : Ordered u := by
  obtain ⟨t, ht, rfl⟩ := Option.map_eq_some_iff.1 e
  exact ((((h.setJob.writePages ht).foldl fun _ _ hv => hv.restoreRange).foldl fun _ _ hv => hv.restoreForms).foldl
    fun _ _ hv => hv.restorePoison).foldl fun _ _ hv => hv.restoreResv

theorem Ordered.execRestoreDone {job s} (h : Ordered s) : Steady (execRestoreDone job s) := by
  unfold Machine.execRestoreDone
  refine Ordered.steady ?_
  split
  · split
    · exact h
    · dsimp only
      split
      next he =>
        obtain ⟨i, _, hi⟩ := Option.bind_eq_some_iff.1 he
        exact (h.restoreImage hi).endSaving.requeueJob.postEvent.stopAfter
      · exact h.endSaving.postEvent.stopAfter
  · exact h

end Sys2Proof
end

section
/-! SUPPORT. Memory kept in order: The host's tenant messages. -/
namespace Sys2Proof
open Machine

theorem Ordered.fillList {s a l} (h : Ordered s) : Ordered (fillList s a l) := (h.put _ _).setDesc

theorem Ordered.freshRegion {s d} (h : Ordered s) : Ordered (freshRegion s d) :=
  h.zeroRange.zeroRange.zeroRange.zeroRange.foldl fun _ _ ht => ht.physPut

theorem Ordered.freshPool {s pool} (h : Ordered s) :
    Ordered (freshPool s pool) := h.freshRegion.foldl fun _ _ hu => hu.fillList

theorem Ordered.execTenantCreate {m pool s} (h : Ordered s) : Steady (execTenantCreate m pool s) := by
  unfold Machine.execTenantCreate
  refine (h.request fun s1 hs1 => ?_).steady
  dsimp only
  split
  · exact hs1.answer
  · split
    · exact hs1.answer
    · exact Ordered.answer (hs1.freshPool.of_mem rfl)

theorem Ordered.execTenantGrant {m tenant s} (h : Ordered s) : Steady (execTenantGrant m tenant s) := by
  unfold Machine.execTenantGrant
  refine (h.request fun s1 hs1 => ?_).steady
  refine hs1.withJob fun j1 => ?_
  split
  · exact hs1.answer
  · split
    · exact hs1.answer
    · split
      · exact hs1.answer
      · split
        · exact hs1.answer
        · exact hs1.setJob.answer

theorem Ordered.withTenant {s m tenant f} (h : Ordered s) (hf : ∀ u, Ordered (f u)) :
    Ordered (withTenant s m tenant f) := by
  unfold Machine.withTenant
  split
  · exact h.answer
  · split
    · exact hf _
    · exact h.answer

theorem Ordered.revokeSlot {s d slot} (h : Ordered s) : Ordered (revokeSlot s d slot) := by
  unfold Machine.revokeSlot
  dsimp only
  split
  · exact h.writeEntry
  · exact h

theorem Ordered.revokeMoves {s tenant} (h : Ordered s) : Ordered (revokeMoves s tenant) := by
  unfold Machine.revokeMoves
  refine (h.foldl fun t k ht => ?_).foldl fun t v ht => ?_
  · refine ht.foldl fun u c hu => ?_
    dsimp only
    split
    · split
      · exact hu.kvRun.kvrefDone
      · exact hu
    · split
      · exact hu.kvappGo
      · exact hu
    · exact hu
  · refine ht.foldl fun u q hu => ?_
    dsimp only
    split
    · exact hu.kvRun.finishPacket
    · exact hu

theorem Ordered.execTenantCancel {m tenant s} (h : Ordered s) : Steady (execTenantCancel m tenant s) :=
  Ordered.steady (h.request fun _ hs1 => hs1.withTenant fun _ =>
      Ordered.answer (Ordered.endRevoked (((hs1.foldl fun _ _ ht =>
      ht.revokeSlot).revokeMoves.foldl fun _ _ ht => ht.endWaiters).of_mem rfl)))

theorem Ordered.execGzEvict {m tenant bucket s} (h : Ordered s) : Steady (execGzEvict m tenant bucket s) := by
  unfold Machine.execGzEvict
  refine (h.request fun s1 hs1 => ?_).steady
  refine hs1.withTenant fun d1 => ?_
  split
  · exact hs1.answer
  · split
    · exact hs1.tombBucket.endWaiters.answer
    · exact hs1.answer

end Sys2Proof
end

section
/-! SUPPORT. Memory kept in order: Debug, freeze, thaw and injections. -/
namespace Sys2Proof
open Machine

theorem Ordered.execStep {m core x ticks s} (h : Ordered s) : Steady (execStep m core x ticks s) := by
  unfold Machine.execStep
  refine Ordered.steady ?_
  split
  · exact h.of_mem rfl
  · exact h.stepRequest

theorem Ordered.execHalt {m core x s} (h : Ordered s) : Steady (execHalt m core x s) := by
  unfold Machine.execHalt
  refine (h.request fun s1 hs1 => ?_).steady
  refine hs1.withCtx fun c1 => ?_
  split
  · exact hs1.answer
  · exact hs1.setCtx.answer

theorem Ordered.execStateRead {m core x s} (h : Ordered s) : Steady (execStateRead m core x s) := by
  unfold Machine.execStateRead
  refine (h.request fun s1 hs1 => ?_).steady
  refine hs1.withCtx fun c1 => ?_
  dsimp only
  split
  next he => exact Ordered.answer (hs1.frameFor.of_fst he)
  next he => exact Ordered.reply (Ordered.writeFrame (hs1.frameFor.of_fst he))

theorem Ordered.execInject {m array addr mask kind now s} (h : Ordered s) :
    Steady (execInject m array addr mask kind now s) := by
  unfold Machine.execInject
  refine (h.request fun s1 hs1 => ?_).steady
  split
  · exact hs1.answer
  · exact hs1.armInjection.answer

theorem Ordered.thawChannel {s core ch} (h : Ordered s) : Ordered (thawChannel s core ch) := h.setCore

theorem Ordered.thawRing {s r} (h : Ordered s) : Ordered (thawRing s r) := h.setRing

theorem Ordered.dropFrozen {s job va} (h : Ordered s) : Ordered (dropFrozen s job va) := by
  unfold Machine.dropFrozen
  split
  · exact h.setJob
  · exact h

theorem Ordered.removeAway {s job f} (h : Ordered s) : Ordered (removeAway s job f) := by
  unfold Machine.removeAway
  dsimp only
  split
  · exact (h.dropFrozen.foldl fun _ _ ht => ht.foldl fun _ _ hu => hu.flushCmd).unreserve.writeRecord.unitEnded
  · exact h.dropFrozen.foldl fun _ _ ht => ht.foldl fun _ _ hu => hu.flushCmd

theorem Ordered.thawAway {s job f} (h : Ordered s) : Ordered (thawAway s job f) := by
  unfold Machine.thawAway
  dsimp only
  split
  · exact h.removeAway
  · split
    · exact h.dropFrozen.writeRecord.settleStop.releaseUnits
    · exact h.dropFrozen

theorem Ordered.thawCtx {s core x} (h : Ordered s) : Ordered (thawCtx s core x) := by
  unfold Machine.thawCtx
  dsimp only
  split
  · exact h.setCtx.writeRecord
  · exact h.setCtx

theorem Ordered.thawUnit {s m core x} (h : Ordered s) : Ordered (thawUnit s m core x) := by
  unfold Machine.thawUnit
  split
  · exact h.thawAway
  · exact h.thawCtx

theorem Ordered.execThaw {m who s} (h : Ordered s) : Steady (execThaw m who s) := by
  unfold Machine.execThaw
  refine (h.request fun s1 hs1 => ?_).steady
  dsimp only
  split
  · exact hs1.answer
  · split
    · exact hs1.answer
    · refine Ordered.answer ?_
      split
      · exact hs1.thawUnit
      · exact hs1.thawChannel
      · exact hs1.thawRing
      · exact hs1.setSession

theorem Ordered.flushChannel {s core ch} (h : Ordered s) :
    Ordered (flushChannel s core ch) := h.foldl fun _ _ ht => ht.flushCmd

theorem Ordered.execRemove {m who s} (h : Ordered s) : Steady (execRemove m who s) := by
  unfold Machine.execRemove
  refine (h.request fun s1 hs1 => ?_).steady
  dsimp only
  split
  · exact hs1.answer
  · split
    · split
      · exact hs1.answer
      · exact hs1.answer.setSession
    · split
      · exact hs1.removeAway.answer
      · split
        · exact hs1.answer
        · exact hs1.setCtx.removeCtx.answer
    · split
      · exact hs1.answer
      · exact hs1.flushChannel.thawChannel.answer
    · split
      · exact hs1.answer
      · exact hs1.abortPackets.thawRing.answer

theorem Ordered.execStatusRead {m s} (h : Ordered s) : Steady (execStatusRead m s) := by
  unfold Machine.execStatusRead
  dsimp only
  refine Ordered.steady ((Ordered.request ?_ fun _ ht => ht.reply).of_mem rfl)
  split
  · exact h.of_mem rfl
  · exact h

end Sys2Proof
end

section
/-! SUPPORT. Memory kept in order: One arm for each instruction. -/
namespace Sys2Proof
open Machine

theorem Ordered.exec {i s} (h : Ordered s) : Steady (exec i s) := by
  unfold Machine.exec
  split
  · exact h.execBundleIssue
  · exact h.execResultLanding
  · exact h.execRemoval
  · exact h.execLongWaitSuspend
  · exact h.execWaitSatisfied
  · exact h.execDecide
  · exact h.execPlacement
  · exact h.execPinnedPreemption
  · exact h.execSuspensionComplete
  · exact h.execDictLoad
  · exact h.execSegmentFetch
  · exact h.execTransferComplete
  · exact h.execStreamElementArrival
  · exact h.execCopyRetry
  · exact h.execNop
  · exact h.execCopy
  · exact h.execGather
  · exact h.execScatter
  · exact h.execLaunch
  · exact h.execBarrier
  · exact h.execBarrierRound
  · exact h.execSignal
  · exact h.execAtomic
  · exact h.execFetch
  · exact h.execStore
  · exact h.execSpill
  · exact h.execPreload
  · exact h.execPacketWaitRetest
  · exact h.execHostInboundRequest
  · exact h.execPeerInboundRequest
  · exact h.execPageMove
  · exact h.execFlitReceive
  · exact h.execLinkMacFailure
  · exact h.execLinkRetrainComplete
  · exact h.execNvmeCompletion
  · exact h.execDriveUnresponsive
  · exact h.execDoorbell
  · exact h.execBarWriteIgnored
  · exact h.execJobCreate
  · exact h.execJobRemove
  · exact h.execPoolBuild
  · exact h.execRingCreate
  · exact h.execRingReset
  · exact h.execRingRemove
  · exact h.execWindowsSet
  · exact h.execAsidSet
  · exact h.execInvalidate
  · exact h.execArm
  · exact h.execLevelArm
  · exact h.execHostCancel
  · exact h.execPlacementPause
  · exact h.execPlacementResume
  · exact h.execManifestLoad
  · exact h.execMapx
  · exact h.execUnmap
  · exact h.execTenantCreate
  · exact h.execTenantGrant
  · exact h.execTenantCancel
  · exact h.execHandleEnd
  · exact h.execGzEvict
  · exact h.execModelBegin
  · exact h.execJournalTxnStart
  · exact h.execModelRows
  · exact h.execModelCommit
  · exact h.execIntervalMark
  · exact h.execStep
  · exact h.execHalt
  · exact h.execStateRead
  · exact h.execThaw
  · exact h.execRemove
  · exact h.execMigrateOut
  · exact h.execMigrateIn
  · exact h.execMigrationAck
  · exact h.execMigrateConfirm
  · exact h.execInject
  · exact h.execFloorsSet
  · exact h.execReplacementClear
  · exact h.execSysjobSet
  · exact h.execPoisonEnable
  · exact h.execStatusRead
  · exact h.execSafeCheckpoint
  · exact h.execCheckpointDone
  · exact h.execSafeRestore
  · exact h.execRestoreDone
  · exact h.execLinkRekey
  · exact h.execRefusalRing
  · exact h.execLockInterface
  · exact h.execStartInterface
  · exact h.execStopInterface
  · exact h.execDroop
  · exact h.execTrimStepDown
  · exact h.execHoldEntry
  · exact h.execHoldExit
  · exact h.execReserveFloor
  · exact h.execPowerUp
  · exact h.execTransportShock
  · exact h.execClusterEnterDoze
  · exact h.execClusterEnterOff
  · exact h.execClusterWake
  · exact h.execClusterWakeDone
  · exact h.execSurveyLease
  · exact h.execSurveyPass
  · exact h.execSurveyMismatch
  · exact h.execScoreHalving
  · exact h.execSheetFailure
  · exact h.execSheetRehashSwitch
  · exact h.execJ
  · exact h.execJr
  · exact h.execCall
  · exact h.execRet
  · exact h.execLoop
  · exact h.execLbrk
  · exact h.execBsel
  · exact h.execLendC
  · exact h.execLendV
  · exact h.execSuspend
  · exact h.execYield
  · exact h.execTrap
  · exact h.execBrk
  · exact h.execSysr
  · exact h.execSysw
  · exact h.execIcinv
  · exact h.execTick
  · exact h.execIdle
  · exact h.execAdd
  · exact h.execSub
  · exact h.execMul
  · exact h.execMulh
  · exact h.execMulhn
  · exact h.execDiv
  · exact h.execRem
  · exact h.execAnd
  · exact h.execOr
  · exact h.execXor
  · exact h.execAndn
  · exact h.execShl
  · exact h.execShr
  · exact h.execSar
  · exact h.execMin
  · exact h.execMax
  · exact h.execMinn
  · exact h.execMaxn
  · exact h.execClz
  · exact h.execCtz
  · exact h.execPopc
  · exact h.execSext
  · exact h.execZext
  · exact h.execSel
  · exact h.execMaddr
  · exact h.execAddi
  · exact h.execAndi
  · exact h.execOri
  · exact h.execXori
  · exact h.execShli
  · exact h.execShri
  · exact h.execSari
  · exact h.execLi
  · exact h.execLih
  · exact h.execCmp
  · exact h.execCmpi
  · exact h.execPand
  · exact h.execPor
  · exact h.execPxor
  · exact h.execPset
  · exact h.execLda
  · exact h.execSta
  · exact h.execLdc
  · exact h.execStc
  · exact h.execLdw
  · exact h.execVadd
  · exact h.execVsub
  · exact h.execVmul
  · exact h.execVfma
  · exact h.execVfms
  · exact h.execVmin
  · exact h.execVmax
  · exact h.execVabs
  · exact h.execVneg
  · exact h.execVexp2
  · exact h.execVlog2
  · exact h.execVrcp
  · exact h.execVrsq
  · exact h.execVcvt
  · exact h.execVpack
  · exact h.execVunpk
  · exact h.execVbscl
  · exact h.execViadd
  · exact h.execVisub
  · exact h.execVimul
  · exact h.execVand
  · exact h.execVor
  · exact h.execVxor
  · exact h.execVshl
  · exact h.execVshr
  · exact h.execVsar
  · exact h.execVcmp
  · exact h.execVicmp
  · exact h.execVsel
  · exact h.execVbcst
  · exact h.execVmovs
  · exact h.execVperm
  · exact h.execVrot
  · exact h.execVrsum
  · exact h.execVrmax
  · exact h.execVrmin
  · exact h.execVscan
  · exact h.execVkey
  · exact h.execVhist
  · exact h.execVlda
  · exact h.execVsta
  · exact h.execVldc
  · exact h.execVstc
  · exact h.execVglda
  · exact h.execVmovq
  · exact h.execKand
  · exact h.execKor
  · exact h.execKnot
  · exact h.execKset
  · exact h.execKpop
  · exact h.execMlat
  · exact h.execMlata
  · exact h.execMlatq
  · exact h.execMma
  · exact h.execMmav
  · exact h.execMconv
  · exact h.execMshape
  · exact h.execMpad
  · exact h.execMset
  · exact h.execMzero
  · exact h.execMdrain
  · exact h.execDot
  · exact h.execDotacc
  · exact h.execCpy
  · exact h.execCpyPerform
  · exact h.execSbind
  · exact h.execSrel
  · exact h.execGath
  · exact h.execGathPerform
  · exact h.execGidx
  · exact h.execQapp
  · exact h.execQappPerform
  · exact h.execAtom
  · exact h.execAtomPerform
  · exact h.execFence
  · exact h.execSfence
  · exact h.execSfenceComplete
  · exact h.execSemset
  · exact h.execSemadd
  · exact h.execSemwt
  · exact h.execTbarm
  · exact h.execTbexp
  · exact h.execTbwait
  · exact h.execXidrd
  · exact h.execXidwt
  · exact h.execSigadd
  · exact h.execSigaddPerform
  · exact h.execSigwt
  · exact h.execLarm
  · exact h.execLarmPerform
  · exact h.execLpatch
  · exact h.execLpatchPerform
  · exact h.execCancel
  · exact h.execCancelPerform
  · exact h.execBmset
  · exact h.execBmsetPerform
  · exact h.execBmwait
  · exact h.execKvref
  · exact h.execKvapp
  · exact h.execKvappPerform
  · exact h.execKvrej
  · exact h.execKvrejPerform
  · exact h.execKvcommit
  · exact h.execKvcommitPerform
  · exact h.execKvfree
  · exact h.execKvfreePerform
  · exact h.execGzclaim
  · exact h.execGzclaimPerform
  · exact h.execGzjoin
  · exact h.execGzjoinPerform
  · exact h.execGzfind
  · exact h.execGzfindPerform
  · exact h.execSeal
  · exact h.execSealPerform
  · exact h.execUnseal
  · exact h.execUnsealPerform
  · exact h.execErrinj
  · exact h.execClusterEntryComplete
  · exact h.execMalformedPacket
  · exact h.execLinkDown
  · exact h.execHostPortNotDelivering
  · exact h.execIdeStreamFailure
  · exact h.execSpdmSessionEstablish
  · exact h.execSpareInService
  · exact h.execRollbackTakeOffRetry

end Sys2Proof
end

section
/-! SUPPORT. Memory kept in order: One step. -/
namespace Sys2Proof
open Machine

theorem Ordered.step {s} (h : Ordered s) : Steady (step s) := by
  unfold Machine.step
  split
  · split
    · exact Ordered.steady (h.of_mem rfl)
    · exact Ordered.exec (h.of_mem rfl)
  · exact Ordered.exec (h.of_mem rfl)

end Sys2Proof
end

section
/-! THEOREMS. The statement about memory's one canonical form. -/
namespace Sys2Proof
open Machine

/-- Settles O60: each function from which a step is built keeps memory in order, the parts of the model in turn. -/
theorem memoryCanonicalStep : Obligations.MemoryCanonicalStep := by
  unfold Obligations.MemoryCanonicalStep
  exact fun s t h e => h.step t e

end Sys2Proof
end
